-- ==== Sys2Proof/Config.lean ====
section
/-! DEFINITION. What the spec leaves to one implementation and what it leaves free: opaque constants, so that nothing in
Lean can know a value of one. Each is applied to what it depends on, or to the counter `fresh` of the state
(DESIGN CHOICE, log 2). -/

namespace Sys2Proof.Config

/-- R153: which of the admitted results FRCP (0), FRSQ (1), FEXP2 (2) or FLOG2 (3) returns, for the format with that many
fraction bits and exponent bits and that operand code: a fixed function of the operand on one device. -/
opaque approx : (function fractionBits exponentBits operand : Nat) → Nat

/-- R30: whether a lane (or bit) of a register read or written after a write of the same run takes the earlier value; the
first argument is the number of the issue. -/
opaque hazard : (issue file register lane : Nat) → Bool

/-- R31: whether an MFSR of a register that an earlier word of its run changed returns the value from before the run. -/
opaque staleRead : (issue index : Nat) → Bool

/-- A choice that the spec leaves to the device, made at a value of the counter `fresh`, by kind: 0 the free key handle that
KEYCUT takes (R215); 1 the ID that a fault takes (R342); 2 the tiles and accumulators that a placement takes (R288); 3 what an
engine reads of the scratchpad of a pack that is gone (R365); 4 the pseudo-channel whose row step comes next (R355); 5 and 7 the
bytes of a poisoned line that LDSP reads and their bound (R182); 6 the piece of an LDSP copy that lands next (R182); 8 the old
or the new word of a graph node that the host rewrote (R386); 9 the DETAIL of an SRAM error in data that has no
physical address (R398); 10 how far a replica of Firn counts in a tick of the master
(R255); 11 what a bring-up finds of links and images (R394); 12 the eye of a spare lane, 13 whether one remains, 14 whether a
channel's lanes support full width (R352); 16 XINFO of a fetch that finds no word to report (R309, R341); 17 the line that a
full slice gives up (R326 to R328); 18 how long a stack takes to train (R395); 19 how long an access takes to its bank (R358, R407). -/
opaque pick : (kind counter : Nat) → Nat

/-- R347: the line to which a change of LINSEG, between two values, moves a line that is interleaved under either. -/
opaque moved : (old new line : Nat) → Nat

/-- R348, R349: the DRAM bank of a pseudo-channel of a stack that holds a row; `place` is twice the group of a row-linear row, or
one more than twice the row number of an interleaved row. -/
opaque bank : (stack pc place : Nat) → Nat

end Sys2Proof.Config
end

