-- ==== Sys2Proof/Machine/Real.lean ====
section
/-! DEFINITION. Exact real arithmetic: dyadic numbers, fractions, the rounding helpers of R55 and R60, and brackets of
square roots, powers of two and logarithms. Nothing here knows a number format. -/

namespace Sys2Proof.Machine

/-- The dyadic number m * 2^e. -/
structure Dy where
  m : Int
  e : Int
  deriving DecidableEq, Repr

/-- 2^k for a whole k that is not negative, as a natural number. -/
def pow2N (k : Int) : Nat := 2 ^ k.toNat

namespace Dy
/-- Zero. -/
def zero : Dy := ⟨0, 0⟩
/-- 2^k. -/
def pow2 (k : Int) : Dy := ⟨1, k⟩
/-- The integer m. -/
def ofInt (m : Int) : Dy := ⟨m, 0⟩
/-- Sum. -/
def add (a b : Dy) : Dy :=
  if a.m = 0 then b else if b.m = 0 then a else
  let e := min a.e b.e
  ⟨a.m * pow2N (a.e - e) + b.m * pow2N (b.e - e), e⟩
/-- Product. -/
def mul (a b : Dy) : Dy := if a.m = 0 || b.m = 0 then zero else ⟨a.m * b.m, a.e + b.e⟩
/-- Negation. -/
def neg (a : Dy) : Dy := ⟨-a.m, a.e⟩
/-- Difference. -/
def sub (a b : Dy) : Dy := add a (neg b)
/-- Magnitude. -/
def abs (a : Dy) : Dy := ⟨a.m.natAbs, a.e⟩
/-- a <= b. -/
def le (a b : Dy) : Bool := decide ((sub a b).m ≤ 0)
/-- a < b. -/
def lt (a b : Dy) : Bool := decide ((sub a b).m < 0)
/-- Equality of values. -/
def eq (a b : Dy) : Bool := decide ((sub a b).m = 0)
/-- The larger value. -/
def max (a b : Dy) : Dy := if le a b then b else a
/-- The smaller value. -/
def min (a b : Dy) : Dy := if le a b then a else b
/-- a * 2^k. -/
def scale (a : Dy) (k : Int) : Dy := ⟨a.m, a.e + k⟩
/-- Sum of a list. -/
def sum (l : List Dy) : Dy := l.foldl add zero
end Dy

/-- The fraction n / d, d positive, not reduced. -/
structure Frac where
  n : Int
  d : Nat
  deriving DecidableEq, Repr

/-- A dyadic number as a fraction. -/
def Dy.frac (a : Dy) : Frac := if 0 ≤ a.e then ⟨a.m * pow2N a.e, 1⟩ else ⟨a.m, pow2N (-a.e)⟩

namespace Frac
/-- The integer m. -/
def ofInt (m : Int) : Frac := ⟨m, 1⟩
/-- Sum. -/
def add (a b : Frac) : Frac := ⟨a.n * b.d + b.n * a.d, a.d * b.d⟩
/-- Negation. -/
def neg (a : Frac) : Frac := ⟨-a.n, a.d⟩
/-- Difference. -/
def sub (a b : Frac) : Frac := add a (neg b)
/-- Product. -/
def mul (a b : Frac) : Frac := ⟨a.n * b.n, a.d * b.d⟩
/-- Reciprocal of a number that is not zero. -/
def inv (a : Frac) : Frac := if 0 ≤ a.n then ⟨a.d, a.n.natAbs⟩ else ⟨-a.d, a.n.natAbs⟩
/-- Quotient by a number that is not zero. -/
def div (a b : Frac) : Frac := mul a (inv b)
/-- Magnitude. -/
def abs (a : Frac) : Frac := ⟨a.n.natAbs, a.d⟩
/-- a <= b. -/
def le (a b : Frac) : Bool := decide (a.n * b.d ≤ b.n * a.d)
/-- a < b. -/
def lt (a b : Frac) : Bool := decide (a.n * b.d < b.n * a.d)
/-- Equality of values. -/
def eq (a b : Frac) : Bool := decide (a.n * b.d = b.n * a.d)
/-- The larger value. -/
def max (a b : Frac) : Frac := if le a b then b else a
/-- a * 2^k. -/
def scale (a : Frac) (k : Int) : Frac := if 0 ≤ k then ⟨a.n * pow2N k, a.d⟩ else ⟨a.n, a.d * pow2N (-k)⟩
/-- Floor(Log2(|a|)) for a number that is not zero (R55). -/
def log2 (a : Frac) : Int :=
  let n := a.n.natAbs
  let k : Int := (Nat.log2 n : Int) - Nat.log2 a.d
  let ok := if 0 ≤ k then a.d * pow2N k ≤ n else a.d ≤ n * pow2N (-k)
  if ok then k else k - 1
end Frac

/-! ### Rounding (R55, R60) -/

/-- The rule by which a quotient becomes an integer: the modes of R57, or the carry of stochastic rounding. -/
inductive Rnd where
  | rn | rz | ru | rd
  /-- RoundSR (R60): drawn bits z and grid exponent s of the source. -/
  | sr (z : Nat) (s : Int)
  deriving DecidableEq, Repr

/-- Log2 of Ulp(x, P, Emin) for x not zero (R55). -/
def ulpExp (x : Frac) (P : Nat) (emin : Int) : Int := max x.log2 emin - P + 1

/-- The integer that num / den rounds to; neg is the sign of the value rounded, q the exponent of its grid step (R55,
R60). -/
def roundQuot (r : Rnd) (neg : Bool) (num den : Nat) (q : Int) : Nat :=
  let fl := num / den
  let rem := num % den
  let up := if rem = 0 then fl else fl + 1
  match r with
  | .rn => if 2 * rem < den then fl else if den < 2 * rem then fl + 1 else if fl % 2 = 0 then fl else fl + 1
  | .rz => fl
  | .ru => if neg then fl else up
  | .rd => if neg then up else fl
  | .sr z s =>
    let k := if q ≤ s then 0 else min 24 (q - s).toNat
    let dd := rem * 2 ^ k / den
    fl + (dd + z % 2 ^ k) / 2 ^ k

/-- RoundToP or RoundSR of a magnitude x > 0 with sign neg: the multiple of the grid step and the step's exponent. -/
def roundMag (r : Rnd) (neg : Bool) (x : Frac) (P : Nat) (emin : Int) : Nat × Int :=
  let q := ulpExp x P emin
  let y := x.abs.scale (-q)
  (roundQuot r neg y.n.natAbs y.d q, q)

/-- RoundToP(x, P, Emin, rz): TruncP of R76. -/
def truncP (x : Dy) (P : Nat) (emin : Int) : Dy :=
  if x.m = 0 then x else
  let (m, q) := roundMag .rz (decide (x.m < 0)) x.frac P emin
  ⟨if x.m < 0 then -(m : Int) else m, q⟩

/-- R56: x, rounded to P bits as if the exponent range had no lower limit, lies below 2^Emin. -/
def tinyAt (r : Rnd) (neg : Bool) (x : Frac) (P : Nat) (emin : Int) : Bool :=
  let (m, q) := roundMag r neg x P (min x.log2 emin)
  Dy.lt ⟨m, q⟩ (Dy.pow2 emin)

/-! ### Brackets of irrational values -/

/-- Newton steps for the integer square root, from an upper start. -/
def isqrtLoop : Nat → Nat → Nat → Nat
  | 0, _, x => x
  | fuel + 1, n, x =>
    let y := (x + n / x) / 2
    if x ≤ y then x else isqrtLoop fuel n y

/-- Floor(Sqrt(n)). -/
def isqrt (n : Nat) : Nat := if n = 0 then 0 else isqrtLoop (Nat.log2 n + 8) n (2 ^ (Nat.log2 n / 2 + 1))

/-- A closed interval that holds a real number. -/
structure Iv where
  lo : Frac
  hi : Frac
  deriving DecidableEq, Repr

namespace Iv
/-- A single number. -/
def pt (a : Frac) : Iv := ⟨a, a⟩
/-- Sum. -/
def add (a b : Iv) : Iv := ⟨a.lo.add b.lo, a.hi.add b.hi⟩
/-- Difference. -/
def sub (a b : Iv) : Iv := ⟨a.lo.sub b.hi, a.hi.sub b.lo⟩
/-- Product with a number that is not negative. -/
def smul (k : Frac) (a : Iv) : Iv := ⟨k.mul a.lo, k.mul a.hi⟩
/-- Reciprocal of an interval above zero. -/
def inv (a : Iv) : Iv := ⟨a.hi.inv, a.lo.inv⟩
/-- |a|. -/
def abs (a : Iv) : Iv :=
  if 0 ≤ a.lo.n then a else if a.hi.n ≤ 0 then ⟨a.hi.neg, a.lo.neg⟩ else ⟨Frac.ofInt 0, a.hi.max a.lo.neg⟩
/-- a * 2^k. -/
def scale (a : Iv) (k : Int) : Iv := ⟨a.lo.scale k, a.hi.scale k⟩
end Iv

/-- The square root of x >= 0 when it is rational. -/
def sqrtExact (x : Frac) : Option Frac :=
  let p := x.n.natAbs * x.d
  let r := isqrt p
  if r * r = p then some ⟨r, x.d⟩ else none

/-- A bracket of Sqrt(x), x >= 0, of about prec bits: a point when the root is rational. -/
def sqrtIv (x : Frac) (prec : Nat) : Iv :=
  match sqrtExact x with
  | some r => Iv.pt r
  | none =>
    let sh := prec + Nat.log2 x.d
    let r := isqrt (x.n.natAbs * 2 ^ (2 * sh) / x.d)
    ⟨⟨r, 2 ^ sh⟩, ⟨r + 1, 2 ^ sh⟩⟩

/-- Terms of a series in units of 2^-prec: each is the last times a / b, over k or a factor that grows with k. -/
def expLoop : Nat → Nat → Nat → Nat → Nat → Nat → Nat
  | 0, _, _, _, _, acc => acc
  | fuel + 1, k, y, one, term, acc =>
    let t := term * y / (one * k)
    if t = 0 then acc else expLoop fuel (k + 1) y one t (acc + t)

/-- Sum of z^(2k+1) / (2k+1) in units of 2^-prec, with z2 = z^2 in those units. -/
def atanhLoop : Nat → Nat → Nat → Nat → Nat → Nat → Nat
  | 0, _, _, _, _, acc => acc
  | fuel + 1, k, z2, one, pw, acc =>
    if pw = 0 then acc else atanhLoop fuel (k + 2) z2 one (pw * z2 / one) (acc + pw / k)

/-- A bracket of ln((1 + z) / (1 - z)) = 2 atanh z for z = n / d, 0 <= z <= 1/3: each floored term lies less than one unit
below its exact value, and the tail is below one unit. -/
def lnRatioIv (n d prec : Nat) : Iv :=
  let one := 2 ^ prec
  let z := n * one / d
  let a := atanhLoop (prec + 2) 1 (z * z / one) one z 0
  ⟨⟨2 * a, one⟩, ⟨2 * (a + 4 * prec + 16), one⟩⟩

/-- A bracket of ln 2 = 2 atanh(1/3). -/
def ln2Iv (prec : Nat) : Iv := lnRatioIv 1 3 prec

/-- A bracket of 2^f for 0 <= f < 1: the exponential series of f ln 2. -/
def exp2UnitIv (f : Frac) (prec : Nat) : Iv :=
  let one := 2 ^ prec
  let l := ln2Iv prec
  let ylo := f.n.natAbs * l.lo.n.natAbs / f.d
  let yhi := f.n.natAbs * l.hi.n.natAbs / f.d + 1
  let lo := expLoop (prec + 2) 1 ylo one one one
  let hi := expLoop (prec + 2) 1 yhi one one one
  ⟨⟨lo, one⟩, ⟨hi + 4 * prec + 16, one⟩⟩

/-- A bracket of 2^x. -/
def exp2Iv (x : Frac) (prec : Nat) : Iv :=
  let i := x.n / (x.d : Int)
  let f : Frac := ⟨x.n % (x.d : Int), x.d⟩
  if f.n = 0 then Iv.pt ((Frac.ofInt 1).scale i) else (exp2UnitIv f prec).scale i

/-- The whole number log2 of a power of two. -/
def log2Exact (x : Frac) : Option Int :=
  let k := x.log2
  if Frac.eq x ((Frac.ofInt 1).scale k) then some k else none

/-- A bracket of log2 x, x > 0. -/
def log2Iv (x : Frac) (prec : Nat) : Iv :=
  match log2Exact x with
  | some k => Iv.pt (Frac.ofInt k)
  | none =>
    let k := x.log2
    let m := x.scale (-k)
    let n := m.n.natAbs
    let r := lnRatioIv (n - m.d) (n + m.d) prec
    let l := ln2Iv prec
    (Iv.pt (Frac.ofInt k)).add ⟨r.lo.div l.hi, r.hi.div l.lo⟩

/-- The first of several precisions, each twice the last, at which the bracket decides the question; the last bracket's
upper end when none does. -/
def refine {α : Type} [DecidableEq α] (f : Frac → α) (iv : Nat → Iv) : Nat → Nat → α
  | 0, prec => f (iv prec).hi
  | fuel + 1, prec =>
    let v := iv prec
    if f v.lo = f v.hi then f v.hi else refine f iv fuel (2 * prec)

end Sys2Proof.Machine
end

