-- ==== Sys2Proof/Word.lean ====
section
/-! DEFINITION. The word types of the hardware and nothing else (spec 00 R6: bits are numbered from 0 at the least
significant bit). Every helper that computes on them stands under Machine/. -/

namespace Sys2Proof

/-- A 64-bit word: instruction words, uniform registers, predicates, lane masks, virtual addresses (R5, R37, R38). -/
abbrev Word := BitVec 64

/-- One lane value of a vector register (R33). -/
abbrev Lane := BitVec 32

/-- A RIME16 code (R53). -/
abbrev Bound := BitVec 16

/-- A byte of memory. -/
abbrev Byte := BitVec 8

/-- A set of lanes: bit l belongs to lane l (R8, R38). -/
abbrev Mask := BitVec 64

end Sys2Proof
end

