-- ==== Sys2Proof/Syntax.lean ====
section
/-! DEFINITION. The instructions and hardware events of the Flisel 9, one constructor per row of the operation table
(spec 05 to 10 for the instruction words, spec 95 for the events). Operands keep the classes of R96: nothing here is a
raw encoding. -/

namespace Sys2Proof

/-- A vector register number, v0 to v1023 (R12, R33). -/
abbrev VReg := BitVec 10
/-- A uniform register number, s0 to s127 (R37). -/
abbrev SReg := BitVec 7
/-- A predicate number, p0 to p15 (R38). -/
abbrev PReg := BitVec 4
/-- A tile number, t0 to t15 (R39). -/
abbrev TReg := BitVec 4
/-- An accumulator number, a0 to a7 (R40). -/
abbrev AReg := BitVec 3
/-- A join register number, j0 to j7 (R41). -/
abbrev JReg := BitVec 3

/-- What every F, I and M word carries beside its operands: the switch marker S (R27) and the guard GN, GP (R95). -/
structure Hdr where
  s : Bool
  gn : Bool
  gp : BitVec 3
  deriving DecidableEq, Repr

/-- A V* operand: a vector register, or a uniform register under the class code of R97. -/
inductive VS where
  | v (r : VReg)
  | s (r : SReg)
  deriving DecidableEq, Repr

/-- Integer types of the INT layout (R98). -/
inductive ITy where
  | s32 | n32 | s64 | n64
  deriving DecidableEq, Repr

/-- Floating-point types of the FP layout (R98). -/
inductive FTy where
  | f32 | f64 | f16x2 | bf16x2
  deriving DecidableEq, Repr

/-- Tier field (R75, R98). -/
inductive Tier where
  | auto | full | half | quart
  deriving DecidableEq, Repr

/-- Rounding modes of R57. -/
inductive RMode where
  | rn | rz | ru | rd
  deriving DecidableEq, Repr

/-- MOD of the INT layout: type and saturation (R98). -/
structure IntMod where
  ty : ITy
  sat : Bool
  deriving DecidableEq, Repr

/-- MOD of the FP layout without the negate-C bit: type, tier, rounding, Q (R98). -/
structure FpMod where
  ty : FTy
  tier : Tier
  rm : RMode
  q : Bool
  deriving DecidableEq, Repr

/-- MOD of the CV layout: SR, SAT, tier (false AUTO, true FULL), rounding, Q (R98). -/
structure CvMod where
  sr : Bool
  sat : Bool
  full : Bool
  rm : RMode
  q : Bool
  deriving DecidableEq, Repr

/-- Integer condition codes 0 to 11 (R134). -/
inductive ICond where
  | eq | ne | lt | le | gt | ge | tst | ntst | ltu | leu | gtu | geu
  deriving DecidableEq, Repr

/-- FCMP conditions 0 to 13 (R150). -/
inductive FCond where
  | eq | ne | lt | le | gt | ge | uno | ord | ult | ule | ugt | uge | ueq | one
  deriving DecidableEq, Repr

/-- Format codes of R105. -/
inductive Fmt where
  | f64 | f32 | f16 | bf16 | e4m3 | e5m2 | e2m3 | e3m2 | e2m1 | e8m0
  | s4 | s8 | s16 | s32 | s64 | n4 | n8 | n16 | n32 | n64
  deriving DecidableEq, Repr

/-- MX element formats, codes 4 to 8 of R105. -/
inductive MxFmt where
  | e4m3 | e5m2 | e2m3 | e3m2 | e2m1
  deriving DecidableEq, Repr

/-- Reduction types (R162). -/
inductive RTy where
  | s32 | n32 | s64 | n64 | f32 | f64 | f16x2 | bf16x2
  deriving DecidableEq, Repr

/-- Reduction operations (R162). -/
inductive ROp where
  | add | min | max | and | or | xor
  deriving DecidableEq, Repr

/-- Vote modes (R166). -/
inductive Vote where
  | any | all | uni
  deriving DecidableEq, Repr

/-- BCHK kinds (R171). -/
inductive ChkKind where
  | abs | rel | cur | unb
  deriving DecidableEq, Repr

/-- Cache levels of POL (R103). -/
inductive Level where
  | near | mid | far | stream
  deriving DecidableEq, Repr

/-- Orders of POL (R103): relaxed, acquire or release or both, seq-cst. -/
inductive Ord3 where
  | rlx | acqRel | sc
  deriving DecidableEq, Repr

/-- Scopes (R17). -/
inductive Scope where
  | core | quad | die | pkg | sys | pod
  deriving DecidableEq, Repr

/-- Data access sizes of SZ (R104). -/
inductive Sz where
  | n8 | s8 | n16 | s16 | b32 | b64 | b128
  deriving DecidableEq, Repr

/-- Atomic types of SZ (R104). -/
inductive ATy where
  | s32 | n32 | f32 | s64 | n64 | f64
  deriving DecidableEq, Repr

/-- Atomic functions (R184). -/
inductive AFun where
  | add | sub | min | max | and | or | xor | xchg | cas
  deriving DecidableEq, Repr

/-- The eye of a data lane: its width and height (R352). -/
structure Eye where
  width : BitVec 8
  height : BitVec 8
  deriving DecidableEq, Repr

/-- The line that a pool device takes back, and the bytes that another package writes from its byte off on, if any (R375). -/
structure PoolWrite where
  line : Nat
  off : Nat
  data : List (BitVec 8)
  deriving DecidableEq, Repr

/-- What another package of the pod asks of this one's device memory (R375). -/
inductive PeerOp where
  | read (n : Nat)
  | write (data : List (BitVec 8))
  | atomic (f : AFun) (ty : ATy) (dnan : Bool) (x y : BitVec 64)
  deriving DecidableEq, Repr

/-- Reconcile operations, codes 0 to 8 (R188). -/
inductive ReconOp where
  | addS64 | addF64 | maxS64 | minS64 | or | and | xor | first | last
  deriving DecidableEq, Repr

/-- Levels of SBAR (R198). -/
inductive SbarLevel where
  | quad | die | pkg | pod
  deriving DecidableEq, Repr

/-- The address and policy fields of an M word (R102, R103). -/
structure MemOp where
  level : Level
  order : Ord3
  scope : Scope
  sa : SReg
  vb : VReg
  off : BitVec 13
  deriving DecidableEq, Repr

/-- One slot operation of a P word (R99, R110). -/
inductive Slot where
  | vadd (ty : ITy) (d a : VReg) | vsub (ty : ITy) (d a : VReg) | vmul (ty : ITy) (d a : VReg)
  | vand (ty : ITy) (d a : VReg) | vor (ty : ITy) (d a : VReg) | vxor (ty : ITy) (d a : VReg)
  | vmin (ty : ITy) (d a : VReg) | vmax (ty : ITy) (d a : VReg) | vmov (ty : ITy) (d a : VReg)
  | vshl (ty : ITy) (d a : VReg) | vshr (ty : ITy) (d a : VReg)
  | fadd (ty : FTy) (full : Bool) (d a : VReg) | fsub (ty : FTy) (full : Bool) (d a : VReg)
  | fmul (ty : FTy) (full : Bool) (d a : VReg) | fmin (ty : FTy) (full : Bool) (d a : VReg)
  | fmax (ty : FTy) (full : Bool) (d a : VReg)
  | sadd (d a : SReg) | ssub (d a : SReg) | sand (d a : SReg) | sor (d a : SReg) | sxor (d a : SReg)
  | smov (d a : SReg) | sshl (d a : SReg) | sshr (d a : SReg)
  | pand (d a : PReg) | por (d a : PReg) | pmov (d a : PReg)
  deriving DecidableEq, Repr

/-- An operation of the machine: an instruction word with its operands, or a hardware event with what it acts on. A P
word is named by its slot 0 operation and carries slot 1 in `other` (R99). An event's arguments name the object it acts
on and what the world outside the package supplies. -/

inductive Instr where
  /-- BRA (R123). -/
  | bra (h : Hdr) (prio : BitVec 8) (imm : BitVec 32)
  /-- BRC (R123). -/
  | brc (h : Hdr) (prio : BitVec 8) (p : PReg) (imm : BitVec 32)
  /-- CALL (R124). -/
  | call (h : Hdr) (prio : BitVec 8) (d : VReg) (imm : BitVec 32)
  /-- BRX (R125). -/
  | brx (h : Hdr) (prio : BitVec 8) (a : VReg)
  /-- RET (R125). -/
  | ret (h : Hdr) (prio : BitVec 8) (a : VReg)
  /-- EXIT (R126). -/
  | exit (h : Hdr)
  /-- NOP (R127). -/
  | nop (h : Hdr)
  /-- RECONV (R128). -/
  | reconv (h : Hdr)
  /-- PRIO (R129). -/
  | prio (h : Hdr) (n : BitVec 8)
  /-- YIELD (R130). -/
  | yield (h : Hdr)
  /-- SLEEP (R131). -/
  | sleep (h : Hdr) (imm : BitVec 32)
  /-- SADD (R133). -/
  | sadd (h : Hdr) (m : IntMod) (d a b : SReg)
  /-- SSUB (R133). -/
  | ssub (h : Hdr) (m : IntMod) (d a b : SReg)
  /-- SMUL (R133). -/
  | smul (h : Hdr) (m : IntMod) (d a b : SReg)
  /-- SMULH (R133). -/
  | smulh (h : Hdr) (m : IntMod) (d a b : SReg)
  /-- SMAD (R133). -/
  | smad (h : Hdr) (m : IntMod) (d a b c : SReg)
  /-- SAND (R133). -/
  | sand (h : Hdr) (m : IntMod) (d a b : SReg)
  /-- SOR (R133). -/
  | sor (h : Hdr) (m : IntMod) (d a b : SReg)
  /-- SXOR (R133). -/
  | sxor (h : Hdr) (m : IntMod) (d a b : SReg)
  /-- SNOT (R133). -/
  | snot (h : Hdr) (m : IntMod) (d a : SReg)
  /-- SSHL (R133). -/
  | sshl (h : Hdr) (m : IntMod) (d a b : SReg)
  /-- SSHR (R133). -/
  | sshr (h : Hdr) (m : IntMod) (d a b : SReg)
  /-- SSAR (R133). -/
  | ssar (h : Hdr) (m : IntMod) (d a b : SReg)
  /-- SMIN (R133). -/
  | smin (h : Hdr) (m : IntMod) (d a b : SReg)
  /-- SMAX (R133). -/
  | smax (h : Hdr) (m : IntMod) (d a b : SReg)
  /-- SCMP (R134). -/
  | scmp (h : Hdr) (ty : ITy) (cond : ICond) (p : PReg) (a b : SReg)
  /-- SSEL (R133). -/
  | ssel (h : Hdr) (m : IntMod) (d a b c : SReg)
  /-- SMOV (R133). -/
  | smov (h : Hdr) (m : IntMod) (d a : SReg)
  /-- SCLZ (R133). -/
  | sclz (h : Hdr) (m : IntMod) (d a : SReg)
  /-- SPOPC (R133). -/
  | spopc (h : Hdr) (m : IntMod) (d a : SReg)
  /-- SBFE (R135). -/
  | sbfe (h : Hdr) (m : IntMod) (d a b : SReg)
  /-- SMOVI (R136). -/
  | smovi (h : Hdr) (d : SReg) (imm : BitVec 32)
  /-- SMOVIH (R136). -/
  | smovih (h : Hdr) (d : SReg) (imm : BitVec 32)
  /-- SADDI (R136). -/
  | saddi (h : Hdr) (d : SReg) (imm : BitVec 32)
  /-- SANDI (R136). -/
  | sandi (h : Hdr) (d : SReg) (imm : BitVec 32)
  /-- SORI (R136). -/
  | sori (h : Hdr) (d : SReg) (imm : BitVec 32)
  /-- SXORI (R136). -/
  | sxori (h : Hdr) (d : SReg) (imm : BitVec 32)
  /-- SSHLI (R136). -/
  | sshli (h : Hdr) (d : SReg) (imm : BitVec 32)
  /-- SSHRI (R136). -/
  | sshri (h : Hdr) (d : SReg) (imm : BitVec 32)
  /-- SSARI (R136). -/
  | ssari (h : Hdr) (d : SReg) (imm : BitVec 32)
  /-- SMULI (R136). -/
  | smuli (h : Hdr) (d : SReg) (imm : BitVec 32)
  /-- SCMPI (R136). -/
  | scmpi (h : Hdr) (cond : ICond) (p : PReg) (a : SReg) (imm : BitVec 32)
  /-- SADD_SLOT (R137). -/
  | saddSlot (s : Bool) (d a : SReg) (other : Slot)
  /-- SSUB_SLOT (R137). -/
  | ssubSlot (s : Bool) (d a : SReg) (other : Slot)
  /-- SAND_SLOT (R137). -/
  | sandSlot (s : Bool) (d a : SReg) (other : Slot)
  /-- SOR_SLOT (R137). -/
  | sorSlot (s : Bool) (d a : SReg) (other : Slot)
  /-- SXOR_SLOT (R137). -/
  | sxorSlot (s : Bool) (d a : SReg) (other : Slot)
  /-- SMOV_SLOT (R137). -/
  | smovSlot (s : Bool) (d a : SReg) (other : Slot)
  /-- SSHL_SLOT (R137). -/
  | sshlSlot (s : Bool) (d a : SReg) (other : Slot)
  /-- SSHR_SLOT (R137). -/
  | sshrSlot (s : Bool) (d a : SReg) (other : Slot)
  /-- PAND (R138). -/
  | pand (h : Hdr) (d a b : PReg)
  /-- POR (R138). -/
  | por (h : Hdr) (d a b : PReg)
  /-- PXOR (R138). -/
  | pxor (h : Hdr) (d a b : PReg)
  /-- PANDN (R138). -/
  | pandn (h : Hdr) (d a b : PReg)
  /-- PNOT (R138). -/
  | pnot (h : Hdr) (d a : PReg)
  /-- PMOV (R138). -/
  | pmov (h : Hdr) (d a : PReg)
  /-- PSET (R138). -/
  | pset (h : Hdr) (d : PReg) (a : SReg)
  /-- PGET (R138). -/
  | pget (h : Hdr) (d : SReg) (a : PReg)
  /-- PPOPC (R138). -/
  | ppopc (h : Hdr) (d : SReg) (a : PReg)
  /-- PFIRST (R138). -/
  | pfirst (h : Hdr) (d : SReg) (a : PReg)
  /-- PAND_SLOT (R139). -/
  | pandSlot (s : Bool) (d a : PReg) (other : Slot)
  /-- POR_SLOT (R139). -/
  | porSlot (s : Bool) (d a : PReg) (other : Slot)
  /-- PMOV_SLOT (R139). -/
  | pmovSlot (s : Bool) (d a : PReg) (other : Slot)
  /-- VADD (R141). -/
  | vadd (h : Hdr) (m : IntMod) (d : VReg) (a b : VS)
  /-- VSUB (R141). -/
  | vsub (h : Hdr) (m : IntMod) (d : VReg) (a b : VS)
  /-- VMUL (R141). -/
  | vmul (h : Hdr) (m : IntMod) (d : VReg) (a b : VS)
  /-- VMULH (R141). -/
  | vmulh (h : Hdr) (m : IntMod) (d : VReg) (a b : VS)
  /-- VMAD (R141). -/
  | vmad (h : Hdr) (m : IntMod) (d a b c : VReg)
  /-- VABS (R141). -/
  | vabs (h : Hdr) (m : IntMod) (d : VReg) (a : VS)
  /-- VNEG (R141). -/
  | vneg (h : Hdr) (m : IntMod) (d : VReg) (a : VS)
  /-- VMIN (R141). -/
  | vmin (h : Hdr) (m : IntMod) (d : VReg) (a b : VS)
  /-- VMAX (R141). -/
  | vmax (h : Hdr) (m : IntMod) (d : VReg) (a b : VS)
  /-- VAND (R141). -/
  | vand (h : Hdr) (m : IntMod) (d : VReg) (a b : VS)
  /-- VOR (R141). -/
  | vor (h : Hdr) (m : IntMod) (d : VReg) (a b : VS)
  /-- VXOR (R141). -/
  | vxor (h : Hdr) (m : IntMod) (d : VReg) (a b : VS)
  /-- VNOT (R141). -/
  | vnot (h : Hdr) (m : IntMod) (d : VReg) (a : VS)
  /-- VSHL (R141). -/
  | vshl (h : Hdr) (m : IntMod) (d : VReg) (a b : VS)
  /-- VSHR (R141). -/
  | vshr (h : Hdr) (m : IntMod) (d : VReg) (a b : VS)
  /-- VSAR (R141). -/
  | vsar (h : Hdr) (m : IntMod) (d : VReg) (a b : VS)
  /-- VCLZ (R141). -/
  | vclz (h : Hdr) (m : IntMod) (d : VReg) (a : VS)
  /-- VPOPC (R141). -/
  | vpopc (h : Hdr) (m : IntMod) (d : VReg) (a : VS)
  /-- VBFE (R141). -/
  | vbfe (h : Hdr) (m : IntMod) (d : VReg) (a b : VS)
  /-- VBFI (R143). -/
  | vbfi (h : Hdr) (m : IntMod) (d a b c : VReg)
  /-- VCMP (R142). -/
  | vcmp (h : Hdr) (ty : ITy) (cond : ICond) (p : PReg) (a b : VS)
  /-- VSEL (R143). -/
  | vsel (h : Hdr) (ty : ITy) (d a b : VReg) (p : PReg)
  /-- VMOV (R141). -/
  | vmov (h : Hdr) (m : IntMod) (d : VReg) (a : VS)
  /-- VMOVI (R144). -/
  | vmovi (h : Hdr) (d : VReg) (imm : BitVec 32)
  /-- VADDI (R144). -/
  | vaddi (h : Hdr) (d : VReg) (imm : BitVec 32)
  /-- VANDI (R144). -/
  | vandi (h : Hdr) (d : VReg) (imm : BitVec 32)
  /-- VORI (R144). -/
  | vori (h : Hdr) (d : VReg) (imm : BitVec 32)
  /-- VSHLI (R144). -/
  | vshli (h : Hdr) (d : VReg) (imm : BitVec 32)
  /-- VSHRI (R144). -/
  | vshri (h : Hdr) (d : VReg) (imm : BitVec 32)
  /-- FMOVI (R144). -/
  | fmovi (h : Hdr) (d : VReg) (imm : BitVec 32)
  /-- VADD_SLOT (R145). -/
  | vaddSlot (s : Bool) (ty : ITy) (d a : VReg) (other : Slot)
  /-- VSUB_SLOT (R145). -/
  | vsubSlot (s : Bool) (ty : ITy) (d a : VReg) (other : Slot)
  /-- VMUL_SLOT (R145). -/
  | vmulSlot (s : Bool) (ty : ITy) (d a : VReg) (other : Slot)
  /-- VAND_SLOT (R145). -/
  | vandSlot (s : Bool) (ty : ITy) (d a : VReg) (other : Slot)
  /-- VOR_SLOT (R145). -/
  | vorSlot (s : Bool) (ty : ITy) (d a : VReg) (other : Slot)
  /-- VXOR_SLOT (R145). -/
  | vxorSlot (s : Bool) (ty : ITy) (d a : VReg) (other : Slot)
  /-- VMIN_SLOT (R145). -/
  | vminSlot (s : Bool) (ty : ITy) (d a : VReg) (other : Slot)
  /-- VMAX_SLOT (R145). -/
  | vmaxSlot (s : Bool) (ty : ITy) (d a : VReg) (other : Slot)
  /-- VMOV_SLOT (R145). -/
  | vmovSlot (s : Bool) (ty : ITy) (d a : VReg) (other : Slot)
  /-- VSHL_SLOT (R145). -/
  | vshlSlot (s : Bool) (ty : ITy) (d a : VReg) (other : Slot)
  /-- VSHR_SLOT (R145). -/
  | vshrSlot (s : Bool) (ty : ITy) (d a : VReg) (other : Slot)
  /-- FADD (R148). -/
  | fadd (h : Hdr) (m : FpMod) (d : VReg) (a b : VS)
  /-- FSUB (R148). -/
  | fsub (h : Hdr) (m : FpMod) (d : VReg) (a b : VS)
  /-- FMUL (R148). -/
  | fmul (h : Hdr) (m : FpMod) (d : VReg) (a b : VS)
  /-- FFMA (R148). -/
  | ffma (h : Hdr) (m : FpMod) (nc : Bool) (d a b c : VReg)
  /-- FMIN (R149). -/
  | fmin (h : Hdr) (m : FpMod) (d : VReg) (a b : VS)
  /-- FMAX (R149). -/
  | fmax (h : Hdr) (m : FpMod) (d : VReg) (a b : VS)
  /-- FABS (R149). -/
  | fabs (h : Hdr) (m : FpMod) (d : VReg) (a : VS)
  /-- FNEG (R149). -/
  | fneg (h : Hdr) (m : FpMod) (d : VReg) (a : VS)
  /-- FCMP (R150). -/
  | fcmp (h : Hdr) (ty : FTy) (full : Bool) (cond : FCond) (p : PReg) (a b : VS)
  /-- FCLASS (R151). -/
  | fclass (h : Hdr) (ty : FTy) (full : Bool) (d : VReg) (a : VS)
  /-- FDIV (R152). -/
  | fdiv (h : Hdr) (m : FpMod) (d : VReg) (a b : VS)
  /-- FSQRT (R152). -/
  | fsqrt (h : Hdr) (m : FpMod) (d : VReg) (a : VS)
  /-- FRCP (R153). -/
  | frcp (h : Hdr) (m : FpMod) (d : VReg) (a : VS)
  /-- FRSQ (R153). -/
  | frsq (h : Hdr) (m : FpMod) (d : VReg) (a : VS)
  /-- FEXP2 (R153). -/
  | fexp2 (h : Hdr) (m : FpMod) (d : VReg) (a : VS)
  /-- FLOG2 (R153). -/
  | flog2 (h : Hdr) (m : FpMod) (d : VReg) (a : VS)
  /-- FLDEXP (R154). -/
  | fldexp (h : Hdr) (m : FpMod) (d : VReg) (a b : VS)
  /-- FRND (R154). -/
  | frnd (h : Hdr) (m : FpMod) (d : VReg) (a : VS)
  /-- FADD_SLOT (R155). -/
  | faddSlot (s : Bool) (ty : FTy) (full : Bool) (d a : VReg) (other : Slot)
  /-- FSUB_SLOT (R155). -/
  | fsubSlot (s : Bool) (ty : FTy) (full : Bool) (d a : VReg) (other : Slot)
  /-- FMUL_SLOT (R155). -/
  | fmulSlot (s : Bool) (ty : FTy) (full : Bool) (d a : VReg) (other : Slot)
  /-- FMIN_SLOT (R155). -/
  | fminSlot (s : Bool) (ty : FTy) (full : Bool) (d a : VReg) (other : Slot)
  /-- FMAX_SLOT (R155). -/
  | fmaxSlot (s : Bool) (ty : FTy) (full : Bool) (d a : VReg) (other : Slot)
  /-- CVT (R156). -/
  | cvt (h : Hdr) (m : CvMod) (dst src : Fmt) (d : VReg) (a : VS)
  /-- CVTPK (R157). -/
  | cvtpk (h : Hdr) (m : CvMod) (dst src : Fmt) (d : VReg) (a : VS)
  /-- MXSCALE (R158). -/
  | mxscale (h : Hdr) (full : Bool) (fmt : MxFmt) (d a : VReg)
  /-- MXQ (R159). -/
  | mxq (h : Hdr) (sr sat full q pack : Bool) (fmt : MxFmt) (d a b : VReg)
  /-- MXDQ (R160). -/
  | mxdq (h : Hdr) (full q pack : Bool) (fmt : MxFmt) (d a b : VReg)
  /-- VRFL (R163). -/
  | vrfl (h : Hdr) (w : Bool) (d : SReg) (a : VReg)
  /-- VRLN (R163). -/
  | vrln (h : Hdr) (w : Bool) (d : SReg) (a : VReg) (b : SReg)
  /-- VWLN (R163). -/
  | vwln (h : Hdr) (w : Bool) (d : VReg) (a b : SReg)
  /-- VBCST (R163). -/
  | vbcst (h : Hdr) (w : Bool) (d a : VReg) (b : SReg)
  /-- VSHFL (R163). -/
  | vshfl (h : Hdr) (w xor : Bool) (d a b : VReg)
  /-- VROT (R163). -/
  | vrot (h : Hdr) (w : Bool) (g : BitVec 2) (d a : VReg) (b : SReg)
  /-- VRED (R165). -/
  | vred (h : Hdr) (ty : RTy) (op : ROp) (q : Bool) (d a : VReg)
  /-- VSCAN (R165). -/
  | vscan (h : Hdr) (ty : RTy) (op : ROp) (q : Bool) (d a : VReg)
  /-- VVOTE (R166). -/
  | vvote (h : Hdr) (mode : Vote) (d a : PReg)
  /-- VLANE (R167). -/
  | vlane (h : Hdr) (gid : Bool) (d : VReg)
  /-- BGET (R169). -/
  | bget (h : Hdr) (w : Bool) (d a : VReg)
  /-- BSET (R169). -/
  | bset (h : Hdr) (w : Bool) (d a : VReg)
  /-- BCLR (R169). -/
  | bclr (h : Hdr) (w : Bool) (d : VReg)
  /-- BUNB (R169). -/
  | bunb (h : Hdr) (w : Bool) (d : VReg)
  /-- BMAXR (R169). -/
  | bmaxr (h : Hdr) (w : Bool) (d a b : VReg)
  /-- BCHK (R171). -/
  | bchk (h : Hdr) (ty : FTy) (kind : ChkKind) (p : PReg) (a : VReg)
  /-- BUD (R172). -/
  | bud (h : Hdr) (a : SReg)
  /-- BUDI (R172). -/
  | budi (h : Hdr) (imm : BitVec 16)
  /-- LD (R177). -/
  | ld (h : Hdr) (m : MemOp) (sz : Sz) (d : VReg)
  /-- ST (R178). -/
  | st (h : Hdr) (m : MemOp) (sz : Sz) (d : VReg)
  /-- LDU (R179). -/
  | ldu (h : Hdr) (m : MemOp) (sz : Sz) (d : SReg)
  /-- STU (R179). -/
  | stu (h : Hdr) (m : MemOp) (sz : Sz) (d : SReg)
  /-- LDS (R177). -/
  | lds (h : Hdr) (m : MemOp) (sz : Sz) (d : VReg)
  /-- STS (R178). -/
  | sts (h : Hdr) (m : MemOp) (sz : Sz) (d : VReg)
  /-- PREF (R181). -/
  | pref (h : Hdr) (m : MemOp)
  /-- LDSP (R182). -/
  | ldsp (h : Hdr) (m : MemOp) (sz : Sz) (d : SReg)
  /-- ATOM_ADD (R184). -/
  | atomAdd (h : Hdr) (m : MemOp) (ty : ATy) (ret : Bool) (d : VReg)
  /-- ATOM_SUB (R184). -/
  | atomSub (h : Hdr) (m : MemOp) (ty : ATy) (ret : Bool) (d : VReg)
  /-- ATOM_MIN (R184). -/
  | atomMin (h : Hdr) (m : MemOp) (ty : ATy) (ret : Bool) (d : VReg)
  /-- ATOM_MAX (R184). -/
  | atomMax (h : Hdr) (m : MemOp) (ty : ATy) (ret : Bool) (d : VReg)
  /-- ATOM_AND (R184). -/
  | atomAnd (h : Hdr) (m : MemOp) (ty : ATy) (ret : Bool) (d : VReg)
  /-- ATOM_OR (R184). -/
  | atomOr (h : Hdr) (m : MemOp) (ty : ATy) (ret : Bool) (d : VReg)
  /-- ATOM_XOR (R184). -/
  | atomXor (h : Hdr) (m : MemOp) (ty : ATy) (ret : Bool) (d : VReg)
  /-- ATOM_XCHG (R184). -/
  | atomXchg (h : Hdr) (m : MemOp) (ty : ATy) (ret : Bool) (d : VReg)
  /-- ATOM_CAS (R184). -/
  | atomCas (h : Hdr) (m : MemOp) (ty : ATy) (ret : Bool) (d : VReg)
  /-- ATOMS_ADD (R185). -/
  | atomsAdd (h : Hdr) (m : MemOp) (ty : ATy) (ret : Bool) (d : VReg)
  /-- ATOMS_SUB (R185). -/
  | atomsSub (h : Hdr) (m : MemOp) (ty : ATy) (ret : Bool) (d : VReg)
  /-- ATOMS_MIN (R185). -/
  | atomsMin (h : Hdr) (m : MemOp) (ty : ATy) (ret : Bool) (d : VReg)
  /-- ATOMS_MAX (R185). -/
  | atomsMax (h : Hdr) (m : MemOp) (ty : ATy) (ret : Bool) (d : VReg)
  /-- ATOMS_AND (R185). -/
  | atomsAnd (h : Hdr) (m : MemOp) (ty : ATy) (ret : Bool) (d : VReg)
  /-- ATOMS_OR (R185). -/
  | atomsOr (h : Hdr) (m : MemOp) (ty : ATy) (ret : Bool) (d : VReg)
  /-- ATOMS_XOR (R185). -/
  | atomsXor (h : Hdr) (m : MemOp) (ty : ATy) (ret : Bool) (d : VReg)
  /-- ATOMS_XCHG (R185). -/
  | atomsXchg (h : Hdr) (m : MemOp) (ty : ATy) (ret : Bool) (d : VReg)
  /-- ATOMS_CAS (R185). -/
  | atomsCas (h : Hdr) (m : MemOp) (ty : ATy) (ret : Bool) (d : VReg)
  /-- LDV (R186). -/
  | ldv (h : Hdr) (m : MemOp) (d : VReg)
  /-- STV (R187). -/
  | stv (h : Hdr) (m : MemOp) (d : VReg)
  /-- RECON (R188). -/
  | recon (h : Hdr) (m : MemOp) (op : ReconOp) (d : VReg)
  /-- FENCE (R190). -/
  | fence (h : Hdr) (sc : Bool) (scope : Scope)
  /-- CACHE_DROP (R191). -/
  | cacheDrop (h : Hdr) (a : SReg)
  /-- CACHE_CLEAN (R191). -/
  | cacheClean (h : Hdr) (a : SReg)
  /-- CACHE_INVAL (R191). -/
  | cacheInval (h : Hdr) (a : SReg)
  /-- BARINIT (R195). -/
  | barinit (h : Hdr) (scope : Scope) (d sa : SReg) (off : BitVec 13)
  /-- BARARR (R195). -/
  | bararr (h : Hdr) (d : PReg) (sa : SReg) (off : BitVec 13)
  /-- BAREXP (R195). -/
  | barexp (h : Hdr) (d sa : SReg) (off : BitVec 13)
  /-- BARWAIT (R195). -/
  | barwait (h : Hdr) (d sa : SReg) (off : BitVec 13)
  /-- BARTEST (R195). -/
  | bartest (h : Hdr) (d sa : SReg) (off : BitVec 13)
  /-- BARDROP (R195). -/
  | bardrop (h : Hdr) (d : PReg) (sa : SReg) (off : BitVec 13)
  /-- SBAR (R198). -/
  | sbar (h : Hdr) (level : SbarLevel) (b : BitVec 5) (a : PReg)
  /-- JDECL (R200). -/
  | jdecl (h : Hdr) (d : JReg) (a : SReg)
  /-- JSIGN (R200). -/
  | jsign (h : Hdr) (d : JReg) (a : PReg)
  /-- JWAIT (R200). -/
  | jwait (h : Hdr) (d : JReg)
  /-- TCFG (R203). -/
  | tcfg (h : Hdr) (d : TReg) (a : SReg)
  /-- TZERO (R204). -/
  | tzero (h : Hdr) (d : TReg)
  /-- TLD (R206). -/
  | tld (h : Hdr) (m : MemOp) (d : TReg)
  /-- TST (R206). -/
  | tst (h : Hdr) (m : MemOp) (d : TReg)
  /-- MMA (R208). -/
  | mma (h : Hdr) (tier : Tier) (q : Bool) (d : AReg) (a b : TReg) (j : JReg)
  /-- ACCZ (R211). -/
  | accz (h : Hdr) (d : AReg)
  /-- ACCMOV (R211). -/
  | accmov (h : Hdr) (d : VReg) (a : AReg) (b : SReg)
  /-- ACCBND (R211). -/
  | accbnd (h : Hdr) (d : VReg) (a : AReg)
  /-- ACCSPILL (R213). -/
  | accspill (h : Hdr) (a : AReg) (b : SReg)
  /-- ACCFILL (R213). -/
  | accfill (h : Hdr) (mcode : Bool) (ncode : BitVec 2) (d : AReg) (a : SReg)
  /-- ACCLD (R212). -/
  | accld (h : Hdr) (m : MemOp) (d : AReg)
  /-- ACCST (R212). -/
  | accst (h : Hdr) (m : MemOp) (d : AReg)
  /-- ACCST_ADD (R212). -/
  | accstAdd (h : Hdr) (m : MemOp) (d : AReg)
  /-- KEYCUT (R215). -/
  | keycut (h : Hdr) (d sa : SReg) (off : BitVec 13)
  /-- TLDK (R216). -/
  | tldk (h : Hdr) (m : MemOp) (d : TReg)
  /-- KEYDROP (R217). -/
  | keydrop (h : Hdr) (a : SReg)
  /-- KEYQ (R217). -/
  | keyq (h : Hdr) (d a : SReg)
  /-- CPYKICK (R223). -/
  | cpykick (h : Hdr) (queue : BitVec 2) (scope : Scope) (d sa : SReg) (off : BitVec 13)
  /-- CPYSTAT (R224). -/
  | cpystat (h : Hdr) (d a : SReg)
  /-- CPYCAN (R225). -/
  | cpycan (h : Hdr) (a : SReg)
  /-- ROWCPY (R226). -/
  | rowcpy (h : Hdr) (d a c : SReg)
  /-- ROWFIL (R226). -/
  | rowfil (h : Hdr) (d a c : SReg)
  /-- ROWAND (R226). -/
  | rowand (h : Hdr) (d a b c : SReg)
  /-- ROWOR (R226). -/
  | rowor (h : Hdr) (d a b c : SReg)
  /-- ROWXOR (R226). -/
  | rowxor (h : Hdr) (d a b c : SReg)
  /-- ROWNOT (R226). -/
  | rownot (h : Hdr) (d a c : SReg)
  /-- ROWMAJ (R226). -/
  | rowmaj (h : Hdr) (d a b c : SReg)
  /-- ROWRDX (R226). -/
  | rowrdx (h : Hdr) (d a c : SReg)
  /-- ROWSTAT (R229). -/
  | rowstat (h : Hdr) (d a : SReg)
  /-- TRAP (R230). -/
  | trap (h : Hdr) (imm : BitVec 32)
  /-- BKPT (R230). -/
  | bkpt (h : Hdr) (n : BitVec 8)
  /-- RFT (R307). -/
  | rft (h : Hdr)
  /-- MFSR (R232). -/
  | mfsr (h : Hdr) (d : SReg) (x : BitVec 10)
  /-- MTSR (R232). -/
  | mtsr (h : Hdr) (x : BitVec 10) (a : SReg)
  /-- MTSRI (R232). -/
  | mtsri (h : Hdr) (x : BitVec 10) (imm : BitVec 32)
  /-- FIRNRD (R233). -/
  | firnrd (h : Hdr) (d : SReg)
  /-- LWAIT (R234). -/
  | lwait (h : Hdr) (a : SReg)
  /-- SEED (R235). -/
  | seed (h : Hdr) (a b : SReg)
  /-- HALT (R236). -/
  | halt (h : Hdr)
  /-- FRSAVE (R237). -/
  | frsave (h : Hdr) (a : SReg)
  /-- FRLOAD (R237). -/
  | frload (h : Hdr) (a : SReg)
  /-- ISSUE_CLOCK (R294). -/
  | issueClock (core part : Nat)
  /-- RUN_BOUNDARY (R22). -/
  | runBoundary (floe : Nat)
  /-- LOAD_RESPONSE (R242). -/
  | loadResponse (acc unit : Nat)
  /-- MMA_FIRE (R209). -/
  | mmaFire (pack join : Nat)
  /-- MMA_COMPLETE (R209). -/
  | mmaComplete (pack join : Nat)
  /-- SLEEP_DEADLINE (R131). -/
  | sleepDeadline (floe : Nat)
  /-- LWAIT_DEADLINE (R234). -/
  | lwaitDeadline (floe : Nat)
  /-- FIRN_SYNC_BEAT (R254). -/
  | firnSyncBeat (die : Nat) (drift : Int)
  /-- FIRN_SKEW (R256). -/
  | firnSkew (die : Nat)
  /-- POD_FIRN_SAMPLE (R377). -/
  | podFirnSample (time : BitVec 64) (trip : Nat)
  /-- L1_LEASE_EXPIRY (R260). -/
  | l1LeaseExpiry (core line : Nat)
  /-- LEASE_HORIZON_REACHED (R261). -/
  | leaseHorizonReached (die line : Nat)
  /-- DIRECTORY_RECALL (R327). -/
  | directoryRecall (line : Nat)
  /-- PAGE_WALK (R338). -/
  | pageWalk (core queue : Nat) (va : BitVec 64)
  /-- TRANSLATION_LEASE_EXPIRY (R266). -/
  | translationLeaseExpiry (core : Nat) (ctx : BitVec 8) (page : Nat)
  /-- WALK_AHEAD_RENEWAL (R271). -/
  | walkAheadRenewal (core queue : Nat)
  /-- FAULT_QUEUE_ENTRY_WRITE (R343). -/
  | faultQueueEntryWrite
  /-- FQRESP_RETRY (R344). -/
  | fqrespRetry (id : BitVec 16)
  /-- FQRESP_DENY (R344). -/
  | fqrespDeny (id : BitVec 16)
  /-- CPYKICK_QUEUE_EVENT (R223). -/
  | cpykickQueueEvent (core queue : Nat)
  /-- LATCH_REQUEST_START (R360). -/
  | latchRequestStart (core queue : Nat)
  /-- LATCH_PIECE_ISSUE (R361). -/
  | latchPieceIssue (core : Nat)
  /-- LATCH_PIECE_LAND (R362). -/
  | latchPieceLand (core piece : Nat)
  /-- LDSP_COPY_LAND (R182). -/
  | ldspCopyLand (copy : Nat)
  /-- ACCST_ADD_APPLY (R212). -/
  | accstAddApply (drain : Nat)
  /-- SERAC_FORK (R357). -/
  | seracFork (op : Nat)
  /-- SERAC_ROW_STEP (R355). -/
  | seracRowStep (op : Nat)
  /-- SERAC_JOIN (R228). -/
  | seracJoin (op : Nat)
  /-- PACK_SAVE_COMPLETE (R310). -/
  | packSaveComplete (pack : Nat)
  /-- PACK_PLACEMENT (R288). -/
  | packPlacement (die : Nat)
  /-- PACK_RESTORE_PLACEMENT (R311). -/
  | packRestorePlacement (die : Nat)
  /-- PREEMPT (R298). -/
  | preempt (floe : Nat)
  /-- SLICE_EXPIRY (R296). -/
  | sliceExpiry (die : Nat) (ctx : BitVec 8)
  /-- NODE_RELEASE (R385). -/
  | nodeRelease (inst node : Nat)
  /-- NODE_COMPLETE (R385). -/
  | nodeComplete (inst node : Nat)
  /-- WATCHDOG_ISSUE_REPORT (R300). -/
  | watchdogIssueReport (floe : Nat)
  /-- WATCHDOG_STALL_REPORT (R301). -/
  | watchdogStallReport (floe : Nat)
  /-- CARVE_OUT_INTERVAL (R320). -/
  | carveOutInterval (core : Nat)
  /-- BANK_GATE (R319). -/
  | bankGate (core bank : Nat)
  /-- BANK_READY (R319). -/
  | bankReady (core bank : Nat)
  /-- POWER_STATE_ENTRY (R392). -/
  | powerStateEntry (die : Nat)
  /-- DIE_WAKE (R392). -/
  | dieWake (die : Nat)
  /-- BOOST_INTERVAL (R393). -/
  | boostInterval (die : Nat) (claims : BitVec 10)
  /-- PERMIT_REFILL (R393). -/
  | permitRefill (die : Nat)
  /-- MODULE_RESET (R11). -/
  | moduleReset
  /-- BOOTCTL_WRITE (R394). -/
  | bootctlWrite (value : BitVec 64) (trained : BitVec 8) (imageOk : Bool)
  /-- BOOT_FULL (R395). -/
  | bootFull
  /-- EYE_MARGIN_LOW (R352). -/
  | eyeMarginLow (stack lane : Nat) (eye : Eye)
  /-- PERIODIC_RETRAIN (R352). -/
  | periodicRetrain (stack : Nat)
  /-- CHANNEL_WIDTH_CHANGE (R351). -/
  | channelWidthChange (stack chan : Nat) (half thermal : Bool)
  /-- HINGE_LINK_FAIL (R369). -/
  | hingeLinkFail (die : Nat)
  /-- HOST_CXL_MEM_WRITE (R371). -/
  | hostCxlMemWrite (addr : Nat) (data : List (BitVec 8))
  /-- HOST_CXL_MEM_READ (R253). -/
  | hostCxlMemRead (addr size : Nat)
  /-- HOST_SNOOP (R372). -/
  | hostSnoop (half : Nat) (invalidate : Bool)
  /-- POOL_BACK_INVALIDATE (R375). -/
  | poolBackInvalidate (write : PoolWrite)
  /-- PEER_ACCESS (R375). -/
  | peerAccess (peer : BitVec 4) (addr : Nat) (op : PeerOp)
  /-- POD_BARRIER_ARRIVAL (R379). -/
  | podBarrierArrival (index : Nat)
  /-- POD_BARRIER_COMPLETION (R379). -/
  | podBarrierCompletion (index : Nat) (gen : BitVec 32)
  /-- TRIGGER (R386). -/
  | trigger (value : BitVec 64)
  /-- CTXCTL_PREEMPT (R388). -/
  | ctxctlPreempt (ctx : BitVec 8)
  /-- CTXCTL_END (R388). -/
  | ctxctlEnd (ctx : BitVec 8)
  /-- CONTEXT_END_RELEASE (R388). -/
  | contextEndRelease (ctx : BitVec 8)
  /-- EYEACT_RETRAIN (R352). -/
  | eyeactRetrain (stack chan : Nat)
  /-- EYEACT_REPAIR (R352). -/
  | eyeactRepair (stack chan lane : Nat)
  /-- EYEACT_HALF_WIDTH (R351). -/
  | eyeactHalfWidth (stack chan : Nat)
  /-- EYEACT_FULL_WIDTH (R351). -/
  | eyeactFullWidth (stack chan : Nat) (able : Bool)
  /-- MPOLICY_WRITE (R273). -/
  | mpolicyWrite (value : BitVec 64)
  /-- CXLWIN_WRITE (R373). -/
  | cxlwinWrite (window : Nat) (value : BitVec 64)
  /-- HBMMAP_WRITE (R347). -/
  | hbmmapWrite (value : BitVec 64)
  /-- MMIO_REGISTER_WRITE (R9). -/
  | mmioRegisterWrite (offset size : Nat) (value : BitVec 64)
  /-- STORE_PERFORMED (R239). -/
  | storePerformed (acc unit : Nat)
  /-- CXL_PORT_TRAINING (R370). -/
  | cxlPortTraining (port : Nat) (up : Bool)
  /-- HBM_REFRESH (R358). -/
  | hbmRefresh (stack bank : Nat)
  deriving DecidableEq, Repr

end Sys2Proof
end

