-- ==== Sys2Proof/Machine/Format.lean ====
section
/-! DEFINITION. The floating-point formats of spec 02 (R44 to R49): decoding an element code to its value, encoding a
representable value, rounding into a format (R55, R56), NaN rules (R45) and the RIME16 encoding (R53, R74). -/

namespace Sys2Proof.Machine
open Sys2Proof

/-- How a format spends its largest exponent: on infinities and NaNs, on one NaN (E4M3), or on numbers. -/
inductive Specials where
  | ieee | oneNan | none
  deriving DecidableEq, Repr

/-- A binary format with a sign: exponent bits, fraction bits, bias (R44, R48). -/
structure FFmt where
  eb : Nat
  fb : Nat
  bias : Int
  sp : Specials
  deriving DecidableEq, Repr

namespace FFmt
def f64 : FFmt := ⟨11, 52, 1023, .ieee⟩
def f32 : FFmt := ⟨8, 23, 127, .ieee⟩
def f16 : FFmt := ⟨5, 10, 15, .ieee⟩
def bf16 : FFmt := ⟨8, 7, 127, .ieee⟩
def e4m3 : FFmt := ⟨4, 3, 7, .oneNan⟩
def e5m2 : FFmt := ⟨5, 2, 15, .ieee⟩
def e3m2 : FFmt := ⟨3, 2, 3, .none⟩
def e2m3 : FFmt := ⟨2, 3, 1, .none⟩
def e2m1 : FFmt := ⟨2, 1, 1, .none⟩
/-- Precision P. -/
def P (F : FFmt) : Nat := F.fb + 1
/-- Minimum normal exponent. -/
def emin (F : FFmt) : Int := 1 - F.bias
/-- Bits of a code. -/
def width (F : FFmt) : Nat := 1 + F.eb + F.fb
/-- The sign bit alone. -/
def signBit (F : FFmt) : Nat := 2 ^ (F.eb + F.fb)
/-- The largest exponent field. -/
def emax (F : FFmt) : Nat := 2 ^ F.eb - 1
/-- The code of the largest finite magnitude. -/
def maxCode (F : FFmt) : Nat :=
  match F.sp with
  | .ieee => F.emax * 2 ^ F.fb - 1
  | .oneNan => 2 ^ (F.eb + F.fb) - 2
  | .none => 2 ^ (F.eb + F.fb) - 1
/-- The code of +infinity, for formats that have it. -/
def infCode (F : FFmt) : Nat := F.emax * 2 ^ F.fb
/-- The quiet bit (R45). -/
def quietBit (F : FFmt) : Nat := 2 ^ (F.fb - 1)
/-- The default NaN (R45). -/
def defaultNan (F : FFmt) : Nat :=
  match F.sp with
  | .oneNan => 2 ^ (F.eb + F.fb) - 1
  | _ => F.infCode + F.quietBit
/-- neg as the sign bit. -/
def signOf (F : FFmt) (neg : Bool) : Nat := if neg then F.signBit else 0
end FFmt

/-- The value of an element code: a NaN with its sign, whether it signals, and its fraction; an infinity; or
(-1)^neg * m * 2^e. -/
inductive FVal where
  | nan (neg sig : Bool) (frac : Nat)
  | inf (neg : Bool)
  | fin (neg : Bool) (m : Nat) (e : Int)
  deriving DecidableEq, Repr

/-- Reads an element code (R44, R45, R48). -/
def FFmt.decode (F : FFmt) (c : Nat) : FVal :=
  let neg := c / F.signBit % 2 == 1
  let x := c / 2 ^ F.fb % 2 ^ F.eb
  let f := c % 2 ^ F.fb
  let num : FVal := if x = 0 then .fin neg f (F.emin - F.fb) else .fin neg (2 ^ F.fb + f) ((x : Int) - F.bias - F.fb)
  match F.sp with
  | .ieee => if x = F.emax then (if f = 0 then .inf neg else .nan neg (f / F.quietBit % 2 == 0) f) else num
  | .oneNan => if x = F.emax && f + 1 == 2 ^ F.fb then .nan neg false f else num
  | .none => num

namespace FVal
def isNan : FVal → Bool
  | .nan .. => true
  | _ => false
def isSnan : FVal → Bool
  | .nan _ sig _ => sig
  | _ => false
def isInf : FVal → Bool
  | .inf _ => true
  | _ => false
def isFin : FVal → Bool
  | .fin .. => true
  | _ => false
def isZero : FVal → Bool
  | .fin _ m _ => m == 0
  | _ => false
def neg : FVal → Bool
  | .nan n _ _ | .inf n | .fin n _ _ => n
/-- The exact value; zero for NaN and infinity. -/
def dy : FVal → Dy
  | .fin n m e => ⟨if n then -(m : Int) else m, e⟩
  | _ => Dy.zero
/-- The same value with the other sign. -/
def flip : FVal → FVal
  | .nan n s f => .nan (!n) s f
  | .inf n => .inf (!n)
  | .fin n m e => .fin (!n) m e
end FVal

/-- The code of (-1)^neg * m * 2^e, a value that the format represents. -/
def FFmt.encode (F : FFmt) (neg : Bool) (m : Nat) (e : Int) : Nat :=
  F.signOf neg +
  if m = 0 then 0 else
  let l := (Nat.log2 m : Int) + e
  let q := max l F.emin - F.fb
  let sig := if q ≤ e then m * pow2N (e - q) else m / pow2N (q - e)
  if l < F.emin then sig else (l + F.bias).toNat * 2 ^ F.fb + (sig - 2 ^ F.fb)

/-- A NaN result taken from an operand: its code with the quiet bit set, or the default NaN (R45). -/
def FFmt.quiet (F : FFmt) (dnan : Bool) (c : Nat) : Nat :=
  if dnan then F.defaultNan
  else match F.sp with
    | .ieee => if c / F.quietBit % 2 = 0 then c + F.quietBit else c
    | _ => c

/-! ### IEEE flags (R58) -/

/-- The bits of FPFLAGS. -/
structure Flags where
  nv : Bool := false
  dz : Bool := false
  of : Bool := false
  uf : Bool := false
  nx : Bool := false
  deriving DecidableEq, Repr

namespace Flags
def none : Flags := {}
def or (a b : Flags) : Flags := ⟨a.nv || b.nv, a.dz || b.dz, a.of || b.of, a.uf || b.uf, a.nx || b.nx⟩
/-- As FPFLAGS [4:0]. -/
def bits (f : Flags) : BitVec 5 :=
  (if f.nv then 1 else 0) ||| (if f.dz then 2 else 0) ||| (if f.of then 4 else 0) ||| (if f.uf then 8 else 0) |||
    (if f.nx then 16 else 0)
def invalid : Flags := { nv := true }
def divZero : Flags := { dz := true }
def overflow : Flags := { of := true, nx := true }
def nvIf (b : Bool) : Flags := { nv := b }
end Flags

/-- A rounded element before its code is chosen: sign, magnitude, and whether it overflows, is tiny, is inexact. -/
structure Rounded where
  neg : Bool
  m : Nat
  q : Int
  ovf : Bool
  tiny : Bool
  inexact : Bool
  deriving DecidableEq, Repr

/-- Rounds x (not zero) with sign neg to P bits of format F; exact is the value inexactness is judged against (R56, R76). -/
def FFmt.roundAt (F : FFmt) (r : Rnd) (P : Nat) (neg : Bool) (x exact : Frac) : Rounded :=
  let (m, q) := roundMag r neg x P F.emin
  let v : Dy := ⟨m, q⟩
  { neg := neg, m := m, q := q, ovf := Dy.lt (F.decode F.maxCode).dy v, tiny := tinyAt r neg x P F.emin,
    inexact := !(Frac.eq v.frac exact.abs) }

/-- R56: whether an overflow under this rounding delivers an infinity. -/
def Rnd.ovfInf (r : Rnd) (neg : Bool) : Bool :=
  match r with
  | .rn | .sr _ _ => true
  | .rz => false
  | .ru => !neg
  | .rd => neg

/-- The flags of a rounded element (R56). -/
def Rounded.flags (r : Rounded) : Flags :=
  if r.ovf then Flags.overflow else { uf := r.tiny && r.inexact, nx := r.inexact }

/-- The code that a rounded element delivers in a format with infinities (R56). -/
def FFmt.deliver (F : FFmt) (md : Rnd) (r : Rounded) : Nat :=
  if r.ovf then F.signOf r.neg + (if md.ovfInf r.neg then F.infCode else F.maxCode) else F.encode r.neg r.m r.q

/-- The modes of R57 as roundings. -/
def rndOf : RMode → Rnd
  | .rn => .rn
  | .rz => .rz
  | .ru => .ru
  | .rd => .rd

/-- FPCTL.RDEF as a mode (R57). -/
def rmodeOf (c : BitVec 2) : RMode := if c = 0 then .rn else if c = 1 then .rz else if c = 2 then .ru else .rd

/-- The element format of an FP type. -/
def fmtOf : FTy → FFmt
  | .f32 => FFmt.f32
  | .f64 => FFmt.f64
  | .f16x2 => FFmt.f16
  | .bf16x2 => FFmt.bf16

/-! ### RIME16 (R53, R74) -/

/-- An exact bound: none is unbounded. -/
abbrev Bd := Option Dy

/-- Dec (R74; DEDUCED, log 48). -/
def dec (c : Bound) : Bd :=
  let n := c.toNat
  let e := n / 128
  let f := n % 128
  if 255 ≤ e then none else if e = 0 then some ⟨f, -133⟩ else some ⟨128 + f, (e : Int) - 134⟩

/-- The canonical form in which the device holds a code that software supplies (R53). -/
def canonBound (c : Bound) : Bound := if 255 ≤ c.toNat / 128 then 0x8000 else c

/-- Enc of a number x >= 0 (R74): up to 8 bits, smallest exponent -126 (DEDUCED, log 48). -/
def encFrac (x : Frac) : Bound :=
  if x.n = 0 then 0 else
  let (m, q) := roundMag .ru false x 8 (-126)
  let l := (Nat.log2 m : Int) + q
  if 127 < l then 0x8000
  else if l < -126 then BitVec.ofNat 16 m
  else BitVec.ofNat 16 ((l + 127).toNat * 128 + (m / pow2N (l - 7 - q) * pow2N (q - l + 7) - 128))

/-- Enc (R74; DEDUCED, log 48). -/
def enc : Bd → Bound
  | none => 0x8000
  | some x => encFrac x.frac

/-- Sum of exact bounds. -/
def bdAdd : Bd → Bd → Bd
  | some a, some b => some (a.add b)
  | _, _ => none
/-- A bound times a number. -/
def bdMul : Bd → Bd → Bd
  | some a, some b => some (a.mul b)
  | _, _ => none
/-- Sum of a list of exact bounds. -/
def bdSum (l : List Bd) : Bd := l.foldl bdAdd (some Dy.zero)

/-- BoundMax (R74). -/
def boundMax (a b : Bound) : Bound :=
  if a.msb || b.msb then 0x8000 else if a.toNat ≤ b.toNat then b else a

/-- BoundMax of a list, 0x0000 for none. -/
def boundMaxL (l : List Bound) : Bound := l.foldl boundMax 0

/-- Unbounded. -/
def isU (c : Bound) : Bool := c.msb

/-- The integer rule of R78. -/
def intBound (inputs : List Bound) : Bound := if inputs.all (· == 0) then 0 else 0x8000

/-- QuarterBound (R86). -/
def quarterBound (tag : Word) (q : Nat) : Bound :=
  match (tag >>> 62).toNat with
  | 0 => 0
  | 1 => (tag &&& 0x7FFF).setWidth 16
  | 2 => ((tag >>> (45 - 15 * q)) &&& 0x7FFF).setWidth 16
  | _ => 0x8000

/-- The tag of four quarter bounds (R87). -/
def tagOf (a b c d : Bound) : Word :=
  if a.msb || b.msb || c.msb || d.msb then 0xC000000000000000
  else if a == 0 && b == 0 && c == 0 && d == 0 then 0
  else if a == b && b == c && c == d then 0x4000000000000000 ||| a.setWidth 64
  else 0x8000000000000000 ||| (a.setWidth 64 <<< 45) ||| (b.setWidth 64 <<< 30) ||| (c.setWidth 64 <<< 15) |||
    d.setWidth 64

end Sys2Proof.Machine
end

