-- ==== Sys2Proof/Machine/Legal.lean ====
section
/-! DEFINITION. The static operand rules: what the fields of a word must satisfy whatever the floe holds (spec 04 R96 to
R105, and the operand rules of the instruction chapters). Decoding refuses what breaks them with ILLEGAL_OPERAND. -/

namespace Sys2Proof

/-- 64-bit integer types (R132, R141). -/
def ITy.wide : ITy → Bool
  | .s64 | .n64 => true
  | .s32 | .n32 => false

/-- Signed integer types (R52). -/
def ITy.signed : ITy → Bool
  | .s32 | .s64 => true
  | .n32 | .n64 => false

/-- The width W of R132. -/
def ITy.bits (t : ITy) : Nat := if t.wide then 64 else 32

/-- A 64-bit FP type occupies a register pair (R34, R147). -/
def FTy.wide : FTy → Bool
  | .f64 => true
  | .f32 | .f16x2 | .bf16x2 => false

/-- 64-bit reduction types (R162, R34). -/
def RTy.wide : RTy → Bool
  | .s64 | .n64 | .f64 => true
  | _ => false

/-- Floating reduction types (R165). -/
def RTy.float : RTy → Bool
  | .f32 | .f64 | .f16x2 | .bf16x2 => true
  | _ => false

/-- 64-bit formats of R105 occupy pairs (R156). -/
def Fmt.wide : Fmt → Bool
  | .f64 | .s64 | .n64 => true
  | _ => false

/-- Integer formats (R52, R105). -/
def Fmt.isInt : Fmt → Bool
  | .s4 | .s8 | .s16 | .s32 | .s64 | .n4 | .n8 | .n16 | .n32 | .n64 => true
  | _ => false

/-- 64-bit atomic types (R183). -/
def ATy.wide : ATy → Bool
  | .s64 | .n64 | .f64 => true
  | _ => false

/-- Floating atomic types (R183). -/
def ATy.float : ATy → Bool
  | .f32 | .f64 => true
  | _ => false

/-- A V operand of a 64-bit type must be even (R34). -/
def even (wide : Bool) (r : VReg) : Bool := !wide || r.toNat % 2 == 0

/-- A V* operand of a 64-bit type must be even when it is a vector register (R34, R97). -/
def VS.even (wide : Bool) : VS → Bool
  | .v r => Sys2Proof.even wide r
  | .s _ => true

/-- A G-class register is a multiple of 4 (R96). -/
def group (r : VReg) : Bool := r.toNat % 4 == 0

/-- Condition codes that SCMP and VCMP accept (R134, R142). -/
def ICond.basic : ICond → Bool
  | .ltu | .leu | .gtu | .geu => false
  | _ => true

/-- AUTO or FULL: the tier field of an instruction that is not tiered (R75). -/
def Tier.untiered : Tier → Bool
  | .auto | .full => true
  | .half | .quart => false

/-- The tier table of R75: which explicit tiers a type accepts. -/
def tierOk : FTy → Tier → Bool
  | _, .auto | _, .full => true
  | .f64, .half | .f64, .quart | .bf16x2, .quart => false
  | _, .half | _, .quart => true

/-- The CV layout's rules (R57, R98, R156): no rounding field beside SR, no .sr to FP64, no .sr between integers. -/
def cvtOk (m : CvMod) (dst src : Fmt) : Bool :=
  !m.sr || (m.rm == .rn && dst != .f64 && !(dst.isInt && src.isInt))

/-- Container width of CVTPK (R157). -/
def Fmt.container : Fmt → Nat
  | .f64 | .s64 | .n64 => 64
  | .f32 | .s32 | .n32 => 32
  | .f16 | .bf16 | .s16 | .n16 => 16
  | .e4m3 | .e5m2 | .e2m3 | .e3m2 | .e8m0 | .s8 | .n8 => 8
  | .e2m1 | .s4 | .n4 => 4

/-- Elements per CVTPK group, registers read and registers written (R157). -/
def cvtpkN (dst src : Fmt) : Nat := 32 / min src.container dst.container
def cvtpkNs (dst src : Fmt) : Nat := cvtpkN dst src * src.container / 32
def cvtpkNd (dst src : Fmt) : Nat := cvtpkN dst src * dst.container / 32

/-- CVTPK's group rules (R157). -/
def cvtpkOk (dst src : Fmt) (d : VReg) (a : VS) : Bool :=
  !dst.wide && !src.wide && d.toNat % cvtpkNd dst src == 0 &&
    match a with
    | .v r => r.toNat % cvtpkNs dst src == 0
    | .s _ => cvtpkNs dst src == 1

/-- The type and operation rules of reductions (R162). -/
def redOk (ty : RTy) (op : ROp) (q : Bool) : Bool :=
  if ty.float then (op == .add || op == .min || op == .max) else !q

/-- ACCFILL shapes (R211): no NCODE 3, no 32 x 64. -/
def accShapeOk (mcode : Bool) (ncode : BitVec 2) : Bool := ncode != 3 && !(mcode && ncode == 2)

/-- The data register of an access: even for 64 bits, a group for 128 (R104). -/
def szReg (sz : Sz) (d : VReg) : Bool :=
  match sz with
  | .b64 => even true d
  | .b128 => group d
  | _ => true

/-- The register rule of cas (R104, R183). -/
def casReg (ty : ATy) (d : VReg) : Bool := if ty.wide then group d else even true d

/-- Scratchpad accesses carry level 0 and scope 0 (R103). -/
def MemOp.padOnly (m : MemOp) : Bool := m.level == .near && m.scope == .core

/-- VB = 1023 names no offset register (R102). -/
def MemOp.vbNone (m : MemOp) : Bool := m.vb == 1023

/-- The system register index of R42. -/
def sysListed (x : BitVec 10) : Bool :=
  let n := x.toNat
  n ≤ 0x009 || (0x010 ≤ n && n ≤ 0x011) || (0x020 ≤ n && n ≤ 0x024) || (0x030 ≤ n && n ≤ 0x032) || n == 0x040 ||
    (0x080 ≤ n && n ≤ 0x08F) || (0x090 ≤ n && n ≤ 0x097) || (0x098 ≤ n && n ≤ 0x09B) || n == 0x0C0 ||
    (0x100 ≤ n && n ≤ 0x107)

/-- The file a slot's registers belong to (R99, R100): 0 vector, 1 uniform, 2 predicate. -/
def Slot.file : Slot → Nat
  | .sadd .. | .ssub .. | .sand .. | .sor .. | .sxor .. | .smov .. | .sshl .. | .sshr .. => 1
  | .pand .. | .por .. | .pmov .. => 2
  | _ => 0

/-- Destination and source register numbers of a slot. -/
def Slot.regs : Slot → Nat × Nat
  | .vadd _ d a | .vsub _ d a | .vmul _ d a | .vand _ d a | .vor _ d a | .vxor _ d a | .vmin _ d a | .vmax _ d a
  | .vmov _ d a | .vshl _ d a | .vshr _ d a => (d.toNat, a.toNat)
  | .fadd _ _ d a | .fsub _ _ d a | .fmul _ _ d a | .fmin _ _ d a | .fmax _ _ d a => (d.toNat, a.toNat)
  | .sadd d a | .ssub d a | .sand d a | .sor d a | .sxor d a | .smov d a | .sshl d a | .sshr d a => (d.toNat, a.toNat)
  | .pand d a | .por d a | .pmov d a => (d.toNat, a.toNat)

/-- Whether the slot's type is 64-bit, so that its registers are pairs (R99). -/
def Slot.wide : Slot → Bool
  | .vadd t _ _ | .vsub t _ _ | .vmul t _ _ | .vand t _ _ | .vor t _ _ | .vxor t _ _ | .vmin t _ _ | .vmax t _ _
  | .vmov t _ _ | .vshl t _ _ | .vshr t _ _ => t.wide
  | .fadd t _ _ _ | .fsub t _ _ _ | .fmul t _ _ _ | .fmin t _ _ _ | .fmax t _ _ _ => t.wide
  | _ => false

/-- A 64-bit slot requires even registers (R99). -/
def Slot.legal (x : Slot) : Bool := !x.wide || (x.regs.1 % 2 == 0 && x.regs.2 % 2 == 0)

/-- R100: both slots name registers of one file whose D or A fields are equal modulo 4. -/
def pairBank (f0 d0 a0 f1 d1 a1 : Nat) : Bool := f0 == f1 && (d0 % 4 == d1 % 4 || a0 % 4 == a1 % 4)

/-- A pair of slots that raises neither PAIR_BANK nor ILLEGAL_OPERAND. -/
def Slot.pairOk (x y : Slot) : Bool :=
  x.legal && y.legal && !pairBank x.file x.regs.1 x.regs.2 y.file y.regs.1 y.regs.2

/-- The static operand rules of R96 to R105 and of each instruction's description, as one Bool per instruction: what a
word must meet beyond naming a listed opcode. For an event: its indexes name objects that exist (DEDUCED, log 43). -/
def Instr.legal : Instr → Bool
  | .bra h _ _ => h.s
  | .brc h _ _ _ => h.s
  | .call h _ d _ => h.s && even true d
  | .brx h _ a => h.s && even true a
  | .ret h _ a => h.s && even true a
  | .exit h => h.s
  | .nop _ => true
  | .reconv h => h.s
  | .prio _ _ => true
  | .yield h => h.s
  | .sleep _ _ => true
  | .sadd _ _ _ _ _ => true
  | .ssub _ _ _ _ _ => true
  | .smul _ _ _ _ _ => true
  | .smulh _ m _ _ _ => !m.sat
  | .smad _ _ _ _ _ _ => true
  | .sand _ m _ _ _ => !m.sat
  | .sor _ m _ _ _ => !m.sat
  | .sxor _ m _ _ _ => !m.sat
  | .snot _ m _ _ => !m.sat
  | .sshl _ _ _ _ _ => true
  | .sshr _ m _ _ _ => !m.sat
  | .ssar _ m _ _ _ => !m.sat
  | .smin _ m _ _ _ => !m.sat
  | .smax _ m _ _ _ => !m.sat
  | .scmp _ _ cond _ _ _ => cond.basic
  | .ssel _ m _ _ _ _ => !m.sat
  | .smov _ m _ _ => !m.sat
  | .sclz _ m _ _ => !m.sat
  | .spopc _ m _ _ => !m.sat
  | .sbfe _ m _ _ _ => !m.sat
  | .smovi _ _ _ => true
  | .smovih _ _ _ => true
  | .saddi _ _ _ => true
  | .sandi _ _ _ => true
  | .sori _ _ _ => true
  | .sxori _ _ _ => true
  | .sshli _ _ imm => decide (imm.toNat < 64)
  | .sshri _ _ imm => decide (imm.toNat < 64)
  | .ssari _ _ imm => decide (imm.toNat < 64)
  | .smuli _ _ _ => true
  | .scmpi _ _ _ _ _ => true
  | .saddSlot _ d a other => (Slot.sadd d a).pairOk other
  | .ssubSlot _ d a other => (Slot.ssub d a).pairOk other
  | .sandSlot _ d a other => (Slot.sand d a).pairOk other
  | .sorSlot _ d a other => (Slot.sor d a).pairOk other
  | .sxorSlot _ d a other => (Slot.sxor d a).pairOk other
  | .smovSlot _ d a other => (Slot.smov d a).pairOk other
  | .sshlSlot _ d a other => (Slot.sshl d a).pairOk other
  | .sshrSlot _ d a other => (Slot.sshr d a).pairOk other
  | .pand _ _ _ _ => true
  | .por _ _ _ _ => true
  | .pxor _ _ _ _ => true
  | .pandn _ _ _ _ => true
  | .pnot _ _ _ => true
  | .pmov _ _ _ => true
  | .pset _ _ _ => true
  | .pget _ _ _ => true
  | .ppopc _ _ _ => true
  | .pfirst _ _ _ => true
  | .pandSlot _ d a other => (Slot.pand d a).pairOk other
  | .porSlot _ d a other => (Slot.por d a).pairOk other
  | .pmovSlot _ d a other => (Slot.pmov d a).pairOk other
  | .vadd _ m d a b => even m.ty.wide d && a.even m.ty.wide && b.even m.ty.wide
  | .vsub _ m d a b => even m.ty.wide d && a.even m.ty.wide && b.even m.ty.wide
  | .vmul _ m d a b => even m.ty.wide d && a.even m.ty.wide && b.even m.ty.wide
  | .vmulh _ m d a b => even m.ty.wide d && a.even m.ty.wide && b.even m.ty.wide && !m.sat
  | .vmad _ m d a b c => even m.ty.wide d && even m.ty.wide a && even m.ty.wide b && even m.ty.wide c
  | .vabs _ m d a => even m.ty.wide d && a.even m.ty.wide && m.ty.signed
  | .vneg _ m d a => even m.ty.wide d && a.even m.ty.wide
  | .vmin _ m d a b => even m.ty.wide d && a.even m.ty.wide && b.even m.ty.wide && !m.sat
  | .vmax _ m d a b => even m.ty.wide d && a.even m.ty.wide && b.even m.ty.wide && !m.sat
  | .vand _ m d a b => even m.ty.wide d && a.even m.ty.wide && b.even m.ty.wide && !m.sat
  | .vor _ m d a b => even m.ty.wide d && a.even m.ty.wide && b.even m.ty.wide && !m.sat
  | .vxor _ m d a b => even m.ty.wide d && a.even m.ty.wide && b.even m.ty.wide && !m.sat
  | .vnot _ m d a => even m.ty.wide d && a.even m.ty.wide && !m.sat
  | .vshl _ m d a b => even m.ty.wide d && a.even m.ty.wide && b.even m.ty.wide
  | .vshr _ m d a b => even m.ty.wide d && a.even m.ty.wide && b.even m.ty.wide && !m.sat
  | .vsar _ m d a b => even m.ty.wide d && a.even m.ty.wide && b.even m.ty.wide && !m.sat
  | .vclz _ m d a => even m.ty.wide d && a.even m.ty.wide && !m.sat
  | .vpopc _ m d a => even m.ty.wide d && a.even m.ty.wide && !m.sat
  | .vbfe _ m d a b => even m.ty.wide d && a.even m.ty.wide && b.even m.ty.wide && !m.sat
  | .vbfi _ m d a b c => even m.ty.wide d && even m.ty.wide a && even m.ty.wide b && even m.ty.wide c && !m.sat
  | .vcmp _ ty cond _ a b => a.even ty.wide && b.even ty.wide && cond.basic
  | .vsel _ ty d a b _ => even ty.wide d && even ty.wide a && even ty.wide b
  | .vmov _ m d a => even m.ty.wide d && a.even m.ty.wide && !m.sat
  | .vmovi _ _ _ => true
  | .vaddi _ _ _ => true
  | .vandi _ _ _ => true
  | .vori _ _ _ => true
  | .vshli _ _ imm => decide (imm.toNat < 32)
  | .vshri _ _ imm => decide (imm.toNat < 32)
  | .fmovi _ _ _ => true
  | .vaddSlot _ ty d a other => (Slot.vadd ty d a).pairOk other
  | .vsubSlot _ ty d a other => (Slot.vsub ty d a).pairOk other
  | .vmulSlot _ ty d a other => (Slot.vmul ty d a).pairOk other
  | .vandSlot _ ty d a other => (Slot.vand ty d a).pairOk other
  | .vorSlot _ ty d a other => (Slot.vor ty d a).pairOk other
  | .vxorSlot _ ty d a other => (Slot.vxor ty d a).pairOk other
  | .vminSlot _ ty d a other => (Slot.vmin ty d a).pairOk other
  | .vmaxSlot _ ty d a other => (Slot.vmax ty d a).pairOk other
  | .vmovSlot _ ty d a other => (Slot.vmov ty d a).pairOk other
  | .vshlSlot _ ty d a other => (Slot.vshl ty d a).pairOk other
  | .vshrSlot _ ty d a other => (Slot.vshr ty d a).pairOk other
  | .fadd _ m d a b => even m.ty.wide d && a.even m.ty.wide && b.even m.ty.wide && tierOk m.ty m.tier
  | .fsub _ m d a b => even m.ty.wide d && a.even m.ty.wide && b.even m.ty.wide && tierOk m.ty m.tier
  | .fmul _ m d a b => even m.ty.wide d && a.even m.ty.wide && b.even m.ty.wide && tierOk m.ty m.tier
  | .ffma _ m _ d a b c => even m.ty.wide d && even m.ty.wide a && even m.ty.wide b && even m.ty.wide c && tierOk m.ty m.tier
  | .fmin _ m d a b => even m.ty.wide d && a.even m.ty.wide && b.even m.ty.wide && m.tier.untiered && m.rm == .rn
  | .fmax _ m d a b => even m.ty.wide d && a.even m.ty.wide && b.even m.ty.wide && m.tier.untiered && m.rm == .rn
  | .fabs _ m d a => even m.ty.wide d && a.even m.ty.wide && m.tier.untiered && m.rm == .rn
  | .fneg _ m d a => even m.ty.wide d && a.even m.ty.wide && m.tier.untiered && m.rm == .rn
  | .fcmp _ ty _ _ _ a b => a.even ty.wide && b.even ty.wide
  | .fclass _ ty _ _ a => a.even ty.wide
  | .fdiv _ m d a b => even m.ty.wide d && a.even m.ty.wide && b.even m.ty.wide && m.tier.untiered
  | .fsqrt _ m d a => even m.ty.wide d && a.even m.ty.wide && m.tier.untiered
  | .frcp _ m d a => even m.ty.wide d && a.even m.ty.wide && m.tier.untiered && m.rm == .rn
  | .frsq _ m d a => even m.ty.wide d && a.even m.ty.wide && m.tier.untiered && m.rm == .rn
  | .fexp2 _ m d a => even m.ty.wide d && a.even m.ty.wide && m.tier.untiered && m.rm == .rn
  | .flog2 _ m d a => even m.ty.wide d && a.even m.ty.wide && m.tier.untiered && m.rm == .rn
  | .fldexp _ m d a b => even m.ty.wide d && a.even m.ty.wide && b.even m.ty.wide && m.tier.untiered
  | .frnd _ m d a => even m.ty.wide d && a.even m.ty.wide && m.tier.untiered
  | .faddSlot _ ty full d a other => (Slot.fadd ty full d a).pairOk other
  | .fsubSlot _ ty full d a other => (Slot.fsub ty full d a).pairOk other
  | .fmulSlot _ ty full d a other => (Slot.fmul ty full d a).pairOk other
  | .fminSlot _ ty full d a other => (Slot.fmin ty full d a).pairOk other
  | .fmaxSlot _ ty full d a other => (Slot.fmax ty full d a).pairOk other
  | .cvt _ m dst src d a => even dst.wide d && a.even src.wide && cvtOk m dst src
  | .cvtpk _ m dst src d a => cvtOk m dst src && cvtpkOk dst src d a
  | .mxscale _ _ _ _ _ => true
  | .mxq _ _ _ _ _ _ _ _ _ _ => true
  | .mxdq _ _ _ _ _ _ _ _ => true
  | .vrfl _ w _ a => even w a
  | .vrln _ w _ a _ => even w a
  | .vwln _ w d _ _ => even w d
  | .vbcst _ w d a _ => even w d && even w a
  | .vshfl _ w _ d a _ => even w d && even w a
  | .vrot _ w _ d a _ => even w d && even w a
  | .vred _ ty op q d a => even ty.wide d && even ty.wide a && redOk ty op q
  | .vscan _ ty op q d a => even ty.wide d && even ty.wide a && redOk ty op q
  | .vvote _ _ _ _ => true
  | .vlane _ _ _ => true
  | .bget _ w _ a => even w a
  | .bset _ w d _ => even w d
  | .bclr _ w d => even w d
  | .bunb _ w d => even w d
  | .bmaxr _ w d a b => even w d && even w a && even w b
  | .bchk _ ty _ _ a => even ty.wide a
  | .bud _ _ => true
  | .budi _ _ => true
  | .ld _ _ sz d => szReg sz d
  | .st _ _ sz d => szReg sz d
  | .ldu _ m sz _ => sz != .b128 && m.vbNone
  | .stu _ m sz _ => sz != .b128 && m.vbNone
  | .lds _ m sz d => szReg sz d && m.padOnly
  | .sts _ m sz d => szReg sz d && m.padOnly
  | .pref _ m => m.order == .rlx
  | .ldsp _ m sz _ => sz != .s8 && sz != .s16 && m.order == .rlx
  | .atomAdd _ m ty _ d => m.level == .near && even ty.wide d
  | .atomSub _ m ty _ d => m.level == .near && even ty.wide d
  | .atomMin _ m ty _ d => m.level == .near && even ty.wide d
  | .atomMax _ m ty _ d => m.level == .near && even ty.wide d
  | .atomAnd _ m ty _ d => m.level == .near && even ty.wide d && !ty.float
  | .atomOr _ m ty _ d => m.level == .near && even ty.wide d && !ty.float
  | .atomXor _ m ty _ d => m.level == .near && even ty.wide d && !ty.float
  | .atomXchg _ m ty _ d => m.level == .near && even ty.wide d
  | .atomCas _ m ty _ d => m.level == .near && casReg ty d
  | .atomsAdd _ m ty _ d => m.level == .near && m.scope == .core && even ty.wide d
  | .atomsSub _ m ty _ d => m.level == .near && m.scope == .core && even ty.wide d
  | .atomsMin _ m ty _ d => m.level == .near && m.scope == .core && even ty.wide d
  | .atomsMax _ m ty _ d => m.level == .near && m.scope == .core && even ty.wide d
  | .atomsAnd _ m ty _ d => m.level == .near && m.scope == .core && even ty.wide d && !ty.float
  | .atomsOr _ m ty _ d => m.level == .near && m.scope == .core && even ty.wide d && !ty.float
  | .atomsXor _ m ty _ d => m.level == .near && m.scope == .core && even ty.wide d && !ty.float
  | .atomsXchg _ m ty _ d => m.level == .near && m.scope == .core && even ty.wide d
  | .atomsCas _ m ty _ d => m.level == .near && m.scope == .core && casReg ty d
  | .ldv _ m d => m.level == .near && group d
  | .stv _ m d => m.level == .near && group d
  | .recon _ m _ d => m.level == .near && group d
  | .fence _ _ _ => true
  | .cacheDrop _ _ => true
  | .cacheClean _ _ => true
  | .cacheInval _ _ => true
  | .barinit _ _ _ _ _ => true
  | .bararr _ _ _ _ => true
  | .barexp _ _ _ _ => true
  | .barwait h _ _ _ => h.s
  | .bartest _ _ _ _ => true
  | .bardrop _ _ _ _ => true
  | .sbar _ _ _ _ => true
  | .jdecl _ _ _ => true
  | .jsign _ _ _ => true
  | .jwait h _ => h.s
  | .tcfg _ _ _ => true
  | .tzero _ _ => true
  | .tld _ m _ => m.vbNone && m.sa.toNat % 2 == 0
  | .tst _ m _ => m.vbNone && m.sa.toNat % 2 == 0
  | .mma h _ _ _ _ _ _ => h.s
  | .accz _ _ => true
  | .accmov _ _ _ _ => true
  | .accbnd _ _ _ => true
  | .accspill _ _ _ => true
  | .accfill _ mcode ncode _ _ => accShapeOk mcode ncode
  | .accld _ m _ => m.vbNone && m.sa.toNat % 2 == 0
  | .accst _ m _ => m.vbNone && m.sa.toNat % 2 == 0
  | .accstAdd _ m _ => m.vbNone && m.sa.toNat % 2 == 0
  | .keycut _ _ _ _ => true
  | .tldk _ m _ => m.vbNone && m.sa.toNat % 4 == 0 && m.off == 0
  | .keydrop _ _ => true
  | .keyq _ _ _ => true
  | .cpykick _ _ _ _ _ _ => true
  | .cpystat _ _ _ => true
  | .cpycan _ _ => true
  | .rowcpy _ _ _ _ => true
  | .rowfil _ _ _ _ => true
  | .rowand _ _ _ _ _ => true
  | .rowor _ _ _ _ _ => true
  | .rowxor _ _ _ _ _ => true
  | .rownot _ _ _ _ => true
  | .rowmaj _ _ _ _ c => c.toNat % 2 == 0
  | .rowrdx _ _ _ _ => true
  | .rowstat _ _ _ => true
  | .trap h _ => h.s
  | .bkpt h _ => h.s
  | .rft h => h.s
  | .mfsr _ _ x => sysListed x
  | .mtsr _ x _ => sysListed x
  | .mtsri _ x _ => sysListed x
  | .firnrd _ _ => true
  | .lwait h _ => h.s
  | .seed _ _ _ => true
  | .halt _ => true
  | .frsave _ _ => true
  | .frload _ _ => true
  | .issueClock core part => decide (core < 320) && decide (part < 4)
  | .runBoundary _ => true
  | .loadResponse _ _ => true
  | .mmaFire _ _ => true
  | .mmaComplete _ _ => true
  | .sleepDeadline _ => true
  | .lwaitDeadline _ => true
  | .firnSyncBeat die _ => decide (die < 8)
  | .firnSkew die => decide (die < 8)
  | .podFirnSample _ _ => true
  | .l1LeaseExpiry core _ => decide (core < 320)
  | .leaseHorizonReached die _ => decide (die < 8)
  | .directoryRecall _ => true
  | .pageWalk core queue _ => decide (core < 320) && decide (queue < 4)
  | .translationLeaseExpiry core _ _ => decide (core < 320)
  | .walkAheadRenewal core queue => decide (core < 320) && decide (queue < 4)
  | .faultQueueEntryWrite => true
  | .fqrespRetry _ => true
  | .fqrespDeny _ => true
  | .cpykickQueueEvent core queue => decide (core < 320) && decide (queue < 4)
  | .latchRequestStart core queue => decide (core < 320) && decide (queue < 4)
  | .latchPieceIssue core => decide (core < 320)
  | .latchPieceLand core _ => decide (core < 320)
  | .ldspCopyLand _ => true
  | .accstAddApply _ => true
  | .seracFork _ => true
  | .seracRowStep _ => true
  | .seracJoin _ => true
  | .packSaveComplete _ => true
  | .packPlacement die => decide (die < 8)
  | .packRestorePlacement die => decide (die < 8)
  | .preempt _ => true
  | .sliceExpiry die _ => decide (die < 8)
  | .nodeRelease _ node => decide (node < 4096)
  | .nodeComplete _ node => decide (node < 4096)
  | .watchdogIssueReport _ => true
  | .watchdogStallReport _ => true
  | .carveOutInterval core => decide (core < 320)
  | .bankGate core bank => decide (core < 320) && decide (bank < 16)
  | .bankReady core bank => decide (core < 320) && decide (bank < 16)
  | .powerStateEntry die => decide (die < 8)
  | .dieWake die => decide (die < 8)
  | .boostInterval die _ => decide (die < 8)
  | .permitRefill die => decide (die < 8)
  | .moduleReset => true
  | .bootctlWrite _ _ _ => true
  | .bootFull => true
  | .eyeMarginLow stack lane _ => decide (stack < 16) && decide (lane < 2048)
  | .periodicRetrain stack => decide (stack < 16)
  | .channelWidthChange stack chan _ _ => decide (stack < 16) && decide (chan < 32)
  | .hingeLinkFail die => decide (die < 8)
  | .hostCxlMemWrite _ _ => true
  | .hostCxlMemRead _ _ => true
  | .hostSnoop _ _ => true
  | .poolBackInvalidate _ => true
  | .peerAccess _ _ _ => true
  | .podBarrierArrival index => decide (index < 32)
  | .podBarrierCompletion index _ => decide (index < 32)
  | .trigger _ => true
  | .ctxctlPreempt _ => true
  | .ctxctlEnd _ => true
  | .contextEndRelease _ => true
  | .eyeactRetrain stack chan => decide (stack < 16) && decide (chan < 32)
  | .eyeactRepair stack chan lane => decide (stack < 16) && decide (chan < 32) && decide (lane < 64)
  | .eyeactHalfWidth stack chan => decide (stack < 16) && decide (chan < 32)
  | .eyeactFullWidth stack chan _ => decide (stack < 16) && decide (chan < 32)
  | .mpolicyWrite _ => true
  | .cxlwinWrite window _ => decide (window < 8)
  | .hbmmapWrite _ => true
  | .mmioRegisterWrite offset size _ => (size == 4 || size == 8) && offset % size == 0
  | .storePerformed _ _ => true
  | .cxlPortTraining port _ => decide (port < 4)
  | .hbmRefresh stack _ => decide (stack < 16)

end Sys2Proof
end

