-- ==== Sys2Proof/Machine/Fp.lean ====
section
/-! DEFINITION. Element results of the floating-point instructions with their flags and Rime bounds: the tiered
operations (R75 to R77), the other operations of R149 to R154 with the bounds of R78, the limit and breach test (R80,
R83) and the choice of tier (R81). -/

namespace Sys2Proof.Machine
open Sys2Proof

/-- What an FP instruction takes from the floe's registers (R57, R80): DNAN, RDEF, budget, mode, guard; and whether AUTO
may predict, which reduced service forbids (R82). -/
structure FpEnv where
  dnan : Bool
  rdef : RMode
  bud : Bound
  chk : BitVec 2
  trap : Bool
  auto : Bool
  g : BitVec 4
  mayPredict : Bool
  deriving DecidableEq, Repr

/-- One element of a result: code, flags, bound, and |z| with the Emin that a relative limit uses (none: infinite). -/
structure El where
  code : Nat
  fl : Flags
  bnd : Bound
  z : Option Dy
  emin : Int
  deriving DecidableEq, Repr

/-- An element that is NaN or infinite: unbounded (R78). -/
def El.special (F : FFmt) (code : Nat) (fl : Flags) : El := ⟨code, fl, 0x8000, none, F.emin⟩

/-- An element that holds a finite value: the bound formula b, or U where b is none. -/
def El.num (F : FFmt) (code : Nat) (fl : Flags) (b : Bound) : El := ⟨code, fl, b, some (F.decode code).dy.abs, F.emin⟩

/-- An element of a given code whose finite results carry bound b. -/
def El.ofCode (F : FFmt) (code : Nat) (fl : Flags) (b : Bound) : El :=
  if (F.decode code).isFin then El.num F code fl b else El.special F code fl

/-- The NaN result of R45: the first NaN operand, quieted. -/
def firstNan (F : FFmt) (dnan : Bool) : List Nat → Option Nat
  | [] => none
  | c :: t => if (F.decode c).isNan then some (F.quiet dnan c) else firstNan F dnan t

/-- R45: NV for a signalling operand. -/
def snanFlags (F : FFmt) (ops : List Nat) : Flags := Flags.nvIf (ops.any fun c => (F.decode c).isSnan)

/-- The sign of a sum whose exact result is zero (R47): terms with their signs (DEDUCED, log 14). -/
def zeroSign (rd : Bool) (terms : List (Bool × Dy)) : Bool :=
  if terms.all (fun t => t.2.m = 0) && (terms.all (fun t => t.1) || terms.all (fun t => !t.1))
  then terms.all (fun t => t.1)
  else rd

/-! ### Tiered operations (R75 to R77) -/

/-- The tiered operations; fma carries the negate-C bit. -/
inductive TOp where
  | add | sub | mul
  | fma (nc : Bool)
  deriving DecidableEq, Repr

/-- Precision of a type at a tier (R75); AUTO is resolved before. -/
def tierP : FTy → Tier → Nat
  | .f32, .half => 12
  | .f32, .quart => 6
  | .f32, _ => 24
  | .f16x2, .half => 6
  | .f16x2, .quart => 3
  | .f16x2, _ => 11
  | .bf16x2, .half => 4
  | .bf16x2, _ => 8
  | .f64, _ => 53

/-- T of R77. -/
def truncCharge (x y : Dy) (P : Nat) (emin : Int) : Dy := ((x.mul y).sub ((truncP x P emin).mul (truncP y P emin))).abs

/-- rho of R77. -/
def roundCharge (md : RMode) (z : Dy) (P : Nat) (emin : Int) : Dy :=
  let u := if z.m = 0 then emin - P + 1 else ulpExp z.frac P emin
  Dy.pow2 (if md == .rn then u - 1 else u)

/-- The signed terms whose sum TierResult rounds, and the exact ones (R76): sign, truncated value, exact value
(DEDUCED, log 14). -/
def tierTerms (op : TOp) (a b c : FVal) (P : Nat) (emin : Int) : List (Bool × Dy × Dy) :=
  let prod : Bool × Dy × Dy :=
    (a.neg != b.neg, (truncP a.dy P emin).mul (truncP b.dy P emin), a.dy.mul b.dy)
  match op with
  | .add => [(a.neg, a.dy, a.dy), (b.neg, b.dy, b.dy)]
  | .sub => [(a.neg, a.dy, a.dy), (!b.neg, b.dy.neg, b.dy.neg)]
  | .mul => [prod]
  | .fma nc => [prod, (if nc then !c.neg else c.neg, if nc then c.dy.neg else c.dy, if nc then c.dy.neg else c.dy)]

/-- The exact bound terms of R77 before rho. -/
def tierBound (op : TOp) (a b : Dy) (ea eb ec : Bound) (P : Nat) (emin : Int) : Bd :=
  let cross := bdSum [bdMul (some a.abs) (dec eb), bdMul (some b.abs) (dec ea), bdMul (dec ea) (dec eb),
    some (truncCharge a b P emin)]
  match op with
  | .add | .sub => bdAdd (dec ea) (dec eb)
  | .mul => cross
  | .fma _ => bdAdd cross (dec ec)

/-- The operands that an operation reads. -/
def TOp.ops (op : TOp) (a b c : Nat) : List Nat :=
  match op with
  | .fma _ => [a, b, c]
  | _ => [a, b]

/-- The result of an infinite term or an invalid operation, when there is one: code and flags (R45, R148, IEEE 754). -/
def tierInf (F : FFmt) (op : TOp) (a b c : FVal) : Option (Nat × Flags) :=
  let dflt := some (F.defaultNan, Flags.invalid)
  let inf (n : Bool) : Option (Nat × Flags) := some (F.signOf n + F.infCode, Flags.none)
  let two (i1 n1 i2 n2 : Bool) : Option (Nat × Flags) :=
    if i1 && i2 && n1 != n2 then dflt else if i1 then inf n1 else if i2 then inf n2 else none
  let isMul := match op with | .mul | .fma _ => true | _ => false
  if isMul && ((a.isInf && b.isZero) || (b.isInf && a.isZero)) then dflt else
  match op with
  | .add => two a.isInf a.neg b.isInf b.neg
  | .sub => two a.isInf a.neg b.isInf (!b.neg)
  | .mul => if a.isInf || b.isInf then inf (a.neg != b.neg) else none
  | .fma nc => two (a.isInf || b.isInf) (a.neg != b.neg) c.isInf (if nc then !c.neg else c.neg)

/-- TierResult with its flags and bound (R76, R77, R148; DEDUCED, log 14). -/
def tiered (F : FFmt) (op : TOp) (P : Nat) (md : RMode) (dnan : Bool) (ca cb cc : Nat) (ea eb ec : Bound) : El :=
  let a := F.decode ca
  let b := F.decode cb
  let c := F.decode cc
  let invalidProd := match op with
    | .mul | .fma _ => (a.isInf && b.isZero) || (b.isInf && a.isZero)
    | _ => false
  match firstNan F dnan (op.ops ca cb cc) with
  | some n => El.special F n ((snanFlags F (op.ops ca cb cc)).or (Flags.nvIf invalidProd))
  | none =>
    match tierInf F op a b c with
    | some (code, fl) => El.special F code fl
    | none =>
      let ts := tierTerms op a b c P F.emin
      let x := Dy.sum (ts.map (·.2.1))
      let exact := Dy.sum (ts.map (·.2.2))
      let core := tierBound op a.dy b.dy ea eb ec P F.emin
      if x.m = 0 then
        let neg := match ts with
          | [t] => t.1
          | _ => zeroSign (md == .rd) (ts.map fun t => (t.1, t.2.1))
        let inexact := exact.m != 0
        El.num F (F.encode neg 0 0) { uf := inexact, nx := inexact } (enc (bdAdd core (some (roundCharge md Dy.zero P F.emin))))
      else
        let r := F.roundAt (rndOf md) P (decide (x.m < 0)) x.abs.frac exact.abs.frac
        let same := Dy.eq ⟨if r.neg then -(r.m : Int) else r.m, r.q⟩ exact
        let fl := if r.ovf then Flags.overflow else { uf := r.tiny && !same, nx := !same }
        let code := F.deliver (rndOf md) r
        if r.ovf then { El.ofCode F code fl 0x8000 with bnd := 0x8000 }
        else El.num F code fl (enc (bdAdd core (some (roundCharge md ⟨r.m, r.q⟩ P F.emin))))

/-! ### Limit, breach, prediction (R80 to R83) -/

/-- The limit for a result of magnitude z (none: infinite) with that Emin; none: there is no limit (R80;
DEDUCED, log 13). -/
def FpEnv.limit (v : FpEnv) (z : Option Dy) (emin : Int) : Option Dy :=
  match dec v.bud with
  | none => none
  | some b =>
    if v.chk == 2 then
      match z with
      | some z => some (b.mul (z.max (Dy.pow2 emin)))
      | none => if b.m = 0 then some b else none
    else some b

/-- Whether a bound exceeds the limit for a result of magnitude z (none: infinite), when there is a limit: an unbounded bound
exceeds every limit, a finite one no infinite limit (R80, R83; DEDUCED, log 13). -/
def FpEnv.exceeds (v : FpEnv) (b : Bound) (z : Option Dy) (emin : Int) : Bool :=
  (dec v.bud).isSome && match dec b with
    | none => true
    | some x => match v.limit z emin with
      | none => false
      | some l => Dy.lt l x

/-- R83: whether an element whose lane carries bound b breaches. -/
def FpEnv.breach (v : FpEnv) (b : Bound) (e : El) : Bool := v.chk != 0 && v.exceeds b e.z e.emin

/-- An element as a checked value of its own: |z| is infinite for an infinity and taken as 0 for a NaN (R80; DEDUCED, log 13). -/
def El.checked (F : FFmt) (code : Nat) (fl : Flags) (b : Bound) : El :=
  ⟨code, fl, b, (match F.decode code with
    | .inf _ => none
    | x => some x.dy.abs), F.emin⟩

/-- Predict (R81): the prediction as a RIME16 code; an operand that is NaN or infinite leaves it unbounded (DEDUCED, log 13). -/
def predict (F : FFmt) (op : TOp) (P : Nat) (md : RMode) (ca cb cc : Nat) (ea eb ec : Bound) : Bound :=
  let a := F.decode ca
  let b := F.decode cb
  let c := F.decode cc
  if (op.ops ca cb cc).any (fun x => !(F.decode x).isFin) then 0x8000 else
  let lo := Dy.pow2 F.emin
  let x := a.dy.abs
  let y := b.dy.abs
  let m := match op with
    | .add | .sub => x.add y
    | .mul => (x.max lo).mul (y.max lo)
    | .fma _ => ((x.max lo).mul (y.max lo)).add c.dy.abs
  let u := if m.m = 0 then F.emin - P + 1 else ulpExp m.frac P F.emin
  enc (bdAdd (tierBound op a.dy b.dy ea eb ec P F.emin) (some (Dy.pow2 (if md == .rn then u else u + 1))))

/-- Passes (R81) for one element (DEDUCED, log 13). -/
def FpEnv.passes (v : FpEnv) (pred : Bound) (zFull : Option Dy) (emin : Int) : Bool :=
  match v.limit zFull emin with
  | none => match dec pred with
    | none => (dec v.bud).isNone
    | some _ => true
  | some l => match dec pred with
    | none => false
    | some p => Dy.le p (l.scale (-(v.g.toNat : Int)))

/-- Operands of one element of a lane: codes and bounds. -/
structure Ops3 where
  a : Nat
  b : Nat
  c : Nat
  ea : Bound
  eb : Bound
  ec : Bound
  deriving DecidableEq, Repr

/-- Whether every element passes at tier t. -/
def FpEnv.tierPasses (v : FpEnv) (ty : FTy) (op : TOp) (md : RMode) (t : Tier) (els : List Ops3) : Bool :=
  els.all fun o =>
    let F := fmtOf ty
    let full := tiered F op F.P md v.dnan o.a o.b o.c o.ea o.eb o.ec
    v.passes (predict F op (tierP ty t) md o.a o.b o.c o.ea o.eb o.ec) (if v.chk == 2 then full.z else some Dy.zero) F.emin

/-- Whether R81 predicts for this type. -/
def FpEnv.predicts (v : FpEnv) (ty : FTy) : Bool := v.auto && v.mayPredict && v.chk != 0 && !ty.wide

/-- The tier that AUTO executes on the active elements (R81, R82), and whether a prediction chose FULL. -/
def FpEnv.autoTier (v : FpEnv) (ty : FTy) (op : TOp) (md : RMode) (els : List Ops3) : Tier × Bool :=
  if v.predicts ty then
    if tierOk ty .quart && v.tierPasses ty op md .quart els then (.quart, false)
    else if v.tierPasses ty op md .half els then (.half, false)
    else (.full, true)
  else (.full, false)

/-! ### Operations that execute at the format's own precision (R149 to R154) -/

/-- FABS and FNEG (R149). -/
def fsign (F : FFmt) (abs : Bool) (c : Nat) (e : Bound) : El :=
  let neg := c / F.signBit % 2 == 1
  let m := c % F.signBit
  El.ofCode F (if abs || neg then m else F.signBit + m) Flags.none e

/-- Numeric order of two values that are not NaN. -/
def FVal.lt (a b : FVal) : Bool :=
  match a, b with
  | .inf n, .inf m => n && !m
  | .inf n, _ => n
  | _, .inf m => !m
  | _, _ => Dy.lt a.dy b.dy
/-- Numeric equality of two values that are not NaN: the zeros are equal. -/
def FVal.eq (a b : FVal) : Bool :=
  match a, b with
  | .inf n, .inf m => n == m
  | .inf _, _ | _, .inf _ => false
  | _, _ => Dy.eq a.dy b.dy
/-- The order of R46, in which -0 is below +0. -/
def FVal.below (a b : FVal) : Bool := a.lt b || (a.isZero && b.isZero && a.neg && !b.neg)

/-- FMIN and FMAX (R46, R149). -/
def fminmax (F : FFmt) (isMax dnan : Bool) (ca cb : Nat) (ea eb : Bound) : El :=
  let a := F.decode ca
  let b := F.decode cb
  let fl := snanFlags F [ca, cb]
  let bd := boundMax ea eb
  if a.isNan && b.isNan then El.special F (F.quiet dnan ca) fl
  else if a.isNan then El.ofCode F cb fl bd
  else if b.isNan then El.ofCode F ca fl bd
  else if isMax then El.ofCode F (if a.below b then cb else ca) fl bd
  else El.ofCode F (if b.below a then cb else ca) fl bd

/-- FDIV (R152, R78). An overflow that delivers the largest finite value keeps the finite bound of its row. The zero that an
infinite divisor gives is unbounded, because R78 has no real value there (DEDUCED, log 15). -/
def fdiv (F : FFmt) (md : RMode) (dnan : Bool) (ca cb : Nat) (ea eb : Bound) : El :=
  let a := F.decode ca
  let b := F.decode cb
  let neg := a.neg != b.neg
  match firstNan F dnan [ca, cb] with
  | some n => El.special F n (snanFlags F [ca, cb])
  | none =>
    if (a.isInf && b.isInf) || (a.isZero && b.isZero) then El.special F F.defaultNan Flags.invalid
    else if a.isInf then El.special F (F.signOf neg + F.infCode) Flags.none
    else if b.isInf then El.num F (F.signOf neg) Flags.none 0x8000
    else if b.isZero then El.special F (F.signOf neg + F.infCode) Flags.divZero
    else
      let x := a.dy.abs.frac
      let y := b.dy.abs.frac
      let q := x.div y
      let bound (z : Frac) : Bound :=
        match dec ea, dec eb with
        | some ex, some ey =>
          let ex := ex.frac
          let ey := ey.frac
          if ey.lt y then encFrac ((((x.mul ey).add (y.mul ex)).div (y.mul (y.sub ey))).add (z.sub q).abs) else 0x8000
        | _, _ => 0x8000
      if a.isZero then El.num F (F.signOf neg) Flags.none (bound (Frac.ofInt 0))
      else
        let r := F.roundAt (rndOf md) F.P neg q q
        let code := F.deliver (rndOf md) r
        El.ofCode F code r.flags (bound (F.decode code).dy.abs.frac)

/-- Precisions tried for irrational values: 128, 256, ... bits (DEDUCED, log 14). -/
def refineFuel : Nat := 12
def refineStart : Nat := 128

/-- FSQRT (R152, R78; DEDUCED, log 14). -/
def fsqrt (F : FFmt) (md : RMode) (dnan : Bool) (c : Nat) (e : Bound) : El :=
  let a := F.decode c
  match firstNan F dnan [c] with
  | some n => El.special F n (snanFlags F [c])
  | none =>
    if a.isZero then El.num F c Flags.none (if e == 0 then 0 else 0x8000)
    else if a.neg then El.special F F.defaultNan Flags.invalid
    else if a.isInf then El.special F c Flags.none
    else
      let x := a.dy.frac
      let (m, q) := refine (fun y => roundMag (rndOf md) false y F.P F.emin) (sqrtIv x) refineFuel refineStart
      let z : Frac := Dy.frac ⟨m, q⟩
      let exact := match sqrtExact x with
        | some s => Frac.eq s z
        | none => false
      let bnd := match dec e with
        | none => 0x8000
        | some ex =>
          let ex := ex.frac
          let r := ex.div x
          if x.lt ex then 0x8000
          else if x.le (z.mul z) then
            if Frac.eq ex x then encFrac z
            else refine encFrac (fun p => (Iv.pt z).sub (Iv.smul ((Frac.ofInt 1).sub r) (sqrtIv x p))) refineFuel refineStart
          else refine encFrac (fun p => (Iv.smul ((Frac.ofInt 1).add r) (sqrtIv x p)).sub (Iv.pt z)) refineFuel refineStart
      El.num F (F.encode false m q) { nx := !exact } bnd

/-! #### The function instructions (R153) -/

/-- Whether i * 2^g is a value of the format. -/
def FFmt.holds (F : FFmt) (i : Nat) (g : Int) : Bool :=
  i = 0 ||
    (let u := ulpExp (Dy.frac ⟨i, g⟩) F.P F.emin
     (u ≤ g || i % pow2N (u - g) = 0) && Dy.le ⟨i, g⟩ (F.decode F.maxCode).dy)

/-- The values of the format within k * Ulp(f) of f > 0 that is not itself one, as multiples of 2^(u - 1), u the exponent
of Ulp(f): R153 admits each of them. -/
def FFmt.near (F : FFmt) (k : Nat) (u : Int) (f : Nat → Iv) : List Int :=
  let g := u - 1
  let n0 : Int := refine (fun y => (y.scale (-g)).n / ((y.scale (-g)).d : Int)) f refineFuel refineStart
  let cand := (List.range (4 * k + 1)).map fun (j : Nat) => n0 - 2 * (k : Int) + (j : Int)
  cand.filter fun i => F.holds i.natAbs g &&
    refine (fun y => Frac.le ((Dy.frac ⟨i, g⟩).sub y).abs (Dy.frac ⟨k, u⟩)) f refineFuel refineStart

/-- A result of R153 at f (sign neg, magnitude bracketed by f, exact: f when it is rational): code, flags, and the
delivered magnitude with its sign relative to f, none on overflow (DEDUCED, log 14). -/
def FFmt.approx (F : FFmt) (fn k : Nat) (arg : Nat) (neg : Bool) (f : Nat → Iv) (exact : Option Frac) :
    Nat × Flags × Option Dy :=
  let (m, q) := refine (fun y => roundMag .rn false y F.P F.emin) f refineFuel refineStart
  let z : Dy := ⟨m, q⟩
  if exact.any (fun x => Frac.eq x z.frac) && Dy.le z (F.decode F.maxCode).dy then
    (F.encode neg m q, Flags.none, some z)
  else if Dy.lt (F.decode F.maxCode).dy z then (F.signOf neg + F.infCode, Flags.overflow, none)
  else
    let u := refine (fun y => ulpExp y F.P F.emin) f refineFuel refineStart
    let tiny := refine (fun y => tinyAt .rn false y F.P F.emin) f refineFuel refineStart
    let c := F.near k u f
    let i := c.getD (Config.approx fn F.fb F.eb arg % c.length) 0
    (F.encode (if i < 0 then !neg else neg) i.natAbs (u - 1), { uf := tiny, nx := true }, some ⟨i, u - 1⟩)

/-- FRCP (R153, R78). The zero of an infinite operand is unbounded (DEDUCED, log 15). -/
def frcp (F : FFmt) (dnan : Bool) (c : Nat) (e : Bound) : El :=
  let a := F.decode c
  match firstNan F dnan [c] with
  | some n => El.special F n (snanFlags F [c])
  | none =>
    if a.isInf then El.num F (F.signOf a.neg) Flags.none 0x8000
    else if a.isZero then El.special F (F.signOf a.neg + F.infCode) Flags.divZero
    else
      let x := a.dy.abs.frac
      let f := x.inv
      match F.approx 0 1 c a.neg (fun _ => Iv.pt f) (some f) with
      | (code, fl, none) => El.special F code fl
      | (code, fl, some z) =>
        let bnd := match dec e with
          | none => 0x8000
          | some ex =>
            let ex := ex.frac
            if ex.lt x then encFrac ((ex.div (x.mul (x.sub ex))).add (z.frac.sub f).abs) else 0x8000
        El.num F code fl bnd

/-- FRSQ (R153, R78). The zero of an infinite operand is unbounded (DEDUCED, log 15). -/
def frsq (F : FFmt) (dnan : Bool) (c : Nat) (e : Bound) : El :=
  let a := F.decode c
  match firstNan F dnan [c] with
  | some n => El.special F n (snanFlags F [c])
  | none =>
    if a.isZero then El.special F (F.signOf a.neg + F.infCode) Flags.divZero
    else if a.neg then El.special F F.defaultNan Flags.invalid
    else if a.isInf then El.num F 0 Flags.none 0x8000
    else
      let x := a.dy.frac
      let f (p : Nat) : Iv := sqrtIv x.inv p
      match F.approx 1 1 c false f (sqrtExact x.inv) with
      | (code, fl, none) => El.special F code fl
      | (code, fl, some z) =>
        let bnd := match dec e with
          | none => 0x8000
          | some ex =>
            let ex := ex.frac
            if ex.lt x then
              refine encFrac (fun p => (Iv.smul (ex.div x) (sqrtIv (x.sub ex).inv p)).add ((Iv.pt z.frac).sub (f p)).abs)
                refineFuel refineStart
            else 0x8000
        El.num F code fl bnd

/-- Powers of two with exponents below this are smaller than anything that a format or a bound tells from zero: of sums with such a
power only its sign matters. -/
def exp2Floor : Frac := Frac.ofInt (-5000)

/-- An exponent x + ex that may stand for the sum where x stands for a power below the floor: it lies as far above the floor, up
to 100, as the sum above x. -/
def exp2Top (x ex : Frac) : Frac :=
  let t := x.add ex
  let h := Frac.ofInt 100
  if exp2Floor.le x || (exp2Floor.add h).le t then t else exp2Floor.add (if ex.le h then ex else h)

/-- The bound of FEXP2 (R78): 2^x (2^ex - 1) + |z - 2^x|, which is 2^(x+ex) - z when z < 2^x and 2^(x+ex) - 2 * 2^x + z
otherwise. -/
def exp2Bound (x : Frac) (f : Nat → Iv) (z : Frac) (e : Bound) : Bound :=
  match dec e with
  | none => 0x8000
  | some ex =>
    let ex := ex.frac
    let t := x.add ex
    if (Frac.ofInt 1).le ex && (Frac.ofInt 130).le t then 0x8000
    else
      let top (p : Nat) : Iv := exp2Iv (exp2Top x ex) p
      let low := refine (fun y => z.lt y) f refineFuel refineStart
      if low then refine encFrac (fun p => (top p).sub (Iv.pt z)) refineFuel refineStart
      else if Frac.eq ex (Frac.ofInt 1) then encFrac z
      else refine encFrac (fun p => ((top p).sub (Iv.smul (Frac.ofInt 2) (f p))).add (Iv.pt z)) refineFuel refineStart

/-- FEXP2 (R153, R78). The zero of an infinite operand is unbounded (DEDUCED, log 15). -/
def fexp2 (F : FFmt) (dnan : Bool) (c : Nat) (e : Bound) : El :=
  let a := F.decode c
  match firstNan F dnan [c] with
  | some n => El.special F n (snanFlags F [c])
  | none =>
    if a.isInf then (if a.neg then El.num F 0 Flags.none 0x8000 else El.special F c Flags.none)
    else if Dy.le (Dy.ofInt 5000) a.dy then El.special F F.infCode Flags.overflow
    else
      let x := a.dy.frac
      let xc := x.max exp2Floor
      let f (p : Nat) : Iv := exp2Iv xc p
      let exact := if x.n % (x.d : Int) = 0 then some (f 0).lo else none
      match F.approx 2 2 c false f exact with
      | (code, fl, none) => El.special F code fl
      | (code, fl, some z) => El.num F code fl (exp2Bound x f z.frac e)

/-- FLOG2 (R153, R78). -/
def flog2 (F : FFmt) (dnan : Bool) (c : Nat) (e : Bound) : El :=
  let a := F.decode c
  match firstNan F dnan [c] with
  | some n => El.special F n (snanFlags F [c])
  | none =>
    if a.isZero then El.special F (F.signOf true + F.infCode) Flags.divZero
    else if a.neg then El.special F F.defaultNan Flags.invalid
    else if a.isInf then El.special F c Flags.none
    else
      let x := a.dy.frac
      let neg := x.lt (Frac.ofInt 1)
      let f (p : Nat) : Iv := (log2Iv x p).abs
      let exact := (log2Exact x).map Frac.ofInt
      let (code, fl, z) : Nat × Flags × Frac :=
        match exact with
        | some k =>
          if k.n = 0 then (F.encode false 0 0, Flags.none, k)
          else match F.approx 3 2 c neg f (some k.abs) with
            | (code, fl, z) => (code, fl, ((z.getD Dy.zero).frac))
        | none =>
          match F.approx 3 2 c neg f none with
          | (code, fl, z) => (code, fl, ((z.getD Dy.zero).frac))
      let z := if neg then z.neg else z
      let bnd := match dec e with
        | none => 0x8000
        | some ex =>
          let ex := ex.frac
          if ex.lt x then
            let u := x.sub ex
            let low := refine (fun y => z.lt y) (log2Iv x) refineFuel refineStart
            if low then refine encFrac (fun p => (log2Iv ((x.mul x).div u) p).sub (Iv.pt z)) refineFuel refineStart
            else refine encFrac (fun p => (Iv.pt z).sub (log2Iv u p)) refineFuel refineStart
          else 0x8000
      El.num F code fl bnd

/-- FLDEXP with exponent n; nExact: the lane bound of b is 0x0000 (R154, R78). Beyond 5,000 either way the result and the
code do not change (DEDUCED, log 14). -/
def fldexp (F : FFmt) (md : RMode) (dnan : Bool) (c : Nat) (n : Int) (e : Bound) (nExact : Bool) : El :=
  let a := F.decode c
  let n := max (-5000) (min 5000 n)
  let bound (d : Dy) : Bound := if nExact then enc (bdAdd ((dec e).map (·.scale n)) (some d)) else 0x8000
  match firstNan F dnan [c] with
  | some q => El.special F q (snanFlags F [c])
  | none =>
    if a.isInf then El.special F c Flags.none
    else if a.isZero then El.num F c Flags.none (bound Dy.zero)
    else
      let x := a.dy.abs.scale n
      let r := F.roundAt (rndOf md) F.P a.neg x.frac x.frac
      let code := F.deliver (rndOf md) r
      El.ofCode F code r.flags (bound ((F.decode code).dy.abs.sub x).abs)

/-- FRND (R154, R78). -/
def frnd (F : FFmt) (md : RMode) (dnan : Bool) (c : Nat) (e : Bound) : El :=
  let a := F.decode c
  match firstNan F dnan [c] with
  | some n => El.special F n (snanFlags F [c])
  | none =>
    if a.isInf then El.special F c Flags.none
    else
      let x := a.dy.abs
      if a.isZero || Dy.le (Dy.pow2 (F.P - 1 : Nat)) x then El.num F c Flags.none e
      else
        let m := roundQuot (rndOf md) a.neg x.frac.n.natAbs x.frac.d 0
        let z := Dy.ofInt m
        El.num F (F.encode a.neg m 0) { nx := !(Dy.eq z x) } (enc (bdAdd (dec e) (some (z.sub x).abs)))

/-! ### FCMP and FCLASS (R150, R151) -/

/-- Whether an FCMP condition is a signalling one. -/
def condSignals : FCond → Bool
  | .lt | .le | .gt | .ge => true
  | _ => false

/-- FCMP of one element: the outcome, flags, and FRAG (R85), which stays clear where an operand is NaN or infinite and both bounds
are finite (DEDUCED, log 14). -/
def fcmp (F : FFmt) (cond : FCond) (ca cb : Nat) (ea eb : Bound) : Bool × Flags × Bool :=
  let a := F.decode ca
  let b := F.decode cb
  let un := a.isNan || b.isNan
  let lt := !un && a.lt b
  let gt := !un && b.lt a
  let eq := !un && a.eq b
  let r := match cond with
    | .eq => eq
    | .ne => !eq
    | .lt => lt
    | .le => lt || eq
    | .gt => gt
    | .ge => gt || eq
    | .uno => un
    | .ord => !un
    | .ult => un || lt
    | .ule => un || lt || eq
    | .ugt => un || gt
    | .uge => un || gt || eq
    | .ueq => un || eq
    | .one => lt || gt
  let sum := enc (bdAdd (dec ea) (dec eb))
  let frag := isU ea || isU eb ||
    (sum != 0 && match dec sum with
      | none => true
      | some d => a.isFin && b.isFin && Dy.le (a.dy.sub b.dy).abs d)
  (r, { nv := (snanFlags F [ca, cb]).nv || (condSignals cond && un) }, frag)

/-- The class mask of one element (R151). -/
def fclass (F : FFmt) (c : Nat) : Nat :=
  match F.decode c with
  | .nan _ sig _ => if sig then 2 ^ 8 else 2 ^ 9
  | .inf n => if n then 2 ^ 0 else 2 ^ 7
  | .fin n m _ =>
    if m = 0 then (if n then 2 ^ 3 else 2 ^ 4)
    else if m < 2 ^ F.fb then (if n then 2 ^ 2 else 2 ^ 5)
    else (if n then 2 ^ 1 else 2 ^ 6)

end Sys2Proof.Machine
end

