-- ==== Sys2Proof/Machine/Convert.lean ====
section
/-! DEFINITION. Element conversions (R66 to R69), the MX scale, quantisation and dequantisation (R70 to R72) and the
Spindrift draw (R59), with the bounds of R78. -/

namespace Sys2Proof.Machine
open Sys2Proof

/-- Mix (R59). -/
def mix (step : BitVec 32) (lane : Nat) (e : Nat) (seed : Word) : Word :=
  let z := ((step.setWidth 64 <<< 32) ||| (BitVec.ofNat 64 (lane % 64) <<< 16) ||| BitVec.ofNat 64 (e % 65536)) ^^^ seed
  let z := (z ^^^ (z >>> 32)) * 0xD6E8FEB86659FD93
  let z := (z ^^^ (z >>> 29)) * 0xA0761D6478BD642F
  z ^^^ (z >>> 32)

/-- A rounding mode of a conversion, or the bits that stochastic rounding drew. -/
inductive CvRnd where
  | mode (m : RMode)
  | drawn (z : Nat)
  deriving DecidableEq, Repr

/-- The rounding of a value whose source grid step is 2^s (R60). -/
def CvRnd.rnd (r : CvRnd) (s : Int) : Rnd :=
  match r with
  | .mode m => rndOf m
  | .drawn z => .sr z s

/-- The sign-and-exponent format of an FP format code; E8M0 and the integers have none. -/
def ffmtOf : Fmt → Option FFmt
  | .f64 => some FFmt.f64
  | .f32 => some FFmt.f32
  | .f16 => some FFmt.f16
  | .bf16 => some FFmt.bf16
  | .e4m3 => some FFmt.e4m3
  | .e5m2 => some FFmt.e5m2
  | .e2m3 => some FFmt.e2m3
  | .e3m2 => some FFmt.e3m2
  | .e2m1 => some FFmt.e2m1
  | _ => none

/-- Width and signedness of an integer format (R52). -/
def intFmtOf : Fmt → Option (Nat × Bool)
  | .s4 => some (4, true)
  | .s8 => some (8, true)
  | .s16 => some (16, true)
  | .s32 => some (32, true)
  | .s64 => some (64, true)
  | .n4 => some (4, false)
  | .n8 => some (8, false)
  | .n16 => some (16, false)
  | .n32 => some (32, false)
  | .n64 => some (64, false)
  | _ => none

/-- Bits of an element code of a format (R51, R105). -/
def fmtBits (f : Fmt) : Nat :=
  match ffmtOf f, intFmtOf f with
  | some F, _ => F.width
  | none, some (n, _) => n
  | none, none => 8

/-- The integer that n low bits denote (R52). -/
def intVal (n : Nat) (signed : Bool) (c : Nat) : Int :=
  let x := c % 2 ^ n
  if signed && 2 ^ (n - 1) ≤ x then (x : Int) - 2 ^ n else x

/-- The low n bits of an integer. -/
def intBits (n : Nat) (v : Int) : Nat := (v % (2 : Int) ^ n).toNat

/-- The range of an integer format. -/
def intMin (n : Nat) (signed : Bool) : Int := if signed then -(2 : Int) ^ (n - 1) else 0
def intMax (n : Nat) (signed : Bool) : Int := if signed then (2 : Int) ^ (n - 1) - 1 else (2 : Int) ^ n - 1

/-- What a conversion reads: a number with its sign (a zero keeps its own) and source grid exponent, an infinity, or a NaN
with sign, signalling, fraction and its width. -/
inductive CvSrc where
  | num (neg : Bool) (v : Dy) (s : Int)
  | inf (neg : Bool)
  | nan (neg sig : Bool) (frac fb : Nat)
  /-- E8M0 code 0xFF: a quiet NaN with the default payload. -/
  | dfltNan
  deriving DecidableEq, Repr

/-- Reads a source element (R67, R69, R60). -/
def cvSrc (f : Fmt) (c : Nat) : CvSrc :=
  match ffmtOf f, intFmtOf f with
  | some F, _ =>
    match F.decode (c % 2 ^ F.width) with
    | .nan n s fr => .nan n s fr F.fb
    | .inf n => .inf n
    | .fin n m e => .num n ⟨if n then -(m : Int) else m, e⟩ (if m = 0 then 0 else ulpExp (Dy.frac ⟨m, e⟩) F.P F.emin)
  | none, some (n, sg) => let v := intVal n sg c; .num (decide (v < 0)) (Dy.ofInt v) 0
  | none, none => if c % 256 = 255 then .dfltNan else .num false (Dy.pow2 ((c % 256 : Nat) - 127)) ((c % 256 : Nat) - 127)

/-- The bound of a conversion that is not integer to integer (R78): finite only when b holds. -/
def cvBound (ok : Bool) (e : Bound) (z x : Dy) : Bound := if ok then enc (bdAdd (dec e) (some (z.sub x).abs)) else 0x8000

/-- The destination NaN of R67: sign and high payload bits kept as fit, quiet bit set (DEDUCED, log 15). -/
def cvNan (F : FFmt) (dnan neg : Bool) (frac fb : Nat) : Nat :=
  match F.sp with
  | .oneNan => if dnan then F.defaultNan else F.signOf neg + F.defaultNan
  | _ =>
    if dnan then F.defaultNan else
    let p := if fb ≤ F.fb then frac * 2 ^ (F.fb - fb) else frac / 2 ^ (fb - F.fb)
    F.signOf neg + F.infCode + F.quietBit + p % F.quietBit

/-- A conversion to a format with a sign and an exponent (R67). Code 0 that a NaN leaves in a format without NaN has the bound U
whatever the operand's bound is (R78 has no real value there; DEDUCED, log 15). -/
def cvtToF (F : FFmt) (sat dnan : Bool) (r : CvRnd) (src : CvSrc) (e : Bound) : El :=
  let satEl (neg : Bool) (fl : Flags) : El := { El.ofCode F (F.signOf neg + F.maxCode) fl 0x8000 with bnd := 0x8000 }
  match src with
  | .nan neg sig fr fb =>
    (match F.sp with
     | .none => { El.ofCode F 0 Flags.invalid 0x8000 with bnd := 0x8000 }
     | _ => El.special F (cvNan F dnan neg fr fb) (Flags.nvIf sig))
  | .dfltNan =>
    (match F.sp with
     | .none => { El.ofCode F 0 Flags.invalid 0x8000 with bnd := 0x8000 }
     | _ => El.special F F.defaultNan Flags.none)
  | .inf neg =>
    if sat then satEl neg Flags.overflow
    else (match F.sp with
      | .ieee => El.special F (F.signOf neg + F.infCode) Flags.none
      | .oneNan => El.special F (cvNan F dnan neg 0 0) Flags.invalid
      | .none => satEl neg Flags.invalid)
  | .num neg v s =>
    if v.m = 0 then El.num F (F.encode neg 0 0) Flags.none (cvBound true e Dy.zero Dy.zero)
    else
      let md := r.rnd s
      let x := v.abs.frac
      let rr := F.roundAt md F.P neg x x
      if rr.ovf then
        if sat then satEl neg Flags.overflow
        else (match F.sp with
          | .ieee => { El.ofCode F (F.deliver md rr) Flags.overflow 0x8000 with bnd := 0x8000 }
          | .oneNan =>
            if md.ovfInf neg then El.special F (cvNan F dnan neg 0 0) Flags.overflow else satEl neg Flags.overflow
          | .none => satEl neg Flags.overflow)
      else El.num F (F.encode neg rr.m rr.q) rr.flags (cvBound true e ⟨rr.m, rr.q⟩ v.abs)

/-- A conversion to E8M0 (R67). -/
def cvtToE8 (sat : Bool) (r : CvRnd) (src : CvSrc) (e : Bound) : El :=
  let bad (fl : Flags) : El := ⟨255, fl, 0x8000, none, -127⟩
  let top : El := ⟨254, Flags.overflow, 0x8000, some (Dy.pow2 127), -127⟩
  match src with
  | .nan _ sig _ _ => bad (Flags.nvIf sig)
  | .dfltNan => bad Flags.none
  | .inf neg => if neg || !sat then bad Flags.invalid else top
  | .num neg v s =>
    if neg || v.m = 0 then bad Flags.invalid
    else
      let md := r.rnd s
      let x := v.frac
      let (m, q) := roundMag md false x 1 (-127)
      let inexact := !(Frac.eq (Dy.frac ⟨m, q⟩) x)
      if m = 0 then ⟨0, { uf := true, nx := true }, cvBound true e (Dy.pow2 (-127)) v, some (Dy.pow2 (-127)), -127⟩
      else
        let l := (Nat.log2 m : Int) + q
        if 127 < l then (if sat then top else bad Flags.overflow)
        else ⟨(l + 127).toNat, { uf := inexact && tinyAt md false x 1 (-127), nx := inexact },
          cvBound true e (Dy.pow2 l) v, some (Dy.pow2 l), -127⟩

/-- A conversion from floating point to an integer of n bits (R68). -/
def cvtToInt (n : Nat) (signed sat : Bool) (r : CvRnd) (src : CvSrc) (e : Bound) : El :=
  let el (v : Int) (fl : Flags) (b : Bound) : El := ⟨intBits n v, fl, b, some (Dy.ofInt v.natAbs), 0⟩
  let out (neg : Bool) : El :=
    el (if sat then (if neg then intMin n signed else intMax n signed) else intMin n signed) Flags.invalid 0x8000
  match src with
  | .nan .. | .dfltNan => el 0 Flags.invalid 0x8000
  | .inf neg => out neg
  | .num neg v s =>
    if v.m = 0 then el 0 Flags.none (cvBound true e Dy.zero Dy.zero)
    else
      let x := v.abs.frac
      let m : Int := roundQuot (r.rnd s) neg x.n.natAbs x.d 0
      let z := if neg then -m else m
      if intMax n signed < z then out false
      else if z < intMin n signed then out true
      else el z { nx := !(Dy.eq (Dy.ofInt z) v) } (cvBound true e (Dy.ofInt z) v)

/-- A conversion between integers (R69). -/
def cvtIntInt (n : Nat) (signed sat : Bool) (v : Int) (e : Bound) : El :=
  let z := if sat then max (intMin n signed) (min (intMax n signed) v) else intVal n signed (intBits n v)
  ⟨intBits n z, Flags.none, intBound [e], some (Dy.ofInt z.natAbs), 0⟩

/-- CVT of one element (R156): code, flags, bound. -/
def cvtEl (dst src : Fmt) (sat dnan : Bool) (r : CvRnd) (c : Nat) (e : Bound) : El :=
  match intFmtOf dst, intFmtOf src, ffmtOf dst with
  | some (n, sg), some (k, ksg), _ => cvtIntInt n sg sat (intVal k ksg c) e
  | some (n, sg), none, _ => cvtToInt n sg sat r (cvSrc src c) e
  | none, _, some F => cvtToF F sat dnan r (cvSrc src c) e
  | none, _, none => cvtToE8 sat r (cvSrc src c) e

/-- The 32 or 64 bits that CVT writes for an element code (R156). -/
def cvtPlace (dst : Fmt) (code : Nat) : Nat :=
  match intFmtOf dst with
  | some (n, true) => if n < 32 then intBits 32 (intVal n true code) else code
  | _ => code

/-! ### MX (R70 to R72) -/

/-- The format of an MX element. -/
def mxFmt : MxFmt → FFmt
  | .e4m3 => FFmt.e4m3
  | .e5m2 => FFmt.e5m2
  | .e2m3 => FFmt.e2m3
  | .e3m2 => FFmt.e3m2
  | .e2m1 => FFmt.e2m1

/-- emax of R70. -/
def mxEmax : MxFmt → Int
  | .e2m1 | .e2m3 => 2
  | .e3m2 => 4
  | .e4m3 => 8
  | .e5m2 => 15

/-- The scale code of one half from the FP32 codes of its active lanes (R70). -/
def mxScale (f : MxFmt) (xs : List Nat) : Nat :=
  let vs := xs.map FFmt.f32.decode
  if vs.any (fun v => !v.isFin) then 255
  else
    let amax := vs.foldl (fun a v => a.max v.dy.abs) Dy.zero
    let x : Int := if amax.m = 0 then -127 else max (-127) (min 127 (amax.frac.log2 - mxEmax f))
    (x + 127).toNat

/-- MXQ of one element with scale code s (R71): code, flags, bound; z is the dequantised magnitude (R80). With scale code 0xFF no
flag is set, whatever x is (DEDUCED, log 15). -/
def mxQuant (f : MxFmt) (dnan : Bool) (r : CvRnd) (c : Nat) (s : Nat) (e : Bound) : El :=
  let F := mxFmt f
  let sc : Int := (s : Int) - 127
  let emin := sc + F.emin
  if s = 255 then ⟨0, Flags.none, 0x8000, none, emin⟩
  else match FFmt.f32.decode c with
  | .nan neg _ _ =>
    let code := match F.sp with
      | .none => 0
      | .oneNan => cvNan F dnan neg 0 0
      | .ieee => if dnan then F.defaultNan else F.signOf neg + F.defaultNan
    ⟨code, Flags.invalid, 0x8000, none, emin⟩
  | .inf neg => ⟨F.signOf neg + F.maxCode, Flags.overflow, 0x8000, some ((F.decode F.maxCode).dy.scale sc), emin⟩
  | .fin neg m ex =>
    if m = 0 then ⟨F.encode neg 0 0, Flags.none, cvBound true e Dy.zero Dy.zero, some Dy.zero, emin⟩
    else
      let x : Dy := ⟨m, ex⟩
      let y := (x.scale (-sc)).frac
      let md := r.rnd (ulpExp x.frac 24 (-126) - sc)
      let rr := F.roundAt md F.P neg y y
      let (code, fl) := if rr.ovf then (F.signOf neg + F.maxCode, Flags.overflow) else (F.encode neg rr.m rr.q, rr.flags)
      let z := (F.decode code).dy.abs.scale sc
      ⟨code, fl, cvBound true e z x, some z, emin⟩

/-- MXDQ of one element with scale code s (R72). -/
def mxDequant (f : MxFmt) (dnan : Bool) (c : Nat) (s : Nat) (e : Bound) : El :=
  let F := mxFmt f
  let D := FFmt.f32
  if s = 255 then El.special D D.defaultNan (Flags.nvIf (F.decode (c % 2 ^ F.width)).isSnan)
  else match F.decode (c % 2 ^ F.width) with
  | .nan neg sig _ => El.special D (if dnan then D.defaultNan else D.signOf neg + D.defaultNan) (Flags.nvIf sig)
  | .inf neg => El.special D (D.signOf neg + D.infCode) Flags.none
  | .fin neg m ex =>
    let z : Dy := ⟨m, ex + ((s : Int) - 127)⟩
    if Dy.lt (D.decode D.maxCode).dy z then El.special D (D.signOf neg + D.infCode) Flags.overflow
    else El.num D (D.encode neg z.m.natAbs z.e) Flags.none e

end Sys2Proof.Machine
end

