-- ==== Sys2Proof/Machine/Tbl.lean ====
section
/-! DEFINITION. A finite table as plain data: key and value pairs with strictly rising keys. Memory, bound tags and every
numbered collection of the state are such tables. Its laws stand in Sys2Proof/Laws/Tbl.lean. -/

namespace Sys2Proof

/-- A table from numbers to values. -/
abbrev Tbl (α : Type) := List (Nat × α)

namespace Tbl
variable {α : Type}

/-- The entry at key k. -/
def find? : Tbl α → Nat → Option α
  | [], _ => none
  | (k', v) :: t, k => if k' = k then some v else find? t k

/-- The value at k, d where the table lists none. -/
def getD (t : Tbl α) (k : Nat) (d : α) : α :=
  match find? t k with
  | some v => v
  | none => d

/-- The table with v at k, keys kept rising. -/
def put : Tbl α → Nat → α → Tbl α
  | [], k, v => [(k, v)]
  | (k', v') :: t, k, v =>
    if k < k' then (k, v) :: (k', v') :: t
    else if k = k' then (k, v) :: t
    else (k', v') :: put t k v

/-- The table without key k. -/
def del : Tbl α → Nat → Tbl α
  | [], _ => []
  | (k', v') :: t, k => if k' = k then del t k else (k', v') :: del t k

/-- A write that keeps the canonical form over default d: a default value is not listed. -/
def set [DecidableEq α] (d : α) (t : Tbl α) (k : Nat) (v : α) : Tbl α := if v = d then del t k else put t k v

/-- Keys strictly above lo and strictly rising. -/
def sortedFrom : Nat → Tbl α → Bool
  | _, [] => true
  | lo, (k, _) :: t => decide (lo ≤ k) && sortedFrom (k + 1) t

/-- Canonical over default d: keys strictly rise and no entry equals d. -/
def canonical [DecidableEq α] (d : α) (t : Tbl α) : Bool := sortedFrom 0 t && t.all fun e => decide (e.2 ≠ d)

end Tbl
end Sys2Proof
end

