-- ==== Sys2Proof/Machine/State.lean ====
section
/-! DEFINITION. The state of the package as plain data: every register, memory, queue and table the spec names
(INVENTORY.md lists them with their rules), and the state after module reset. -/

namespace Sys2Proof.Machine
open Sys2Proof

/-! ### The floe: registers, frontier, run (spec 01) -/

/-- The 64 lanes of a vector register with their Rime lanes (R33). -/
structure VRow where
  val : Vector Lane 64
  bnd : Vector Bound 64
  deriving DecidableEq, Repr

/-- Zero lanes with exact bounds: a register at placement (R33). -/
def VRow.zero : VRow := ⟨Vector.replicate 64 0, Vector.replicate 64 0⟩

/-- What a BLOCKED entry waits for (R131, R195, R200, R234): its deadline in SLEEP or LWAIT, the phase of a barrier object to
leave the awaited value, a generation of a join register to complete. -/
inductive Wait where
  | none
  | sleep
  | lwait
  | bar (off : Nat) (phase : BitVec 32)
  | join (j : JReg) (gen : BitVec 16)
  deriving DecidableEq, Repr

/-- A frontier entry (R19), with what it waits for when it is BLOCKED and the lanes whose parked access or fetch the host has
denied (R309). -/
structure Entry where
  pc : BitVec 48
  prio : BitVec 8
  flags : BitVec 8
  mask : Mask
  wait : Wait := .none
  denied : Mask := 0
  deniedFetch : Mask := 0
  deriving DecidableEq, Repr

/-- What a synchronising instruction does when its membership is complete (R195, R198, R200). -/
inductive SyncOp where
  | arrive (bar : BitVec 64)
  | drop (bar : BitVec 64)
  | sbar (level : SbarLevel) (index : BitVec 5)
  | jsign (j : JReg)
  deriving DecidableEq, Repr

/-- A pending synchronising instruction (R25, R313): word address, membership, lanes that have executed it, raw word, and the
operation, which is absent after FRLOAD; `bad` marks a broken membership, `handler` one that the handler executes, and `failed`
holds cause, XADDR and XINFO of an event or signature that failed, which the boundary raises (R197). -/
structure SyncRec where
  addr : BitVec 48
  member : Mask
  done : Mask
  word : Word
  op : Option SyncOp
  bad : Bool
  handler : Bool
  failed : Option (BitVec 8 × Word × Word)
  deriving DecidableEq, Repr

/-- The registers a trap entry writes (R302, R303); host marks a denial (R309). -/
structure Trap where
  cause : BitVec 8
  pc : BitVec 48
  mask : Mask
  addr : Word
  info : Word
  host : Bool
  deriving DecidableEq, Repr

/-- The entry that takes a boundary cause (R197, R202, R209, R302): the one with the lanes whose run ends, one that waits in JWAIT
on a register, or one that waits with SYWAIT and holds one of the lanes; with none of these waiting, the one whose run ends. -/
inductive TrapAt where
  | run (lanes : Mask)
  | jwait (j : JReg)
  | sywait (lanes : Mask)
  deriving DecidableEq, Repr

/-- A boundary cause that has arisen: which entry takes it, whether XPC is that entry's resume PC and XMASK its lanes, and
whether it arose in the floe's present mode: one that arose before trap entry waits for the RFT (R306; DEDUCED, log 10). Where
XPC is the entry's resume PC, `trap.pc` is the word at fault, which a halt reports (R389). -/
structure BTrap where
  trap : Trap
  who : TrapAt
  fillPc : Bool
  fillMask : Bool
  own : Bool
  deriving DecidableEq, Repr

/-- Per-floe control and status registers (R42): those that FRLOAD restores directly (R313 slots 0 to 9). -/
structure SysRegs where
  fpctl : BitVec 3
  fpflags : BitVec 5
  ebud : Bound
  bmode : BitVec 4
  bguard : BitVec 4
  bsticky : BitVec 5
  lasttier : BitVec 2
  seedlo : BitVec 32
  seedhi : BitVec 32
  sdstep : BitVec 32
  deriving DecidableEq, Repr

/-- All zero: FPFLAGS, BSTICKY and LASTTIER at reset, before the launch descriptor loads the others (R11). -/
def SysRegs.zero : SysRegs := ⟨0, 0, 0, 0, 0, 0, 0, 0, 0, 0⟩

/-- A vector register that the run has written (R30): the lanes written, what they held when the run issued, and the
latest write. The register itself holds what is kept. -/
structure VHaz where
  mask : Mask
  old : VRow
  last : VRow
  deriving DecidableEq, Repr

/-- The run in progress (R27, R28). The issuing entry is held here and not in the frontier. The old tables hold what a register
that the run has written held when the run issued, for a uniform register also the latest write (R30); `sync` are the lanes that
have executed a synchronising instruction (R197) and `sbar` those whose SBAR has arrived (R198), `denied` and `deniedFetch` the
denials of the entry that issues (R309), `began` the lanes that it started with, and `late` a boundary cause that arose in handler mode
before the RFT that ends the run (R306). -/
structure Run where
  mask : Mask
  began : Mask
  prio : BitVec 8
  pc : BitVec 48
  count : Nat
  number : Nat
  ended : Bool
  held : Bool
  slept : Bool
  yielded : Bool
  halt : Option (BitVec 48)
  sync : Mask
  sbar : Mask
  denied : Mask
  deniedFetch : Mask
  vOld : Tbl VHaz
  sOld : Tbl (Word × Word)
  pOld : Tbl Mask
  sysOld : SysRegs
  trap : Option Trap
  late : Option Trap
  deriving DecidableEq, Repr

/-- The signature a floe holds on a join register (R200, R201, R313): generation, lanes, signing word, and whether the register's
count still includes it, which a mismatch ends (R202). -/
structure Sig where
  gen : BitVec 16
  lanes : Mask
  pc : BitVec 48
  word : Word
  counted : Bool
  deriving DecidableEq, Repr

/-- The lanes of a replayable word that have been performed already, with what they returned (R252): the floe's checkpoint. -/
structure Ckpt where
  pc : BitVec 48
  lanes : Mask
  got : List (Nat × Nat × List (Byte × Bound))
  deriving DecidableEq, Repr

/-- What is wrong in a register file: a residue that does not match its register lane, or its Rime lane, `again` when the replay
meets the mismatch too (R33, R396); or the poisoned data of a lane, of uniform register reg - 1024, or of a lane of predicate
reg - 1152 (R397). -/
structure Resid where
  reg : Nat
  lane : Nat
  rime : Bool
  again : Bool
  poison : Bool
  deriving DecidableEq, Repr

/-- What the device keeps of a floe beside its record while it is saved: the lanes that sleep (R131), its signatures (R202, R209),
and its checkpoints (R252; DEDUCED, log 54). -/
structure Kept where
  asleep : Mask
  signed : Tbl Sig
  ckpts : List Ckpt
  deriving DecidableEq, Repr

/-- Nothing kept. -/
def Kept.none : Kept := ⟨0, [], []⟩

/-- A resident floe, at key core * 64 + slot (R42). -/
structure Floe where
  pack : Nat
  findex : Nat
  part : Nat
  seq : Nat
  ctx : BitVec 8
  valloc : Nat
  v : Tbl VRow
  s : Tbl Word
  p : Tbl Mask
  frontier : List Entry
  run : Option Run
  sys : SysRegs
  sysPend : Tbl Word
  xpc : BitVec 48
  xcause : BitVec 10
  xmask : Mask
  xaddr : Word
  xinfo : Word
  xbase : BitVec 48
  xsave : Word
  restores : BitVec 16
  handler : Bool
  intFrontier : List Entry
  trapPrio : BitVec 8
  loaded : Option (List Entry)
  syncs : List SyncRec
  signed : Tbl Sig
  sbar : Option (SbarLevel × BitVec 5 × BitVec 32)
  deadline : Word
  arrivals : Nat
  rowstat : Vector Word 4
  halted : Bool
  preempt : Bool
  kept : Kept
  traps : List BTrap
  ckpts : List Ckpt
  resids : List Resid
  readyFor : Nat
  yielded : Bool
  waitFrom : Word
  reported : Bool
  deriving DecidableEq, Repr

/-! ### Accesses issued and not yet performed (spec 11) -/

/-- n bytes at physical address pa: bytes k to k + n - 1 of the datum of a lane (R177); lane 64 stands for an access of
every lane (R238). With its virtual address, whether the page is tagged (R88), and the effective level (R173). -/
structure Span where
  lane : Nat
  k : Nat
  va : Word
  pa : Nat
  n : Nat
  tagged : Bool
  level : Level
  deriving DecidableEq, Repr

/-- Bytes that a lane stores in the place of a span: physical address, value and the bound each carries (R178, R87); `also` are
the lower lanes of the instruction that store there too. -/
structure StSpan where
  src : Span
  also : List Nat
  bytes : List (Nat × Byte × Bound)
  deriving DecidableEq, Repr

/-- One lane of an atomic: target, data (cas: compare), cas new value, and their bounds (R184, R88). -/
structure AtLane where
  lane : Nat
  va : Word
  pa : Nat
  x : Word
  y : Word
  xb : Bound
  yb : Bound
  tagged : Bool
  deriving DecidableEq, Repr

/-- One lane of a Moraine access: cell address, value, token, sibling index (R186, R187). -/
structure CellLane where
  lane : Nat
  va : Word
  pa : Nat
  value : Word
  gen : Byte
  epoch : BitVec 32
  index : BitVec 2
  deriving DecidableEq, Repr

/-- One single-copy atomic unit of an access (R240). -/
inductive Work where
  | load (spans : List Span)
  | store (spans : List StSpan)
  | atomic (f : AFun) (ty : ATy) (dnan : Bool) (lanes : List AtLane)
  | ldv (lane : CellLane)
  | stv (lanes : List CellLane)
  | recon (op : ReconOp) (dnan : Bool) (lanes : List CellLane)
  deriving DecidableEq, Repr

/-- Where a load's bytes go when every unit has been performed (R177, R179, R184, R186, R206, R212, R213, R216, R237). -/
inductive Dest where
  | none
  | vec (sz : Sz) (d : VReg)
  | uni (sz : Sz) (d : SReg)
  | tile (phys row rows : Nat)
  | keyed (phys : Nat) (key : List Byte) (coords : List Int)
  | acc (phys row rows : Nat)
  | fill (phys : Nat) (m32 : Bool) (ncode : BitVec 2)
  | frload
  deriving DecidableEq, Repr

/-- A pack whatever its placement: instance, node, number in the field (R15, R43). -/
structure PackId where
  inst : Nat
  node : Nat
  k : Nat
  deriving DecidableEq, Repr

/-- A memory access of a floe between issue and performance (R239, R252). `exp` is when the translation it used ran out, by
which time it has been accepted into the order of its lines (R267); `got` holds the bytes loaded so far, by lane and offset,
`wrote` the tagged bytes stored so far whose quarters no other agent has stored to since, with their bounds (R87); `snap` is the
floe as it was before an access that may still trap at its performance (R302, R304). -/
structure Acc where
  floe : Nat
  seq : Nat
  pack : PackId
  number : Nat
  run : Nat
  lanes : Mask
  order : Ord3
  scope : Scope
  reads : Bool
  writes : Bool
  mmio : Bool
  sticky : Bool
  todo : List Work
  got : List (Nat × Nat × List (Byte × Bound))
  wrote : List (Nat × Bound)
  poison : List (Nat × Word)
  dest : Dest
  pc : BitVec 48
  word : Word
  born : Nat
  exp : Nat
  snap : Option Floe
  deriving DecidableEq, Repr

/-- A fence that later accesses of its lanes must respect (R245): every access numbered below it against those above. -/
structure FenceRec where
  floe : Nat
  seq : Nat
  number : Nat
  lanes : Mask
  sc : Bool
  scope : Scope
  deriving DecidableEq, Repr

/-- An access performed before an earlier one of its lanes, `before`, which an ordering of a scope relates it to (R246): the
agents inside the issuer's part of that scope do not meet its lines until the earlier one is performed. -/
structure Early where
  core : Nat
  scope : Nat
  before : Nat
  write : Bool
  lines : List Nat
  deriving DecidableEq, Repr

/-- The fork point of an engine thread (R249): it follows the accesses of these lanes of a floe numbered below this. -/
structure Fork where
  floe : Nat
  seq : Nat
  number : Nat
  lanes : Mask
  deriving DecidableEq, Repr

/-! ### Packs (spec 01, 09, 15) -/

/-- The operand record of a join's first signer (R201, R314). -/
structure SignRec where
  mma : Bool
  mod : BitVec 8
  d : AReg
  a : TReg
  b : TReg
  ebud : Bound
  bmode : BitVec 4
  bguard : BitVec 4
  deriving DecidableEq, Repr

/-- A join register (R41, R200). -/
structure Join where
  expected : BitVec 11
  count : BitVec 11
  gen : BitVec 16
  done : BitVec 16
  rec? : Option SignRec
  deriving DecidableEq, Repr

/-- An idle join register (R41). -/
def Join.idle : Join := ⟨0, 0, 0, 0, none⟩

/-- The result that a fired MMA will write (R209): elements, row bounds, tier, rows in breach and the bound it reports. -/
structure MmaRes where
  data : List Lane
  bnd : List Bound
  tier : Tier
  tierUp : Bool
  unb : Bool
  breach : Mask
  first : Bound
  fail : Bool
  m32 : Bool
  ncode : BitVec 2
  deriving DecidableEq, Repr

/-- A floe's signature of an MMA (R201, R209): floe index in the pack, lanes, word address and raw word, and whether it was in
handler mode. -/
structure Signer where
  findex : Nat
  lanes : Mask
  pc : BitVec 48
  word : Word
  handler : Bool
  deriving DecidableEq, Repr

/-- A signed generation of MMA (R201, R209): who signed, and its result once fired. -/
structure Mma where
  join : JReg
  gen : BitVec 16
  record : SignRec
  signers : List Signer
  res : Option MmaRes
  deriving DecidableEq, Repr

/-- What has become of a floe of a pack (R26, R310). -/
inductive FloeStat where
  | resident | saved | retired
  deriving DecidableEq, Repr

/-- A resident pack, at key core * 64 + pslot (R15, R39 to R42, R323); `placedAt` is the number at which it was placed, which what
it issues since has not (R365). -/
structure Pack where
  id : PackId
  x : BitVec 32
  y : BitVec 32
  z : BitVec 32
  ctx : BitVec 8
  nfloes : Nat
  stats : List FloeStat
  arrivals : List Nat
  tiles : List Nat
  accs : List Nat
  tshape : Vector Word 16
  shapeOld : Tbl (Nat × Word)
  joins : Vector Join 8
  mmas : List Mma
  banks : List Nat
  spmin : Nat
  spmax : Nat
  saveSlot : Nat
  pbase : Word
  saving : Bool
  ending : Bool
  restores : List (BitVec 16)
  kept : List Kept
  placedAt : Nat
  deriving DecidableEq, Repr

/-! ### Cores (spec 01, 10, 14, 16) -/

/-- A physical tile: 4 KiB and a bound per row; what it held before the latest write of a floe whose run has not ended
(R30, R39, R207). -/
structure Tile where
  bytes : Tbl Byte
  bnd : Tbl Bound
  old : Option (Nat × Tbl Byte × Tbl Bound)
  deriving DecidableEq, Repr

/-- A physical accumulator (R40, R210, R315). -/
structure Accum where
  data : Tbl Lane
  bnd : Tbl Bound
  live : Bool
  owner : Byte
  m32 : Bool
  ncode : BitVec 2
  spill : Word
  old : Option (Nat × Tbl Lane × Tbl Bound)
  deriving DecidableEq, Repr

/-- Poisoned data in a core's own SRAM: a 32-byte quarter of its banks, a tile, an accumulator (R397). -/
inductive BadCell where
  | quarter (q : Nat)
  | tile (n : Nat)
  | acc (n : Nat)
  deriving DecidableEq, Repr

/-- Bank states (R317). -/
inductive BankSt where
  | l1 | free | pack | gated
  deriving DecidableEq, Repr

/-- One of a core's 16 SRAM banks (R317, R319, R322): state, waking, and when it was last used. -/
structure Bank where
  st : BankSt
  waking : Bool
  used : Word
  deriving DecidableEq, Repr

/-- A cached leaf translation (R266, R339): context, first page number, pages it maps, leaf entry, expiry, and whether its path
passes through a table in pool memory (R259). -/
structure Tlb where
  ctx : BitVec 8
  page : Nat
  pages : Nat
  leaf : Word
  expiry : Nat
  pool : Bool
  deriving DecidableEq, Repr

/-- A cached table entry (R339): context, level 1 or 2, the address bits above that level's index range, entry, expiry, and
whether its path passes through a table in pool memory (R259). -/
structure Walk where
  ctx : BitVec 8
  level : Nat
  top : Nat
  entry : Word
  expiry : Nat
  pool : Bool
  deriving DecidableEq, Repr

/-- A shape key as KEYCUT read it (R214). -/
structure Key where
  ctx : BitVec 8
  bytes : List Byte
  deriving DecidableEq, Repr

/-- A piece of a request in flight (R361, R362): when it issued and when its translation ran out (R267), destination offset and
length, and what it writes: place, byte, bits written, bound; `untagged` are the places on pages without bounds (R88). -/
structure Fly where
  id : Nat
  born : Nat
  exp : Nat
  off : Nat
  n : Nat
  pad : Bool
  untagged : List Nat
  level : Level
  dst : List (Nat × Byte × Byte × Bound)
  deriving DecidableEq, Repr

/-- What a renewal walk found that stops a queue when the old entry runs out (R271): page number, whether the access writes, when
the old entry expires, an error code or, with code 0, the level of the missing entry and whether it is malformed. -/
structure Renewed where
  page : Nat
  write : Bool
  expiry : Nat
  code : Nat
  level : Nat
  bad : Bool
  deriving DecidableEq, Repr

/-- A Latch request as the engine copied it (R218, R220, R223): `landed` lists offset and length of what has landed, `code` an
error that it will end with, `stall` the fault that it waits for (R344), `renewed` the failed renewal walks of its pages. -/
structure LReq where
  pack : PackId
  ctx : BitVec 8
  off : Nat
  bytes : List Byte
  scope : Scope
  state : Byte
  code : Byte
  issued : Nat
  landed : List (Nat × Nat)
  flying : List Fly
  subtracted : Nat
  lostB : Bool
  cancel : Bool
  stall : Option (BitVec 16)
  renewed : List Renewed
  key : Option Key
  fork : Fork
  deriving DecidableEq, Repr

/-- A CPYKICK whose queue event has not happened (R223), with the requests' bytes as they stood at its issue. -/
structure Kick where
  floe : Nat
  pack : PackId
  ctx : BitVec 8
  queue : Nat
  base : Nat
  count : Nat
  scope : Scope
  image : List Byte
  fork : Fork
  deriving DecidableEq, Repr

/-- Leased L1 line (R260): expiry and class, and the bank whose ways hold it (R317, R318). -/
structure L1Line where
  expiry : Nat
  cls : Nat
  bank : Nat
  deriving DecidableEq, Repr

/-- The fields of SRAMCTL as they are in force on a core (R322). -/
structure Sram where
  gain : BitVec 12
  fresv : BitVec 4
  lmin : BitVec 4
  auto : Bool
  deriving DecidableEq, Repr

/-- SRAMCTL after module reset (R322). -/
def Sram.reset : Sram := ⟨64, 0, 1, true⟩

/-- One core. `bars` marks the 16-byte blocks of its banks that hold barrier objects (R89, R192); `lru` lists the lines of each
sampling set of L1 with its shadow tags, the latest first (R320); `ahead` is the walk-ahead TLB of the Latch engine (R339). -/
structure Core where
  tiles : Tbl Tile
  accs : Tbl Accum
  banks : Tbl Bank
  spad : Tbl Byte
  spadB : Tbl Bound
  bars : Tbl Bool
  bad : List BadCell
  queues : Tbl (List LReq)
  kicks : List Kick
  turn : Nat
  l1 : Tbl L1Line
  gained : Nat
  spare : Nat
  lru : Tbl (List Nat)
  sram : Sram
  lastInterval : Nat
  tlb : List Tlb
  ahead : List Tlb
  seqNext : Nat
  pipes : Tbl Nat
  clock : Tbl Nat
  deriving DecidableEq, Repr

/-- A tile that nothing has written (DESIGN CHOICE, log 4). -/
def Tile.zero : Tile := ⟨[], [], none⟩
/-- An accumulator that nothing has written since reset: zeros, exact bounds, shape 16 x 16 (R210). -/
def Accum.zero : Accum := ⟨[], [], false, 0, false, 0, 0, none⟩
/-- A bank after reset: CORESRAM reads 0, state L1 and not waking (R322). -/
def Bank.reset : Bank := ⟨.l1, false, 0⟩
/-- A core after reset. -/
def Core.reset : Core :=
  { tiles := [], accs := [], banks := [], spad := [], spadB := [], bars := [], bad := [], queues := [], kicks := [], turn := 0, l1 := [], gained := 0,
    spare := 0, lru := [], sram := Sram.reset, lastInterval := 0, tlb := [], ahead := [], seqNext := 0, pipes := [], clock := [] }

/-! ### Dies (spec 12, 14, 16, 18, 19, 22) -/

/-- Die L2 line states (R326). -/
inductive L2St where
  | i | s | e | m
  deriving DecidableEq, Repr

/-- A lease that has not yet expired or been returned (R260, R262): core, expiry, and whether a write has waited on it. -/
structure Lease where
  core : Nat
  expiry : Nat
  hit : Bool
  deriving DecidableEq, Repr

/-- What a die L2 keeps for a line (R261, R262, R326, R372): state, lease horizon, grants since it was last reached,
predictor class, leases, and for host lines the states of the two halves. -/
structure L2Line where
  st : L2St
  horizon : Nat
  grants : Nat
  cls : Nat
  leases : List Lease
  halves : L2St × L2St
  deriving DecidableEq, Repr

/-- A line no die holds: predictor class 1 (R262). -/
def L2Line.none : L2Line := ⟨.i, 0, 0, 1, [], (.i, .i)⟩

/-- Power states (R391). -/
inductive Power where
  | a0 | a1 | a2 | a3
  deriving DecidableEq, Repr

/-- Tumbler events (R364): a subtraction from an object, or a STATUS write of a request that names the object. -/
inductive TEvent where
  | sub (bar n : Nat)
  | status (bar off : Nat) (value : Word)
  deriving DecidableEq, Repr

/-- What the Tumbler does with the events aimed at a pack: journals those of parked objects while the pack is resident, or is
SAVED or RESTORING (R364, R366, R367). -/
inductive TState where
  | parking | saved | restoring
  deriving DecidableEq, Repr

/-- What the Tumbler holds for a pack (R364, R366, R367): context, pack, core and PSLOT at save, pack record address, state,
objects parked, journal in arrival order, banks held at save. -/
structure Redirect where
  ctx : BitVec 8
  pack : PackId
  core : Nat
  pslot : Nat
  record : Word
  state : TState
  parked : List Nat
  journal : List TEvent
  banks : Nat
  deriving DecidableEq, Repr

/-- A context's slice on a die (R296): start, length in ticks, expired, first placement. -/
structure Slice where
  ctx : BitVec 8
  start : Nat
  len : Nat
  expired : Bool
  first : Nat
  deriving DecidableEq, Repr

/-- One C-die with its die block registers; `firsts` holds when each context was first placed on it (R297), `hold` says that its
replica was ahead of the master at a beat and holds its value (R254), `beatAt` is the master's time at its latest beat, `agree`
the beats since FIRN_SKEW that have agreed (R254, R256). -/
structure Die where
  firn : Word
  hold : Bool
  beatAt : Nat
  agree : Nat
  inService : Bool
  retired : Bool
  power : Power
  l2 : Tbl L2Line
  walks : List Walk
  wdIen : Bool
  wdLimit : BitVec 20
  wdlog : Word
  gain : BitVec 12
  fresv : BitVec 4
  lmin : BitVec 4
  auto : Bool
  win : BitVec 16
  jfull : Bool
  tfull : Bool
  redirects : List Redirect
  permits : Nat
  fmax : BitVec 8
  boost : Bool
  winner : Nat
  fast : BitVec 10
  falling : BitVec 10
  boostAt : Nat
  quietFrom : Nat
  replay : BitVec 32
  corr : BitVec 32
  slices : List Slice
  firsts : Tbl Nat
  deriving DecidableEq, Repr

/-- A die after module reset: register values of R301, R322, R358, R368, R393, R398; in service state as boot leaves it
(R395), active; its Firn replica at 0, as the master is (DESIGN CHOICE, log 4). -/
def Die.reset : Die :=
  { firn := 0, hold := false, beatAt := 0, agree := 0, inService := true, retired := false, power := .a0, l2 := [],
    walks := [], wdIen := false, wdLimit := 100000, wdlog := 0, gain := 64, fresv := 0, lmin := 1, auto := true, win := 0,
    jfull := false, tfull := false, redirects := [], permits := 64, fmax := 24, boost := true, winner := 9, fast := 0,
    falling := 0, boostAt := 0, quietFrom := 0, replay := 0, corr := 0, slices := [], firsts := [] }

/-! ### Stacks (spec 18) -/

/-- Stack block registers (R352, R354), the eye the monitors see for each lane, and when the stack has trained since the latest
bring-up (R395). -/
structure Stack where
  rtint : BitVec 16
  ien : Bool
  thresh : BitVec 8
  selPc : BitVec 6
  selLane : BitVec 6
  eyes : Tbl (Byte × Byte)
  eyestat : Word
  half : BitVec 32
  fenced : Word
  corr : BitVec 32
  spares : Tbl Nat
  trainedAt : Option Nat
  deriving DecidableEq, Repr

/-- A stack after module reset (R352). -/
def Stack.reset : Stack := ⟨0, false, 32, 0, 0, [], 0, 0, 0, 0, [], none⟩

/-! ### Engines outside the Latch queues -/

/-- An LDSP copy of one lane in flight (R182). -/
structure Copy where
  id : Nat
  born : Nat
  exp : Nat
  pack : PackId
  ctx : BitVec 8
  src : List Span
  dst : Nat
  n : Nat
  bar : Nat
  fork : Fork
  deriving DecidableEq, Repr

/-- A global ACCST.add in flight (R212): image address, elements and row bounds as read at issue. -/
structure Drain where
  id : Nat
  born : Nat
  exp : Nat
  pack : PackId
  ctx : BitVec 8
  pa : Nat
  va : Word
  int : Bool
  dnan : Bool
  tagged : Bool
  cols : Nat
  data : List Lane
  bnd : List Bound
  bar : Nat
  fork : Fork
  deriving DecidableEq, Repr

/-- Serac row operations (R226). -/
inductive RowOp where
  | cpy | fil | and | or | xor | not | maj | rdx
  deriving DecidableEq, Repr

/-- A Serac operation (R226 to R228, R355): its issue, the floe by its place and by its number in the pack (R229), the physical
addresses of the rows of its ranges, whether those of D and A are tagged, and its progress: steps to come, and the accumulator
row with the lines of it that are poisoned. -/
structure Serac where
  id : Nat
  born : Nat
  exp : Nat
  floe : Nat
  findex : Nat
  pack : PackId
  ctx : BitVec 8
  op : RowOp
  n : Nat
  pattern : Word
  dRows : List Nat
  aRows : List Nat
  bRows : List Nat
  eRows : List Nat
  dTagged : List Bool
  aTagged : List Bool
  bar : Nat
  forked : Bool
  todo : List Nat
  accum : List Byte
  accPoison : Byte
  paths : Vector Word 4
  fork : Fork
  deriving DecidableEq, Repr

/-- Who waits to write a line (R261): unit `k` of the access, piece, image or operation `id`; the hub's own writes; the Tumbler,
to the image of a saved pack at an offset. -/
inductive Writer where
  | unit (id k : Nat)
  | fault
  | save (pack : PackId)
  | image (pack : PackId) (off : Nat)
  deriving DecidableEq, Repr

/-- What an agent outside the package asks of its memory: a write of bytes, a peer's atomic, an arrival at a pod barrier (R253,
R371, R375, R379). -/
inductive OutAct where
  | write (writer addr : Nat) (data : List Byte)
  | atomic (writer addr : Nat) (f : AFun) (ty : ATy) (dnan : Bool) (x y : Word)
  | arrive (index : Nat)
  deriving DecidableEq, Repr

/-- A request of an outside agent that has arrived and is not performed (R264), with the master's time then. -/
structure Outside where
  id : Nat
  born : Nat
  act : OutAct
  deriving DecidableEq, Repr

/-! ### Front end (spec 14, 21) -/

/-- A launch descriptor (R382). -/
structure Desc where
  entry : Word
  ctx : BitVec 8
  prio : BitVec 8
  nfloes : Nat
  tiles : Nat
  accs : Nat
  spmin : Nat
  spmax : Nat
  guard : BitVec 4
  vregs : Nat
  budget : Bound
  bmode : BitVec 4
  fpctl : BitVec 3
  barq : Nat
  bard : Nat
  barp : Nat
  barpod : Nat
  axis : Nat
  slice : Nat
  nx : Nat
  ny : Nat
  nz : Nat
  bounds : List Nat
  seed : Word
  step : BitVec 32
  saveSlots : Nat
  xbase : Word
  saveBase : Word
  pstride : Nat
  uargs : List Word
  deriving DecidableEq, Repr

/-- A saved pack waiting to resume (R285, R311). -/
structure Saved where
  die : Nat
  k : Nat
  stats : List FloeStat
  arrivals : List Nat
  restores : List (BitVec 16)
  kept : List Kept
  mmas : List Mma
  saveSlot : Nat
  pbase : Word
  deriving DecidableEq, Repr

/-- A hardware barrier of a field (R198, R199): level, place, index, generation, arrivals of the open generation, and the
participants a quad generation recorded at its first arrival. -/
structure HwBar where
  level : SbarLevel
  place : Nat
  index : Nat
  gen : BitVec 32
  arrived : List Nat
  members : List Nat
  deriving DecidableEq, Repr

/-- A released node's field (R15, R283 to R285, R383, R385): the range of each entry of the partition vector and the die that has
it, packs first placed on each die, packs retired, saved packs, save slots in use, hardware barriers. -/
structure Field where
  inst : Nat
  node : Nat
  desc : Desc
  troot : Nat
  ranges : List (Nat × Nat)
  owners : List Nat
  placed : List Nat
  retired : Nat
  saved : List Saved
  slots : List Nat
  bars : List HwBar
  ended : Bool
  deriving DecidableEq, Repr

/-- A patch of an instance (R386). -/
structure Patch where
  node : Nat
  off : Nat
  bytes : List Byte
  deriving DecidableEq, Repr

/-- An instance of a graph (R385 to R387); `image` is the graph as it stood at the trigger. -/
structure Inst where
  id : Nat
  queue : Nat
  graph : Nat
  header : Nat
  nnodes : Nat
  image : List Byte
  patches : List Patch
  released : List Nat
  completed : List Nat
  error : Bool
  deriving DecidableEq, Repr

/-- Who waits on an outstanding fault (R342, R344): lanes of a floe, a Latch queue, or a pack record access. -/
inductive Waiter where
  | lanes (floe seq : Nat) (mask : Mask) (fetch handler : Bool)
  | queue (core q : Nat)
  | record (pack : PackId)
  deriving DecidableEq, Repr

/-- An outstanding fault (R342): its ID, context, page, the fields of its entry, whether it has been written, waiters. -/
structure FaultRec where
  id : BitVec 16
  ctx : BitVec 8
  page : Nat
  va : Word
  info : Byte
  core : Nat
  slot : Byte
  written : Bool
  waiters : List Waiter
  deriving DecidableEq, Repr

/-- The queue registers of R387. -/
structure Queue where
  en : Bool
  ltol : BitVec 20
  done : BitVec 32
  err : BitVec 4
  node : BitVec 12
  ovf : Bool
  deriving DecidableEq, Repr

/-- A queue after module reset (R387). -/
def Queue.reset : Queue := ⟨false, 0xFFFFF, 0, 0, 0, false⟩

/-- The hub: front end, Firn, Moraine (`rebased`: for a cell, by address / 8, the pool slots of its siblings in the order that
the latest rebase of its line left, R276), fault queue, HBM and CXL blocks, key table, directory. -/
structure Hub where
  firn : Word
  skewmax : BitVec 7
  podskew : BitVec 10
  skew : BitVec 8
  pod : Bool
  resync : BitVec 8
  podrs : Bool
  xcap : BitVec 4
  lcap : BitVec 2
  mdata : BitVec 36
  mrec : BitVec 35
  nframes : BitVec 16
  fold : Bool
  defop : BitVec 4
  men : Bool
  rebased : Tbl (List Nat)
  fqbase : BitVec 40
  fqien : Bool
  fqen : Bool
  fqlog2 : BitVec 5
  fqtail : BitVec 32
  fqhead : BitVec 32
  badresp : Bool
  fqfull : Bool
  faults : List FaultRec
  linseg : BitVec 11
  lock : Bool
  cxlwin : Vector Word 8
  podEn : Bool
  self : BitVec 4
  master : BitVec 4
  podSize : BitVec 4
  podHome : BitVec 4
  podBase : BitVec 43
  podDiscards : Nat
  podHold : Nat
  podSampled : Nat
  podArrived : List (Nat × Option (BitVec 32) × List (Nat × Nat))
  podGen : Tbl (BitVec 32)
  cxlUp : BitVec 4
  uncl : Bool
  ctxbase : BitVec 40
  ctxBusy : Bool
  ctxLast : BitVec 8
  haltlog : Word
  haltaddr : Word
  queues : Vector Queue 16
  bootPhase : BitVec 3
  booting : Option (Word × Byte × Bool)
  bootErr : Byte
  diemask : Byte
  mflog : Word
  sched : Tbl Byte
  schedBad : List Nat
  insts : List Inst
  nextInst : Nat
  fields : List Field
  ending : List (BitVec 8)
  keys : Tbl Key
  dir : Tbl (Bool × BitVec 9 × Nat)
  neve : Tbl Bool
  hostHalves : Tbl Bool
  vectors : List Nat
  hostReads : List (Nat × List Byte)
  deriving DecidableEq, Repr

/-- The hub after module reset (R257, R272, R342, R347, R373 to R381, R387 to R389, R394, R398). -/
def Hub.reset : Hub :=
  { firn := 0, skewmax := 8, podskew := 200, skew := 0, pod := false, resync := 0, podrs := false, xcap := 15, lcap := 3,
    mdata := 0, mrec := 0, nframes := 0, fold := false, defop := 0, men := false, rebased := [], fqbase := 0, fqien := false,
    fqen := false, fqlog2 := 4, fqtail := 0, fqhead := 0, badresp := false, fqfull := false, faults := [],
    linseg := 1920, lock := false, cxlwin := Vector.replicate 8 0, podEn := false, self := 0, master := 0, podSize := 0,
    podHome := 0, podBase := 0, podDiscards := 0, podHold := 0, podSampled := 0, podArrived := [], podGen := [], cxlUp := 0, uncl := false, ctxbase := 0,
    ctxBusy := false, ctxLast := 0, haltlog := 0, haltaddr := 0, queues := Vector.replicate 16 Queue.reset, bootPhase := 0,
    booting := none, bootErr := 0, diemask := 0, mflog := 0, sched := [], schedBad := [], insts := [], nextInst := 0, fields := [], ending := [], keys := [],
    dir := [], neve := [], hostHalves := [], vectors := [], hostReads := [] }

/-- The word that is issuing: floe, its address, its raw bits, and the issue number (R27, R106). -/
structure Issue where
  floe : Nat
  pc : BitVec 48
  word : Word
  number : Nat
  deriving DecidableEq, Repr

/-- A hardware error that is to come about (R353, R354, R396, R397): at the next word, a residue mismatch in a lane of a register
or of its Rime lane, which the replay meets again or not, or an uncorrectable error of a register file; at the next memory
response, a correctable error of a die's SRAM, an uncorrectable one in a core's own data, in a clean line of a die, in other data of
memory, in a clean line of the Neve, in a word of scheduler memory, a correctable or an uncorrectable remap error. -/
inductive Upset where
  | residue (again : Bool) (lane reg : Nat) (rime : Bool)
  | register (lane reg : Nat)
  | corrected (die : Nat)
  | sram (core : Nat) (cell : BadCell)
  | clean (die : Nat) (line : Nat)
  | data (die : Nat) (line : Nat)
  | neve (line : Nat)
  | sched (word : Nat)
  | remapCorrected (stack : Nat)
  | remap (stack pc : Nat)
  deriving DecidableEq, Repr

/-- The state of the package. `writes` holds the writes that wait at each line in the order of their arrival (R261), `outside`
the requests of outside agents, `early` what has been performed ahead of a narrower order (R246). `agenda`, `upsets`, `issue`
and `issuing` are the model's schedule and `fresh` its counter for free values (log 1, log 2); everything else is the spec's. -/
structure State where
  mem : Tbl Byte
  tags : Tbl Word
  poison : Tbl Bool
  floes : Tbl Floe
  packs : Tbl Pack
  cores : Tbl Core
  dies : Tbl Die
  hbms : Tbl Stack
  hub : Hub
  pend : Tbl Acc
  fences : List FenceRec
  copies : List Copy
  drains : List Drain
  seracs : List Serac
  writes : Tbl (List Writer)
  outside : List Outside
  early : List Early
  agenda : List (Nat × Instr)
  upsets : List Upset
  issue : List Nat
  issuing : Option Issue
  fresh : Nat
  deriving DecidableEq, Repr

/-- The package right after module reset: every register at its reset value, no floe resident, memory with nothing
listed, nothing scheduled. -/
def State.reset : State :=
  { mem := [], tags := [], poison := [], floes := [], packs := [], cores := [], dies := [], hbms := [], hub := Hub.reset,
    pend := [], fences := [], copies := [], drains := [], seracs := [], writes := [], outside := [], early := [], agenda := [], upsets := [], issue := [],
    issuing := none, fresh := 0 }

/-! ### How a step can stop -/

/-- The model's own stops. All are safe: none is reached from a state of the hardware, where every event names an object
that is there and every word has a floe that issues it. -/
inductive Fault where
  /-- An instruction word was run at a state in which no floe is issuing. Raised by every instruction meaning. Safe. -/
  | notIssuing
  /-- An event names a floe, pack, access or other object that does not exist. Raised by event meanings. Safe. -/
  | noObject
  /-- An event was run although the condition that R-rules set for it does not hold. Raised by event meanings. Safe. -/
  | notDue
  deriving DecidableEq, Repr

/-- Refusals. -/
inductive Refusal where
  /-- The instruction has no meaning yet. Raised by the dispatch. Safe. -/
  | notModelled (mnemonic : String)
  deriving DecidableEq, Repr

end Sys2Proof.Machine
end

