-- ==== Sys2Proof/Machine/Ops.lean ====
section
/-! DEFINITION. The named operations over the state: lane masks, the objects of the machine, the registers of a floe with
the run hazards of R30 and R31, memory bytes and bound tags, what an issuing word sees and how it ends, taking a trap and
returning from one (R302 to R307). -/

namespace Sys2Proof.Machine
open Sys2Proof

/-- An outcome of this machine. -/
abbrev Out := Host.Outcome State Fault Refusal

/-! ### Lane masks -/

/-- Whether lane l belongs to a mask. -/
def has (m : Mask) (l : Nat) : Bool := m.getLsbD l

/-- The lanes that meet a condition. -/
def maskWhere (p : Nat → Bool) : Mask :=
  BitVec.ofNat 64 ((List.range 64).foldl (fun n l => if p l then n + 2 ^ l else n) 0)

/-- The lanes of a mask in ascending order. -/
def lanesOf (m : Mask) : List Nat := (List.range 64).filter (has m)

/-- The lowest lane of a mask, 64 for none. -/
def lowest (m : Mask) : Nat := (lanesOf m).headD 64

/-- Popc. -/
def popc (m : Mask) : Nat := (lanesOf m).length

/-- Every lane. -/
def allLanes : Mask := 0xFFFFFFFFFFFFFFFF

/-! ### Objects of the machine -/

namespace State
/-- Core number c. -/
def core (s : State) (c : Nat) : Core := s.cores.getD c Core.reset
/-- Die number d. -/
def die (s : State) (d : Nat) : Die := s.dies.getD d Die.reset
/-- Stack number n. -/
def stack (s : State) (n : Nat) : Stack := s.hbms.getD n Stack.reset
def setCore (s : State) (c : Nat) (x : Core) : State := { s with cores := s.cores.put c x }
def setDie (s : State) (d : Nat) (x : Die) : State := { s with dies := s.dies.put d x }
def setStack (s : State) (n : Nat) (x : Stack) : State := { s with hbms := s.hbms.put n x }
def setFloe (s : State) (k : Nat) (f : Floe) : State := { s with floes := s.floes.put k f }
def setPack (s : State) (k : Nat) (p : Pack) : State := { s with packs := s.packs.put k p }
def setHub (s : State) (h : Hub) : State := { s with hub := h }
/-- Applies f to the floe at key k, if it is there. -/
def modFloe (s : State) (k : Nat) (f : Floe → Floe) : State :=
  match s.floes.find? k with
  | some x => s.setFloe k (f x)
  | none => s
/-- Applies f to the pack at key k, if it is there. -/
def modPack (s : State) (k : Nat) (f : Pack → Pack) : State :=
  match s.packs.find? k with
  | some x => s.setPack k (f x)
  | none => s
/-- Takes a value of the model's counter for free values (DESIGN CHOICE, log 2). -/
def bump (s : State) : State := { s with fresh := s.fresh + 1 }
end State

/-- The core of a floe or pack key. -/
def coreOf (key : Nat) : Nat := key / 64
/-- The die of a core (R8). -/
def dieOf (core : Nat) : Nat := core / 40
/-- The quad of a core (R8). -/
def quadOf (core : Nat) : Nat := core / 4

/-- Firn as a die's agents read it (R254). -/
def State.firn (s : State) (core : Nat) : Word := (s.die (dieOf core)).firn

/-- Reduced service (R395). -/
def State.reduced (s : State) : Bool := s.hub.bootPhase == 2

/-! ### Bytes of memory and bound tags -/

/-- What a byte of memory that no write has reached reads as (DESIGN CHOICE, log 3). -/
def memDefault : Byte := 0

/-- The canonical form of memory: addresses rise, and no entry is what an unlisted address reads as. -/
def Memory.wf (m : Tbl Byte) : Bool := m.canonical memDefault

/-- The byte at physical address a (DESIGN CHOICE, log 3). -/
def State.byte (s : State) (a : Nat) : Byte := s.mem.getD a memDefault

/-- Writes one byte. -/
def State.setByte (s : State) (a : Nat) (b : Byte) : State := { s with mem := s.mem.set memDefault a b }

/-- n bytes from physical address a. -/
def State.bytes (s : State) (a n : Nat) : List Byte := (List.range n).map fun i => s.byte (a + i)

/-- Writes consecutive bytes from physical address a. -/
def State.setBytes (s : State) (a : Nat) : List Byte → State
  | [] => s
  | b :: t => (s.setByte a b).setBytes (a + 1) t

/-- The number that bytes denote, little-endian (R6). -/
def leNat (bs : List Byte) : Nat := bs.foldr (fun b n => b.toNat + 256 * n) 0

/-- n bytes of a number, little-endian. -/
def natLe (n v : Nat) : List Byte := (List.range n).map fun i => BitVec.ofNat 8 (v / 256 ^ i)

/-- The line of an address. -/
def lineOf (a : Nat) : Nat := a / 128

/-- The bound tag of the line that holds address a (DESIGN CHOICE, log 3). -/
def State.tag (s : State) (a : Nat) : Word := s.tags.getD (lineOf a) 0

/-- Writes the bound tag of the line that holds address a. -/
def State.setTag (s : State) (a : Nat) (t : Word) : State := { s with tags := s.tags.set 0 (lineOf a) t }

/-- BoundMax of the quarters of tagged memory that bytes a to a + n - 1 touch (R86). -/
def State.tagBound (s : State) (a n : Nat) : Bound :=
  if n = 0 then 0 else
  boundMaxL ((List.range ((a + n - 1) / 32 - a / 32 + 1)).map fun i =>
    let q := a / 32 + i
    quarterBound (s.tag (q * 32)) (q % 4))

/-- Writes of bytes without those that a later one of them replaces. -/
def lastOnly : List (Nat × Bound) → List (Nat × Bound)
  | [] => []
  | e :: t => if t.any fun x => x.1 == e.1 then lastOnly t else e :: lastOnly t

/-- The merge of R87 at one line: `new q` lists the bounds of the bytes written in quarter q. -/
def mergeTag (old : Word) (new : Nat → List Bound) : Word :=
  let nq (q : Nat) : Bound :=
    let w := new q
    if w.isEmpty then quarterBound old q
    else if 32 ≤ w.length then boundMaxL w
    else boundMax (quarterBound old q) (boundMaxL w)
  tagOf (nq 0) (nq 1) (nq 2) (nq 3)

/-- Merges the bounds of written bytes, as address and bound, into the tags of their lines; `prior` are the bytes that the same
instruction has stored before, which count with them in the quarters that these lie in (R87; DEDUCED, log 36). -/
def State.mergeTags (s : State) (w : List (Nat × Bound)) (prior : List (Nat × Bound) := []) : State :=
  let lines := (w.map fun e => lineOf e.1).eraseDups
  let new (q : Nat) : List Bound :=
    let here := w.filter fun e => e.1 / 32 == q
    if here.isEmpty then [] else (lastOnly ((prior.filter fun e => e.1 / 32 == q) ++ here)).map (·.2)
  lines.foldl (fun s ln => s.setTag (ln * 128) (mergeTag (s.tag (ln * 128)) fun q => new (ln * 4 + q))) s

/-! ### Scratchpad of a core -/

/-- The byte of the core's banks at address bank * 65536 + byte. -/
def Core.padByte (c : Core) (a : Nat) : Byte := c.spad.getD a 0
def Core.setPadByte (c : Core) (a : Nat) (b : Byte) : Core := { c with spad := c.spad.set 0 a b }
/-- The bound of a quarter (R89). -/
def Core.padBound (c : Core) (q : Nat) : Bound := c.spadB.getD q 0

/-- The address in the core's banks of scratchpad offset o (R323). -/
def padAddr (banks : List Nat) (o : Nat) : Nat := banks.getD (o / 65536) 0 * 65536 + o % 65536

/-- The size of a pack's scratchpad (R323). -/
def Pack.padSize (p : Pack) : Nat := p.banks.length * 65536

/-- n bytes at scratchpad offset o. -/
def padRead (c : Core) (p : Pack) (o n : Nat) : List Byte := (List.range n).map fun i => c.padByte (padAddr p.banks (o + i))

/-- BoundMax of the quarters that n bytes at scratchpad offset o touch (R89, R86). -/
def padReadBound (c : Core) (p : Pack) (o n : Nat) : Bound :=
  if n = 0 then 0 else
  boundMaxL ((List.range ((o + n - 1) / 32 - o / 32 + 1)).map fun i => c.padBound (padAddr p.banks ((o / 32 + i) * 32) / 32))

/-- Whether a scratchpad offset lies in a barrier object, whose words carry no bound (R89). -/
def Core.isObj (c : Core) (p : Pack) (o : Nat) : Bool := c.bars.getD (padAddr p.banks o / 16) false

/-- A quarter written whole is no longer poisoned (R397; DESIGN CHOICE, log 46). -/
def Core.heal (c : Core) (p : Pack) (w : List (Nat × Byte × Bound)) : Core :=
  { c with bad := c.bad.filter fun x => match x with
    | .quarter q => (w.filter fun e => padAddr p.banks e.1 / 32 == q).length < 32
    | _ => true }

/-- Writes bytes with their bounds at distinct scratchpad offsets, merging bounds by quarter (R89; DEDUCED, log 37). -/
def padWrite (c : Core) (p : Pack) (w : List (Nat × Byte × Bound)) : Core :=
  let c' := w.foldl (fun c e => c.setPadByte (padAddr p.banks e.1) e.2.1) c
  let t := w.filter fun e => !c.isObj p e.1
  let qs := (t.map fun e => e.1 / 32).eraseDups
  qs.foldl (fun c q =>
    let bs := (t.filter fun e => e.1 / 32 == q).map (·.2.2)
    let k := padAddr p.banks (q * 32) / 32
    let nb := if 32 ≤ bs.length then boundMaxL bs else boundMax (c.padBound k) (boundMaxL bs)
    { c with spadB := c.spadB.set 0 k nb }) (c'.heal p w)

/-- n bytes at scratchpad offset o, each with the bound of its quarter (R89). -/
def padLoad (c : Core) (p : Pack) (o n : Nat) : List (Byte × Bound) :=
  (List.range n).map fun i =>
    let a := padAddr p.banks (o + i)
    (c.padByte a, if c.isObj p (o + i) then 0 else c.padBound (a / 32))

/-- Writes consecutive bytes with one bound at scratchpad offset o. -/
def padStore (c : Core) (p : Pack) (o : Nat) (bs : List Byte) (b : Bound) : Core :=
  padWrite c p (bs.zipIdx.map fun e => (o + e.2, e.1, b))

/-! ### What an issuing word sees -/

/-- The context of an issuing word: the state, floe, word, issue number, run, guarded mask (R27), and S marker. -/
structure Ctx where
  s : State
  key : Nat
  pc : BitVec 48
  word : Word
  num : Nat
  f : Floe
  r : Run
  act : Mask
  mark : Bool
  deriving DecidableEq, Repr

/-- Operand positions, which keep the free choices of R30 apart. -/
inductive Pos where
  | a | b | c | d | guard | keep
  deriving DecidableEq, Repr

/-- The number of a position. -/
def Pos.num : Pos → Nat
  | .a => 0
  | .b => 1
  | .c => 2
  | .d => 3
  | .guard => 4
  | .keep => 5

/-- A vector register of the floe as it stands. -/
def Floe.vreg (f : Floe) (r : Nat) : VRow := f.v.getD r VRow.zero
/-- A uniform register as it stands: s0 is zero (R37). -/
def Floe.sreg (f : Floe) (r : Nat) : Word := if r = 0 then 0 else f.s.getD r 0
/-- A predicate as it stands: p0 is all ones (R38). -/
def Floe.preg (f : Floe) (r : Nat) : Mask := if r = 0 then allLanes else f.p.getD r 0

/-- The lanes of two rows, the second's where p holds. -/
def VRow.pick (x y : VRow) (p : Nat → Bool) : VRow :=
  ⟨Vector.ofFn fun l => if p l.val then y.val[l] else x.val[l], Vector.ofFn fun l => if p l.val then y.bnd[l] else x.bnd[l]⟩

/-- A vector register read by a word (R28, R30): after a write of the same run, each lane is the value from when the run
issued or that of the latest write (DEDUCED, log 7). -/
def readV (f : Floe) (r : Run) (num : Nat) (pos : Pos) (reg : Nat) : VRow :=
  match r.vOld.find? reg with
  | none => f.vreg reg
  | some h => h.last.pick h.old (Config.hazard num pos.num reg)

/-- A uniform register read by a word (R30, R37; DEDUCED, log 7). -/
def readS (f : Floe) (r : Run) (num : Nat) (pos : Pos) (reg : Nat) : Word :=
  if reg = 0 then 0 else
  match r.sOld.find? reg with
  | none => f.sreg reg
  | some (old, last) => if Config.hazard num (16 + pos.num) reg 0 then old else last

/-- A predicate read by a word (R30, R38; DEDUCED, log 7). -/
def readP (f : Floe) (r : Run) (num : Nat) (pos : Pos) (reg : Nat) : Mask :=
  if reg = 0 then allLanes else
  match r.pOld.find? reg with
  | none => f.preg reg
  | some old =>
    let m := maskWhere (Config.hazard num (32 + pos.num) reg)
    (old &&& m) ||| (f.preg reg &&& ~~~m)

/-- A word's write of the lanes of a mask of a vector register (R32, R30): a lane written twice in the run keeps either
value (DEDUCED, log 7). -/
def writeV (f : Floe) (r : Run) (num : Nat) (reg : Nat) (m : Mask) (x : VRow) : Floe × Run :=
  if m = 0 then (f, r) else
  let cur := f.vreg reg
  match r.vOld.find? reg with
  | none =>
    let n := cur.pick x (has m)
    ({ f with v := f.v.put reg n }, { r with vOld := r.vOld.put reg ⟨m, cur, n⟩ })
  | some h =>
    let kept := cur.pick x fun l => has m l && !(has h.mask l && Config.hazard num (48 + Pos.keep.num) reg l)
    ({ f with v := f.v.put reg kept }, { r with vOld := r.vOld.put reg ⟨h.mask ||| m, h.old, h.last.pick x (has m)⟩ })

/-- A word's write of a uniform register (R37, R30; DEDUCED, log 7). -/
def writeS (f : Floe) (r : Run) (num : Nat) (reg : Nat) (x : Word) : Floe × Run :=
  if reg = 0 then (f, r) else
  let cur := f.sreg reg
  match r.sOld.find? reg with
  | none => ({ f with s := f.s.set 0 reg x }, { r with sOld := r.sOld.put reg (cur, x) })
  | some (old, _) =>
    ({ f with s := f.s.set 0 reg (if Config.hazard num (64 + Pos.keep.num) reg 0 then cur else x) },
      { r with sOld := r.sOld.put reg (old, x) })

/-- A word's write of the bits of a mask of a predicate (R32, R38; DEDUCED, log 7). -/
def writeP (f : Floe) (r : Run) (reg : Nat) (m x : Mask) : Floe × Run :=
  if reg = 0 then (f, r) else
  let cur := f.preg reg
  ({ f with p := f.p.set 0 reg ((cur &&& ~~~m) ||| (x &&& m)) },
    { r with pOld := match r.pOld.find? reg with
        | none => r.pOld.put reg cur
        | some _ => r.pOld })

namespace Ctx
/-- The vector register named by an operand. -/
def v (c : Ctx) (pos : Pos) (r : VReg) : VRow := readV c.f c.r c.num pos r.toNat
/-- The vector register k above the one named. -/
def vAt (c : Ctx) (pos : Pos) (r : VReg) (k : Nat) : VRow := readV c.f c.r c.num pos (r.toNat + k)
/-- The uniform register named by an operand. -/
def sr (c : Ctx) (pos : Pos) (r : SReg) : Word := readS c.f c.r c.num pos r.toNat
/-- The uniform register k above the one named. -/
def srAt (c : Ctx) (pos : Pos) (r : SReg) (k : Nat) : Word := readS c.f c.r c.num pos (r.toNat + k)
/-- The predicate named by an operand. -/
def p (c : Ctx) (pos : Pos) (r : PReg) : Mask := readP c.f c.r c.num pos r.toNat
/-- The core, die and pack of the issuing floe. -/
def core (c : Ctx) : Nat := coreOf c.key
def die (c : Ctx) : Nat := dieOf c.core
def pack? (c : Ctx) : Option Pack := c.s.packs.find? c.f.pack
/-- Writes lanes of a vector register. -/
def setV (c : Ctx) (r : Nat) (m : Mask) (x : VRow) : Ctx :=
  let (f, q) := writeV c.f c.r c.num r m x
  { c with f := f, r := q }
/-- Writes a uniform register. -/
def setS (c : Ctx) (r : SReg) (x : Word) : Ctx :=
  let (f, q) := writeS c.f c.r c.num r.toNat x
  { c with f := f, r := q }
/-- Writes bits of a predicate. -/
def setP (c : Ctx) (r : PReg) (m x : Mask) : Ctx :=
  let (f, q) := writeP c.f c.r r.toNat m x
  { c with f := f, r := q }
/-- R32: an effect that takes place once, when ACTIVE holds a lane. -/
def once (c : Ctx) (k : Ctx → Ctx) : Ctx := if c.act = 0 then c else k c
/-- The floe is in handler mode (R36). -/
def handler (c : Ctx) : Bool := c.f.handler
end Ctx

/-- The number of words after which a run ends (R27). -/
def runLimit : Nat := 32

/-- A word with its marker S set. -/
def marked (w : Word) : Word := w ||| 0x8000000000000000

/-- A word of a run as it behaves: the 32nd as if its S were set (R27). -/
def Run.behaves (r : Run) (w : Word) : Word := if r.count + 1 = runLimit then marked w else w

/-- The word has issued: the run moves to the next word, and ends after a word with S = 1 or its 32nd word (R27). The
meaning's changes to the floe and its run stand in the context. -/
def retire (c : Ctx) : State :=
  let r := { c.r with pc := c.pc + 8, count := c.r.count + 1, ended := c.r.ended || c.mark || c.r.count + 1 == runLimit }
  { c.s with floes := c.s.floes.put c.key { c.f with run := some r }, issuing := none }

/-- An operation on the whole state from within a word: it sees the floe as the word has left it, and the word goes on with
the floe as the operation leaves it. -/
def Ctx.via (c : Ctx) (g : State → State) : Ctx :=
  let s := g { c.s with floes := c.s.floes.put c.key { c.f with run := some c.r } }
  match s.floes.find? c.key with
  | some f => { c with s := s, f := f, r := f.run.getD c.r }
  | none => { c with s := s }

/-- The word ends its run whatever its marker: a control transfer (R29). -/
def Ctx.endRun (c : Ctx) : Ctx := { c with r := { c.r with ended := true } }

/-- A word cause (R302, R304): the run ends at the word, which has no effect; the trap is taken once every earlier word has
taken full effect. -/
def trapWord (c : Ctx) (cause : BitVec 8) (mask : Mask) (addr info : Word) (host : Bool) : State :=
  let t : Trap := { cause := cause, pc := c.pc, mask := mask, addr := addr, info := info, host := host }
  let r := { c.r with ended := true, trap := some t }
  { c.s with floes := c.s.floes.put c.key { c.f with run := some r }, issuing := none }

/-- A word cause that is no denial by the host. -/
def trapAt (c : Ctx) (cause : BitVec 8) (mask : Mask) (addr info : Word) : State := trapWord c cause mask addr info false

/-- An issue-time cause (R106): the issuing entry's mask, no address, the raw word. -/
def trapIssue (c : Ctx) (cause : BitVec 8) : State := trapAt c cause c.r.mask 0 c.word

/-- ILLEGAL_OPERAND (R106). -/
def illegalOperand (c : Ctx) : State := trapIssue c 0x02
/-- ILLEGAL_SHAPE (R106; DEDUCED, log 43). -/
def illegalShape (c : Ctx) : State := trapIssue c 0x03

/-- A boundary cause that the run itself raises (R302): taken when the run has ended. -/
def Ctx.raise (c : Ctx) (t : BTrap) : Ctx := { c with f := { c.f with traps := c.f.traps ++ [t] } }

/-! ### Sticky effects of words that are over (R31, R304) -/

/-- A floe's governing and sticky registers as an effect of a word of a run leaves them: where that run is over, the effect stands
before the run in progress too. -/
def Floe.lateSys (f : Floe) (run : Option Nat) (g : SysRegs → SysRegs) : Floe :=
  { f with sys := g f.sys, run := f.run.map fun r => if some r.number = run then r else { r with sysOld := g r.sysOld } }

/-- The same in the floe and in the floe as its pending accesses from a number on would restore it (R304). -/
def State.lateSys (s : State) (key seq since : Nat) (run : Option Nat) (g : SysRegs → SysRegs) : State :=
  let back (e : Nat × Acc) : Nat × Acc :=
    if e.2.floe = key ∧ e.2.seq = seq ∧ since ≤ e.1 then (e.1, { e.2 with snap := e.2.snap.map fun f => f.lateSys run g }) else e
  { s with pend := s.pend.map back }.modFloe key fun f => if f.seq = seq then f.lateSys run g else f

/-! ### Halting, trap entry and return (R305 to R307) -/

/-- The lanes that have not exited: those of the frontier and of the run. -/
def Floe.live (f : Floe) : Mask :=
  f.frontier.foldl (fun m e => m ||| e.mask) (match f.run with | some r => r.mask | none => 0)

/-- The field VALID of HALTLOG, WDLOG and MFLOG. -/
def logValid : Word := 0x8000000000000000

/-- Raises an MSI-X vector (R390). -/
def State.interrupt (s : State) (v : Nat) : State := { s with hub := { s.hub with vectors := s.hub.vectors ++ [v] } }

/-- Reports a halted floe in HALTLOG and HALTADDR, which record the first halt after VALID is cleared, and raises vector 19
(R236, R306, R389, R390; DEDUCED, log 28). -/
def reportHalt (s : State) (key : Nat) (f : Floe) (cause : BitVec 8) (hfault : Bool) (addr : Word) : State :=
  let h := s.hub
  let h := if h.haltlog &&& logValid = 0 then
      { h with
        haltlog := logValid ||| (if hfault then 0x4000000000000000 else 0) ||| (cause.setWidth 64 <<< 54) |||
          (f.ctx.setWidth 64 <<< 40) ||| (BitVec.ofNat 64 (coreOf key) <<< 31) ||| (BitVec.ofNat 64 (key % 64) <<< 25)
        haltaddr := addr }
    else h
  ({ s with hub := h }).interrupt 19

/-- The address of the faulting word as HALTADDR reports it (R389): SWTRAP gives it in XADDR (R230), and every other cause carries
it as its PC in handler mode (`State.takeBoundary`). -/
def Trap.wordAddr (t : Trap) : Word := if t.cause = 0x42 then t.addr else t.pc.setWidth 64

/-- TRAP ENTRY (R305) for the floe at a key, whose frontier holds the trapping entry at its resume point: writes XPC,
XCAUSE, XMASK, XADDR and XINFO, sets the frontier aside with the trapping entry's priority, sets p14 to that entry's mask
and p15 to the lanes that have not exited, and forms one entry at XBASE with priority 255. In handler mode the cause stops
the floe instead and is reported as a handler fault (R306). -/
def takeTrap (s : State) (key : Nat) (f : Floe) (t : Trap) (mask : Mask) (prio : BitVec 8) : State :=
  if f.handler then
    reportHalt (s.setFloe key { f with halted := true }) key f t.cause true t.wordAddr
  else
    let live := f.live
    s.setFloe key
      { f with
        xpc := t.pc, xcause := (if t.host then 0x200 else 0) ||| t.cause.setWidth 10, xmask := t.mask, xaddr := t.addr,
        xinfo := t.info, intFrontier := f.frontier, trapPrio := prio, loaded := none, handler := true,
        p := (f.p.set 0 14 mask).set 0 15 live,
        frontier := if live = 0 then [] else [{ pc := f.xbase, prio := 255, flags := 0, mask := live }] }

/-- Removes lanes from every entry; entries left empty go (R307, R19). -/
def removeLanes (fr : List Entry) (m : Mask) : List Entry :=
  (fr.map fun e => { e with mask := e.mask &&& ~~~m }).filter fun e => e.mask != 0

/-- Adds one entry to a frontier, merging as R21 does: eligible entries at one PC, and entries that wait with RCWAIT alone
at one word, become one with the higher priority. -/
def addEntry : List Entry → Entry → List Entry
  | [], e => [e]
  | x :: t, e =>
    if x.pc = e.pc ∧ x.flags = e.flags ∧ (x.flags = 0 ∨ x.flags = 2) then
      { x with
        mask := x.mask ||| e.mask, prio := if x.prio.toNat < e.prio.toNat then e.prio else x.prio
        denied := x.denied ||| e.denied, deniedFetch := x.deniedFetch ||| e.deniedFetch } :: t
    else x :: addEntry t e

/-- The merge of R21. -/
def mergeFrontier (fr : List Entry) : List Entry := fr.foldl addEntry []

/-- The frontier that RFT rebuilds from F, XPC, XMASK and KILL, or none for the handler fault of R307. A lane that has exited in
handler mode is in no entry (R126). -/
def rftFrontier (fr : List Entry) (live : Mask) (prio : BitVec 8) (xpc : BitVec 48) (xmask : Mask) (kill : Bool) :
    Option (List Entry) :=
  let m := xmask &&& live
  if m != 0 && !kill && xpc.toNat % 8 != 0 then none
  else
    let fr := removeLanes fr (m ||| ~~~live)
    some (mergeFrontier (if !kill && m != 0 then fr ++ [{ pc := xpc, prio := prio, flags := 0, mask := m }] else fr))

end Sys2Proof.Machine
end

