-- ==== Sys2Proof/Machine/Translate.lean ====
section
/-! DEFINITION. The physical map (R337), HBM address mapping (R347 to R349), poison (R354, R374, R395), and address
translation: page table entries (R335, R336, R350), walks and their caches under leases (R265 to R268, R338, R339), the
Moraine check of R274 and the recording of page faults (R342). -/

namespace Sys2Proof.Machine
open Sys2Proof

/-! ### Physical memory -/

/-- The first address above device HBM (R337). -/
def hbmTop : Nat := 0xF000000000
/-- The bases of the host, pool and MMIO ranges (R337). -/
def hostBase : Nat := 0x100000000000
def poolBase : Nat := 0x400000000000
def mmioBase : Nat := 0xF00000000000

/-- The first offset of scheduler memory, and the size of the window (R380). -/
def schedBase : Nat := 0x800000
def windowSize : Nat := 0x1000000
def mmioTop : Nat := 0x1000000000000

/-- KIND of a physical address (R337); 4 for the reserved ranges. -/
def kindOf (a : Nat) : Nat :=
  if a < hbmTop then 0
  else if a < hostBase then 4
  else if a < poolBase then 1
  else if a < mmioBase then 2
  else if a < mmioTop then 3
  else 4

/-- LINBASE (R347). -/
def Hub.linbase (h : Hub) : Nat := h.linseg.toNat * 0x20000000

/-- Bits [i+n-1:i] of a number. -/
def bitsAt (x i n : Nat) : Nat := x / 2 ^ i % 2 ^ n

/-- Stack and PC index of a device HBM address (R348, R349). -/
def Hub.hbmLoc (h : Hub) (p : Nat) : Nat × Nat :=
  if p < h.linbase then (bitsAt p 12 4 ^^^ bitsAt p 16 4, 32 * bitsAt p 20 1 + bitsAt p 7 5)
  else
    let k := (p - h.linbase) / 65536
    (bitsAt k 0 4, bitsAt k 4 6)

/-- Group of a row-linear address within its pseudo-channel, with stack and PC index (R349): two rows lie in one subarray
exactly when these agree. -/
def Hub.group (h : Hub) (p : Nat) : Nat × Nat × Nat :=
  let k := (p - h.linbase) / 65536
  (bitsAt k 0 4, bitsAt k 4 6, k / 8192)

/-- The die of a stack (R348: stack 3 is on die 1). -/
def dieOfStack (n : Nat) : Nat := n / 2

/-- Whether the pseudo-channel of a device HBM address is fenced (R354). -/
def State.fenced (s : State) (a : Nat) : Bool :=
  let (n, pc) := s.hub.hbmLoc a
  (s.stack n).fenced.getLsbD pc

/-- Base and size in bytes of a CXL window (R373). -/
def winBase (w : Word) : Nat := bitsAt w.toNat 30 22 * 0x40000000
def winSize (w : Word) : Nat := 2 ^ bitsAt w.toNat 24 6 * 0x40000000
def winEn (w : Word) : Bool := w.getLsbD 63

/-- The enabled window that claims an address (R373). -/
def Hub.window (h : Hub) (a : Nat) : Option Word :=
  h.cxlwin.toList.find? fun w => winEn w && decide (winBase w ≤ a) && decide (a < winBase w + winSize w)

/-- A KIND-2 address that no window claims (R374). -/
def State.unclaimed (s : State) (a : Nat) : Bool := kindOf a == 2 && (s.hub.window a).isNone

/-- Where the byte at a physical address is kept: of pool and peer memory, at its offset in the device that its window selects,
above the physical addresses (R373; DESIGN CHOICE, log 6). -/
def Hub.cell (h : Hub) (a : Nat) : Nat :=
  if kindOf a ≠ 2 then a
  else
    match h.window a with
    | none => a
    | some w =>
      let device := if bitsAt w.toNat 61 2 = 1 then 16 + bitsAt w.toNat 55 4 else bitsAt w.toNat 59 2
      mmioTop * (1 + device) + (a - winBase w)

/-- n bytes of memory from a physical address. -/
def State.pbytes (s : State) (a n : Nat) : List Byte := (List.range n).map fun i => s.byte (s.hub.cell (a + i))

/-- A line that a Serac operation has marked as busy (R357). -/
def State.busy (s : State) (a : Nat) : Bool :=
  s.seracs.any fun x => x.forked && (x.dRows ++ x.aRows ++ x.bRows ++ x.eRows).any fun r => r == a / 1024 * 1024

/-- Line number n of a die's L2. -/
def Die.line (d : Die) (n : Nat) : L2Line := d.l2.getD n L2Line.none

/-- The end of the device memory that the Neve holds in reduced service (R395). -/
def reducedTop : Nat := 0x100000000

/-- Whether a line of device memory is out of reach at its home: its pseudo-channel is fenced, and no copy of the Neve serves it
(R354), which holds all of the first 4 GiB in reduced service (R395); an access to a busy line is performed at its row (R357; DESIGN
CHOICE, log 53). -/
def State.fencedOut (s : State) (a : Nat) : Bool :=
  kindOf a == 0 && s.fenced a && (s.busy a || !(s.hub.neve.getD (lineOf a) false || (s.reduced && decide (a < reducedTop))))

/-- Whether a line reads as poison whatever copies there are (R359, R374, R395, R397). -/
def State.dead (s : State) (a : Nat) : Bool :=
  s.poison.getD (lineOf a) false ||
    match kindOf a with
    | 0 => s.reduced && decide (reducedTop ≤ a)
    | 2 => s.unclaimed a
    | 1 => false
    | 3 => s.hub.schedBad.contains ((a - mmioBase - schedBase) / 8) && decide (mmioBase + schedBase ≤ a)
    | _ => true

/-- Whether a line reads as poison at its home (R354; DEDUCED, log 27). -/
def State.poisoned (s : State) (a : Nat) : Bool := s.dead a || s.fencedOut a

/-- Whether a line reads as poison for an agent of a die, whose L2 copy keeps serving (R354). -/
def State.poisonedAt (s : State) (die a : Nat) : Bool :=
  s.dead a || (s.fencedOut a && (s.busy a || ((s.die die).line (lineOf a)).st == .i))

/-- Whether a write to an address is discarded (R354, R374; in reduced service, DEDUCED, log 27). -/
def State.discards (s : State) (a : Nat) : Bool :=
  match kindOf a with
  | 0 => s.fenced a || (s.reduced && decide (reducedTop ≤ a))
  | 2 => s.unclaimed a
  | 1 | 3 => false
  | _ => true

/-- Notes an access to an unclaimed address in CXLSTAT.UNCL (R374). -/
def State.noteUnclaimed (s : State) (a : Nat) : State :=
  if s.unclaimed a then s.setHub { s.hub with uncl := true } else s

/-- The same for an address that a walk may have met. -/
def State.noteUncl (s : State) : Option Nat → State
  | some a => s.noteUnclaimed a
  | none => s

/-! ### The Moraine region (R272, R274) -/

/-- Base of the data range. -/
def Hub.mdataBase (h : Hub) : Nat := h.mdata.toNat * 65536
/-- Base of the record area. -/
def Hub.mrecBase (h : Hub) : Nat := h.mrec.toNat * 131072

/-- Whether an address lies in a versioned data frame of a region in service (DEDUCED, log 44). -/
def Hub.versioned (h : Hub) (a : Nat) : Bool :=
  h.men && decide (h.mdataBase ≤ a) && decide (a < h.mdataBase + h.nframes.toNat * 65536)

/-- Whether an address lies in the record area of a region in service (DEDUCED, log 44). -/
def Hub.inRecords (h : Hub) (a : Nat) : Bool :=
  h.men && decide (h.mrecBase ≤ a) && decide (a < h.mrecBase + h.nframes.toNat * 131072)

/-- Whether an address lies in the data range or in the record area, which no page without VER reaches, whether or not the region is
in service (R274). -/
def Hub.inMoraine (h : Hub) (a : Nat) : Bool :=
  (decide (h.mdataBase ≤ a) && decide (a < h.mdataBase + h.nframes.toNat * 65536)) ||
    (decide (h.mrecBase ≤ a) && decide (a < h.mrecBase + h.nframes.toNat * 131072))

/-! ### Page table entries (R335, R336) -/

/-- Fields of an entry. -/
def pteV (e : Word) : Bool := e.getLsbD 0
def pteW (e : Word) : Bool := e.getLsbD 1
def pteX (e : Word) : Bool := e.getLsbD 2
def pteK (e : Word) : Bool := e.getLsbD 3
def pteB (e : Word) : Bool := e.getLsbD 4
def pteLease (e : Word) : Nat := bitsAt e.toNat 5 4
def pteVer (e : Word) : Bool := e.getLsbD 9
def pteSer (e : Word) : Bool := e.getLsbD 10
def pteBnd (e : Word) : Bool := e.getLsbD 11
def pteLevel (e : Word) : Nat := bitsAt e.toNat 12 2
def pteKind (e : Word) : Nat := bitsAt e.toNat 14 2
def pteFrame (e : Word) : Nat := bitsAt e.toNat 16 36 * 65536

/-- A leaf at a level (R335). -/
def isLeaf (level : Nat) (e : Word) : Bool := level == 3 || pteB e

/-- A malformed entry (R336, R350). -/
def malformed (h : Hub) (level : Nat) (e : Word) : Bool :=
  let frame := pteFrame e
  bitsAt e.toNat 52 12 != 0 || (pteB e && level != 2) || kindOf frame != pteKind e ||
    (if isLeaf level e then
       (pteB e && frame % 0x20000000 != 0) || (pteVer e && pteSer e) || ((pteVer e || pteSer e) && pteKind e != 0) ||
         (pteVer e && pteBnd e) || (pteSer e && decide (frame < h.linbase))
     else bitsAt e.toNat 1 4 != 0 || bitsAt e.toNat 9 5 != 0 || pteKind e == 3)

/-- A canonical virtual address (R333). -/
def canonical (va : Word) : Bool := let t := va.toNat / 2 ^ 54; t == 0 || t == 1023

/-- The index of a virtual address at a level (R333). -/
def vaIndex (va : Word) (level : Nat) : Nat := bitsAt va.toNat (55 - 13 * level) 13

/-! ### Walks (R338, R339) -/

/-- What a walk found: a leaf with its level, or where and how it ended; the expiry of a cached copy (none: single use), the
table entries it may cache, whether its path passes through pool memory (R259), and an unclaimed address that it read (R374). -/
structure WalkOut where
  leaf : Option Word
  level : Nat
  bad : Bool
  expiry : Option Nat
  walks : List Walk
  pool : Bool
  uncl : Option Nat
  deriving DecidableEq, Repr

/-- The effective lease code (R265). -/
def Hub.leaseCode (h : Hub) (e : Word) : Nat := min (pteLease e) h.xcap.toNat

/-- The earlier of two expiries; none is single use. -/
def minExpiry : Option Nat → Option Nat → Option Nat
  | some a, some b => some (min a b)
  | _, _ => none

/-- The expiry of an entry read now by a die (R265, R266), none for code 0, while the die resynchronises (R256) and, where the
path has passed through pool memory, while the package does (R259; DEDUCED, log 41). -/
def State.expiryOf (s : State) (die : Nat) (pool : Bool) (e : Word) : Option Nat :=
  let c := s.hub.leaseCode e
  if c = 0 || s.hub.resync.getLsbD die || (s.hub.podrs && pool) then none
  else some (s.hub.firn.toNat + 2 ^ (c + 5))

/-- The walk cache's entry for a table step, while its lease lasts; not one formed through pool memory while the package
resynchronises to the pod (R259). -/
def State.walkHit (s : State) (die : Nat) (ctx : BitVec 8) (level : Nat) (va : Word) : Option Walk :=
  let d := s.die die
  if s.hub.resync.getLsbD die then none else
  d.walks.find? fun w =>
    w.ctx == ctx && w.level == level && w.top == va.toNat % 2 ^ 55 / 2 ^ (55 - 13 * level) && decide (d.firn.toNat < w.expiry) &&
      !(w.pool && s.hub.podrs)

/-- One walk from table address t at a level, with the expiry so far and whether the path has passed through pool memory;
`fresh` reads every entry (R268). -/
def walkFrom (s : State) (die : Nat) (ctx : BitVec 8) (va : Word) (fresh : Bool) :
    Nat → Nat → Nat → Option Nat → Bool → List Walk → WalkOut
  | 0, level, _, _, pool, ws => ⟨none, level, true, none, ws, pool, none⟩
  | n + 1, level, t, exp, pool, ws =>
    let a := t + 8 * vaIndex va level
    match (if fresh then none else s.walkHit die ctx level va) with
    | some w => walkFrom s die ctx va fresh n (level + 1) (pteFrame w.entry) (minExpiry exp (some w.expiry)) (pool || w.pool) ws
    | none =>
      let pool := pool || kindOf a == 2
      if s.poisoned a then ⟨none, level, true, none, ws, pool, if s.unclaimed a then some a else none⟩
      else
        let e : Word := BitVec.ofNat 64 (leNat (s.pbytes a 8))
        if !pteV e then ⟨none, level, false, none, ws, pool, none⟩
        else if malformed s.hub level e then ⟨none, level, true, none, ws, pool, none⟩
        else
          let x := s.expiryOf die pool e
          if isLeaf level e then ⟨some e, level, false, minExpiry exp x, ws, pool, none⟩
          else
            let ws := match x with
              | some t => ⟨ctx, level, va.toNat % 2 ^ 55 / 2 ^ (55 - 13 * level), e, t, pool⟩ :: ws
              | none => ws
            walkFrom s die ctx va fresh n (level + 1) (pteFrame e) (minExpiry exp x) pool ws

/-- A walk of a virtual address from a root (R338; DEDUCED, log 41). -/
def State.walk (s : State) (die : Nat) (ctx : BitVec 8) (root : Nat) (va : Word) (fresh : Bool) : WalkOut :=
  walkFrom s die ctx va fresh 3 1 root (some (2 ^ 64)) false []

/-- Puts the table entries of a walk into the die's walk cache. -/
def State.keepWalks (s : State) (die : Nat) (ws : List Walk) : State :=
  if ws.isEmpty then s else
  let d := s.die die
  let old := d.walks.filter fun w => !ws.any fun n => n.ctx == w.ctx && n.level == w.level && n.top == w.top
  s.setDie die { d with walks := ws ++ old }

/-- The first page and the number of pages that a leaf maps. -/
def leafPages (va : Word) (leaf : Word) : Nat × Nat :=
  let p := va.toNat / 65536
  if pteB leaf then (p / 8192 * 8192, 8192) else (p, 1)

/-- The physical address that a leaf gives. -/
def leafPa (leaf : Word) (va : Word) : Nat :=
  if pteB leaf then pteFrame leaf + va.toNat % 0x20000000 else pteFrame leaf + va.toNat % 65536

/-- A translation: physical address, leaf, and when it runs out (R267); or where the walk stopped. -/
inductive TrRes where
  | ok (pa : Nat) (leaf : Word) (exp : Nat)
  | miss (level : Nat) (bad : Bool)
  deriving DecidableEq, Repr

/-- The cached leaf for an address in a list of TLB entries (R266, R267). -/
def tlbHit (t : List Tlb) (ctx : BitVec 8) (va : Word) (now : Nat) : Option Tlb :=
  t.find? fun e =>
    e.ctx == ctx && decide (e.page ≤ va.toNat / 65536) && decide (va.toNat / 65536 < e.page + e.pages) && decide (now < e.expiry)

/-- The agents of a core that translate (R339): its words, by the core TLB, and its Latch engine with `TLDK`, by the walk-ahead
TLB. -/
inductive Agent where
  | words | latch
  deriving DecidableEq, Repr

/-- The TLB of an agent (DEDUCED, log 41). -/
def Core.tlbOf (c : Core) : Agent → List Tlb
  | .words => c.tlb
  | .latch => c.ahead

/-- Replaces the TLB of an agent. -/
def Core.setTlb (c : Core) (t : List Tlb) : Agent → Core
  | .words => { c with tlb := t }
  | .latch => { c with ahead := t }

/-- The cached leaf that an agent of a core may use for an address: none while the die resynchronises (R256), nor one formed
through pool memory while the package does (R259; DEDUCED, log 41). -/
def State.cached (s : State) (g : Agent) (core : Nat) (ctx : BitVec 8) (va : Word) : Option Tlb :=
  if s.hub.resync.getLsbD (dieOf core) then none
  else tlbHit (((s.core core).tlbOf g).filter fun e => !(e.pool && s.hub.podrs)) ctx va (s.firn core).toNat

/-- What a walk found, as a translation: the walk cache keeps its table entries. What may not be cached serves an access that is
accepted at once (R265, R269; DEDUCED, log 41). -/
def State.walked (s : State) (die : Nat) (va : Word) (o : WalkOut) : State × TrRes :=
  let s := s.keepWalks die o.walks
  let s := s.noteUncl o.uncl
  match o.leaf with
  | none => (s, .miss o.level o.bad)
  | some leaf => (s, .ok (leafPa leaf va) leaf (o.expiry.getD s.hub.firn.toNat))

/-- Walks and keeps what may be cached, in the agent's TLB too, in the place of what it held for the page
(DEDUCED, log 41). -/
def State.walkKeep (s : State) (g : Agent) (core : Nat) (ctx : BitVec 8) (root : Nat) (va : Word) (fresh : Bool) : State × TrRes :=
  let die := dieOf core
  let o := s.walk die ctx root va fresh
  let (s, r) := s.walked die va o
  match r, o.expiry with
  | .ok _ leaf _, some x =>
    let c := s.core core
    let (p, n) := leafPages va leaf
    let old := (c.tlbOf g).filter fun e => !(e.ctx == ctx && e.page == p && e.pages == n)
    (s.setCore core (c.setTlb (⟨ctx, p, n, leaf, x, o.pool⟩ :: old) g), r)
  | _, _ => (s, r)

/-- Translates an address for an agent of a core: by its TLB while a lease lasts, else by a walk; a leaf that the use does not
allow is looked up afresh (R268; DEDUCED, log 41). -/
def State.lookup (s : State) (g : Agent) (core : Nat) (ctx : BitVec 8) (root : Nat) (va : Word) (allow : Word → Bool) :
    State × TrRes :=
  match s.cached g core ctx va with
  | some e => if allow e.leaf then (s, .ok (leafPa e.leaf va) e.leaf e.expiry) else s.walkKeep g core ctx root va true
  | none =>
    match s.walkKeep g core ctx root va false with
    | (s, .ok pa leaf exp) => if allow leaf then (s, .ok pa leaf exp) else s.walkKeep g core ctx root va true
    | (s, .miss level bad) => (s, .miss level bad)

/-- The root table from which every walk for a pack starts, as its own node's release read it (R334). -/
def State.rootId (s : State) (id : PackId) : Nat :=
  match s.hub.fields.find? fun f => f.inst == id.inst && f.node == id.node with
  | some f => f.troot
  | none => 0

/-- The same for a resident pack. -/
def State.rootOf (s : State) (p : Pack) : Nat := s.rootId p.id

/-! ### Page faults (R342) -/

/-- The info byte of a fault entry (R342; DEDUCED, log 41). -/
def faultInfo (write fetch engine : Bool) (level : Nat) (bad : Bool) : Byte :=
  (if write then 1 else 0) ||| (if fetch then 2 else 0) ||| (if engine then 4 else 0) ||| BitVec.ofNat 8 (8 * (level % 4)) |||
    (if bad then 32 else 0)

/-- An ID that no outstanding fault has, from n on. -/
def freeId (fs : List FaultRec) : Nat → BitVec 16 → BitVec 16
  | 0, n => n
  | k + 1, n => if fs.any fun f => f.id == n then freeId fs k (n + 1) else n

/-- Records a failed translation: the waiter joins the outstanding entry of the same context and page, or a new entry waits
to be written to the ring (R342, R343). -/
def State.pageFault (s : State) (ctx : BitVec 8) (va : Word) (info : Byte) (core : Nat) (slot : Byte) (w : Waiter) : State :=
  let h := s.hub
  let page := va.toNat / 65536
  if h.faults.any fun f => f.ctx == ctx && f.page == page then
    s.setHub { h with faults := h.faults.map fun f =>
      if f.ctx == ctx && f.page == page then { f with waiters := f.waiters ++ [w] } else f }
  else
    let id := freeId h.faults h.faults.length (BitVec.ofNat 16 (Config.pick 1 s.fresh))
    (s.setHub { h with faults := h.faults ++ [⟨id, ctx, page, va, info, core, slot, false, [w]⟩] }).bump

/-- The ID of the outstanding fault of a context and page (R342). -/
def State.faultId (s : State) (ctx : BitVec 8) (va : Word) : Option (BitVec 16) :=
  (s.hub.faults.find? fun f => f.ctx == ctx && f.page == va.toNat / 65536).map (·.id)

/-- A Latch queue no longer waits on a fault (R344). -/
def State.unwaitQueue (s : State) (id : BitVec 16) (core q : Nat) : State :=
  let h := s.hub
  s.setHub { h with faults := h.faults.map fun f =>
    if f.id = id then { f with waiters := f.waiters.filter (· != .queue core q) } else f }

/-- Lanes of a floe that no longer wait, in handler mode or outside it, leave every outstanding fault. -/
def State.unwait (s : State) (floe seq : Nat) (m : Mask) (handler : Bool) : State :=
  let h := s.hub
  let left : Waiter → Option Waiter
    | .lanes k q n fetch hd =>
      if k = floe ∧ q = seq ∧ hd = handler then (if n &&& ~~~m = 0 then none else some (.lanes k q (n &&& ~~~m) fetch hd))
      else some (.lanes k q n fetch hd)
    | w => some w
  s.setHub { h with faults := h.faults.map fun f => { f with waiters := f.waiters.filterMap left } }

end Sys2Proof.Machine
end

