-- ==== Sys2Proof/Machine/Cache.lean ====
section
/-! DEFINITION. Caches as what they are to a program: L1 leases, lease horizons and the writes that wait for them (spec 12, R260 to
R263), the states of die L2 lines, the directory and the Neve (spec 16, R325 to R328), and the copies of host memory and of the host
(R371, R372). No value depends on them (R173). -/

namespace Sys2Proof.Machine
open Sys2Proof

/-- Replaces line number n of a die's L2. -/
def Die.setLine (d : Die) (n : Nat) (x : L2Line) : Die := { d with l2 := d.l2.set L2Line.none n x }

/-- Duration of an L1 lease class (R260). -/
def leaseTicks (cls : Nat) : Nat := 32 * 4 ^ cls

/-- A core's bank. -/
def Core.bank (c : Core) (b : Nat) : Bank := c.banks.getD b Bank.reset

/-- Whether L1 may hold the line of a physical address (R325). -/
def State.l1able (s : State) (a : Nat) : Bool := kindOf a == 0 && !s.hub.versioned a

/-! ### Writes that wait (R261) -/

/-- Whether an access, image, piece or operation of a number is still to be performed. -/
def State.liveId (s : State) (id : Nat) : Bool :=
  (s.pend.find? id).isSome || s.drains.any (·.id == id) || s.outside.any (·.id == id) || s.seracs.any (·.id == id) ||
    s.cores.any fun e => e.2.queues.any fun q => q.2.any fun r => r.flying.any (·.id == id)

/-- Whether a writer still waits: one that has gone waits no more. -/
def State.liveWriter (s : State) : Writer → Bool
  | .unit id _ => s.liveId id
  | .fault => s.hub.fqen && s.hub.faults.any fun f => !f.written
  | .save id => s.packs.any fun e => e.2.id == id && e.2.saving
  | .image id _ => s.dies.any fun e => e.2.redirects.any fun r => r.pack == id

/-- The writes that wait at a line, in the order in which they arrived. -/
def State.queueAt (s : State) (line : Nat) : List Writer := (s.writes.getD line []).filter s.liveWriter

/-- Whether every lease on the line has run out (R239, R261). -/
def State.horizonPassed (s : State) (a : Nat) : Bool :=
  (List.range 8).all fun d =>
    let die := s.die d
    decide ((die.line (lineOf a)).horizon ≤ die.firn.toNat)

/-- A write has waited on every lease that is running on a line (R262). -/
def L2Line.struck (l : L2Line) (now : Nat) : L2Line :=
  { l with leases := l.leases.map fun x => if now < x.expiry then { x with hit := true } else x }

/-- A write has arrived at a line whose leases are running, or behind others: it waits in the order of arrival, and no lease is
granted on the line until it is performed (R261; DESIGN CHOICE, log 19). -/
def State.writeWaits (s : State) (w : Writer) (line : Nat) : State :=
  let q := s.queueAt line
  if q.contains w then s
  else
    let s := { s with writes := s.writes.put line (q ++ [w]) }
    (List.range 8).foldl (fun s d =>
      let die := s.die d
      s.setDie d (die.setLine line ((die.line line).struck die.firn.toNat))) s

/-- A write waits no more. -/
def State.unqueue (s : State) (w : Writer) : State :=
  let left (e : Nat × List Writer) : Option (Nat × List Writer) :=
    let q := e.2.filter (· != w)
    if q.isEmpty then none else some (e.1, q)
  { s with writes := s.writes.filterMap left }

/-! ### Leases (R260 to R263) -/

/-- A lease has run out or come back: the predictor moves up one class, or down one if a write waited on it (R262). -/
def L2Line.close (l : L2Line) (x : Lease) : L2Line :=
  { l with leases := l.leases.erase x, cls := if x.hit then l.cls - 1 else min 3 (l.cls + 1) }

/-- Closes the leases of a line that have run out (R262). -/
def L2Line.closeOld (l : L2Line) (now : Nat) : L2Line :=
  (l.leases.filter fun x => decide (x.expiry ≤ now)).foldl L2Line.close l

/-- An L1 lookup that hits (R260); a way of a waking bank does not count (R319). -/
def State.l1Hit (s : State) (core a : Nat) : Bool :=
  !s.hub.resync.getLsbD (dieOf core) &&
    match (s.core core).l1.find? (lineOf a) with
    | some l => decide ((s.firn core).toNat < l.expiry) && !((s.core core).bank l.bank).waking
    | none => false

/-- The line leaves the die: every core's L1 copy goes. -/
def State.dropL1 (s : State) (die line : Nat) : State :=
  { s with cores := s.cores.map fun e => if dieOf e.1 = die then (e.1, { e.2 with l1 := e.2.l1.del line }) else e }

/-- The banks whose ways L1 has: in state L1 and not waking (R317, R319). -/
def Core.l1Banks (c : Core) : List Nat :=
  (List.range 16).filter fun b => let x := c.bank b; x.st == .l1 && !x.waking

/-- Ways per L1 set: four per L1 bank (R325). -/
def Core.l1Ways (c : Core) : Nat := 4 * c.l1Banks.length

/-- Bank b leaves L1: its lines go without notice (R318, R320). -/
def Core.dropBank (c : Core) (b : Nat) : Core := { c with l1 := List.filter (fun e => e.2.bank != b) c.l1 }

/-- Puts a line into its L1 set, in the first bank with a way left; a full set gives up its least recently used line
(R325; DESIGN CHOICE, log 9). -/
def Core.fillL1 (c : Core) (line expiry cls : Nat) : Core :=
  let set := List.filter (fun e => e.1 % 128 == line % 128 && e.1 != line) c.l1
  match c.l1Banks.find? fun b => (set.filter fun e => e.2.bank == b).length < 4 with
  | some b => { c with l1 := c.l1.put line ⟨expiry, cls, b⟩ }
  | none =>
    match ((c.lru.getD (line % 128) []).reverse.findSome? fun n => set.find? fun e => e.1 == n).or set.head? with
    | some e => { c with l1 := (c.l1.del e.1).put line ⟨expiry, cls, e.2.bank⟩ }
    | none => c

/-- A near load that missed in L1: the die L2 grants a lease of class min(predicted, LCAP), unless a write of the line waits
or the die resynchronises (R256, R260, R261). -/
def State.grant (s : State) (core a : Nat) : State :=
  let d := dieOf core
  let n := lineOf a
  if !(s.queueAt n).isEmpty || s.hub.resync.getLsbD d || !s.l1able a || (s.core core).l1Ways == 0 then s
  else
    let die := s.die d
    let now := die.firn.toNat
    let l := (die.line n).closeOld now
    let cls := min l.cls s.hub.lcap.toNat
    let t := now + leaseTicks cls
    let s := s.setDie d (die.setLine n
      { l with horizon := max l.horizon t, grants := if l.horizon ≤ now then 1 else l.grants + 1,
               leases := l.leases ++ [⟨core, t, false⟩] })
    s.setCore core ((s.core core).fillL1 n t cls)

/-! ### Die L2, directory, Neve (R326 to R328) -/

/-- The slices: of the die L2, and of the hub with its directory and its part of the Neve. -/
def l2Slice (a : Nat) : Nat := bitsAt a 7 4 ^^^ bitsAt a 11 4 ^^^ bitsAt a 15 4
def hubSlice (a : Nat) : Nat := bitsAt a 12 6 ^^^ bitsAt a 18 6

/-- Ways of a set of the die L2, and the set of its slice that an address lies in: 4 MiB in 2,048 sets (R326; DESIGN CHOICE, log 9:
the index). -/
def l2Ways : Nat := 16
def l2Set (a : Nat) : Nat := bitsAt a 11 11

/-- Entries of a slice of the directory, lines of a slice of the Neve. -/
def dirEntries : Nat := 131072
def neveLines : Nat := 524288

/-- The lines that share a slice with line n. -/
def sameSlice (slice : Nat → Nat) (n : Nat) (ls : List Nat) : List Nat :=
  ls.filter fun m => slice (128 * m) == slice (128 * n)

/-- The line that a full slice gives up: which is not fixed (DESIGN CHOICE, log 9). -/
def State.evictee (s : State) (ls : List Nat) : Option Nat := ls[Config.pick 17 s.fresh % ls.length]?

/-- The dies of a line's sharers, from the die L2 states. -/
def State.holders (s : State) (line : Nat) : List Nat := (List.range 8).filter fun d => ((s.die d).line line).st != .i

/-- Whether the host holds a half of a line of device memory (R371). -/
def State.hostHolds (s : State) (line : Nat) : Bool :=
  s.hub.hostHalves.getD (2 * line) false || s.hub.hostHalves.getD (2 * line + 1) false

/-- The directory entry of a line of device memory follows its holders (R327): owned, sharers with the host as the ninth
(R371), owner. -/
def State.syncDir (s : State) (line : Nat) : State :=
  if kindOf (line * 128) ≠ 0 then s else
  let hs := s.holders line
  let owner := hs.find? fun d => let st := ((s.die d).line line).st; st == .e || st == .m
  let host := s.hostHolds line
  let dir :=
    if hs.isEmpty && !host then s.hub.dir.del line
    else s.hub.dir.put line
      (owner.isSome, BitVec.ofNat 9 (hs.foldl (fun n d => n + 2 ^ d) (if host then 256 else 0)), owner.getD 0)
  s.setHub { s.hub with dir := dir }

/-- The Neve takes a line of device memory that reaches its home; a full slice gives one up (R328;
DESIGN CHOICE, log 9). -/
def State.neveFill (s : State) (line : Nat) : State :=
  if kindOf (line * 128) ≠ 0 || s.busy (line * 128) || s.fenced (line * 128) || s.hub.neve.getD line false then s
  else
    let full := sameSlice hubSlice line (s.hub.neve.map (·.1))
    let old := if full.length < neveLines then none else s.evictee full
    let t := match old with
      | some v => s.hub.neve.del v
      | none => s.hub.neve
    s.setHub { s.hub with neve := t.put line true }

/-- Sets the state of a line in one die; a line that leaves M is written to its home, which keeps no copy of a line that a die has
in M (R326, R354; DESIGN CHOICE, log 9). -/
def State.setL2 (s : State) (die line : Nat) (st : L2St) : State :=
  let d := s.die die
  let s := if st == .m then (if s.hub.neve.getD line false then s.setHub { s.hub with neve := s.hub.neve.del line } else s)
    else if (d.line line).st == .m then s.neveFill line else s
  (s.setDie die (d.setLine line { d.line line with st := st })).syncDir line

/-- Every die other than `keep` gives the line up, or keeps a shared copy (R327). -/
def State.recall (s : State) (line keep : Nat) (share : Bool) : State :=
  (List.range 8).foldl (fun s d =>
    let st := ((s.die d).line line).st
    if d = keep || st == .i then s
    else s.setL2 d line (if share then (if st == .e || st == .m then .s else st) else .i)) s

/-- Whether a die L2 holds the line of an address whole: device memory, and pool memory that a window claims (R326, R375). -/
def State.cacheable (s : State) (a : Nat) : Bool :=
  kindOf a == 0 || (kindOf a == 2 && (s.hub.window a).any fun w => bitsAt w.toNat 61 2 == 0)

/-- A line leaves a die L2 whole, halves of a host line too (R326, R372). -/
def State.dropL2 (s : State) (die line : Nat) : State :=
  let s := if ((s.die die).line line).st == .i then s else s.setL2 die line .i
  let d := s.die die
  if (d.line line).halves == (.i, .i) then s else s.setDie die (d.setLine line { d.line line with halves := (.i, .i) })

/-- Whether a die L2 holds something of a line. -/
def L2Line.held (l : L2Line) : Bool := l.st != .i || l.halves != (.i, .i)

/-- A full set of a die L2 gives up a line to make room for another (R326): one whose horizon has passed, if any. The horizon of
one that has not stays and holds writes as before (DESIGN CHOICE, log 9). -/
def State.l2Room (s : State) (die line : Nat) : State :=
  if ((s.die die).line line).held then s
  else
    let all := sameSlice l2Slice line ((List.filter (fun e => e.2.held) (s.die die).l2).map (·.1))
    let full := all.filter fun n => l2Set (128 * n) == l2Set (128 * line)
    if full.length < l2Ways then s
    else
      match (s.evictee (full.filter fun n => s.horizonPassed (128 * n))).or (s.evictee full) with
      | some v => s.dropL2 die v
      | none => s

/-- The host gives up its copies of the halves that bytes lie in (R371). -/
def State.backInvalidate (s : State) (as : List Nat) : State :=
  if s.hub.hostHalves.isEmpty then s
  else
    let s1 := s.setHub { s.hub with hostHalves := as.foldl (fun t a => t.set false (a / 64) false) s.hub.hostHalves }
    ((as.map lineOf).eraseDups).foldl State.syncDir s1

/-- Every sharer of a line gives it up, the host too (R327, R371). -/
def State.recallAll (s : State) (line : Nat) : State := (s.recall line 8 false).backInvalidate [128 * line, 128 * line + 64]

/-- Whether the directory has an entry for a line, or room for one (R327). -/
def State.dirFits (s : State) (line : Nat) : Bool :=
  kindOf (line * 128) != 0 || (s.hub.dir.find? line).isSome ||
    decide ((sameSlice hubSlice line (s.hub.dir.map (·.1))).length < dirEntries)

/-- A full slice of the directory recalls a line whose horizons have passed to make room for another (R327; DESIGN CHOICE, log
9). -/
def State.dirRoom (s : State) (line : Nat) : State :=
  if s.dirFits line then s
  else
    match s.evictee ((sameSlice hubSlice line (s.hub.dir.map (·.1))).filter fun n => s.horizonPassed (128 * n)) with
    | some v => s.recallAll v
    | none => s

/-- A die L2 takes a line in a state, with room made for it; one that it did not hold comes from its home, and stays there while
the directory can give it no entry (R327; DESIGN CHOICE, log 9). -/
def State.takeL2 (s : State) (die line : Nat) (st : L2St) : State :=
  if ((s.die die).line line).st == .i then
    let s := ((s.l2Room die line).dirRoom line).neveFill line
    if s.dirFits line then s.setL2 die line st else s
  else s.setL2 die line st

/-! ### Host memory (R372) -/

/-- The state of the half of a host line that holds an address, and a line with that half replaced (R372). -/
def L2Line.half (l : L2Line) (a : Nat) : L2St := if a / 64 % 2 = 0 then l.halves.1 else l.halves.2
def L2Line.setHalf (l : L2Line) (a : Nat) (st : L2St) : L2Line :=
  { l with halves := if a / 64 % 2 = 0 then (st, l.halves.2) else (l.halves.1, st) }

/-- Sets a half of a host line in one die. -/
def State.setHalf (s : State) (die a : Nat) (st : L2St) : State :=
  let s := if st == .i then s else s.l2Room die (lineOf a)
  let d := s.die die
  s.setDie die (d.setLine (lineOf a) ((d.line (lineOf a)).setHalf a st))

/-- What the other dies keep of a half that a die takes: nothing, or a shared copy (R372). -/
def State.recallHalf (s : State) (keep a : Nat) (share : Bool) : State :=
  (List.range 8).foldl (fun s d =>
    let st := ((s.die d).line (lineOf a)).half a
    if d = keep || st == .i || (share && st == .s) then s else s.setHalf d a (if share then .s else .i)) s

/-- Loads of host memory at near and mid levels take an absent half as Shared, and no die keeps it as Exclusive (R372). -/
def State.hostLoad (s : State) (die a : Nat) (lv : Level) : State :=
  if (lv == .near || lv == .mid) && ((s.die die).line (lineOf a)).half a == .i then (s.recallHalf die a true).setHalf die a .s
  else if lv == .near || lv == .mid then s
  else s.recallHalf die a true

/-- Stores to host memory: the other dies lose the half, and at near and mid levels the die holds it as Exclusive (R372). -/
def State.hostStore (s : State) (die a : Nat) (lv : Level) : State :=
  if lv == .near || lv == .mid then (s.recallHalf die a false).setHalf die a .e else s.recallHalf 8 a false

/-! ### Loads and stores -/

/-- A lookup in a set of L1: in a sampling set a hit among the four least recently used ways counts in SPARE, and a miss that
the four shadow ways would have served in GAINED (R320; DESIGN CHOICE, log 38). The line becomes the latest used. -/
def Core.sample (c : Core) (line : Nat) (hit : Bool) : Core :=
  let set := line % 128
  let order := c.lru.getD set []
  let k := order.idxOf line
  let ways := c.l1Ways
  let c := { c with lru := c.lru.put set ((line :: order.erase line).take (ways + 4)) }
  if set % 16 ≠ 0 || order.length ≤ k then c
  else if hit then (if ways ≤ k + 4 then { c with spare := c.spare + 1 } else c)
  else if ways ≤ k && k < ways + 4 then { c with gained := c.gained + 1 }
  else c

/-- The same of a core. -/
def State.sample (s : State) (core line : Nat) (hit : Bool) : State := s.setCore core ((s.core core).sample line hit)

/-- What a load at an effective level does to the caches (R173, R260, R326 to R328; DESIGN CHOICE, log 53). -/
def State.cacheLoad (s : State) (core a : Nat) (lv : Level) : State :=
  if kindOf a = 1 then s.hostLoad (dieOf core) a lv
  else if !s.cacheable a || s.busy a || s.fenced a then s else
  let d := dieOf core
  let n := lineOf a
  let alloc (s : State) : State :=
    if ((s.die d).line n).st == .i then (s.recall n d true).takeL2 d n .s else s
  match lv with
  | .near =>
    if !s.l1able a then alloc s
    else if s.l1Hit core a then s.sample core n true
    else ((alloc s).sample core n false).grant core a
  | .mid => alloc s
  | .far | .stream => (s.recall n 8 true).neveFill n

/-- What a store at an effective level does to the caches (R173, R326 to R328; DESIGN CHOICE, log 53). -/
def State.cacheStore (s : State) (core a : Nat) (lv : Level) : State :=
  if kindOf a = 1 then s.hostStore (dieOf core) a lv
  else if !s.cacheable a then s else
  let d := dieOf core
  let n := lineOf a
  if s.busy a then s.recall n 8 false
  else
    match lv with
    | .near | .mid => (s.recall n d false).takeL2 d n .m
    | .far | .stream => (s.recall n 8 false).neveFill n

end Sys2Proof.Machine
end

