-- ==== Sys2Proof/Machine/Operands.lean ====
section
/-! DEFINITION. The operands of a word: which registers it names, whether the floe's and pack's allocations hold them
(R33, R39, R40, R96), how an issuing word is entered, and the operand forms of the vector and memory instructions. -/

namespace Sys2Proof.Machine
open Sys2Proof

/-- n registers from r on. -/
def span {k : Nat} (n : Nat) (r : BitVec k) : List Nat := (List.range n).map (r.toNat + ·)
/-- n uniform registers from r on. -/
def sspan (n : Nat) (r : SReg) : List Nat := span n r
/-- The vector registers of a V* operand. -/
def vsSpan (n : Nat) : VS → List Nat
  | .v r => span n r
  | .s _ => []
/-- The uniform register of a V* operand. -/
def vsS : VS → List Nat
  | .v _ => []
  | .s r => [r.toNat]
/-- The offset register of an M word (R102). -/
def vbSpan (m : MemOp) : List Nat := if m.vb = 1023 then [] else [m.vb.toNat]
/-- Registers of a data operand (R104). -/
def szSpan : Sz → Nat
  | .b64 => 2
  | .b128 => 4
  | _ => 1
/-- The vector registers of a slot. -/
def slotV (x : Slot) : List Nat :=
  if x.file = 0 then
    (if x.wide then [x.regs.1, x.regs.1 + 1, x.regs.2, x.regs.2 + 1] else [x.regs.1, x.regs.2])
  else []
/-- The uniform registers of a slot. -/
def slotS (x : Slot) : List Nat := if x.file = 1 then [x.regs.1, x.regs.2] else []

/-- The vector registers that a word names, pairs and groups in full (R33, R34, R96, R102). -/
def vregs : Instr → List Nat
  | .call _ _ d _ => span 2 d
  | .brx _ _ a => span 2 a
  | .ret _ _ a => span 2 a
  | .saddSlot _ _ _ other => slotV other
  | .ssubSlot _ _ _ other => slotV other
  | .sandSlot _ _ _ other => slotV other
  | .sorSlot _ _ _ other => slotV other
  | .sxorSlot _ _ _ other => slotV other
  | .smovSlot _ _ _ other => slotV other
  | .sshlSlot _ _ _ other => slotV other
  | .sshrSlot _ _ _ other => slotV other
  | .pandSlot _ _ _ other => slotV other
  | .porSlot _ _ _ other => slotV other
  | .pmovSlot _ _ _ other => slotV other
  | .vadd _ m d a b => span (if m.ty.wide then 2 else 1) d ++ vsSpan (if m.ty.wide then 2 else 1) a ++ vsSpan (if m.ty.wide then 2 else 1) b
  | .vsub _ m d a b => span (if m.ty.wide then 2 else 1) d ++ vsSpan (if m.ty.wide then 2 else 1) a ++ vsSpan (if m.ty.wide then 2 else 1) b
  | .vmul _ m d a b => span (if m.ty.wide then 2 else 1) d ++ vsSpan (if m.ty.wide then 2 else 1) a ++ vsSpan (if m.ty.wide then 2 else 1) b
  | .vmulh _ m d a b => span (if m.ty.wide then 2 else 1) d ++ vsSpan (if m.ty.wide then 2 else 1) a ++ vsSpan (if m.ty.wide then 2 else 1) b
  | .vmad _ m d a b c => span (if m.ty.wide then 2 else 1) d ++ span (if m.ty.wide then 2 else 1) a ++ span (if m.ty.wide then 2 else 1) b ++ span (if m.ty.wide then 2 else 1) c
  | .vabs _ m d a => span (if m.ty.wide then 2 else 1) d ++ vsSpan (if m.ty.wide then 2 else 1) a
  | .vneg _ m d a => span (if m.ty.wide then 2 else 1) d ++ vsSpan (if m.ty.wide then 2 else 1) a
  | .vmin _ m d a b => span (if m.ty.wide then 2 else 1) d ++ vsSpan (if m.ty.wide then 2 else 1) a ++ vsSpan (if m.ty.wide then 2 else 1) b
  | .vmax _ m d a b => span (if m.ty.wide then 2 else 1) d ++ vsSpan (if m.ty.wide then 2 else 1) a ++ vsSpan (if m.ty.wide then 2 else 1) b
  | .vand _ m d a b => span (if m.ty.wide then 2 else 1) d ++ vsSpan (if m.ty.wide then 2 else 1) a ++ vsSpan (if m.ty.wide then 2 else 1) b
  | .vor _ m d a b => span (if m.ty.wide then 2 else 1) d ++ vsSpan (if m.ty.wide then 2 else 1) a ++ vsSpan (if m.ty.wide then 2 else 1) b
  | .vxor _ m d a b => span (if m.ty.wide then 2 else 1) d ++ vsSpan (if m.ty.wide then 2 else 1) a ++ vsSpan (if m.ty.wide then 2 else 1) b
  | .vnot _ m d a => span (if m.ty.wide then 2 else 1) d ++ vsSpan (if m.ty.wide then 2 else 1) a
  | .vshl _ m d a b => span (if m.ty.wide then 2 else 1) d ++ vsSpan (if m.ty.wide then 2 else 1) a ++ vsSpan (if m.ty.wide then 2 else 1) b
  | .vshr _ m d a b => span (if m.ty.wide then 2 else 1) d ++ vsSpan (if m.ty.wide then 2 else 1) a ++ vsSpan (if m.ty.wide then 2 else 1) b
  | .vsar _ m d a b => span (if m.ty.wide then 2 else 1) d ++ vsSpan (if m.ty.wide then 2 else 1) a ++ vsSpan (if m.ty.wide then 2 else 1) b
  | .vclz _ m d a => span (if m.ty.wide then 2 else 1) d ++ vsSpan (if m.ty.wide then 2 else 1) a
  | .vpopc _ m d a => span (if m.ty.wide then 2 else 1) d ++ vsSpan (if m.ty.wide then 2 else 1) a
  | .vbfe _ m d a b => span (if m.ty.wide then 2 else 1) d ++ vsSpan (if m.ty.wide then 2 else 1) a ++ vsSpan (if m.ty.wide then 2 else 1) b
  | .vbfi _ m d a b c => span (if m.ty.wide then 2 else 1) d ++ span (if m.ty.wide then 2 else 1) a ++ span (if m.ty.wide then 2 else 1) b ++ span (if m.ty.wide then 2 else 1) c
  | .vcmp _ ty _ _ a b => vsSpan (if ty.wide then 2 else 1) a ++ vsSpan (if ty.wide then 2 else 1) b
  | .vsel _ ty d a b _ => span (if ty.wide then 2 else 1) d ++ span (if ty.wide then 2 else 1) a ++ span (if ty.wide then 2 else 1) b
  | .vmov _ m d a => span (if m.ty.wide then 2 else 1) d ++ vsSpan (if m.ty.wide then 2 else 1) a
  | .vmovi _ d _ => span 1 d
  | .vaddi _ d _ => span 1 d
  | .vandi _ d _ => span 1 d
  | .vori _ d _ => span 1 d
  | .vshli _ d _ => span 1 d
  | .vshri _ d _ => span 1 d
  | .fmovi _ d _ => span 1 d
  | .vaddSlot _ ty d a other => span (if ty.wide then 2 else 1) d ++ span (if ty.wide then 2 else 1) a ++ slotV other
  | .vsubSlot _ ty d a other => span (if ty.wide then 2 else 1) d ++ span (if ty.wide then 2 else 1) a ++ slotV other
  | .vmulSlot _ ty d a other => span (if ty.wide then 2 else 1) d ++ span (if ty.wide then 2 else 1) a ++ slotV other
  | .vandSlot _ ty d a other => span (if ty.wide then 2 else 1) d ++ span (if ty.wide then 2 else 1) a ++ slotV other
  | .vorSlot _ ty d a other => span (if ty.wide then 2 else 1) d ++ span (if ty.wide then 2 else 1) a ++ slotV other
  | .vxorSlot _ ty d a other => span (if ty.wide then 2 else 1) d ++ span (if ty.wide then 2 else 1) a ++ slotV other
  | .vminSlot _ ty d a other => span (if ty.wide then 2 else 1) d ++ span (if ty.wide then 2 else 1) a ++ slotV other
  | .vmaxSlot _ ty d a other => span (if ty.wide then 2 else 1) d ++ span (if ty.wide then 2 else 1) a ++ slotV other
  | .vmovSlot _ ty d a other => span (if ty.wide then 2 else 1) d ++ span (if ty.wide then 2 else 1) a ++ slotV other
  | .vshlSlot _ ty d a other => span (if ty.wide then 2 else 1) d ++ span (if ty.wide then 2 else 1) a ++ slotV other
  | .vshrSlot _ ty d a other => span (if ty.wide then 2 else 1) d ++ span (if ty.wide then 2 else 1) a ++ slotV other
  | .fadd _ m d a b => span (if m.ty.wide then 2 else 1) d ++ vsSpan (if m.ty.wide then 2 else 1) a ++ vsSpan (if m.ty.wide then 2 else 1) b
  | .fsub _ m d a b => span (if m.ty.wide then 2 else 1) d ++ vsSpan (if m.ty.wide then 2 else 1) a ++ vsSpan (if m.ty.wide then 2 else 1) b
  | .fmul _ m d a b => span (if m.ty.wide then 2 else 1) d ++ vsSpan (if m.ty.wide then 2 else 1) a ++ vsSpan (if m.ty.wide then 2 else 1) b
  | .ffma _ m _ d a b c => span (if m.ty.wide then 2 else 1) d ++ span (if m.ty.wide then 2 else 1) a ++ span (if m.ty.wide then 2 else 1) b ++ span (if m.ty.wide then 2 else 1) c
  | .fmin _ m d a b => span (if m.ty.wide then 2 else 1) d ++ vsSpan (if m.ty.wide then 2 else 1) a ++ vsSpan (if m.ty.wide then 2 else 1) b
  | .fmax _ m d a b => span (if m.ty.wide then 2 else 1) d ++ vsSpan (if m.ty.wide then 2 else 1) a ++ vsSpan (if m.ty.wide then 2 else 1) b
  | .fabs _ m d a => span (if m.ty.wide then 2 else 1) d ++ vsSpan (if m.ty.wide then 2 else 1) a
  | .fneg _ m d a => span (if m.ty.wide then 2 else 1) d ++ vsSpan (if m.ty.wide then 2 else 1) a
  | .fcmp _ ty _ _ _ a b => vsSpan (if ty.wide then 2 else 1) a ++ vsSpan (if ty.wide then 2 else 1) b
  | .fclass _ ty _ d a => span 1 d ++ vsSpan (if ty.wide then 2 else 1) a
  | .fdiv _ m d a b => span (if m.ty.wide then 2 else 1) d ++ vsSpan (if m.ty.wide then 2 else 1) a ++ vsSpan (if m.ty.wide then 2 else 1) b
  | .fsqrt _ m d a => span (if m.ty.wide then 2 else 1) d ++ vsSpan (if m.ty.wide then 2 else 1) a
  | .frcp _ m d a => span (if m.ty.wide then 2 else 1) d ++ vsSpan (if m.ty.wide then 2 else 1) a
  | .frsq _ m d a => span (if m.ty.wide then 2 else 1) d ++ vsSpan (if m.ty.wide then 2 else 1) a
  | .fexp2 _ m d a => span (if m.ty.wide then 2 else 1) d ++ vsSpan (if m.ty.wide then 2 else 1) a
  | .flog2 _ m d a => span (if m.ty.wide then 2 else 1) d ++ vsSpan (if m.ty.wide then 2 else 1) a
  | .fldexp _ m d a b => span (if m.ty.wide then 2 else 1) d ++ vsSpan (if m.ty.wide then 2 else 1) a ++ vsSpan (if m.ty.wide then 2 else 1) b
  | .frnd _ m d a => span (if m.ty.wide then 2 else 1) d ++ vsSpan (if m.ty.wide then 2 else 1) a
  | .faddSlot _ ty _ d a other => span (if ty.wide then 2 else 1) d ++ span (if ty.wide then 2 else 1) a ++ slotV other
  | .fsubSlot _ ty _ d a other => span (if ty.wide then 2 else 1) d ++ span (if ty.wide then 2 else 1) a ++ slotV other
  | .fmulSlot _ ty _ d a other => span (if ty.wide then 2 else 1) d ++ span (if ty.wide then 2 else 1) a ++ slotV other
  | .fminSlot _ ty _ d a other => span (if ty.wide then 2 else 1) d ++ span (if ty.wide then 2 else 1) a ++ slotV other
  | .fmaxSlot _ ty _ d a other => span (if ty.wide then 2 else 1) d ++ span (if ty.wide then 2 else 1) a ++ slotV other
  | .cvt _ _ dst src d a => span (if dst.wide then 2 else 1) d ++ vsSpan (if src.wide then 2 else 1) a
  | .cvtpk _ _ dst src d a => span (cvtpkNd dst src) d ++ vsSpan (cvtpkNs dst src) a
  | .mxscale _ _ _ d a => span 1 d ++ span 1 a
  | .mxq _ _ _ _ _ _ _ d a b => span 1 d ++ span 1 a ++ span 1 b
  | .mxdq _ _ _ _ _ d a b => span 1 d ++ span 1 a ++ span 1 b
  | .vrfl _ w _ a => span (if w then 2 else 1) a
  | .vrln _ w _ a _ => span (if w then 2 else 1) a
  | .vwln _ w d _ _ => span (if w then 2 else 1) d
  | .vbcst _ w d a _ => span (if w then 2 else 1) d ++ span (if w then 2 else 1) a
  | .vshfl _ w _ d a b => span (if w then 2 else 1) d ++ span (if w then 2 else 1) a ++ span 1 b
  | .vrot _ w _ d a _ => span (if w then 2 else 1) d ++ span (if w then 2 else 1) a
  | .vred _ ty _ _ d a => span (if ty.wide then 2 else 1) d ++ span (if ty.wide then 2 else 1) a
  | .vscan _ ty _ _ d a => span (if ty.wide then 2 else 1) d ++ span (if ty.wide then 2 else 1) a
  | .vlane _ _ d => span 1 d
  | .bget _ w d a => span 1 d ++ span (if w then 2 else 1) a
  | .bset _ w d a => span (if w then 2 else 1) d ++ span 1 a
  | .bclr _ w d => span (if w then 2 else 1) d
  | .bunb _ w d => span (if w then 2 else 1) d
  | .bmaxr _ w d a b => span (if w then 2 else 1) d ++ span (if w then 2 else 1) a ++ span (if w then 2 else 1) b
  | .bchk _ ty _ _ a => span (if ty.wide then 2 else 1) a
  | .ld _ m sz d => vbSpan m ++ span (szSpan sz) d
  | .st _ m sz d => vbSpan m ++ span (szSpan sz) d
  | .ldu _ m _ _ => vbSpan m
  | .stu _ m _ _ => vbSpan m
  | .lds _ m sz d => vbSpan m ++ span (szSpan sz) d
  | .sts _ m sz d => vbSpan m ++ span (szSpan sz) d
  | .pref _ m => vbSpan m
  | .ldsp _ m _ _ => vbSpan m
  | .atomAdd _ m ty _ d => vbSpan m ++ span ((if ty.wide then 2 else 1) * 1) d
  | .atomSub _ m ty _ d => vbSpan m ++ span ((if ty.wide then 2 else 1) * 1) d
  | .atomMin _ m ty _ d => vbSpan m ++ span ((if ty.wide then 2 else 1) * 1) d
  | .atomMax _ m ty _ d => vbSpan m ++ span ((if ty.wide then 2 else 1) * 1) d
  | .atomAnd _ m ty _ d => vbSpan m ++ span ((if ty.wide then 2 else 1) * 1) d
  | .atomOr _ m ty _ d => vbSpan m ++ span ((if ty.wide then 2 else 1) * 1) d
  | .atomXor _ m ty _ d => vbSpan m ++ span ((if ty.wide then 2 else 1) * 1) d
  | .atomXchg _ m ty _ d => vbSpan m ++ span ((if ty.wide then 2 else 1) * 1) d
  | .atomCas _ m ty _ d => vbSpan m ++ span ((if ty.wide then 2 else 1) * 2) d
  | .atomsAdd _ m ty _ d => vbSpan m ++ span ((if ty.wide then 2 else 1) * 1) d
  | .atomsSub _ m ty _ d => vbSpan m ++ span ((if ty.wide then 2 else 1) * 1) d
  | .atomsMin _ m ty _ d => vbSpan m ++ span ((if ty.wide then 2 else 1) * 1) d
  | .atomsMax _ m ty _ d => vbSpan m ++ span ((if ty.wide then 2 else 1) * 1) d
  | .atomsAnd _ m ty _ d => vbSpan m ++ span ((if ty.wide then 2 else 1) * 1) d
  | .atomsOr _ m ty _ d => vbSpan m ++ span ((if ty.wide then 2 else 1) * 1) d
  | .atomsXor _ m ty _ d => vbSpan m ++ span ((if ty.wide then 2 else 1) * 1) d
  | .atomsXchg _ m ty _ d => vbSpan m ++ span ((if ty.wide then 2 else 1) * 1) d
  | .atomsCas _ m ty _ d => vbSpan m ++ span ((if ty.wide then 2 else 1) * 2) d
  | .ldv _ m d => vbSpan m ++ span 4 d
  | .stv _ m d => vbSpan m ++ span 4 d
  | .recon _ m _ d => vbSpan m ++ span 4 d
  | .tld _ m _ => vbSpan m
  | .tst _ m _ => vbSpan m
  | .accmov _ d _ _ => span 1 d
  | .accbnd _ d _ => span 1 d
  | .accld _ m _ => vbSpan m
  | .accst _ m _ => vbSpan m
  | .accstAdd _ m _ => vbSpan m
  | .tldk _ m _ => vbSpan m
  | _ => []

/-- The uniform registers that a word names (R37, R205, R216, R226). -/
def sregs : Instr → List Nat
  | .sadd _ _ d a b => sspan 1 d ++ sspan 1 a ++ sspan 1 b
  | .ssub _ _ d a b => sspan 1 d ++ sspan 1 a ++ sspan 1 b
  | .smul _ _ d a b => sspan 1 d ++ sspan 1 a ++ sspan 1 b
  | .smulh _ _ d a b => sspan 1 d ++ sspan 1 a ++ sspan 1 b
  | .smad _ _ d a b c => sspan 1 d ++ sspan 1 a ++ sspan 1 b ++ sspan 1 c
  | .sand _ _ d a b => sspan 1 d ++ sspan 1 a ++ sspan 1 b
  | .sor _ _ d a b => sspan 1 d ++ sspan 1 a ++ sspan 1 b
  | .sxor _ _ d a b => sspan 1 d ++ sspan 1 a ++ sspan 1 b
  | .snot _ _ d a => sspan 1 d ++ sspan 1 a
  | .sshl _ _ d a b => sspan 1 d ++ sspan 1 a ++ sspan 1 b
  | .sshr _ _ d a b => sspan 1 d ++ sspan 1 a ++ sspan 1 b
  | .ssar _ _ d a b => sspan 1 d ++ sspan 1 a ++ sspan 1 b
  | .smin _ _ d a b => sspan 1 d ++ sspan 1 a ++ sspan 1 b
  | .smax _ _ d a b => sspan 1 d ++ sspan 1 a ++ sspan 1 b
  | .scmp _ _ _ _ a b => sspan 1 a ++ sspan 1 b
  | .ssel _ _ d a b c => sspan 1 d ++ sspan 1 a ++ sspan 1 b ++ sspan 1 c
  | .smov _ _ d a => sspan 1 d ++ sspan 1 a
  | .sclz _ _ d a => sspan 1 d ++ sspan 1 a
  | .spopc _ _ d a => sspan 1 d ++ sspan 1 a
  | .sbfe _ _ d a b => sspan 1 d ++ sspan 1 a ++ sspan 1 b
  | .smovi _ d _ => sspan 1 d
  | .smovih _ d _ => sspan 1 d
  | .saddi _ d _ => sspan 1 d
  | .sandi _ d _ => sspan 1 d
  | .sori _ d _ => sspan 1 d
  | .sxori _ d _ => sspan 1 d
  | .sshli _ d _ => sspan 1 d
  | .sshri _ d _ => sspan 1 d
  | .ssari _ d _ => sspan 1 d
  | .smuli _ d _ => sspan 1 d
  | .scmpi _ _ _ a _ => sspan 1 a
  | .saddSlot _ d a other => sspan 1 d ++ sspan 1 a ++ slotS other
  | .ssubSlot _ d a other => sspan 1 d ++ sspan 1 a ++ slotS other
  | .sandSlot _ d a other => sspan 1 d ++ sspan 1 a ++ slotS other
  | .sorSlot _ d a other => sspan 1 d ++ sspan 1 a ++ slotS other
  | .sxorSlot _ d a other => sspan 1 d ++ sspan 1 a ++ slotS other
  | .smovSlot _ d a other => sspan 1 d ++ sspan 1 a ++ slotS other
  | .sshlSlot _ d a other => sspan 1 d ++ sspan 1 a ++ slotS other
  | .sshrSlot _ d a other => sspan 1 d ++ sspan 1 a ++ slotS other
  | .pset _ _ a => sspan 1 a
  | .pget _ d _ => sspan 1 d
  | .ppopc _ d _ => sspan 1 d
  | .pfirst _ d _ => sspan 1 d
  | .pandSlot _ _ _ other => slotS other
  | .porSlot _ _ _ other => slotS other
  | .pmovSlot _ _ _ other => slotS other
  | .vadd _ _ _ a b => vsS a ++ vsS b
  | .vsub _ _ _ a b => vsS a ++ vsS b
  | .vmul _ _ _ a b => vsS a ++ vsS b
  | .vmulh _ _ _ a b => vsS a ++ vsS b
  | .vabs _ _ _ a => vsS a
  | .vneg _ _ _ a => vsS a
  | .vmin _ _ _ a b => vsS a ++ vsS b
  | .vmax _ _ _ a b => vsS a ++ vsS b
  | .vand _ _ _ a b => vsS a ++ vsS b
  | .vor _ _ _ a b => vsS a ++ vsS b
  | .vxor _ _ _ a b => vsS a ++ vsS b
  | .vnot _ _ _ a => vsS a
  | .vshl _ _ _ a b => vsS a ++ vsS b
  | .vshr _ _ _ a b => vsS a ++ vsS b
  | .vsar _ _ _ a b => vsS a ++ vsS b
  | .vclz _ _ _ a => vsS a
  | .vpopc _ _ _ a => vsS a
  | .vbfe _ _ _ a b => vsS a ++ vsS b
  | .vcmp _ _ _ _ a b => vsS a ++ vsS b
  | .vmov _ _ _ a => vsS a
  | .vaddSlot _ _ _ _ other => slotS other
  | .vsubSlot _ _ _ _ other => slotS other
  | .vmulSlot _ _ _ _ other => slotS other
  | .vandSlot _ _ _ _ other => slotS other
  | .vorSlot _ _ _ _ other => slotS other
  | .vxorSlot _ _ _ _ other => slotS other
  | .vminSlot _ _ _ _ other => slotS other
  | .vmaxSlot _ _ _ _ other => slotS other
  | .vmovSlot _ _ _ _ other => slotS other
  | .vshlSlot _ _ _ _ other => slotS other
  | .vshrSlot _ _ _ _ other => slotS other
  | .fadd _ _ _ a b => vsS a ++ vsS b
  | .fsub _ _ _ a b => vsS a ++ vsS b
  | .fmul _ _ _ a b => vsS a ++ vsS b
  | .fmin _ _ _ a b => vsS a ++ vsS b
  | .fmax _ _ _ a b => vsS a ++ vsS b
  | .fabs _ _ _ a => vsS a
  | .fneg _ _ _ a => vsS a
  | .fcmp _ _ _ _ _ a b => vsS a ++ vsS b
  | .fclass _ _ _ _ a => vsS a
  | .fdiv _ _ _ a b => vsS a ++ vsS b
  | .fsqrt _ _ _ a => vsS a
  | .frcp _ _ _ a => vsS a
  | .frsq _ _ _ a => vsS a
  | .fexp2 _ _ _ a => vsS a
  | .flog2 _ _ _ a => vsS a
  | .fldexp _ _ _ a b => vsS a ++ vsS b
  | .frnd _ _ _ a => vsS a
  | .faddSlot _ _ _ _ _ other => slotS other
  | .fsubSlot _ _ _ _ _ other => slotS other
  | .fmulSlot _ _ _ _ _ other => slotS other
  | .fminSlot _ _ _ _ _ other => slotS other
  | .fmaxSlot _ _ _ _ _ other => slotS other
  | .cvt _ _ _ _ _ a => vsS a
  | .cvtpk _ _ _ _ _ a => vsS a
  | .vrfl _ _ d _ => sspan 1 d
  | .vrln _ _ d _ b => sspan 1 d ++ sspan 1 b
  | .vwln _ _ _ a b => sspan 1 a ++ sspan 1 b
  | .vbcst _ _ _ _ b => sspan 1 b
  | .vrot _ _ _ _ _ b => sspan 1 b
  | .bud _ a => sspan 1 a
  | .ld _ m _ _ => sspan 1 m.sa
  | .st _ m _ _ => sspan 1 m.sa
  | .ldu _ m _ d => sspan 1 m.sa ++ sspan 1 d
  | .stu _ m _ d => sspan 1 m.sa ++ sspan 1 d
  | .lds _ m _ _ => sspan 1 m.sa
  | .sts _ m _ _ => sspan 1 m.sa
  | .pref _ m => sspan 1 m.sa
  | .ldsp _ m _ d => sspan 1 m.sa ++ sspan 1 d
  | .atomAdd _ m _ _ _ => sspan 1 m.sa
  | .atomSub _ m _ _ _ => sspan 1 m.sa
  | .atomMin _ m _ _ _ => sspan 1 m.sa
  | .atomMax _ m _ _ _ => sspan 1 m.sa
  | .atomAnd _ m _ _ _ => sspan 1 m.sa
  | .atomOr _ m _ _ _ => sspan 1 m.sa
  | .atomXor _ m _ _ _ => sspan 1 m.sa
  | .atomXchg _ m _ _ _ => sspan 1 m.sa
  | .atomCas _ m _ _ _ => sspan 1 m.sa
  | .atomsAdd _ m _ _ _ => sspan 1 m.sa
  | .atomsSub _ m _ _ _ => sspan 1 m.sa
  | .atomsMin _ m _ _ _ => sspan 1 m.sa
  | .atomsMax _ m _ _ _ => sspan 1 m.sa
  | .atomsAnd _ m _ _ _ => sspan 1 m.sa
  | .atomsOr _ m _ _ _ => sspan 1 m.sa
  | .atomsXor _ m _ _ _ => sspan 1 m.sa
  | .atomsXchg _ m _ _ _ => sspan 1 m.sa
  | .atomsCas _ m _ _ _ => sspan 1 m.sa
  | .ldv _ m _ => sspan 1 m.sa
  | .stv _ m _ => sspan 1 m.sa
  | .recon _ m _ _ => sspan 1 m.sa
  | .cacheDrop _ a => sspan 1 a
  | .cacheClean _ a => sspan 1 a
  | .cacheInval _ a => sspan 1 a
  | .barinit _ _ d sa _ => sspan 1 d ++ sspan 1 sa
  | .bararr _ _ sa _ => sspan 1 sa
  | .barexp _ d sa _ => sspan 1 d ++ sspan 1 sa
  | .barwait _ d sa _ => sspan 1 d ++ sspan 1 sa
  | .bartest _ d sa _ => sspan 1 d ++ sspan 1 sa
  | .bardrop _ _ sa _ => sspan 1 sa
  | .jdecl _ _ a => sspan 1 a
  | .tcfg _ _ a => sspan 1 a
  | .tld _ m _ => sspan 2 m.sa
  | .tst _ m _ => sspan 2 m.sa
  | .accmov _ _ _ b => sspan 1 b
  | .accspill _ _ b => sspan 1 b
  | .accfill _ _ _ _ a => sspan 1 a
  | .accld _ m _ => sspan 2 m.sa
  | .accst _ m _ => sspan 2 m.sa
  | .accstAdd _ m _ => sspan 2 m.sa
  | .keycut _ d sa _ => sspan 1 d ++ sspan 1 sa
  | .tldk _ m _ => sspan 4 m.sa
  | .keydrop _ a => sspan 1 a
  | .keyq _ d a => sspan 1 d ++ sspan 1 a
  | .cpykick _ _ _ d sa _ => sspan 1 d ++ sspan 1 sa
  | .cpystat _ d a => sspan 1 d ++ sspan 1 a
  | .cpycan _ a => sspan 1 a
  | .rowcpy _ d a c => sspan 1 d ++ sspan 1 a ++ sspan 1 c
  | .rowfil _ d a c => sspan 1 d ++ sspan 1 a ++ sspan 1 c
  | .rowand _ d a b c => sspan 1 d ++ sspan 1 a ++ sspan 1 b ++ sspan 1 c
  | .rowor _ d a b c => sspan 1 d ++ sspan 1 a ++ sspan 1 b ++ sspan 1 c
  | .rowxor _ d a b c => sspan 1 d ++ sspan 1 a ++ sspan 1 b ++ sspan 1 c
  | .rownot _ d a c => sspan 1 d ++ sspan 1 a ++ sspan 1 c
  | .rowmaj _ d a b c => sspan 1 d ++ sspan 1 a ++ sspan 1 b ++ sspan 2 c
  | .rowrdx _ d a c => sspan 1 d ++ sspan 1 a ++ sspan 1 c
  | .rowstat _ d a => sspan 1 d ++ sspan 1 a
  | .mfsr _ d _ => sspan 1 d
  | .mtsr _ _ a => sspan 1 a
  | .firnrd _ d => sspan 1 d
  | .lwait _ a => sspan 1 a
  | .seed _ a b => sspan 1 a ++ sspan 1 b
  | .frsave _ a => sspan 1 a
  | .frload _ a => sspan 1 a
  | _ => []

/-- The tiles that a word names (R39). -/
def tregs : Instr → List Nat
  | .tcfg _ d _ => [d.toNat]
  | .tzero _ d => [d.toNat]
  | .tld _ _ d => [d.toNat]
  | .tst _ _ d => [d.toNat]
  | .mma _ _ _ _ a b _ => [a.toNat, b.toNat]
  | .tldk _ _ d => [d.toNat]
  | _ => []

/-- The accumulators that a word names (R40). -/
def aregs : Instr → List Nat
  | .mma _ _ _ d _ _ _ => [d.toNat]
  | .accz _ d => [d.toNat]
  | .accmov _ _ a _ => [a.toNat]
  | .accbnd _ _ a => [a.toNat]
  | .accspill _ a _ => [a.toNat]
  | .accfill _ _ _ d _ => [d.toNat]
  | .accld _ _ d => [d.toNat]
  | .accst _ _ d => [d.toNat]
  | .accstAdd _ _ d => [d.toNat]
  | _ => []

/-- R33: a vector register of an allocation of n registers, or a handler register (DEDUCED, log 43). -/
def allocated (n r : Nat) : Bool := r < n || (1016 ≤ r && r < 1024)

/-- The operand rules that depend on the floe and its pack (R33, R39, R40), besides the static ones (R96 to R105;
DEDUCED, log 43). -/
def operandsOk (s : State) (f : Floe) (i : Instr) : Bool :=
  i.legal && (vregs i).all (allocated f.valloc) &&
    (match s.packs.find? f.pack with
     | some p => (tregs i).all (· < p.tiles.length) && (aregs i).all (· < p.accs.length)
     | none => (tregs i).isEmpty && (aregs i).isEmpty)

/-- The header of a P word, which has no guard (R99). -/
def slotHdr (s : Bool) : Hdr := ⟨s, false, 0⟩

/-- Guarded mask of a word: the entry's mask ANDed with the guard, which names p0 to p7 or its complement (R27, R38). -/
def guarded (f : Floe) (r : Run) (num : Nat) (h : Hdr) : Mask :=
  let g := readP f r num .guard h.gp.toNat
  r.mask &&& (if h.gn then ~~~g else g)

/-- The context of the word that is issuing, or the model's own fault when no floe issues one. -/
def context (s : State) (h : Hdr) : Except Fault Ctx :=
  match s.issuing with
  | none => .error .notIssuing
  | some w =>
    match s.floes.find? w.floe with
    | none => .error .noObject
    | some f =>
      match f.run with
      | none => .error .notIssuing
      | some r =>
        .ok { s := s, key := w.floe, pc := w.pc, word := w.word, num := w.number, f := f, r := r,
              act := guarded f r w.number h, mark := h.s }

/-- Enters an issuing word: ILLEGAL_OPERAND where an operand rule fails (R106), else the meaning's effect k. -/
def onWord (i : Instr) (h : Hdr) (s : State) (k : Ctx → State) : Out :=
  match context s h with
  | .error e => .fault e
  | .ok c => if operandsOk s c.f i then .next (k c) else .next (illegalOperand c)

/-- A word whose effect is on the registers of its floe alone: it always retires. -/
def onRegs (i : Instr) (h : Hdr) (s : State) (k : Ctx → Ctx) : Out := onWord i h s fun c => retire (k c)

/-! ### Vector operand forms (R34, R97, R140) -/

/-- The lanes of an operand: values of 32 or 64 bits and bounds, already chosen under R30. -/
structure Lanes where
  lo : VRow
  hi : VRow
  deriving DecidableEq, Repr

/-- A uniform value broadcast to every lane with bound 0x0000 (R37). -/
def bcast (w : Word) : Lanes :=
  ⟨⟨Vector.replicate 64 (w.setWidth 32), Vector.replicate 64 0⟩, ⟨Vector.replicate 64 ((w >>> 32).setWidth 32), Vector.replicate 64 0⟩⟩

/-- A vector operand: one register, or a pair (R34). -/
def Ctx.lanesV (c : Ctx) (wide : Bool) (pos : Pos) (r : VReg) : Lanes :=
  let lo := c.v pos r
  ⟨lo, if wide then c.vAt pos r 1 else lo⟩

/-- A V* operand (R97). -/
def Ctx.lanes (c : Ctx) (wide : Bool) (pos : Pos) : VS → Lanes
  | .v r => c.lanesV wide pos r
  | .s r => bcast (c.sr pos r)

/-- The value of a lane as a number of W bits. -/
def Lanes.val (x : Lanes) (wide : Bool) (l : Fin 64) : Nat :=
  if wide then x.lo.val[l].toNat + 4294967296 * x.hi.val[l].toNat else x.lo.val[l].toNat

/-- The bound of a lane: of a pair, the even register's (R34). -/
def Lanes.bnd (x : Lanes) (l : Fin 64) : Bound := x.lo.bnd[l]

/-- Writes a result of 32 or 64 bits with its bound to the lanes of a mask: of a pair, the bound goes to both Rime lanes
(R34). -/
def Ctx.setLanes (c : Ctx) (wide : Bool) (d : VReg) (m : Mask) (val : Fin 64 → Nat) (bnd : Fin 64 → Bound) : Ctx :=
  let b := Vector.ofFn bnd
  let c' := c.setV d.toNat m ⟨Vector.ofFn fun l => BitVec.ofNat 32 (val l), b⟩
  if wide then c'.setV (d.toNat + 1) m ⟨Vector.ofFn fun l => BitVec.ofNat 32 (val l / 4294967296), b⟩ else c'

end Sys2Proof.Machine
end

