-- ==== Sys2Proof/Machine/Flags.lean ====
section
/-! DEFINITION. Flag computations and how an FP word writes back: FPFLAGS (R58), BSTICKY (R85), LASTTIER (R82), the breach
check and its trap (R83, R84, R147), and the same for a pair of slots (R155). -/

namespace Sys2Proof.Machine
open Sys2Proof

/-- The registers that govern an FP word (R31): those in force, with no check and no prediction in handler mode (R306). -/
def Ctx.env (c : Ctx) : FpEnv :=
  let y := c.f.sys
  { dnan := y.fpctl.getLsbD 2, rdef := rmodeOf (y.fpctl.setWidth 2), bud := y.ebud,
    chk := if c.f.handler then 0 else y.bmode.setWidth 2, trap := y.bmode.getLsbD 2, auto := y.bmode.getLsbD 3,
    g := y.bguard, mayPredict := !c.f.handler && !c.s.reduced }

/-- ORs bits into BSTICKY, outside handler mode (R85, R306). -/
def Ctx.stick (c : Ctx) (b : BitVec 5) : Ctx :=
  if c.f.handler then c else { c with f := { c.f with sys := { c.f.sys with bsticky := c.f.sys.bsticky ||| b } } }

/-- ORs flags into FPFLAGS, outside handler mode (R58, R306). -/
def Ctx.flag (c : Ctx) (x : Flags) : Ctx :=
  if c.f.handler then c else { c with f := { c.f with sys := { c.f.sys with fpflags := c.f.sys.fpflags ||| x.bits } } }

/-- Writes LASTTIER, outside handler mode (R82, R306). -/
def Ctx.tierTo (c : Ctx) (t : BitVec 2) : Ctx :=
  if c.f.handler then c else { c with f := { c.f with sys := { c.f.sys with lasttier := t } } }

/-- The bits of BSTICKY (R85). -/
def stickyBR : BitVec 5 := 1
def stickyLOST : BitVec 5 := 2
def stickyFRAG : BitVec 5 := 4
def stickyUNB : BitVec 5 := 8
def stickyTIERUP : BitVec 5 := 16

/-- LASTTIER's code of a tier (R82). -/
def tierCode : Tier → BitVec 2
  | .half => 2
  | .quart => 3
  | .full | .auto => 1

/-- What one lane of an FP, conversion or integer word delivers: the destination registers from D on with their bounds, its
flags, whether it gained U from bounds that were not U, and the bound with which it breaches, if it does. -/
structure LaneOut where
  regs : List (Nat × Bound)
  fl : Flags
  unb : Bool
  breach : Option Bound
  deriving DecidableEq, Repr

/-- A lane that delivers nothing. -/
def LaneOut.none : LaneOut := ⟨[], Flags.none, false, Option.none⟩

/-- The results of the 64 lanes. -/
abbrev Outs := Vector LaneOut 64

/-- The results of the lanes of a mask; lanes outside it deliver nothing (R58, R85). -/
def outs (m : Mask) (f : Fin 64 → LaneOut) : Outs := Vector.ofFn fun l => if has m l.val then f l else LaneOut.none

/-- The elements of a lane value (R147). -/
def elemsOf (ty : FTy) (x : Nat) : List Nat :=
  match ty with
  | .f32 => [x % 4294967296]
  | .f64 => [x]
  | .f16x2 | .bf16x2 => [x % 65536, x / 65536 % 65536]

/-- Element codes as the words of the destination registers (R34, R51). -/
def packElems (ty : FTy) (cs : List Nat) : List Nat :=
  match ty with
  | .f32 => [cs.getD 0 0]
  | .f64 => [cs.getD 0 0 % 4294967296, cs.getD 0 0 / 4294967296]
  | .f16x2 | .bf16x2 => [cs.getD 0 0 + 65536 * cs.getD 1 0]

/-- A lane's result from its elements: BoundMax of their bounds (R79), their flags, and the check of R83. -/
def laneOut (v : FpEnv) (checked : Bool) (ty : FTy) (els : List El) (ins : List Bound) : LaneOut :=
  let b := boundMaxL (els.map (·.bnd))
  { regs := (packElems ty (els.map (·.code))).map fun w => (w, b)
    fl := els.foldl (fun f e => f.or e.fl) Flags.none
    unb := isU b && !ins.any isU
    breach := if checked && els.any (v.breach b) then some b else Option.none }

namespace Outs
/-- The lanes that breach. -/
def breach (o : Outs) : Mask := maskWhere fun l => (o.toList.getD l LaneOut.none).breach.isSome
/-- The union of the lanes' flags. -/
def flags (o : Outs) : Flags := o.toList.foldl (fun f x => f.or x.fl) Flags.none
/-- Whether some lane gained U. -/
def unb (o : Outs) : Bool := o.toList.any (·.unb)
/-- The bound that the lowest breaching lane would have received (R84). -/
def breachBound (o : Outs) : Bound := ((o.toList.filterMap (·.breach)).headD 0)
end Outs

/-- Writes n destination registers from d on in the lanes of a mask. -/
def Ctx.putOuts (c : Ctx) (d n : Nat) (m : Mask) (o : Outs) : Ctx :=
  (List.range n).foldl (fun c k =>
    c.setV (d + k) m
      ⟨Vector.ofFn fun l => BitVec.ofNat 32 ((o[l].regs.getD k (0, 0)).1), Vector.ofFn fun l => (o[l].regs.getD k (0, 0)).2⟩) c

/-- Writes the results and ORs in the flags and sticky bits of a word that completes (R147). -/
def Ctx.finish (c : Ctx) (d n : Nat) (o : Outs) : Ctx :=
  let c := (c.putOuts d n c.act o).flag (Outs.flags o)
  let c := if Outs.unb o then c.stick stickyUNB else c
  if Outs.breach o = 0 then c else c.stick stickyBR

/-- BREACH (R84): the breaching lanes, the bound of the lowest, and the executed tier. -/
def breachTrap (c : Ctx) (m : Mask) (b : Bound) (tier : BitVec 2) : State :=
  trapAt c 0x10 m 0 (b.setWidth 64 ||| (tier.setWidth 64 <<< 16))

/-- Write-back of an FP or conversion word (R84, R147): a breach traps when BMODE.TRAP is 1, else everything is written.
`after` are the further updates of a word that completes (SDSTEP). -/
def fpBack (c : Ctx) (d n : Nat) (o : Outs) (tier : BitVec 2) (after : Ctx → Ctx) : State :=
  if c.act = 0 then retire c
  else if Outs.breach o ≠ 0 && c.env.trap then breachTrap c (Outs.breach o) (Outs.breachBound o) tier
  else retire (after (c.finish d n o))

/-- The tier of a tiered word: its own, or AUTO's choice with LASTTIER and TIERUP (R75, R81, R82). The second part is the
context with LASTTIER written; the third whether TIERUP is due. -/
def Ctx.resolveTier (c : Ctx) (ty : FTy) (t : Tier) (op : TOp) (md : RMode) (els : List Ops3) : Tier × Ctx × Bool :=
  match t with
  | .auto =>
    if c.act = 0 then (.full, c, false)
    else
      let (t, up) := c.env.autoTier ty op md els
      (t, c.tierTo (tierCode t), up)
  | t => (t, c, false)

/-- Operand codes of the elements of a lane (R79: the lane bound applies to every element). -/
def ops3 (ty : FTy) (a b c : Nat) (ea eb ec : Bound) : List Ops3 :=
  let A := elemsOf ty a
  let B := elemsOf ty b
  let C := elemsOf ty c
  A.zipIdx.map fun e => ⟨e.1, B.getD e.2 0, C.getD e.2 0, ea, eb, ec⟩

/-- The results of a tiered operation in the lanes of a mask at a tier (R76, R77, R79). -/
def tieredOuts (v : FpEnv) (checked : Bool) (m : Mask) (ty : FTy) (op : TOp) (md : RMode) (t : Tier)
    (els : Fin 64 → List Ops3) (ins : Fin 64 → List Bound) : Outs :=
  outs m fun l =>
    laneOut v checked ty
      ((els l).map fun o => tiered (fmtOf ty) op (tierP ty t) md v.dnan o.a o.b o.c o.ea o.eb o.ec) (ins l)

/-- Every element of the lanes of a mask. -/
def activeEls (m : Mask) (els : Fin 64 → List Ops3) : List Ops3 :=
  (List.finRange 64).flatMap fun l => if has m l.val then els l else []

/-- BSTICKY.UNB as a bit to set: some active lane received U although none of its input bounds was U (R85). -/
def unbBit (m : Mask) (out : Fin 64 → Bound) (ins : Fin 64 → List Bound) : BitVec 5 :=
  if (List.finRange 64).any fun l => has m l.val && isU (out l) && !(ins l).any isU then stickyUNB else 0

end Sys2Proof.Machine
end

