-- ==== Sys2Proof/Machine/Control.lean ====
section
/-! DEFINITION. Control flow (spec 05): transfers (R122 to R125), leaving and waiting (R126 to R131). -/

namespace Sys2Proof.Machine
open Sys2Proof

/-- The flags of a frontier entry (R19). -/
def flagParked : BitVec 8 := 1
def flagRcwait : BitVec 8 := 2
def flagSywait : BitVec 8 := 4
def flagBlocked : BitVec 8 := 8
def flagSbwait : BitVec 8 := 16

/-- Takes lanes out of the issuing entry and adds entries to the frontier. -/
def Ctx.leave (c : Ctx) (m : Mask) (new : List Entry) : Ctx :=
  { c with f := { c.f with frontier := c.f.frontier ++ new }, r := { c.r with mask := c.r.mask &&& ~~~m } }

/-- The transfer of R122: take mask, target of each lane, priority of the targets; `link` is what a CALL writes. -/
def transfer (c : Ctx) (prio : BitVec 8) (take : Mask) (target : Nat → Word) (link : Ctx → Ctx) : State :=
  let odd := maskWhere fun l => has take l && (target l).toNat % 8 != 0
  let far := maskWhere fun l => has take l && decide (2 ^ 48 ≤ (target l).toNat)
  if odd ≠ 0 then trapAt c 0x22 odd (target (lowest odd)) c.word
  else if far ≠ 0 then trapAt c 0x21 far (target (lowest far)) c.word
  else
    let ts := ((lanesOf take).map target).eraseDups
    let new := ts.map fun t =>
      { pc := t.setWidth 48, prio := prio, flags := 0, mask := maskWhere fun l => has take l && target l == t }
    retire (((link c).leave take new).endRun)

/-- The target of an immediate branch (R101, R122). -/
def Ctx.branchTarget (c : Ctx) (imm : BitVec 32) : Word := c.pc.setWidth 64 + (imm.signExtend 64 <<< 3)

/-- The targets of an indirect branch (R125). -/
def Ctx.laneTargets (c : Ctx) (a : VReg) (l : Nat) : Word :=
  let x := c.lanesV true .a a
  ((x.hi.val.toList.getD l 0).setWidth 64 <<< 32) ||| (x.lo.val.toList.getD l 0).setWidth 64

/-- BRA (R123). -/
def execBra (h : Hdr) (prio : BitVec 8) (imm : BitVec 32) (s : State) : Out :=
  onWord (.bra h prio imm) h s fun c => transfer c prio c.act (fun _ => c.branchTarget imm) id

/-- BRC (R123): the lanes of ACTIVE whose predicate bit is 1. -/
def execBrc (h : Hdr) (prio : BitVec 8) (p : PReg) (imm : BitVec 32) (s : State) : Out :=
  onWord (.brc h prio p imm) h s fun c => transfer c prio (c.act &&& c.p .d p) (fun _ => c.branchTarget imm) id

/-- CALL (R124): writes the link to the pair D of every lane of ACTIVE, with exact bounds. -/
def execCall (h : Hdr) (prio : BitVec 8) (d : VReg) (imm : BitVec 32) (s : State) : Out :=
  onWord (.call h prio d imm) h s fun c =>
    transfer c prio c.act (fun _ => c.branchTarget imm) fun c =>
      c.setLanes true d c.act (fun _ => (c.pc.setWidth 64 + (8 : Word)).toNat) fun _ => 0

/-- BRX (R125). -/
def execBrx (h : Hdr) (prio : BitVec 8) (a : VReg) (s : State) : Out :=
  onWord (.brx h prio a) h s fun c => transfer c prio c.act (c.laneTargets a) id

/-- RET (R125): the same effect as BRX. -/
def execRet (h : Hdr) (prio : BitVec 8) (a : VReg) (s : State) : Out :=
  onWord (.ret h prio a) h s fun c => transfer c prio c.act (c.laneTargets a) id

/-- EXIT (R126): the lanes of ACTIVE leave the frontier. -/
def execExit (h : Hdr) (s : State) : Out :=
  onWord (.exit h) h s fun c => retire ((c.leave c.act []).endRun)

/-- NOP (R127). -/
def execNop (h : Hdr) (s : State) : Out := onRegs (.nop h) h s id

/-- RECONV (R128): the lanes of ACTIVE wait at the word with RCWAIT; RUN_BOUNDARY ends the wait (R24). They do not keep the wait of
a SLEEP earlier in the run (DEDUCED, log 39). -/
def execReconv (h : Hdr) (s : State) : Out :=
  onWord (.reconv h) h s fun c =>
    retire ((c.once fun c =>
      c.leave c.act [{ pc := c.pc, prio := c.r.prio, flags := flagRcwait, mask := c.act }]).endRun)

/-- PRIO (R129). -/
def execPrio (h : Hdr) (n : BitVec 8) (s : State) : Out :=
  onRegs (.prio h n) h s fun c => c.once fun c => { c with r := { c.r with prio := n } }

/-- YIELD (R130): the issue choice after its boundary passes over the floe. -/
def execYield (h : Hdr) (s : State) : Out :=
  onRegs (.yield h) h s fun c => (c.once fun c => { c with r := { c.r with yielded := true } }).endRun

/-- SLEEP (R131): sets the floe's deadline; the entry waits with BLOCKED from the run boundary on (DEDUCED, log 39). -/
def execSleep (h : Hdr) (imm : BitVec 32) (s : State) : Out :=
  onRegs (.sleep h imm) h s fun c =>
    if c.act = 0 ∨ imm = 0 then c
    else
      let t := c.s.firn c.core + imm.setWidth 64
      { c with f := { c.f with deadline := if c.f.deadline.toNat < t.toNat then t else c.f.deadline },
               r := { c.r with slept := true } }

end Sys2Proof.Machine
end

