-- ==== Sys2Proof/Machine/Access.lean ====
section
/-! DEFINITION. How a memory instruction is checked and issued: lane addresses (R102), the checks of R174 and R175 with their
traps and the parked entry (R308), denial (R309), the single-copy atomic units of an access (R240, R241), and the record of
an access that has issued (R239). -/

namespace Sys2Proof.Machine
open Sys2Proof

/-! ### Addresses -/

/-- The address of a lane of an M word (R102). -/
def Ctx.addr (c : Ctx) (m : MemOp) (l : Nat) : Word :=
  let off : Word := if m.vb = 1023 then 0 else ((c.v .a m.vb).val.toList.getD l 0).signExtend 64
  c.sr .a m.sa + off + m.off.signExtend 64

/-- The address of an access that acts once per issue (R179, R194). -/
def Ctx.addr1 (c : Ctx) (sa : SReg) (off : BitVec 13) : Word := c.sr .a sa + off.signExtend 64

/-- The active lanes with their addresses. -/
def Ctx.addrs (c : Ctx) (m : MemOp) : List (Nat × Word) :=
  let row := if m.vb = 1023 then none else some (c.v .a m.vb).val.toList
  let base := c.sr .a m.sa + m.off.signExtend 64
  (lanesOf c.act).map fun l => (l, base + match row with
    | none => 0
    | some r => (r.getD l 0).signExtend 64)

/-- Bytes of a data size (R104). -/
def szBytes : Sz → Nat
  | .n8 | .s8 => 1
  | .n16 | .s16 => 2
  | .b32 => 4
  | .b64 => 8
  | .b128 => 16

/-- The farther of two levels (R173). -/
def levelNum : Level → Nat
  | .near => 0
  | .mid => 1
  | .far => 2
  | .stream => 3

/-- The level of a code. -/
def levelOf (n : Nat) : Level :=
  match n with
  | 0 => .near
  | 1 => .mid
  | 2 => .far
  | _ => .stream

/-- The effective level of an access (R173). -/
def effLevel (pol : Level) (leaf : Word) : Level := levelOf (max (levelNum pol) (pteLevel leaf))

/-! ### Checks (R174, R175) -/

/-- What an instruction asks of the memory it touches: whether it writes, its natural alignment (1: none), whether it takes
Moraine cells only (some true) or no Moraine page (some false), and whether MMIO is forbidden to it (R174, R175, R185,
R189). -/
structure AccRule where
  write : Bool
  align : Nat
  cell : Option Bool
  noMmio : Bool
  deriving DecidableEq, Repr

/-- A part of an access that lies in one page, translated: offset in the datum, virtual and physical address, length, leaf and
the end of the translation. -/
structure Piece where
  k : Nat
  va : Word
  pa : Nat
  n : Nat
  leaf : Word
  exp : Nat
  deriving DecidableEq, Repr

/-- What the checks found for one lane: the failing steps, the pages without a translation, and the translated pieces. -/
structure LaneCheck where
  lane : Nat
  va : Word
  mis : Bool
  prot : Bool
  cell : Bool
  miss : List (Word × Nat × Bool)
  pieces : List Piece
  deriving DecidableEq, Repr

/-- n bytes at va cut at page ends: offset, address, length. -/
def pageParts : Nat → Nat → Word → Nat → List (Nat × Word × Nat)
  | 0, _, _, _ => []
  | f + 1, k, va, n =>
    if n = 0 then []
    else
      let m := min n (65536 - va.toNat % 65536)
      (k, va, m) :: pageParts f (k + m) (va + BitVec.ofNat 64 m) (n - m)

/-- The PROTECTION conditions of a valid leaf (R174, R185, R274). -/
def leafDenied (s : State) (handler : Bool) (r : AccRule) (leaf : Word) (pa : Nat) : Bool :=
  (r.write && !pteW leaf) || (pteK leaf && !handler) || (r.noMmio && pteKind leaf == 3) ||
    (if pteVer leaf then !s.hub.versioned pa else s.hub.inMoraine pa)

/-- The MORAINE_OP conditions of a valid leaf (R185, R189). -/
def leafWrongCell (r : AccRule) (leaf : Word) : Bool :=
  match r.cell with
  | some need => need != pteVer leaf
  | none => false

/-- R175: MMIO takes aligned accesses of 4 and 8 bytes only. -/
def mmioMisfit (r : AccRule) (n : Nat) (va : Word) (leaf : Word) : Bool :=
  pteKind leaf == 3 && !r.noMmio && !((n == 4 || n == 8) && va.toNat % n == 0)

/-- Checks the n bytes of a lane at va for a floe's access, keeping what the walks cache (R174, R268); a row operation also asks
for Serac pages (R227). -/
def checkLane (core : Nat) (ctx : BitVec 8) (root : Nat) (handler : Bool) (r : AccRule) (n : Nat) (s : State) (la : Nat × Word)
    (g : Agent := .words) (ser : Bool := false) : State × LaneCheck :=
  (pageParts (n / 65536 + 2) 0 la.2 n).foldl (fun (sc : State × LaneCheck) p =>
    let (s, ck) := sc
    let va := p.2.1
    if !canonical va then (s, { ck with prot := true })
    else
      let good (leaf : Word) : Bool :=
        !leafDenied s handler r leaf (leafPa leaf va) && !leafWrongCell r leaf && !mmioMisfit r n la.2 leaf && (!ser || pteSer leaf)
      match s.lookup g core ctx root va good with
      | (s, .miss level bad) => (s, { ck with miss := ck.miss ++ [(va, level, bad)] })
      | (s, .ok pa leaf exp) =>
        (s, { ck with
              mis := ck.mis || mmioMisfit r n la.2 leaf
              prot := ck.prot || leafDenied s handler r leaf pa
              cell := ck.cell || leafWrongCell r leaf
              pieces := ck.pieces ++ [⟨p.1, va, pa, p.2.2, leaf, exp⟩] }))
    (s, ⟨la.1, la.2, la.2.toNat % r.align != 0, false, false, [], []⟩)

/-- Checks every lane of an access in order, each with its address and length. -/
def checkLanes (core : Nat) (ctx : BitVec 8) (root : Nat) (handler : Bool) (r : AccRule) (s : State)
    (las : List ((Nat × Word) × Nat)) (g : Agent := .words) : State × List LaneCheck :=
  las.foldl (fun (sc : State × List LaneCheck) la =>
    let (s, ck) := checkLane core ctx root handler r la.2 sc.1 la.1 g
    (s, sc.2 ++ [ck])) (s, [])

/-- The lanes of checks that fail a test; an access of every lane stands for all of ACTIVE (R179). -/
def failing (act : Mask) (cks : List LaneCheck) (p : LaneCheck → Bool) : Mask :=
  let bad := cks.filter p
  if bad.any (fun c => c.lane == 64) then act else maskWhere fun l => bad.any fun c => c.lane == l

/-- The address of the lowest failing lane. -/
def failAddr (cks : List LaneCheck) (p : LaneCheck → Bool) : Word := ((cks.filter p).head?.map (·.va)).getD 0

/-- A run without lanes ends. -/
def Ctx.endEmpty (c : Ctx) : Ctx := if c.r.mask = 0 then c.endRun else c

/-- Splits lanes off as a PARKED entry at the word and reports their pages (R174, R308, R342). -/
def Ctx.park (c : Ctx) (m : Mask) (write fetch : Bool) (misses : List (Word × Nat × Bool)) : Ctx :=
  if m = 0 then c else
  let c := c.leave m [{ pc := c.pc, prio := c.r.prio, flags := flagParked, mask := m }]
  let pages := misses.foldl (fun (ps : List (Word × Nat × Bool)) x =>
    if ps.any fun y => y.1.toNat / 65536 == x.1.toNat / 65536 then ps else ps ++ [x]) []
  let s := pages.foldl (fun s x =>
    s.pageFault c.f.ctx x.1 (faultInfo write fetch false x.2.1 x.2.2) c.core (BitVec.ofNat 8 (c.key % 64))
      (.lanes c.key c.f.seq m fetch c.f.handler)) c.s
  ({ c with s := s, act := c.act &&& ~~~m } : Ctx).endEmpty

/-- The checks of R174 for an access at each address with its length, then what the lanes that pass do (DEDUCED, log 17). -/
def Ctx.accessN (c : Ctx) (r : AccRule) (las : List ((Nat × Word) × Nat)) (k : Ctx → List LaneCheck → State) (g : Agent := .words) :
    State :=
  match c.pack? with
  | none => k c []
  | some p =>
    let (s, cks) := checkLanes c.core c.f.ctx (c.s.rootOf p) c.f.handler r c.s las g
    let c := { c with s := s }
    let mis := failing c.act cks (·.mis)
    let den := c.r.denied &&& c.act
    let prot := failing c.act cks (·.prot)
    let cell := failing c.act cks (·.cell)
    if mis ≠ 0 then trapAt c 0x22 mis (failAddr cks (·.mis)) c.word
    else if den ≠ 0 then
      let whole := cks.any fun x => x.lane == 64
      let m := if whole then c.act else den
      trapWord c 0x21 m
        (failAddr cks fun x => x.lane == 64 || has den x.lane) c.word true
    else if prot ≠ 0 then trapAt c 0x21 prot (failAddr cks (·.prot)) c.word
    else if cell ≠ 0 then trapAt c 0x26 cell (failAddr cks (·.cell)) c.word
    else
      let gone := failing c.act cks fun x => !x.miss.isEmpty
      k (c.park gone r.write false (cks.flatMap (·.miss)))
        (if cks.any (fun x => x.lane == 64 && !x.miss.isEmpty) then [] else cks.filter fun x => x.miss.isEmpty)

/-- The checks of R174 for an access of n bytes at each address. -/
def Ctx.access (c : Ctx) (r : AccRule) (n : Nat) (las : List (Nat × Word)) (k : Ctx → List LaneCheck → State) : State :=
  c.accessN r (las.map fun la => (la, n)) k

/-! ### Units (R240, R241) -/

/-- Tagged memory (R88). -/
def leafTagged (leaf : Word) : Bool := pteKind leaf == 0 && pteBnd leaf && !pteVer leaf

/-- Cuts a piece at multiples of g. -/
def cutPiece (g : Nat) : Nat → Piece → List Piece
  | 0, _ => []
  | f + 1, p =>
    if p.n = 0 then []
    else
      let m := min p.n (g - p.pa % g)
      { p with n := m } ::
        cutPiece g f { p with k := p.k + m, va := p.va + BitVec.ofNat 64 m, pa := p.pa + m, n := p.n - m }

/-- The single-copy atomic pieces of a lane's access of n bytes (R240); the two cells of an aligned 16-byte access on a versioned
page are read or stored to in one event (R189, R251). -/
def laneUnits (pol : Level) (n : Nat) (ck : LaneCheck) : List Span :=
  ck.pieces.flatMap fun p =>
    let g := if n = 16 && ck.va.toNat % 16 == 0 then (if pteVer p.leaf then 16 else 8) else if pteKind p.leaf == 0 then 128 else 64
    (cutPiece g (p.n / g + 2) p).map fun q => ⟨ck.lane, q.k, q.va, q.pa, q.n, leafTagged q.leaf, effLevel pol q.leaf⟩

/-- The block whose whole coverage makes one event (R241): a line of device memory, a 64-byte half of host or pool memory. -/
def blockOf (pa : Nat) : Nat × Nat := if kindOf pa = 0 then (pa / 128 * 128, 128) else (pa / 64 * 64, 64)

/-- Whether spans cover a block whole. -/
def coverBlock (b : Nat × Nat) (xs : List Span) : Bool :=
  (List.range b.2).all fun i => xs.any fun x => decide (x.pa ≤ b.1 + i) && decide (b.1 + i < x.pa + x.n)

/-- The units of an LD or ST: fully coalesced blocks are one unit, every other piece is its own (R240, R241). `all`: no active
lane has parked. -/
def unitsOf (all : Bool) (xs : List Span) : List (List Span) :=
  let blocks := (xs.map fun x => blockOf x.pa).eraseDups
  blocks.flatMap fun b =>
    let mine := xs.filter fun x => blockOf x.pa == b
    let one := match kindOf b.1 with
      | 0 => all && blocks.length == 1
      | 1 | 2 => true
      | _ => false
    if one && coverBlock b mine then [mine] else mine.map fun x => [x]

/-- The highest lane whose spans write a byte (R178). -/
def winner (xs : List Span) (pa : Nat) : Nat :=
  xs.foldl (fun m x => if x.pa ≤ pa && pa < x.pa + x.n then max m x.lane else m) 0

/-- The bytes that a span stores, from the lane's data, without those that a higher lane writes (R178; DEDUCED, log 47). -/
def storeSpan (xs : List Span) (data : Nat → Nat → Byte × Bound) (x : Span) : StSpan :=
  let under := xs.filter fun y => decide (y.lane < x.lane) && decide (y.pa < x.pa + x.n) && decide (x.pa < y.pa + y.n)
  ⟨x, (under.map (·.lane)).eraseDups, (List.range x.n).filterMap fun i =>
    if winner xs (x.pa + i) == x.lane then
      let d := data x.lane (x.k + i)
      some (x.pa + i, d.1, d.2)
    else none⟩

/-- Whether a store drops a bound that is not 0x0000 (R88; DEDUCED, log 47). -/
def dropsBound (xs : List StSpan) : Bool := xs.any fun x => !x.src.tagged && x.bytes.any fun b => b.2.2 != 0

/-! ### Issue -/

/-- An access between issue and performance (R239). -/
structure Req where
  lanes : Mask
  order : Ord3
  scope : Scope
  reads : Bool
  writes : Bool
  todo : List Work
  dest : Dest
  exp : Nat
  snap : Bool
  mmio : Bool
  deriving DecidableEq, Repr

/-- The earliest end of the translations of checked lanes. -/
def minExp (cks : List LaneCheck) : Nat :=
  match cks.flatMap fun c => c.pieces.map (·.exp) with
  | [] => 0
  | x :: t => t.foldl min x

/-- Whether checked lanes touch MMIO. -/
def onMmio (cks : List LaneCheck) : Bool := cks.any fun c => c.pieces.any fun p => pteKind p.leaf == 3

/-- Whether checked lanes touch versioned pages. -/
def onCells (cks : List LaneCheck) : Bool := cks.any fun c => c.pieces.any fun p => pteVer p.leaf

/-- A unit without the lanes of a mask, none when no lane is left. -/
def Work.without (m : Mask) : Work → Option Work
  | .atomic f ty dnan ls =>
    let xs := ls.filter fun x => !has m x.lane
    if xs.isEmpty then none else some (.atomic f ty dnan xs)
  | .recon op dnan ls =>
    let xs := ls.filter fun x => !has m x.lane
    if xs.isEmpty then none else some (.recon op dnan xs)
  | u => some u

/-- The lanes of a mask that a floe's checkpoints hold as performed at a word, with what they returned (R252). -/
def Floe.performed (f : Floe) (pc : BitVec 48) (m : Mask) : Mask × List (Nat × Nat × List (Byte × Bound)) :=
  let here := if f.handler then [] else f.ckpts.filter (·.pc == pc)
  let mask := here.foldl (fun x k => x ||| k.lanes) 0 &&& m
  (mask, (here.flatMap (·.got)).filter fun e => has mask e.1)

/-- The checkpoints of a floe without the lanes of a mask. -/
def Floe.uncheck (f : Floe) (m : Mask) : Floe :=
  { f with ckpts := (f.ckpts.map fun k => { k with lanes := k.lanes &&& ~~~m }).filter (·.lanes != 0) }

/-- Records an access as issued; one that touches nothing is none (DESIGN CHOICE, log 19). A replay performs only the lanes that
no checkpoint holds (R252). -/
def Ctx.issue (c : Ctx) (q : Req) : Ctx :=
  if q.todo.isEmpty then c else
  let again := if q.writes && q.dest != .none then c.f.performed c.pc q.lanes else (0, [])
  let todo := if again.1 = 0 then q.todo else
    match q.todo.filterMap (Work.without again.1) with
    | [] => [.load []]
    | us => us
  let c := if again.1 = 0 then c else { c with f := c.f.uncheck again.1 }
  let a : Acc :=
    { floe := c.key, seq := c.f.seq, pack := (c.pack?.map (·.id)).getD ⟨0, 0, 0⟩, number := c.num, run := c.r.number, lanes := q.lanes, order := q.order,
      scope := q.scope, reads := q.reads, writes := q.writes, mmio := q.mmio, sticky := !c.f.handler, todo := todo, got := again.2,
      wrote := [], poison := [], dest := q.dest, pc := c.pc, word := c.word, born := c.s.hub.firn.toNat, exp := q.exp,
      snap := if q.snap then some { c.f with run := some c.r } else none }
  { c with s := { c.s with pend := c.s.pend.put c.num a } }

/-- Whether a store to checked lanes may still trap, which holds the floe until it is performed (R28, R281): it stores to cells,
which FOLD lets fold or not as it stands then (R273). -/
def storeTraps (cks : List LaneCheck) : Bool := onCells cks

/-- The lanes of checks: of an access of every lane, ACTIVE. -/
def laneMask (act : Mask) (cks : List LaneCheck) : Mask := failing act cks fun _ => true

end Sys2Proof.Machine
end

