-- ==== Sys2Proof/Machine/Moraine.lean ====
section
/-! DEFINITION. Moraine: line records and the events of a line (spec 13, R275 to R282; R186 to R189). -/

namespace Sys2Proof.Machine
open Sys2Proof

/-- A sibling of a cell: sibling 0 is in the data line and the cell header, another in a pool slot (R275). -/
structure Sib where
  birth : Nat
  writer : Nat
  wr : Bool
  slot : Option Nat
  value : Word
  deriving DecidableEq, Repr

/-- The record of a line with its cells' siblings in order (R275, R276); `kept` is the order of the pool slots of each cell at a
rebase in the event that changes the line (R282). -/
structure MLine where
  epoch : Nat
  gen : Nat
  folds : Nat
  cells : List (List Sib)
  kept : Option (List (List Nat)) := none
  deriving DecidableEq, Repr

/-- Limits of R281 and the epoch at which a line is rebased (R282). -/
def cellLimit : Nat := 4
def extraLimit : Nat := 8
def rebaseEpoch : Nat := 0xFFFFFFF0

/-- The address of the line's record (R275). -/
def Hub.recordOf (h : Hub) (a : Nat) : Nat := h.mrecBase + (a - h.mdataBase) / 128 * 256

/-- Inserts a sibling before the first that comes after it or ties with it: by birth, then by writer, then by the place that the
latest rebase gave it (R276). -/
def insertSib (place : Nat → Nat) (x : Sib) : List Sib → List Sib
  | [] => [x]
  | y :: t =>
    let key (z : Sib) : Nat := (z.birth * 4096 + z.writer) * 16 + place (z.slot.getD 8)
    if key y < key x then y :: insertSib place x t else x :: y :: t

/-- The line that holds address a (DEDUCED, log 8). -/
def readMLine (s : State) (a : Nat) : MLine :=
  let base := a / 128 * 128
  let r := s.hub.recordOf base
  let used := (s.byte (r + 5)).toNat
  let slot (k : Nat) : Nat × Sib :=
    let x := leNat (s.bytes (r + 0x88 + 15 * k) 15)
    (bitsAt x 0 4, ⟨bitsAt x 16 32, bitsAt x 4 12, true, some k, BitVec.ofNat 64 (bitsAt x 48 64)⟩)
  let extras := ((List.range 8).filter fun k => used / 2 ^ k % 2 == 1).map slot
  { epoch := leNat (s.bytes r 4), gen := (s.byte (r + 4)).toNat, folds := leNat (s.bytes (r + 6) 2),
    cells := (List.range 16).map fun c =>
      let hd := leNat (s.bytes (r + 8 + 8 * c) 8)
      let places := (s.hub.rebased.getD (base / 8 + c) [])
      let own := (extras.filter fun e => e.1 == c).map (·.2)
      ⟨bitsAt hd 0 32, bitsAt hd 32 12, hd / 2 ^ 46 % 2 == 1, none, BitVec.ofNat 64 (leNat (s.bytes (base + 8 * c) 8))⟩ ::
        own.foldr (insertSib fun k => places.idxOf k) [] }

/-- A sibling that no cell holds. -/
def Sib.zero : Sib := ⟨0, 0, false, none, 0⟩

/-- The pool slots in use. -/
def MLine.slots (m : MLine) : List Nat := m.cells.flatten.filterMap (·.slot)

/-- Writes a line and its record back (R275; DEDUCED, log 44). -/
def writeMLine (s : State) (a : Nat) (m : MLine) : State :=
  let base := a / 128 * 128
  let r := s.hub.recordOf base
  let used := m.slots.foldl (fun n k => n + 2 ^ k) 0
  let head (c : List Sib) : Sib := c.headD Sib.zero
  let header (c : List Sib) : List Byte :=
    let z := head c
    natLe 8 (z.birth + 2 ^ 32 * z.writer + 2 ^ 44 * (c.length - 1) + (if z.wr then 2 ^ 46 else 0))
  let s := s.setBytes r (natLe 4 m.epoch ++ natLe 1 m.gen ++ natLe 1 used ++ natLe 2 m.folds ++ m.cells.flatMap header)
  let s := s.setBytes base (m.cells.flatMap fun c => natLe 8 (head c).value.toNat)
  m.cells.zipIdx.foldl (fun s (c, i) =>
    c.foldl (fun s z => match z.slot with
      | some k => s.setBytes (r + 0x88 + 15 * k) (natLe 15 (i + 2 ^ 4 * z.writer + 2 ^ 16 * z.birth + 2 ^ 48 * z.value.toNat))
      | none => s) s) s

/-- The siblings of cell i. -/
def MLine.cell (m : MLine) (i : Nat) : List Sib := m.cells.getD i [Sib.zero]

/-- Gives cell i the siblings xs: the first moves into the data line and frees its slot, one without a slot takes the lowest
free one (R275). -/
def MLine.putCell (m : MLine) (i : Nat) (xs : List Sib) : MLine :=
  let others := (m.cells.zipIdx.filter fun e => e.2 != i).flatMap fun e => e.1.filterMap (·.slot)
  let ys := match xs with
    | [] => [Sib.zero]
    | x :: t =>
      { x with slot := none } ::
        (t.foldl (fun (acc : List Sib × List Nat) y =>
          match y.slot with
          | some _ => (acc.1 ++ [y], acc.2)
          | none =>
            let k := ((List.range 8).find? fun k => !acc.2.contains k).getD 0
            (acc.1 ++ [{ y with slot := some k }], acc.2 ++ [k])) ([], others ++ t.filterMap (·.slot))).1
  { m with cells := m.cells.set i ys }

/-- Cells of a line that hold more than sibling 0. -/
def MLine.extras (m : MLine) : Nat := (m.cells.map fun c => c.length - 1).sum

/-- The siblings of a cell whose births have all become 0, in the order of R276: by writer, and among those of one writer as they
stood (DEDUCED, log 8). -/
def reborn (c : List Sib) : List Sib := (c.map fun z => { z with birth := 0 }).foldr (insertSib fun _ => 0) []

/-- The rebase of R282, due when E is at the threshold before an applied change (DEDUCED, log 8). -/
def MLine.rebase (m : MLine) : MLine :=
  if m.epoch < rebaseEpoch then m
  else
    let n := (List.range 16).foldl (fun (n : MLine) i => n.putCell i (reborn (n.cell i))) { m with epoch := 1, gen := (m.gen + 1) % 256 }
    { n with kept := some (n.cells.map fun c => c.filterMap (·.slot)) }

/-! ### Merging (R188) -/

/-- Signed value of a cell. -/
def sint (w : Word) : Int := w.toInt

/-- The sum of two FP64 codes (R45, FULL rn). -/
def addF64 (dnan : Bool) (x y : Word) : Word :=
  BitVec.ofNat 64 (tiered FFmt.f64 .add FFmt.f64.P .rn dnan x.toNat y.toNat 0 0 0 0).code

/-- The merged value of siblings in order (R188). -/
def mergeSibs (op : ReconOp) (dnan : Bool) (xs : List Sib) : Word :=
  match xs with
  | [] => 0
  | x :: t =>
    let fold (f : Word → Word → Word) : Word := t.foldl (fun w y => f w y.value) x.value
    match op with
    | .addS64 => fold (· + ·)
    | .addF64 => fold (addF64 dnan)
    | .maxS64 => fold fun a b => if sint a < sint b then b else a
    | .minS64 => fold fun a b => if sint b < sint a then b else a
    | .or => fold (· ||| ·)
    | .and => fold (· &&& ·)
    | .xor => fold (· ^^^ ·)
    | .first =>
      (t.foldl (fun m y => if y.writer < m.writer ∨ (y.writer = m.writer ∧ y.birth < m.birth) then y else m) x).value
    | .last =>
      (t.foldl (fun m y => if m.birth < y.birth ∨ (y.birth = m.birth ∧ m.writer < y.writer) then y else m) x).value

/-- DEFOP as an operation (R273 keeps it among the codes of R188). -/
def reconOf (code : BitVec 4) : ReconOp :=
  match code.toNat with
  | 0 => .addS64
  | 1 => .addF64
  | 2 => .maxS64
  | 3 => .minS64
  | 4 => .or
  | 5 => .and
  | 6 => .xor
  | 7 => .first
  | _ => .last

/-! ### Changes of a line (R277 to R281) -/

/-- A cell store: cell, the bytes written (offset and value), writer, context token (R278). -/
structure CellStore where
  cell : Nat
  bytes : List (Nat × Byte)
  writer : Nat
  gen : Nat
  epoch : Nat
  deriving DecidableEq, Repr

/-- A value with some bytes replaced (R189). -/
def withBytes (v : Word) (bs : List (Nat × Byte)) : Word :=
  bs.foldl (fun w e => (w &&& ~~~((0xFF : Word) <<< (8 * e.1))) ||| ((e.2.setWidth 64 : Word) <<< (8 * e.1))) v

/-- The siblings that a store leaves (R278) in a line already rebased if that was due. -/
def MLine.survivors (m : MLine) (x : CellStore) : List Sib :=
  let e := if x.gen = m.gen then x.epoch else 0
  (m.cell x.cell).filter fun z => if e = 0 then z.wr else decide (e < z.birth)

/-- The limit that a store would exceed, as XINFO has it: 1 the cell's, 2 the line's, 3 both, 0 none (R281). -/
def MLine.over (m : MLine) (x : CellStore) : Nat :=
  let m := m.rebase
  let k := (m.survivors x).length
  let others := m.extras - ((m.cell x.cell).length - 1)
  (if cellLimit < k + 1 then 1 else 0) + (if extraLimit < others + k then 2 else 0)

/-- One cell store (R277, R278), folded when it would exceed a limit (R281). -/
def MLine.store (m : MLine) (defop : ReconOp) (x : CellStore) : MLine :=
  let o := m.over x
  let m := m.rebase
  let e := m.epoch + 1
  let old := (m.cell x.cell).headD Sib.zero
  let new : Sib := ⟨e, x.writer, true, none, withBytes old.value x.bytes⟩
  let xs := m.survivors x ++ [new]
  if o = 0 then { (m.putCell x.cell xs) with epoch := e }
  else
    { (m.putCell x.cell [⟨e, x.writer, true, none, mergeSibs defop false xs⟩]) with
      epoch := e, folds := min 0xFFFF (m.folds + 1) }

/-- A reconcile of one cell (R280, R188). -/
def MLine.recon (m : MLine) (op : ReconOp) (dnan : Bool) (cell writer : Nat) : MLine × Word :=
  let m := m.rebase
  let e := m.epoch + 1
  let v := mergeSibs op dnan (m.cell cell)
  ({ (m.putCell cell [⟨e, writer, true, none, v⟩]) with epoch := e }, v)

/-- The first store of an event that would exceed a limit, with the limit code, when every earlier one is applied (R281). -/
def MLine.firstOver (m : MLine) (defop : ReconOp) : List CellStore → Option (CellStore × Nat)
  | [] => none
  | x :: t => if m.over x = 0 then (m.store defop x).firstOver defop t else some (x, m.over x)

/-- Keeps the order that a rebase of a line leaves among its siblings (R276, R282; DEDUCED, log 8). -/
def noteRebase (s : State) (a : Nat) (new : MLine) : State :=
  match new.kept with
  | none => s
  | some places =>
    let base := a / 128 * 16
    s.setHub { s.hub with
      rebased := (List.range 16).foldl (fun t i => t.set [] (base + i) (places.getD i [])) s.hub.rebased }

/-- Whether the line of an address or its record is out of reach: it reads as poison (R354, R395). -/
def State.badLine (s : State) (a : Nat) : Bool :=
  let r := s.hub.recordOf (a / 128 * 128)
  s.poisoned a || s.poisoned r || s.poisoned (r + 128)

/-- Replaces the line of address a in one event; a line whose pseudo-channel discards writes stays (R354). The host gives up
what it holds of the record (R371). -/
def State.putMLine (s : State) (a : Nat) (new : MLine) : State :=
  let r := s.hub.recordOf (a / 128 * 128)
  if s.discards a || s.discards r || s.discards (r + 128) then s
  else (writeMLine (noteRebase s a new) a new).backInvalidate [r, r + 64, r + 128, r + 192]

/-- The stores of one event at the line of address a (R187, R189, R277). -/
def State.mstore (s : State) (a : Nat) (xs : List CellStore) : State :=
  let m := readMLine s a
  s.putMLine a (xs.foldl (fun m x => m.store (reconOf s.hub.defop) x) m)

/-- A store of bytes at versioned addresses, as one store per cell in ascending order, all with context 0 (R189, R278). -/
def cellStores (bytes : List (Nat × Byte)) (writer : Nat) : List CellStore :=
  let cells := (bytes.map fun e => e.1 / 8).eraseDups
  cells.map fun c =>
    { cell := c % 16, bytes := (bytes.filter fun e => e.1 / 8 == c).map fun e => (e.1 % 8, e.2), writer := writer, gen := 0,
      epoch := 0 }

/-- What LDV returns for a cell and an index: value, count, generation, epoch (R186). -/
def State.mread (s : State) (a : Nat) (i : Nat) : Word × Nat × Nat × Nat :=
  let m := readMLine s a
  let c := m.cell (a / 8 % 16)
  ((c.getD (min i (c.length - 1)) Sib.zero).value, c.length, m.gen, m.epoch)

end Sys2Proof.Machine
end

