-- ==== Sys2Proof/Machine/Phys.lean ====
section
/-! DEFINITION. What a performed access does to physical memory (R239, R242): bytes with their bounds read and written in one
moment, on tagged, untagged, versioned, poisoned and discarding memory (R86 to R88, R189, R354, R371, R374), whether a write
may be performed yet (R261), and which accesses come before which at a line (R267). -/

namespace Sys2Proof.Machine
open Sys2Proof

/-- The agent identity of the hub and of the host in stores to versioned memory (R276; DESIGN CHOICE, log 32). -/
def hubWriter : Nat := 0xFFE
def hostWriter : Nat := 0xFFF

/-- The bound that a byte of tagged memory carries: its quarter's (R86). -/
def State.byteBound (s : State) (a : Nat) : Bound := quarterBound (s.tag a) (a / 32 % 4)

/-- n bytes at a physical address with their bounds: 0x0000 from untagged memory (R86, R88, R189). -/
def State.physLoad (s : State) (a n : Nat) (tagged : Bool) : List (Byte × Bound) :=
  (s.pbytes a n).zipIdx.map fun e => (e.1, if tagged then s.byteBound (a + e.2) else 0)

/-- An address in each line that n bytes touch. -/
def linesTouched (pa n : Nat) : List Nat := (List.range ((pa + n - 1) / 128 - pa / 128 + 1)).map fun i => (pa / 128 + i) * 128

/-- The lines that bytes lie in. -/
def linesOf (as : List Nat) : List Nat := (as.map lineOf).eraseDups

/-- The lines of device and pool memory, and the halves of host memory, that bytes lie in. -/
def blocksOf (as : List Nat) : List Nat := (as.map fun a => if kindOf a = 1 then a / 64 * 64 else a / 128 * 128).eraseDups

/-- Whether bytes cover a whole line (DEDUCED, log 31). -/
def coversLine (ln : Nat) (as : List Nat) : Bool := (as.filter fun a => lineOf a == ln).eraseDups.length == 128

/-- Marks a line as poisoned or not (DEDUCED, log 31). -/
def State.setPoison (s : State) (ln : Nat) (p : Bool) : State := { s with poison := s.poison.set false ln p }

/-- Stores to bytes end what other accesses still hold of the quarters that they lie in (R87; DEDUCED, log 36). -/
def State.strike (s : State) (as : List Nat) : State :=
  if s.pend.all fun e => e.2.wrote.isEmpty then s
  else
    let kept (e : Nat × Acc) : Nat × Acc :=
      (e.1, { e.2 with wrote := e.2.wrote.filter fun w => !as.any fun a => a / 32 == w.1 / 32 })
    { s with pend := s.pend.map kept }

/-- What a write of bytes by an agent at a core does beside its values: caches, directory, Neve and the host's copies follow
(R326 to R328, R371). -/
def State.wroteAt (s : State) (core : Nat) (lv : Level) (as : List Nat) : State :=
  (((blocksOf as).foldl (fun s a => s.cacheStore core a lv) s).backInvalidate as).strike as

/-- Writes bytes with their bounds at one moment, for an agent at a core and a writer id (R178, R87, R88, R189, R278): bytes on
memory that discards writes go, as do those in the record area, which its home alone writes (R274); versioned bytes are stores
of context 0, and a line written whole is no longer poisoned (DEDUCED, log 31). -/
def State.physStore (s : State) (core writer : Nat) (lv : Level) (tagged : Bool) (w : List (Nat × Byte × Bound))
    (prior : List (Nat × Bound) := []) : State :=
  let s := w.foldl (fun s e => s.noteUnclaimed e.1) s
  let live := w.filter fun e => !s.discards e.1 && !s.hub.inRecords e.1
  let cells := live.filter fun e => s.hub.versioned e.1
  let plain := live.filter fun e => !s.hub.versioned e.1
  let s := (linesOf (cells.map (·.1))).foldl (fun s ln =>
    s.mstore (ln * 128) (cellStores ((cells.filter fun e => lineOf e.1 == ln).map fun e => (e.1, e.2.1)) writer)) s
  let s := plain.foldl (fun s e => s.setByte (s.hub.cell e.1) e.2.1) s
  let s := if tagged then s.mergeTags (plain.map fun e => (e.1, e.2.2)) prior else s
  let s := (linesOf (plain.map (·.1))).foldl (fun s ln =>
    if coversLine ln (plain.map (·.1)) then s.setPoison ln false else s) s
  s.wroteAt core lv (live.map (·.1))

/-- Whether a write may be performed: every lease on its lines has run out, and no write that arrived earlier waits there (R261;
DESIGN CHOICE, log 53). -/
def State.mayWrite (s : State) (w : Option Writer) (as : List Nat) : Bool :=
  (linesOf as).all fun ln => s.horizonPassed (ln * 128) &&
    match s.queueAt ln with
    | [] => true
    | x :: _ => some x == w

/-- A write has arrived at the lines of bytes (R261). -/
def State.waitWrites (s : State) (w : Writer) (as : List Nat) : State := (linesOf as).foldl (fun s ln => s.writeWaits w ln) s

/-- What loads of bytes at a level do to the caches. -/
def State.cacheLoads (s : State) (core : Nat) (lv : Level) (as : List Nat) : State :=
  (blocksOf as).foldl (fun s a => s.cacheLoad core a lv) s

/-- Whether some byte lies in a line that reads as poison for an agent of a die. -/
def State.anyPoison (s : State) (die : Nat) (as : List Nat) : Bool := (linesOf as).any fun ln => s.poisonedAt die (ln * 128)

/-! ### The order of accesses at a line (R249, R267) -/

/-- Whether an access that a fork point follows is still pending (R249; DEDUCED, log 21). -/
def State.forkHeld (s : State) (k : Fork) : Bool :=
  s.pend.any fun e => e.2.floe == k.floe && e.2.seq == k.seq && decide (e.2.number < k.number) && e.2.lanes &&& k.lanes != 0

/-- Lane, first address and length of what a unit touches. -/
def Work.touches : Work → List (Nat × Nat × Nat)
  | .load xs => xs.map fun x => (x.lane, x.pa, x.n)
  | .store xs => xs.flatMap fun x => (x.src.lane :: x.also).map fun l => (l, x.src.pa, x.src.n)
  | .atomic _ ty _ ls => ls.map fun x => (x.lane, x.pa, if ty.wide then 8 else 4)
  | .ldv l => [(l.lane, l.pa, 8)]
  | .stv ls => ls.map fun x => (x.lane, x.pa, 8)
  | .recon _ _ ls => ls.map fun x => (x.lane, x.pa, 8)

/-- Every address that a unit touches. -/
def Work.bytes (u : Work) : List Nat := u.touches.flatMap fun t => (List.range t.2.2).map fun i => t.2.1 + i

/-- The lines that a unit touches. -/
def Work.lines (u : Work) : List Nat := (u.touches.flatMap fun t => [lineOf t.2.1, lineOf (t.2.1 + t.2.2 - 1)]).eraseDups

/-- An access of an agent that is accepted at its lines and not performed: its number, when it issued, and when the translation
it used ran out, by which time it has been accepted (R267). -/
structure Claim where
  id : Nat
  born : Nat
  exp : Nat
  lines : List Nat
  deriving DecidableEq, Repr

/-- The claims of every agent (DESIGN CHOICE, log 19). -/
def State.claims (s : State) : List Claim :=
  s.pend.map (fun e => ⟨e.1, e.2.born, e.2.exp, (e.2.todo.flatMap Work.lines).eraseDups⟩) ++
    (s.cores.flatMap fun c => c.2.queues.flatMap fun q => q.2.flatMap fun r => (r.flying.filter (!·.pad)).map fun f =>
      ⟨f.id, f.born, f.exp, linesOf (f.dst.map (·.1))⟩) ++
    s.copies.map (fun x => ⟨x.id, x.born, x.exp, linesOf (x.src.map (·.pa))⟩) ++
    s.drains.map (fun x => ⟨x.id, x.born, x.exp, linesOf (linesTouched x.pa (4 * x.data.length))⟩) ++
    s.seracs.map fun x => ⟨x.id, x.born, x.exp,
      (x.dRows ++ x.aRows ++ x.bRows ++ x.eRows).flatMap fun r => (List.range 8).map fun k => r / 128 + k⟩

/-- The most requests that a core holds (R331). -/
def requestLimit : Nat := 768

/-- Memory requests outstanding on a core: the line pieces of each global access, and those of its engines; of what needs more
than a core holds, as many as it holds (R331; DESIGN CHOICE, log 18). -/
def State.requests (s : State) (core : Nat) : Nat :=
  ((List.filter (fun e => coreOf e.2.floe == core) s.pend).map fun e => min requestLimit ((e.2.todo.flatMap Work.lines).eraseDups).length).sum +
    ((s.core core).queues.map fun q => (q.2.map fun r => r.flying.length).sum).sum +
    ((s.copies.filter fun x => coreOf x.fork.floe == core).map fun x => min requestLimit x.src.length).sum +
    ((s.drains.filter fun x => coreOf x.fork.floe == core).map fun x => (linesTouched x.pa (4 * x.data.length)).length).sum

/-- Where an agent stands among the parts of a scope (R246): at a core, in the package, at its host, in another package. -/
inductive Place where
  | core (c : Nat)
  | package
  | host
  | pod
  deriving DecidableEq, Repr

/-- Whether an agent stands in the part of a scope, by its code, that a core lies in (R17, R246). -/
def Place.within (p : Place) (scope core : Nat) : Bool :=
  match p with
  | .package => decide (3 ≤ scope)
  | .host => decide (4 ≤ scope)
  | .pod => decide (5 ≤ scope)
  | .core c =>
    match scope with
    | 0 => c == core
    | 1 => quadOf c == quadOf core
    | 2 => dieOf c == dieOf core
    | _ => true

/-- Whether an agent inside the scope of an access that was performed early meets its lines, at least one of the two writing,
before the earlier access is performed (R246; DEDUCED, log 5). -/
def State.earlyHeld (s : State) (at_ : Place) (write : Bool) (lines : List Nat) : Bool :=
  s.early.any fun e =>
    (write || e.write) && at_.within e.scope e.core && e.lines.any lines.contains && (s.pend.find? e.before).isSome

/-- Whether an access of a number that issued at a time must wait at a line: for an earlier one that was accepted before, since
its translation had run out by then on every die (R267, R269; DESIGN CHOICE, log 19), or for the order of a scope that it stands
in (R246). -/
def State.lineHeld (s : State) (id born : Nat) (at_ : Place) (write : Bool) (lines : List Nat) : Bool :=
  (s.claims.any fun y =>
    decide (y.id < id) && decide (y.exp + s.hub.skewmax.toNat ≤ born) && y.lines.any lines.contains) ||
    s.earlyHeld at_ write lines

/-- The same for a read that an engine of a core makes now. -/
def State.lineHeldNow (s : State) (core : Nat) (lines : List Nat) : Bool :=
  s.lineHeld s.fresh s.hub.firn.toNat (.core core) false lines

/-! ### Engines -/

/-- What an engine finds at a virtual address: a place with the end of its translation, or the reason why it stops (R174, R221). -/
inductive EngAddr where
  | ok (pa : Nat) (leaf : Word) (exp : Nat)
  | miss (level : Nat) (bad : Bool)
  | deny
  | kind
  deriving DecidableEq, Repr

/-- Whether a leaf denies an access to an engine, which is not in handler mode (R174, R274). -/
def State.engDenied (s : State) (va : Word) (write : Bool) (leaf : Word) : Bool :=
  let pa := leafPa leaf va
  (write && !pteW leaf) || pteK leaf ||
    (if pteVer leaf then !s.hub.versioned pa else s.hub.inMoraine pa)

/-- Translates an address for a Latch engine (R219, R221; DEDUCED, log 21). -/
def State.engAddr (s : State) (core : Nat) (ctx : BitVec 8) (root : Nat) (va : Word) (write : Bool) : State × EngAddr :=
  if !canonical va then (s, .deny)
  else
    match s.lookup .latch core ctx root va fun leaf => pteKind leaf != 3 && !s.engDenied va write leaf with
    | (s, .miss level b) => (s, .miss level b)
    | (s, .ok pa leaf exp) =>
      (s, if pteKind leaf = 3 then .kind else if s.engDenied va write leaf then .deny else .ok pa leaf exp)

end Sys2Proof.Machine
end

