-- ==== Sys2Proof/Machine/Barrier.lean ====
section
/-! DEFINITION. Barrier objects and their events (R192 to R196), the Tumbler, which journals and redirects what engines aim at
a pack (spec 19, R364 to R368), synchronising instructions (R25, R197), and the barrier instructions (R195). -/

namespace Sys2Proof.Machine
open Sys2Proof

/-! ### Objects -/

/-- A barrier object (R192). -/
structure BarObj where
  exp : Nat
  pend : Nat
  bytes : BitVec 32
  phase : BitVec 32
  w3 : BitVec 32
  deriving DecidableEq, Repr

/-- The object in 16 bytes. -/
def objOf (bs : List Byte) : BarObj :=
  let n := leNat bs
  ⟨bitsAt n 16 16, bitsAt n 0 16, BitVec.ofNat 32 (bitsAt n 32 32), BitVec.ofNat 32 (bitsAt n 64 32),
    BitVec.ofNat 32 (bitsAt n 96 32)⟩

/-- The 16 bytes of an object. -/
def BarObj.image (o : BarObj) : List Byte :=
  natLe 16 (o.pend % 65536 + 2 ^ 16 * (o.exp % 65536) + 2 ^ 32 * o.bytes.toNat + 2 ^ 64 * o.phase.toNat + 2 ^ 96 * o.w3.toNat)

/-- RD (R192). -/
def BarObj.rd (o : BarObj) : Bool := o.w3.getLsbD 30
/-- SCOPE (R192). -/
def BarObj.scope (o : BarObj) : Nat := bitsAt o.w3.toNat 16 3

/-- R193: an arrival or drop that the counts cannot take. -/
def BarObj.short (o : BarObj) (dArr dExp : Nat) : Bool := decide (o.pend < dArr) || decide (o.exp < dExp)

/-- The event of R193: counts change, and a phase completes when both are zero. -/
def BarObj.event (o : BarObj) (dArr dExp : Nat) (dBytes : BitVec 32) : BarObj :=
  let o := { o with pend := o.pend - dArr, exp := o.exp - dExp, bytes := o.bytes + dBytes }
  if o.pend = 0 ∧ o.bytes = 0 then { o with pend := o.exp, phase := o.phase + 1 } else o

/-- BAR_FAULT subcode 1 or 2 of an object used by a pack, 0 for none (R194). -/
def BarObj.fault (o : BarObj) (pslot : Nat) : Nat :=
  if !o.w3.getLsbD 31 || o.rd || bitsAt o.w3.toNat 19 11 != 0 || bitsAt o.w3.toNat 6 10 != 0 then 1
  else if bitsAt o.w3.toNat 0 6 ≠ pslot then 2
  else 0

/-! ### The pack's scratchpad -/

/-- The pack that an identity names, when it is resident. -/
def State.packOf (s : State) (id : PackId) : Option (Nat × Pack) := List.find? (fun e => e.2.id == id) s.packs

/-- Whether a scratchpad range lies within the pack's banks (R180). -/
def Pack.inPad (p : Pack) (o n : Nat) : Bool := decide (o + n ≤ p.padSize)

/-- n bytes of a pack's scratchpad. -/
def State.padBytes (s : State) (key : Nat) (p : Pack) (o n : Nat) : List Byte := padRead (s.core (coreOf key)) p o n

/-- Whether a bank that holds one of these scratchpad offsets is waking: an access to it stalls (R319). -/
def State.padWaking (s : State) (key : Nat) (p : Pack) (offs : List Nat) : Bool :=
  let c := s.core (coreOf key)
  p.banks.any (fun b => (c.bank b).waking) && offs.any fun o => (c.bank (p.banks.getD (o / 65536) 16)).waking

/-- The object at a scratchpad offset. -/
def State.obj (s : State) (key : Nat) (p : Pack) (o : Nat) : BarObj := objOf (s.padBytes key p o 16)

/-- Ends the wait of the entries that meet a test, at the next word (R312). -/
def wake (test : Wait → Bool) (fr : List Entry) : List Entry :=
  fr.map fun e =>
    if e.flags &&& flagBlocked != 0 && test e.wait then
      { e with pc := e.pc + 8, flags := e.flags &&& ~~~flagBlocked, wait := .none }
    else e

/-- The floe's waiting entries, interrupted ones included, that meet a test. -/
def Floe.wake (f : Floe) (test : Wait → Bool) : Floe :=
  { f with frontier := Sys2Proof.Machine.wake test f.frontier, intFrontier := Sys2Proof.Machine.wake test f.intFrontier }

/-- Applies f to every floe of a pack. -/
def State.eachFloe (s : State) (pack : Nat) (f : Floe → Floe) : State :=
  { s with floes := s.floes.map fun e => if e.2.pack = pack then (e.1, f e.2) else e }

/-- Writes raw bytes without bounds, as events on objects and STATUS writes do (R89). -/
def State.padPut (s : State) (key : Nat) (p : Pack) (o : Nat) (bs : List Byte) : State :=
  let c := s.core (coreOf key)
  s.setCore (coreOf key) (bs.zipIdx.foldl (fun c e => c.setPadByte (padAddr p.banks (o + e.2)) e.1) c)

/-- Marks a block as an object or not (DEDUCED, log 37). -/
def State.markObj (s : State) (key : Nat) (p : Pack) (o : Nat) (is : Bool) : State :=
  let c := s.core (coreOf key)
  s.setCore (coreOf key) { c with bars := c.bars.set false (padAddr p.banks o / 16) is }

/-- Puts an object and, when a phase has completed, ends the waits it ends (R195). What an event has changed is an object
(DEDUCED, log 37). -/
def State.putObj (s : State) (key : Nat) (p : Pack) (o : Nat) (old new : BarObj) : State :=
  let s := (s.padPut key p o new.image).markObj key p o true
  if old.phase = new.phase then s
  else s.eachFloe key fun f => f.wake fun w => match w with
    | .bar off phase => off == o && phase != new.phase
    | _ => false

/-- An event on an object (R193). -/
def State.barEvent (s : State) (key : Nat) (p : Pack) (o dArr dExp : Nat) (dBytes : BitVec 32) : State :=
  let b := s.obj key p o
  s.putObj key p o b (b.event dArr dExp dBytes)

/-! ### Tumbler -/

/-- What the Tumblers hold for a pack, with the die. -/
def State.redirect (s : State) (id : PackId) : Option (Nat × Redirect) :=
  s.dies.findSome? fun e => (e.2.redirects.find? fun r => r.pack == id).map fun r => (e.1, r)

/-- Replaces what a die holds for a pack; none removes it. -/
def State.putRedirect (s : State) (die : Nat) (id : PackId) (r : Option Redirect) : State :=
  let d := s.die die
  let rest := d.redirects.filter fun x => x.pack != id
  s.setDie die { d with redirects := match r with
    | some x => rest ++ [x]
    | none => rest }

/-- Events that the journals of a die hold (R368). -/
def Die.held (d : Die) : Nat := (d.redirects.map fun r => r.journal.length).sum

/-- Redirect entries in use (R366, R368): a pack that is only parking objects has none yet. -/
def Die.entries (d : Die) : Nat := (d.redirects.filter fun r => r.state != .parking).length

/-- The object that an event is aimed at. -/
def TEvent.bar : TEvent → Nat
  | .sub b _ => b
  | .status b _ _ => b

/-- The scratchpad offset that an event writes. -/
def TEvent.place : TEvent → Nat
  | .sub b _ => b
  | .status _ off _ => off

/-- An event on a resident pack's scratchpad (R193, R220); an engine's subtraction never faults. -/
def State.padApply (s : State) (key : Nat) (p : Pack) : TEvent → State
  | .sub bar n => if p.inPad bar 16 then s.barEvent key p bar 0 0 (0 - BitVec.ofNat 32 n) else s
  | .status _ off v => if p.inPad off 8 then s.padPut key p off (natLe 8 v.toNat) else s

/-- Bytes of a floe record before the sync records, and the fixed places in it (R313). -/
def recFixed (n : Nat) : Nat := 0xA00 + 384 * n

/-- RoundUp to 4,096: the distance between the records of a pack's floes (R313). -/
def floeStride (n : Nat) : Nat := (recFixed n + 4095) / 4096 * 4096

/-- The field of a pack. -/
def State.fieldOf (s : State) (id : PackId) : Option Field :=
  s.hub.fields.find? fun f => f.inst == id.inst && f.node == id.node

/-- The pack record of a pack: after its floes' records (R313). -/
def recordVa (pbase : Word) (d : Desc) : Word := pbase + BitVec.ofNat 64 (d.nfloes * floeStride d.vregs)

/-- The address of a scratchpad offset in a pack record (R314). -/
def imageAddr (record : Word) (o : Nat) : Word := record + BitVec.ofNat 64 (0x20000 + o)

/-- Why an event of an engine waits: for journal space (R368), for a translation of the image of a saved pack (R342, R411), for
leases and earlier writes at the image's lines (R261), for accesses that come before it there, for the host, or for a waking bank (R267, R319, R344). -/
inductive Stall where
  | journal (die : Nat)
  | fault (r : Redirect) (va : Word) (level : Nat) (bad : Bool) (uncl : Option Nat)
  | write (w : Writer) (pas : List Nat)
  | held
  deriving DecidableEq, Repr

/-- Whether the device waits for the host before it goes on with a pack's record (R411). -/
def State.recWaits (s : State) (id : PackId) : Bool :=
  s.hub.faults.any fun r => r.waiters.any fun w => w == .record id

/-- A walk for the device's own access to the image of a saved pack: from the root that the pack's own node's release read (R334,
R411). -/
def Redirect.walk (r : Redirect) (s : State) (o : Nat) : WalkOut :=
  s.walk (dieOf r.core) r.ctx (s.rootId r.pack) (imageAddr r.record o) true

/-- The place of an image byte that the Tumbler writes, with its leaf (R366; DEDUCED, log 21: a missing translation is reported as
that of a record access is). -/
def Redirect.place (r : Redirect) (s : State) (o : Nat) : Except Stall (Nat × Word) :=
  let va := imageAddr r.record o
  if s.recWaits r.pack then .error .held
  else
    let x := r.walk s o
    match x.leaf with
    | some leaf => .ok (leafPa leaf va, leaf)
    | none => .error (.fault r va x.level x.bad x.uncl)

/-- A store of the Tumbler at an offset of the image, once no lease, no earlier write and no access accepted before holds its lines
(R261, R267, R274, R366, R371). -/
def State.imageStore (s : State) (r : Redirect) (off pa : Nat) (leaf : Word) (bs : List Byte) : Except Stall State :=
  let w := bs.zipIdx.map fun e => (pa + e.2, e.1, (0 : Bound))
  let pas := w.map (·.1)
  let me := Writer.image r.pack off
  if s.lineHeld s.fresh s.hub.firn.toNat (.core r.core) true (linesOf pas) then .error .held
  else if !s.mayWrite (some me) pas then .error (.write me pas)
  else .ok ((s.unqueue me).physStore r.core hubWriter .far (leafTagged leaf) w)

/-- An event on the image of a saved pack (R366), or why it waits. -/
def State.imageApply (s : State) (r : Redirect) (ev : TEvent) : Except Stall State :=
  match ev with
  | .sub bar n => do
    let (pa, leaf) ← r.place s bar
    s.imageStore r bar pa leaf ((objOf (s.pbytes pa 16)).event 0 0 (0 - BitVec.ofNat 32 n)).image
  | .status _ off v => do
    let (pa, leaf) ← r.place s off
    s.imageStore r off pa leaf (natLe 8 v.toNat)

/-- The most events that a die's journals hold (R368). -/
def journalLimit : Nat := 4096

/-- An event that an engine aims at a pack's scratchpad (R364 to R368): journaled, made on the image, made on the scratchpad,
or lost when the pack is gone (R365) or its context has ended (R388); or why it waits, for a waking bank too (R319; DEDUCED, log
21). -/
def State.aim (s : State) (id : PackId) (ev : TEvent) : Except Stall State :=
  let direct : Except Stall State := match s.packOf id with
    | some (key, p) => if p.ending then .ok s else if s.padWaking key p [ev.place] then .error .held else .ok (s.padApply key p ev)
    | none => .ok s
  match s.redirect id with
  | none => direct
  | some (d, r) =>
    if r.state = .saved then s.imageApply r ev
    else if r.parked.contains ev.bar then
      if (s.die d).held < journalLimit then .ok (s.putRedirect d id (some { r with journal := r.journal ++ [ev] })) else .error (.journal d)
    else direct

/-- What the waiting of an engine's event leaves (R261, R342, R368): the engine itself has done nothing. -/
def State.engWaits (s : State) : Stall → State
  | .journal d => s.setDie d { s.die d with jfull := true }
  | .fault r va level bad uncl =>
    (s.noteUncl uncl).pageFault r.ctx va (faultInfo true false true level bad) r.core 0x7F (.record r.pack)
  | .write w pas => s.waitWrites w pas
  | .held => s

/-- Goes on with the state that an event leaves, or waits in the one before it. -/
def State.orWaits (s : State) (r : Except Stall State) (k : State → State) : State :=
  match r with
  | .ok t => k t
  | .error e => s.engWaits e

/-- The objects that live engine operations of a pack name (R364). -/
def State.namedObjs (s : State) (id : PackId) : List Nat :=
  (s.cores.flatMap fun c => c.2.queues.flatMap fun q => (q.2.filter fun r => r.pack == id).map fun r => leNat ((r.bytes.drop 0x1C).take 3)) ++
    (s.copies.filter fun x => x.pack == id).map (·.bar) ++ (s.drains.filter fun x => x.pack == id).map (·.bar) ++
    (s.seracs.filter fun x => x.pack == id).map (·.bar)

/-- A store that sets RD on an object named by a live engine operation parks it (R364). -/
def State.parkObj (s : State) (key : Nat) (p : Pack) (o : Nat) : State :=
  if !(s.namedObjs p.id).contains o then s
  else
    match s.redirect p.id with
    | some (d, r) => if r.parked.contains o then s else s.putRedirect d p.id (some { r with parked := r.parked ++ [o] })
    | none =>
      s.putRedirect (dieOf (coreOf key)) p.id
        (some ⟨p.ctx, p.id, coreOf key, key % 64, 0, .parking, [o], [], 0⟩)

/-- The handshake of R367: a store that clears RD of a parked object applies the object's journal in arrival order; the entry
is freed with its last object (DEDUCED, log 37). -/
def State.handshake (s : State) (key : Nat) (p : Pack) (o : Nat) : State :=
  match s.redirect p.id with
  | none => s
  | some (d, r) =>
    if !r.parked.contains o then s
    else
      let s := (r.journal.filter fun e => e.bar == o).foldl (fun s e => s.padApply key p e) s
      let parked := r.parked.filter (· != o)
      s.putRedirect d p.id
        (if parked.isEmpty then none else some { r with parked := parked, journal := r.journal.filter fun e => e.bar != o })

/-- What follows a store to the scratchpad: blocks whose word 3 gained or lost RD are parked or have their handshake; a block
that lost V is no object, and one whose word 3 alone a handler writes, or whose RD it clears, is one again, without RD (R311,
R367; DEDUCED, log 37). -/
def State.afterStore (s : State) (key : Nat) (p : Pack) (before : State) (handler : Bool) (offs : List Nat) : State :=
  ((offs.map fun o => o / 16 * 16).eraseDups).foldl (fun s o =>
    let old := before.obj key p o
    let new := s.obj key p o
    let word3 := (offs.filter fun x => x / 16 * 16 == o).all fun x => decide (12 ≤ x % 16)
    let s := if !new.w3.getLsbD 31 then s.markObj key p o false
      else if handler && !new.rd && (old.rd || word3) then s.markObj key p o true else s
    if !old.rd && new.rd then s.parkObj key p o
    else if old.rd && !new.rd then s.handshake key p o
    else s) s

/-! ### Barrier instructions (R194, R195) -/

/-- The checks of R194 for the object at offset bar; `init`: BARINIT, which raises neither subcode 1 nor 2. -/
def Ctx.onObj (c : Ctx) (bar : Word) (init : Bool) (k : Pack → Nat → BarObj → State) : State :=
  if c.act = 0 then retire c else
  match c.pack? with
  | none => retire c
  | some p =>
    let o := bar.toNat
    if o % 16 ≠ 0 then trapAt c 0x22 c.act bar c.word
    else if !p.inPad o 16 then trapAt c 0x21 c.act bar c.word
    else
      let b := c.s.obj c.f.pack p o
      let e := b.fault (c.f.pack % 64)
      if !init && e ≠ 0 then trapAt c 0x32 c.act bar (BitVec.ofNat 64 e)
      else k p o b

/-- Scope codes of R17. -/
def scopeCode : Scope → Nat
  | .core => 0
  | .quad => 1
  | .die => 2
  | .pkg => 3
  | .sys => 4
  | .pod => 5

/-- BARINIT (R195). -/
def execBarinit (h : Hdr) (scope : Scope) (d sa : SReg) (off : BitVec 13) (s : State) : Out :=
  onWord (.barinit h scope d sa off) h s fun c =>
    let bar := c.addr1 sa off
    c.onObj bar true fun p o b =>
      let n := (c.sr .d d).toNat
      if 65536 ≤ n then trapAt c 0x32 c.act bar 5
      else
        let new : BarObj := ⟨n, n, 0, 0, BitVec.ofNat 32 (2 ^ 31 + 2 ^ 16 * scopeCode scope + c.f.pack % 64)⟩
        retire (c.via fun s =>
          let s := (s.padPut c.f.pack p o new.image).markObj c.f.pack p o true
          if b.rd then s.handshake c.f.pack p o else s)

/-- BAREXP (R195). -/
def execBarexp (h : Hdr) (d sa : SReg) (off : BitVec 13) (s : State) : Out :=
  onWord (.barexp h d sa off) h s fun c =>
    c.onObj (c.addr1 sa off) false fun p o _ =>
      retire (c.via fun s => s.barEvent c.f.pack p o 0 0 ((c.sr .d d).setWidth 32))

/-- BARWAIT (R195): the lanes of ACTIVE wait at the word with BLOCKED while PHASE is the awaited value. The event that ends
the wait compares PHASE with the value awaited at issue. The lanes do not keep the wait of a SLEEP earlier in the run (DEDUCED, log
39). -/
def execBarwait (h : Hdr) (d sa : SReg) (off : BitVec 13) (s : State) : Out :=
  onWord (.barwait h d sa off) h s fun c =>
    c.onObj (c.addr1 sa off) false fun _ o b =>
      let want := (c.sr .d d).setWidth 32
      if b.phase ≠ want then retire c.endRun
      else
        retire ((c.leave c.act [{ pc := c.pc, prio := c.r.prio, flags := flagBlocked, mask := c.act, wait := .bar o want }]).endRun)

/-- BARTEST (R195). -/
def execBartest (h : Hdr) (d sa : SReg) (off : BitVec 13) (s : State) : Out :=
  onWord (.bartest h d sa off) h s fun c =>
    c.onObj (c.addr1 sa off) false fun _ _ b => retire (c.setS d (b.phase.setWidth 64))

end Sys2Proof.Machine
end

