-- ==== Sys2Proof/Machine/Bank.lean ====
section
/-! DEFINITION. The banks on which row steps of Serac operations are in progress, and the demand accesses that wait for them (R349,
R355, R358). -/

namespace Sys2Proof.Machine
open Sys2Proof

/-- n addresses from one. -/
def addrsFrom (a n : Nat) : List Nat := (List.range n).map fun i => a + i

/-- The bank that holds an address, with its stack and pseudo-channel (R348, R349): which bank it is, the spec does not say. -/
def Hub.bankOf (h : Hub) (p : Nat) : Nat × Nat × Nat :=
  let (s, pc) := h.hbmLoc p
  (s, pc, Config.bank s pc (if p < h.linbase then 2 * (p / 2 ^ 21 * 16 + bitsAt p 16 4) + 1 else 2 * (h.group p).2.2))

/-- The destination row of a step (R355). -/
def Serac.dRow (x : Serac) (i : Nat) : Nat := x.dRows.getD (if x.op = .rdx then 0 else i) 0

/-- The steps that may come next: the first of each destination pseudo-channel (R355; DEDUCED, log 42). -/
def Serac.ready (x : Serac) (h : Hub) : List Nat :=
  x.todo.foldl (fun acc i => if acc.any fun j => h.hbmLoc (x.dRow j) == h.hbmLoc (x.dRow i) then acc else acc ++ [i]) []

/-- The banks on which a step is in progress (R355, R358; DEDUCED, log 42). -/
def State.stepBanks (s : State) : List (Nat × Nat × Nat) :=
  (s.seracs.filter (·.forked)).flatMap fun x => (x.ready s.hub).map fun i => s.hub.bankOf (x.dRow i)

/-- Whether an access for a core at a level goes to the DRAM row of an address: no copy that it may use serves it, or the line is
busy (R173, R328, R357). -/
def State.reachesRow (s : State) (core : Nat) (lv : Level) (a : Nat) : Bool :=
  let near := lv == .near || lv == .mid
  kindOf a == 0 &&
    (s.busy a || !(s.hub.neve.getD (lineOf a) false || (near && ((s.die (dieOf core)).line (lineOf a)).st != .i) ||
      (lv == .near && s.l1Hit core a)))

/-- The banks that an access of bytes for a core at a level goes to. -/
def State.banksOf (s : State) (core : Nat) (lv : Level) (as : List Nat) : List (Nat × Nat × Nat) :=
  ((linesOf as).filter fun n => s.reachesRow core lv (128 * n)).map fun n => s.hub.bankOf (128 * n)

/-- Whether an access arrives at a bank during a step: it is not served inside it (R358). -/
def State.bankHeld (s : State) (core : Nat) (lv : Level) (as : List Nat) : Bool :=
  !s.seracs.isEmpty && (s.banksOf core lv as).any s.stepBanks.contains

/-- When an access of a number that issued at a time reaches its bank: the way there takes a time that the spec does not fix (R358,
R407; DESIGN CHOICE, log 42). -/
def reachedAt (id born : Nat) : Nat := born + Config.pick 19 id

/-- The level of a unit: atomics and Moraine accesses are performed at the home (R173). -/
def Work.level : Work → Level
  | .load (x :: _) => x.level
  | .store (x :: _) => x.src.level
  | _ => .far

end Sys2Proof.Machine
end

