-- ==== Sys2Proof/Machine/Key.lean ====
section
/-! DEFINITION. Shape keys: the descriptor and its validity (R214, R215), the box that a key and coordinates name (R214, R216),
and the transforms that make tile rows of it (R216, R90). -/

namespace Sys2Proof.Machine
open Sys2Proof

/-- A shape key descriptor (R214). -/
structure KeyD where
  base : Word
  fmt : Nat
  rank : Nat
  xform : Nat
  bpol : Nat
  level : Nat
  dims : List Nat
  start : Nat
  strides : List Int
  box : List Nat
  spitch : Nat
  scaleBase : Word
  rsvd : Bool
  deriving DecidableEq, Repr

/-- A number of n bits read as signed. -/
def signedOf (n x : Nat) : Int := if x < 2 ^ (n - 1) then x else (x : Int) - 2 ^ n

/-- Reads the 96 bytes of a descriptor; `rsvd` tells whether a zero field or the seal is not zero. -/
def keyOf (bs : List Byte) : KeyD :=
  let f (o n : Nat) : Nat := leNat ((bs.drop o).take n)
  { base := BitVec.ofNat 64 (f 0 8), fmt := f 8 1, rank := f 9 1, xform := f 10 1, bpol := f 11 1, level := f 12 1 % 4,
    dims := (List.range 5).map fun k => f (0x10 + 4 * k) 4
    start := f 0x24 4
    strides := (List.range 4).map fun k => signedOf 48 (f (0x28 + 6 * k) 6)
    box := (List.range 5).map fun k => f (0x40 + 2 * k) 2
    spitch := f 0x4C 4, scaleBase := BitVec.ofNat 64 (f 0x50 8)
    rsvd := f 0x0D 3 != 0 || f 0x4A 2 != 0 || f 0x58 8 != 0 || f 12 1 / 4 != 0 }

/-- Bits of an element of a tile format (R39). -/
def tileBits (fmt : Nat) : Nat :=
  match fmt with
  | 0 | 1 => 16
  | 6 | 7 => 6
  | 8 => 4
  | _ => 8

namespace KeyD
/-- Bits of a granule (R214; DEDUCED, log 30). -/
def gran (k : KeyD) : Nat := if k.fmt = 8 then 4 else 8
/-- Bits of an element. -/
def ebits (k : KeyD) : Nat := tileBits k.fmt
/-- Whether elements lie in block groups of 24 bytes, which START and c0 address whole (R214). -/
def grouped (k : KeyD) : Bool := k.fmt == 6 || k.fmt == 7
/-- START in bits: of the packed 6-bit formats, the block group that it lies in (R214; DEDUCED, log 30). -/
def startBits (k : KeyD) : Nat := if k.grouped then k.start / 24 * 192 else k.start * k.gran
/-- The first coordinate of a box along dimension 0: of the packed 6-bit formats, that of the block group that c0 lies in (R214;
DEDUCED, log 30). -/
def first (k : KeyD) (cs : List Int) : Int := if k.grouped then cs.getD 0 0 / 32 * 32 else cs.getD 0 0
/-- Extent of the box, and of the whole, along a dimension. -/
def boxAt (k : KeyD) (i : Nat) : Nat := k.box.getD i 1
def dimAt (k : KeyD) (i : Nat) : Nat := k.dims.getD i 1
/-- Rows of the box. -/
def rows (k : KeyD) : Nat := k.boxAt 1 * k.boxAt 2 * k.boxAt 3 * k.boxAt 4
/-- Bits of the whole box. -/
def boxBits (k : KeyD) : Nat := k.rows * k.boxAt 0 * k.ebits

/-- R215: the status of a descriptor, apart from a full table; that an FMT above 10 is status 2 and an XFORM above 2 status 6, and
what misplaces START, BOX0 and SCALEBASE, the spec does not say (DEDUCED, log 30). -/
def status (k : KeyD) : Nat :=
  let above (l : List Nat) (ok : Nat) : Bool := (l.drop k.rank).any (· != ok)
  if k.rsvd || 3 ≤ k.bpol || 11 ≤ k.fmt then 2
  else if !canonical k.base || (k.fmt ≤ 1 && k.base.toNat % 2 != 0) then 3
  else if k.rank = 0 || 5 < k.rank || k.dims.any (· == 0) || above k.dims 1 || above k.box 1 ||
      (k.strides.drop (k.rank - 1)).any (· != 0) then 4
  else if k.gran = 4 && k.strides.any (fun s => s % 2 != 0) then 5
  else if 3 ≤ k.xform ||
      (k.xform = 1 && (k.rank < 2 || (4 ≤ k.fmt && k.fmt ≤ 8) || k.fmt = 10)) ||
      (k.xform = 2 && (k.fmt < 6 || 8 < k.fmt || 2 < k.rank || k.start * k.gran % (32 * k.ebits) != 0 || k.boxAt 0 % 32 != 0 ||
        !canonical k.scaleBase)) then 6
  else if k.box.any (· == 0) || 1024 < k.boxAt 0 * k.ebits || !([8, 16, 32, 64].contains k.rows) || 32768 < k.boxBits then 7
  else 0

/-- The coordinates of row r of the box at cs along dimensions 1 to 4, the first fastest. -/
def rowCoords (k : KeyD) (cs : List Int) (r : Nat) : List Int :=
  let o := [r % k.boxAt 1, r / k.boxAt 1 % k.boxAt 2, r / (k.boxAt 1 * k.boxAt 2) % k.boxAt 3,
    r / (k.boxAt 1 * k.boxAt 2 * k.boxAt 3)]
  o.zipIdx.map fun e => cs.getD (e.2 + 1) 0 + (e.1 : Int)

/-- The coordinates along dimension 0 that lie in range: from, to (R216). -/
def span0 (k : KeyD) (cs : List Int) : Nat × Nat :=
  let c0 := k.first cs
  ((max c0 0).toNat, (min (c0 + (k.boxAt 0 : Int)) (k.dimAt 0 : Int)).toNat)

/-- The bit position from BASE of the element at c0 of a row, when the row is in range (DEDUCED, log 30). -/
def bitAt (k : KeyD) (cs : List Int) (r : Nat) (c0 : Nat) : Option Int :=
  let rc := k.rowCoords cs r
  if rc.zipIdx.all fun e => decide (0 ≤ e.1) && decide (e.1 < (k.dimAt (e.2 + 1) : Int)) then
    let off : Int := (rc.zipIdx.map fun e => e.1 * k.strides.getD e.2 0).sum
    some ((k.startBits : Int) + off * k.gran + (c0 : Int) * k.ebits)
  else none

/-- The virtual address of a byte position. -/
def vaAt (k : KeyD) (bit : Int) : Word := k.base + BitVec.ofInt 64 (bit / 8)

/-- The in-range bytes of row r: address and length. -/
def rowBytes (k : KeyD) (cs : List Int) (r : Nat) : Option (Word × Nat) :=
  let (lo, hi) := k.span0 cs
  if hi ≤ lo then none
  else (k.bitAt cs r lo).map fun b => (k.vaAt b, (b % 8 + ((hi - lo) * k.ebits : Nat) + 7).toNat / 8)

/-- The scale bytes of row r under MX expand. -/
def rowScales (k : KeyD) (cs : List Int) (r : Nat) : Option (Word × Nat) :=
  let (lo, hi) := k.span0 cs
  if k.xform ≠ 2 || hi ≤ lo then none
  else (k.bitAt cs r lo).map fun _ =>
    (k.scaleBase + BitVec.ofInt 64 ((k.rowCoords cs r).getD 0 0 * k.spitch + (lo / 32 : Nat)), (hi - 1) / 32 - lo / 32 + 1)

/-- Every range of memory that the box needs (R216). -/
def ranges (k : KeyD) (cs : List Int) : List (Word × Nat) :=
  (List.range k.rows).filterMap (k.rowBytes cs) ++ (List.range k.rows).filterMap (k.rowScales cs)

/-- Element i of row r: its bits and the bounds of its bytes, zero and exact out of range. `get` reads a byte by address. -/
def elem (k : KeyD) (cs : List Int) (get : Word → Byte × Bound) (r i : Nat) : Nat × Bound :=
  let c := k.first cs + (i : Int)
  if c < 0 || (k.dimAt 0 : Int) ≤ c then (0, 0)
  else
    match k.bitAt cs r c.toNat with
    | none => (0, 0)
    | some b =>
      let ph := (b % 8).toNat
      let n := (ph + k.ebits + 7) / 8
      let bs := (List.range n).map fun j => get (k.vaAt b + BitVec.ofNat 64 j)
      (bitsAt (leNat (bs.map (·.1))) ph k.ebits, boundMaxL (bs.map (·.2)))

/-- The scale of element i of row r under MX expand (R216). -/
def scaleAt (k : KeyD) (cs : List Int) (get : Word → Byte × Bound) (r i : Nat) : Nat :=
  (get (k.scaleBase + BitVec.ofInt 64 ((k.rowCoords cs r).getD 0 0 * k.spitch + (k.first cs + (i : Int)) / 32))).1.toNat

end KeyD

/-- Where bit q of the box laid out contiguously stands in memory, as a bit position from BASE, when it is in range (R219). -/
def KeyD.bitSrc (k : KeyD) (cs : List Int) (q : Nat) : Option Int :=
  let w := k.boxAt 0 * k.ebits
  let c := k.first cs + ((q % w / k.ebits : Nat) : Int)
  if c < 0 || (k.dimAt 0 : Int) ≤ c then none
  else (k.bitAt cs (q / w) c.toNat).map fun b => b + ((q % w % k.ebits : Nat) : Int)

/-- Numbers of n bits as consecutive bytes. -/
def packBits (n : Nat) (xs : List Nat) : List Byte :=
  natLe (xs.length * n / 8) (xs.foldr (fun x a => x % 2 ^ n + a * 2 ^ n) 0)

/-- An MX element dequantised to BF16, and whether the row bound becomes U (R216). -/
def mxToBf16 (F : FFmt) (scale c : Nat) : Nat × Bool :=
  let D := FFmt.bf16
  if scale = 255 then (D.defaultNan, true)
  else
    match F.decode c with
    | .fin neg m e =>
      let z : Dy := ⟨m, e + ((scale : Int) - 127)⟩
      if Dy.lt (D.decode D.maxCode).dy z then (D.signOf neg + D.infCode, true) else (D.encode neg m z.e, false)
    | _ => (D.defaultNan, true)

/-- The element format of an MX tile format (R39). -/
def mxTileFmt (fmt : Nat) : FFmt :=
  match fmt with
  | 4 => FFmt.e4m3
  | 5 => FFmt.e5m2
  | 6 => FFmt.e2m3
  | 7 => FFmt.e3m2
  | _ => FFmt.e2m1

/-- The rows of a box as bytes with the bound of each, under the key's transform and bound policy (R216, R90;
DEDUCED, log 30). -/
def KeyD.tileRows (k : KeyD) (cs : List Int) (get : Word → Byte × Bound) : List (List Byte × Bound) :=
  let pol (b : Bound) : Bound := if k.bpol = 0 then b else if k.bpol = 1 then 0 else 0x8000
  match k.xform with
  | 1 =>
    (List.range (k.boxAt 0)).map fun c =>
      let es := (List.range (k.boxAt 1)).map fun r => k.elem cs get r c
      (packBits k.ebits (es.map (·.1)), pol (boundMaxL (es.map (·.2))))
  | 2 =>
    (List.range k.rows).map fun r =>
      let es := (List.range (k.boxAt 0)).map fun i =>
        let e := k.elem cs get r i
        let c := k.first cs + (i : Int)
        if c < 0 || (k.dimAt 0 : Int) ≤ c || (k.bitAt cs r 0).isNone then ((0, false), (0 : Bound))
        else (mxToBf16 (mxTileFmt k.fmt) (k.scaleAt cs get r i) e.1, e.2)
      (packBits 16 (es.map (·.1.1)), if es.any (·.1.2) then 0x8000 else pol (boundMaxL (es.map (·.2))))
  | _ =>
    (List.range k.rows).map fun r =>
      let es := (List.range (k.boxAt 0)).map fun i => k.elem cs get r i
      (packBits k.ebits (es.map (·.1)), pol (boundMaxL (es.map (·.2))))

/-- The entry of a handle that is valid (R215). -/
def State.keyAt (s : State) (h : Nat) : Option Key := if h = 0 then none else s.hub.keys.find? h

end Sys2Proof.Machine
end

