-- ==== Sys2Proof/Machine/Latch.lean ====
section
/-! DEFINITION. The Latch engine: its queue instructions (R223 to R225), its registers (R363), and its events: a submission, the
start of a request, the issue and the landing of a piece, and a renewal (R218 to R222, R271, R360 to R362). -/

namespace Sys2Proof.Machine
open Sys2Proof

/-! ### Requests (R218) -/

namespace LReq
/-- n bytes at offset o. -/
def num (r : LReq) (o n : Nat) : Nat := leNat ((r.bytes.drop o).take n)
def opc (r : LReq) : Nat := r.num 0 1
def lv (r : LReq) : Level := levelOf (r.num 1 1 % 4)
def ssp (r : LReq) : Bool := r.num 2 1 % 2 == 1
def dsp (r : LReq) : Bool := r.num 2 1 / 2 % 2 == 1
def src (r : LReq) : Word := BitVec.ofNat 64 (r.num 8 8)
def dst (r : LReq) : Word := BitVec.ofNat 64 (r.num 0x10 8)
def len (r : LReq) : Nat := r.num 0x18 4
def bar (r : LReq) : Nat := r.num 0x1C 3
def coords (r : LReq) : List Int := (List.range 5).map fun i => signedOf 32 (r.num (0x20 + 4 * i) 4)

/-- R221: codes 1, 2, 3 and 6, which the request's own fields decide; 0 for none. -/
def formError (r : LReq) (queue : Nat) : Nat :=
  let o := r.opc
  let keyed := o == 2 || o == 3
  if 4 ≤ o || r.num 1 1 / 4 != 0 || r.num 2 1 / 4 != 0 || r.num 5 1 / 16 != 0 || (!keyed && r.num 4 2 != 0) || r.num 6 2 != 0 ||
      (o == 2 && r.num 8 8 != 0) || (o == 3 && r.num 0x10 8 != 0) || r.num 0x1F 1 != 0 || (!keyed && r.num 0x20 20 != 0) ||
      r.num 0x34 4 != 0 || (r.ssp && o != 0 && o != 3) || (r.dsp && o == 3) then 1
  else if r.num 3 1 ≠ queue then 2
  else if keyed then
    match r.key with
    | none => 3
    | some key =>
      let k := keyOf key.bytes
      if key.ctx ≠ r.ctx ∨ k.xform ≠ 0 ∨ r.len * 8 ≠ k.boxBits then 3 else 0
  else if o == 0 && r.ssp == r.dsp && decide (r.src.toNat < r.dst.toNat + r.len) && decide (r.dst.toNat < r.src.toNat + r.len) then 6
  else 0

/-- DONE: every byte below it has landed (R220). -/
def done (r : LReq) : Nat :=
  r.landed.foldl (fun d _ => r.landed.foldl (fun d e => if e.1 ≤ d ∧ d < e.1 + e.2 then e.1 + e.2 else d) d) 0

/-- Whether the request has bytes to issue. -/
def more (r : LReq) : Bool := (r.state == 2 || r.state == 3) && r.code == 0 && !r.cancel && decide (r.issued < r.len)

/-- STATUS in a state (R220). -/
def status (r : LReq) (state : Nat) : Word :=
  BitVec.ofNat 64 (state + (if state = 5 then 2 ^ 8 * r.code.toNat else 0) + (if r.lostB then 2 ^ 16 else 0) + 2 ^ 32 * r.done)
end LReq

/-- The requests of a queue, oldest first. -/
def Core.queue (c : Core) (q : Nat) : List LReq := c.queues.getD q []

/-- Replaces the requests of a queue. -/
def State.setQueue (s : State) (core q : Nat) (rs : List LReq) : State :=
  let c := s.core core
  s.setCore core { c with queues := c.queues.set [] q rs }

/-- Replaces request i of a queue. -/
def State.putReq (s : State) (core q i : Nat) (r : LReq) : State := s.setQueue core q (((s.core core).queue q).set i r)

/-- Writes a request's STATUS (R220, R364, R366), or says why the engine waits. -/
def State.writeStatus (s : State) (r : LReq) (state : Nat) : Except Stall State :=
  s.aim r.pack (.status r.bar (r.off + 0x38) (r.status state))

/-- Subtracts n bytes from a request's object (R222). -/
def State.subtract (s : State) (r : LReq) (n : Nat) : Except Stall State := if n = 0 then .ok s else s.aim r.pack (.sub r.bar n)

/-- Ends a request: the final STATUS, then the bytes not yet subtracted in one event (R222). -/
def State.endReq (s : State) (r : LReq) (state : Nat) : Except Stall State := do
  let s ← s.writeStatus r state
  s.subtract r (r.len - r.subtracted)

/-- The state in which a request ends now, if it does (R220, R221, R225). -/
def LReq.ends (r : LReq) : Option Nat :=
  if !r.flying.isEmpty then none
  else if r.state = 1 then (if r.cancel then some 6 else none)
  else if r.code ≠ 0 then some 5
  else if r.len ≤ r.issued then some 4
  else if r.cancel then some 6
  else none

/-- Ends the requests of a queue that end, for which the queue no longer waits on a fault, and writes STATE 3 of one that has come to wait for a
translation, STATE 2 of one that no longer does (R220, R225, R344). -/
def State.settle (s : State) (core q : Nat) : State :=
  ((s.core core).queue q).foldl (fun s r0 =>
    let rs := (s.core core).queue q
    let i := rs.idxOf r0
    match r0.ends with
    | some st =>
      let others := rs.eraseIdx i
      s.orWaits (s.endReq r0 st) fun s =>
        (match r0.stall with
          | some id => if others.any fun r => r.stall == some id then s else s.unwaitQueue id core q
          | none => s).setQueue core q others
    | none =>
      if r0.stall.isSome && r0.state == 2 && r0.flying.isEmpty then
        s.orWaits (s.writeStatus r0 3) fun s => s.putReq core q i { r0 with state := 3 }
      else if r0.stall.isNone && r0.state == 3 then
        s.orWaits (s.writeStatus r0 2) fun s => s.putReq core q i { r0 with state := 2 }
      else s) s

/-- The same for every queue of a core. -/
def State.settleAll (s : State) (core : Nat) : State := (List.range 4).foldl (fun s q => s.settle core q) s

/-! ### Instructions (R223 to R225) -/

/-- The first request of a chain whose object fails: offset, cause, subcode (R223; DEDUCED, log 21). -/
def chainFault (s : State) (key : Nat) (p : Pack) (base n : Nat) : Option (Nat × BitVec 8 × Nat) :=
  (List.range n).findSome? fun i =>
    let bar := leNat (s.padBytes key p (base + 64 * i + 0x1C) 3)
    if bar % 16 ≠ 0 then some (bar, 0x22, 0)
    else if !p.inPad bar 16 then some (bar, 0x21, 0)
    else
      let e := (s.obj key p bar).fault (key % 64)
      if e ≠ 0 then some (bar, 0x32, e) else none

/-- CPYKICK (R223): the floe waits until the queue has taken the chain. -/
def execCpykick (h : Hdr) (queue : BitVec 2) (scope : Scope) (d sa : SReg) (off : BitVec 13) (s : State) : Out :=
  onWord (.cpykick h queue scope d sa off) h s fun c =>
    let n := (c.sr .d d).toNat
    if 256 < n then illegalShape c
    else if c.act = 0 then retire c
    else
      match c.pack? with
      | none => retire c
      | some p =>
        let base := c.addr1 sa off
        if base.toNat % 64 ≠ 0 then trapAt c 0x22 c.act base c.word
        else if !p.inPad base.toNat (64 * n) then trapAt c 0x21 c.act base c.word
        else
          match chainFault c.s c.f.pack p base.toNat n with
          | some (bar, cause, e) =>
            trapAt c cause c.act (BitVec.ofNat 64 bar) (if cause = 0x32 then BitVec.ofNat 64 e else c.word)
          | none =>
            if n = 0 then retire c
            else
              let image := (List.range n).flatMap fun i => c.s.padBytes c.f.pack p (base.toNat + 64 * i) 56
              let k : Kick :=
                { floe := c.key, pack := p.id, ctx := c.f.ctx, queue := queue.toNat, base := base.toNat, count := n,
                  scope := scope, image := image, fork := ⟨c.key, c.f.seq, c.num, c.act⟩ }
              let core := c.s.core c.core
              retire { c with s := c.s.setCore c.core { core with kicks := core.kicks ++ [k] }, r := { c.r with held := true } }

/-- The head of a queue: the request that is issuing bytes (R360). -/
def Core.head (c : Core) (q : Nat) : Option LReq := (c.queue q).find? (·.more)

/-- CPYSTAT (R224; DEDUCED, log 43). -/
def execCpystat (h : Hdr) (d a : SReg) (s : State) : Out :=
  onWord (.cpystat h d a) h s fun c =>
    let v := (c.sr .a a).toNat
    if 4 ≤ v then illegalShape c
    else
      retire (c.once fun c =>
        let core := c.s.core c.core
        let rs := core.queue v
        let mine := match c.pack? with
          | some p => (rs.filter fun r => r.pack == p.id).length
          | none => 0
        let stalled := match core.head v with
          | some r => r.state == 3
          | none => false
        c.setS d (BitVec.ofNat 64 (mine + (if stalled then 2 ^ 16 else 0) + (if rs.length = 256 then 2 ^ 17 else 0))))

/-- CPYCAN (R225): marks the pack's requests on one queue or all; those with nothing in flight end at once
(DEDUCED, log 43). -/
def execCpycan (h : Hdr) (a : SReg) (s : State) : Out :=
  onWord (.cpycan h a) h s fun c =>
    let v := (c.sr .a a).toNat
    if 8 ≤ v then illegalShape c
    else if c.act = 0 then retire c
    else
      match c.pack? with
      | none => retire c
      | some p =>
        let qs := if 4 ≤ v then [0, 1, 2, 3] else [v]
        retire (c.via fun s =>
          qs.foldl (fun s q =>
            let rs := ((s.core c.core).queue q).map fun r => if r.pack = p.id then { r with cancel := true } else r
            (s.setQueue c.core q rs).settle c.core q) s)

/-- KICKn (R363). -/
def kickReg (c : Core) (q : Nat) (packOf : PackId → Nat) : Word :=
  let rs := c.queue q
  BitVec.ofNat 64 (rs.length + match c.head q with
    | some r => 2 ^ 9 + (if r.state = 3 then 2 ^ 10 else 0) + 2 ^ 16 * packOf r.pack + 2 ^ 32 * r.done
    | none => 0)

/-! ### Events -/

/-- The most requests that a queue holds (R223). -/
def queueLimit : Nat := 256

/-- The bytes that a kick takes of its chain: each aligned word as it stands, or as it stood at issue where another floe has
rewritten it (R223). -/
def kickBytes (k : Kick) (now : List Byte) : List Byte :=
  (List.range (now.length / 8)).flatMap fun i =>
    let new := (now.drop (8 * i)).take 8
    let old := (k.image.drop (8 * i)).take 8
    if new != old && Config.hazard k.fork.number 129 i 0 then old else new

/-- CPYKICK_QUEUE_EVENT (R223): the oldest waiting chain of a queue enters it, in one scratchpad event; a later one waits behind it,
also where it would fit (DEDUCED, log 21). -/
def execCpykickQueueEvent (core queue : Nat) (s : State) : Out :=
  let c := s.core core
  match c.kicks.find? fun k => k.queue == queue with
  | none => .fault .noObject
  | some k =>
    if queueLimit < (c.queue queue).length + k.count then .fault .notDue
    else
      match s.packOf k.pack with
      | none => .fault .noObject
      | some (key, p) =>
        if s.padWaking key p ((List.range k.count).map fun i => k.base + 64 * i) then .fault .notDue else
        let now := (List.range k.count).flatMap fun i => s.padBytes key p (k.base + 64 * i) 56
        let bs := kickBytes k now
        let rs := (List.range k.count).map fun i =>
          ({ pack := k.pack, ctx := k.ctx, off := k.base + 64 * i, bytes := (bs.drop (56 * i)).take 56, scope := k.scope,
             state := 1, code := 0, issued := 0, landed := [], flying := [], subtracted := 0, lostB := false, cancel := false,
             stall := none, renewed := [], key := none, fork := k.fork } : LReq)
        .next (s.orWaits (rs.foldlM (fun s r => s.writeStatus r 1) s) fun s =>
          let c := s.core core
          let s := s.setCore core { c with kicks := c.kicks.erase k, queues := c.queues.set [] queue (c.queue queue ++ rs) }
          s.modFloe k.floe fun f =>
            if f.seq = k.fork.seq then { f with run := f.run.map fun r => { r with held := false } } else f)

/-- The request of a queue that starts next, with its place (R360). -/
def Core.toStart (c : Core) (q : Nat) : Option (Nat × LReq) :=
  let rs := c.queue q
  match rs.zipIdx.find? fun e => e.1.state == 1 with
  | some (r, i) => if (rs.take i).any (·.more) then none else some (i, r)
  | none => none

/-- LATCH_REQUEST_START (R360, R221): a request of LEN 0 that meets an error of R221 ends with that error (R222; DEDUCED, log 21). -/
def execLatchRequestStart (core queue : Nat) (s : State) : Out :=
  match (s.core core).toStart queue with
  | none => .fault .notDue
  | some (i, r) =>
    let r := { r with key := s.keyAt (bitsAt (r.num 4 2) 0 12) }
    let e := r.formError queue
    if e ≠ 0 ∨ r.len = 0 then
      .next ((s.putReq core queue i { r with state := 2, code := BitVec.ofNat 8 e }).settle core queue)
    else
      .next (s.orWaits (s.writeStatus r 2) fun s => s.putReq core queue i { r with state := 2 })

/-- Why a byte cannot be issued: its address has no translation, or the request ends with a code (R221). -/
inductive EngStop where
  | miss (va : Word) (write : Bool) (level : Nat) (bad : Bool)
  | code (n : Nat)
  | wait
  deriving DecidableEq, Repr

/-- A byte of global memory read by an engine, which waits for accesses accepted earlier at the line (R267). -/
def State.engRead (s : State) (core : Nat) (ctx : BitVec 8) (root : Nat) (va : Word) : State × Except EngStop (Byte × Bound) :=
  match s.engAddr core ctx root va false with
  | (s, .miss l b) => (s, .error (.miss va false l b))
  | (s, .deny) => (s, .error (.code 4))
  | (s, .kind) => (s, .error (.code 8))
  | (s, .ok pa leaf _) =>
    if s.poisonedAt (dieOf core) pa then (s.noteUnclaimed pa, .error (.code 7))
    else if s.lineHeldNow core [lineOf pa] then (s, .error .wait)
    else (s, match s.physLoad pa 1 (leafTagged leaf) with
      | b :: _ => .ok b
      | [] => .error .wait)

/-- The place of a byte of global memory that an engine writes, with its leaf and the end of its translation. -/
def State.engPlace (s : State) (core : Nat) (ctx : BitVec 8) (root : Nat) (va : Word) :
    State × Except EngStop (Nat × Word × Nat) :=
  match s.engAddr core ctx root va true with
  | (s, .miss l b) => (s, .error (.miss va true l b))
  | (s, .deny) => (s, .error (.code 4))
  | (s, .kind) => (s, .error (.code 8))
  | (s, .ok pa leaf exp) => (s, .ok (pa, leaf, exp))

/-- What stops a request at an address whose renewal walk failed, once the old entry has run out (R271;
DEDUCED, log 21). -/
def LReq.barred (r : LReq) (now : Nat) (va : Word) (write : Bool) : Option EngStop :=
  (r.renewed.find? fun x => x.page == va.toNat / 65536 && x.write == write && decide (x.expiry ≤ now)).map fun x =>
    if x.code = 0 then .miss va write x.level x.bad else .code x.code

/-- A source byte of a request in global memory (R219, R271). -/
def State.reqRead (s : State) (core root : Nat) (r : LReq) (va : Word) : State × Except EngStop (Byte × Bound) :=
  match r.barred (s.firn core).toNat va false with
  | some e => (s, .error e)
  | none => s.engRead core r.ctx root va

/-- The place of a destination byte of a request in global memory (R219, R271). -/
def State.reqTarget (s : State) (core root : Nat) (r : LReq) (va : Word) :
    State × Except EngStop (Nat × Word × Nat) :=
  match r.barred (s.firn core).toNat va true with
  | some e => (s, .error e)
  | none => s.engPlace core r.ctx root va

/-- A byte of the scratchpad image of a pack, read by an engine of a core (R365, R366, R374; DEDUCED, log 21). -/
def State.imageByte (s : State) (core : Nat) (r : Redirect) (o : Nat) : State × Except EngStop (Byte × Bound) :=
  if r.banks * 65536 ≤ o then (s, .error (.code 5))
  else
    let va := imageAddr r.record o
    let x := r.walk s o
    let s := s.noteUncl x.uncl
    match x.leaf with
    | none => (s, .error (.miss va false x.level x.bad))
    | some leaf =>
      let pa := leafPa leaf va
      if s.poisonedAt (dieOf core) pa then (s.noteUnclaimed pa, .error (.code 7))
      else if s.lineHeldNow core [lineOf pa] then (s, .error .wait)
      else (s, .ok ((s.physLoad pa 1 (leafTagged leaf)).headD (0, 0)))

/-- The record that holds the scratchpad image of a pack, if a request reads the image: of a saved pack, or of one that has been
placed again since the request was submitted (R365, R366). -/
def State.imageOf (s : State) (r : LReq) : Option Redirect :=
  match s.packOf r.pack with
  | some (key, p) =>
    if p.placedAt ≤ r.fork.number then none
    else (s.fieldOf r.pack).map fun f => ⟨p.ctx, p.id, coreOf key, key % 64, recordVa p.pbase f.desc, .restoring, [], [], p.banks.length⟩
  | none => (s.redirect r.pack).map (·.2)

/-- A scratchpad byte of a request's pack, or what the engine that meets the end of the scratchpad, a waking bank, a poisoned
quarter or line, or a page of the image without a translation stops at (R365, R94, R397); of a pack that is gone, any value
(DESIGN CHOICE, log 45). -/
def State.engPad (s : State) (core : Nat) (r : LReq) (o : Nat) : State × Except EngStop (Byte × Bound) :=
  match s.imageOf r, s.packOf r.pack with
  | some x, _ => s.imageByte core x o
  | none, some (key, p) =>
    (s,
      if !p.inPad o 1 then .error (.code 5)
      else if s.padWaking key p [o] then .error .wait
      else if (s.core (coreOf key)).bad.contains (.quarter (padAddr p.banks o / 32)) then .error (.code 7)
      else .ok ((padLoad (s.core (coreOf key)) p o 1).headD (0, 0)))
  | none, none => (s, .ok (BitVec.ofNat 8 (Config.pick 3 (s.fresh + o)), 0))

/-- The source byte at offset i of a request, with its bound (R219, R94). -/
def State.reqByte (s : State) (core root : Nat) (r : LReq) (i : Nat) : State × Except EngStop (Byte × Bound) :=
  let plain (s : State) : State × Except EngStop (Byte × Bound) :=
    if r.ssp then s.engPad core r (r.src.toNat + i) else s.reqRead core root r (r.src + BitVec.ofNat 64 i)
  match r.opc, r.key with
  | 1, _ => (s, .ok (BitVec.ofNat 8 (r.src.toNat / 256 ^ ((r.dst.toNat + i) % 8)), 0))
  | 2, some key =>
    let k := keyOf key.bytes
    let pol (b : Bound) : Bound := if k.bpol = 0 then b else if k.bpol = 1 then 0 else 0x8000
    (List.range 4).foldl (fun (acc : State × Except EngStop (Byte × Bound)) u =>
      match acc with
      | (s, .error e) => (s, .error e)
      | (s, .ok (v, b)) =>
        match k.bitSrc r.coords (8 * i + 2 * u) with
        | none => (s, .ok (v, b))
        | some q =>
          match s.reqRead core root r (k.vaAt q) with
          | (s, .error e) => (s, .error e)
          | (s, .ok (x, y)) =>
            let two := x.toNat / 2 ^ (q % 8).toNat % 4
            (s, .ok (v ||| BitVec.ofNat 8 (two * 4 ^ u), pol (boundMax b y)))) (s, .ok (0, pol 0))
  | _, _ => plain s

/-- Where a byte of a request goes: places with the bits written, shifted into place (R219), those on pages without bounds, the
level, and the end of the translations. -/
structure Target where
  places : List (Nat × Byte × Byte × Bound)
  untagged : List Nat
  level : Level
  exp : Nat
  deriving DecidableEq, Repr

/-- A place of a leaf, noted if its page is without bounds. -/
def notePlace (pa : Nat) (leaf : Word) (l : List Nat) : List Nat := if leafTagged leaf then l else pa :: l

/-- No place: a byte that is out of range (R219). -/
def Target.nowhere (lv : Level) : Target := ⟨[], [], lv, 2 ^ 64⟩

/-- Where the byte at offset i of a request goes (R219). -/
def State.reqPlace (s : State) (core root : Nat) (r : LReq) (i : Nat) (v : Byte) (b : Bound) : State × Except EngStop Target :=
  match r.opc, r.key with
  | 3, some key =>
    let k := keyOf key.bytes
    (List.range 4).foldl (fun (acc : State × Except EngStop Target) u =>
      match acc with
      | (s, .error e) => (s, .error e)
      | (s, .ok x) =>
        let ps := x.places
        match k.bitSrc r.coords (8 * i + 2 * u) with
        | none => (s, .ok x)
        | some q =>
          match s.reqTarget core root r (k.vaAt q) with
          | (s, .error e) => (s, .error e)
          | (s, .ok (pa, leaf, exp)) =>
            let sh := 2 ^ (q % 8).toNat
            let bits := BitVec.ofNat 8 (v.toNat / 4 ^ u % 4 * sh)
            let mask : Byte := BitVec.ofNat 8 (3 * sh)
            let ps := if ps.any fun p => p.1 == pa then
                ps.map fun p => if p.1 == pa then (p.1, p.2.1 ||| bits, p.2.2.1 ||| mask, p.2.2.2) else p
              else ps ++ [(pa, bits, mask, b)]
            (s, .ok ⟨ps, notePlace pa leaf x.untagged, effLevel r.lv leaf, min x.exp exp⟩)) (s, .ok (Target.nowhere r.lv))
  | _, _ =>
    if r.dsp then
      let o := r.dst.toNat + i
      let far := match s.packOf r.pack with
        | some (_, p) => !p.inPad o 1
        | none => false
      (s, if far then .error (.code 5) else .ok { Target.nowhere r.lv with places := [(o, v, 0xFF, b)] })
    else
      match s.reqTarget core root r (r.dst + BitVec.ofNat 64 i) with
      | (s, .error e) => (s, .error e)
      | (s, .ok (pa, leaf, exp)) => (s, .ok ⟨[(pa, v, 0xFF, b)], notePlace pa leaf [], effLevel r.lv leaf, exp⟩)

/-- What a piece has taken so far: where it goes, and the line of that. -/
structure PieceAcc where
  n : Nat
  target : Target
  line : Option Nat
  stop : Option EngStop
  deriving DecidableEq, Repr

/-- Takes bytes from offset i on while they go to one destination line (R361). -/
def State.takePiece (core root : Nat) (r : LReq) : Nat → Nat → State → PieceAcc → State × PieceAcc
  | 0, _, s, a => (s, a)
  | f + 1, i, s, a =>
    match s.reqByte core root r i with
    | (s, .error e) => (s, { a with stop := some e })
    | (s, .ok (v, b)) =>
      match s.reqPlace core root r i v b with
      | (s, .error e) => (s, { a with stop := some e })
      | (s, .ok x) =>
        let ps := x.places
        let fits := ps.all fun p => match a.line with
          | some l => lineOf p.1 == l
          | none => true
        if !fits then (s, a)
        else
          let line := match a.line with
            | some l => some l
            | none => ps.head?.map fun p => lineOf p.1
          let dst := if r.opc = 3 then
              ps.foldl (fun d p => if d.any fun x => x.1 == p.1 then
                  d.map fun x => if x.1 == p.1 then (x.1, x.2.1 ||| p.2.1, x.2.2.1 ||| p.2.2.1, boundMax x.2.2.2 p.2.2.2) else x
                else d ++ [p]) a.target.places
            else a.target.places ++ ps
          let goal : Target := if ps.isEmpty then a.target else ⟨dst, x.untagged ++ a.target.untagged, x.level, min a.target.exp x.exp⟩
          State.takePiece core root r f (i + 1) s ⟨a.n + 1, goal, line, none⟩

/-- The queue whose turn it is, with its head's place (R361). -/
def State.latchTurn (s : State) (core : Nat) : Option (Nat × Nat × LReq) :=
  let c := s.core core
  ((List.range 4).map fun i => (c.turn + i) % 4).findSome? fun q =>
    match (c.queue q).zipIdx.find? fun e => e.1.more with
    | some (r, i) => if r.stall.isSome || r.state == 3 || s.forkHeld r.fork then none else some (q, i, r)
    | none => none

/-- LATCH_PIECE_ISSUE (R361, R221): one piece of the head of the queue whose turn it is, if the core can hold its request (R331); with
none, STATUS writes that waited for
journal space (R368; DEDUCED, log 21). -/
def execLatchPieceIssue (core : Nat) (s : State) : Out :=
  match s.latchTurn core with
  | none =>
    let t := s.settleAll core
    if t = s then .fault .notDue else .next t
  | some (q, i, r) =>
    if requestLimit ≤ s.requests core then .fault .notDue else
    let root := s.rootId r.pack
    let s := s.setCore core { s.core core with turn := (q + 1) % 4 }
    let start := if r.opc = 3 then 0 else r.dst.toNat + r.issued
    let n := min (128 - start % 128) (r.len - r.issued)
    let (s, a) := State.takePiece core root r n r.issued s ⟨0, Target.nowhere r.lv, none, none⟩
    if a.n = 0 then
      match a.stop with
      | some (.miss va w l bad) =>
        let s := s.pageFault r.ctx va (faultInfo w false true l bad) core (BitVec.ofNat 8 (0x40 + q)) (.queue core q)
        let left := r.renewed.filter fun x => !(x.page == va.toNat / 65536 && x.write == w)
        .next ((s.putReq core q i { r with stall := s.faultId r.ctx va, renewed := left }).settle core q)
      | some (.code n) => .next ((s.putReq core q i { r with code := BitVec.ofNat 8 n }).settle core q)
      | _ => .next s
    else
      let t := a.target
      let fly : Fly := ⟨s.fresh, s.hub.firn.toNat, t.exp, r.issued, a.n, r.dsp, t.untagged, t.level, t.places⟩
      .next ((s.putReq core q i { r with issued := r.issued + a.n, flying := r.flying ++ [fly] }).bump)

/-- The queue and place of the request that has a piece in flight. -/
def Core.flyOf (c : Core) (piece : Nat) : Option (Nat × Nat × LReq × Fly) :=
  (List.range 4).findSome? fun q => (c.queue q).zipIdx.findSome? fun e =>
    (e.1.flying.find? fun f => f.id == piece).map fun f => (q, e.2, e.1, f)

/-- A piece is performed at its destination (R362, R365; DESIGN CHOICE, log 32); not in the scratchpad of an ended context
(R388). -/
def State.landPiece (s : State) (core q : Nat) (r : LReq) (f : Fly) : State :=
  let mix (old v m : Byte) : Byte := (old &&& ~~~m) ||| v
  if f.pad then
    match s.packOf r.pack with
    | some (key, p) =>
      let c := s.core (coreOf key)
      if p.ending then s else s.setCore (coreOf key) (padWrite c p (f.dst.map fun d => (d.1, d.2.1, d.2.2.2)))
    | none => s
  else
    let all := f.dst.map fun d =>
      if d.2.2.1 = 0xFF then (d.1, d.2.1, d.2.2.2)
      else (d.1, mix (s.byte (s.hub.cell d.1)) d.2.1 d.2.2.1, boundMax d.2.2.2 (if f.untagged.contains d.1 then 0 else s.byteBound d.1))
    let put (s : State) (tagged : Bool) (w : List (Nat × Byte × Bound)) : State :=
      if w.isEmpty then s else s.physStore core (0x200 + 4 * core + q) f.level tagged w
    put (put s true (all.filter fun d => !f.untagged.contains d.1)) false (all.filter fun d => f.untagged.contains d.1)

/-- A piece is performed where nothing holds it, then its bytes are subtracted; the final STATUS comes before the last subtraction
(R222, R362; DEDUCED, log 21). -/
def latchLand (core piece : Nat) (s : State) : Out :=
  match (s.core core).flyOf piece with
  | none => .fault .noObject
  | some (q, i, r, f) =>
    let pas := if f.pad then [] else f.dst.map (·.1)
    let w := Writer.unit f.id 0
    let stalled := f.pad && match s.packOf r.pack with
      | some (key, p) => s.padWaking key p (f.dst.map (·.1))
      | none => false
    if stalled || s.lineHeld f.id f.born (.core core) true (linesOf pas) then .fault .notDue
    else if !s.mayWrite (some w) pas then .next (s.waitWrites w pas)
    else
      let t := (s.unqueue w).landPiece core q r f
      let lost := !f.pad && f.dst.any fun d => f.untagged.contains d.1 && d.2.2.2 != 0
      let r := { r with flying := r.flying.filter (fun x => x.id != piece), landed := r.landed ++ [(f.off, f.n)],
                        lostB := r.lostB || lost }
      let last := r.flying.isEmpty && r.issued == r.len && r.code == 0
      let t := t.putReq core q i r
      let told : Except Stall State := do
        let t ← if last then t.writeStatus r 4 else .ok t
        t.subtract r f.n
      .next (s.orWaits told fun s =>
        if last then s.setQueue core q (((s.core core).queue q).eraseIdx i)
        else (s.putReq core q i { r with subtracted := r.subtracted + f.n }).settle core q)

/-- LATCH_PIECE_LAND (R362, R222): a piece lands, if no row step holds it at its bank (R358). -/
def execLatchPieceLand (core piece : Nat) (s : State) : Out :=
  match (s.core core).flyOf piece with
  | none => .fault .noObject
  | some (_, _, _, f) =>
    if !f.pad && s.bankHeld core f.level (f.dst.map (·.1)) then .fault .notDue else latchLand core piece s

/-- Where a request still has bytes to issue within n pages from a page on, on its reading or its writing side (R271): the first
such address. -/
def LReq.within (r : LReq) (page n : Nat) (write : Bool) : Option Word :=
  let inside (va : Word) : Bool := decide (page ≤ va.toNat / 65536) && decide (va.toNat / 65536 < page + n)
  let line (base : Word) : Option Word :=
    let first := base + BitVec.ofNat 64 r.issued
    let start : Word := BitVec.ofNat 64 (65536 * page)
    if inside first then some first
    else if decide (first.toNat < start.toNat) && decide (start.toNat < base.toNat + r.len) then some start
    else none
  let keyed : Option Word := r.key.bind fun k =>
    (List.range (r.len - r.issued)).findSome? fun i =>
      ((keyOf k.bytes).bitSrc r.coords (8 * (r.issued + i))).bind fun q =>
        let va := (keyOf k.bytes).vaAt q
        if inside va then some va else none
  if r.len ≤ r.issued then none
  else if write then (if r.opc = 3 then keyed else if r.dsp then none else line r.dst)
  else if r.opc = 2 then keyed
  else if r.opc = 1 ∨ r.ssp then none
  else line r.src

/-- Whether an entry of the walk-ahead TLB is in the last quarter of its lease, and nothing has renewed it (R271). -/
def State.lastQuarter (s : State) (core : Nat) (e : Tlb) : Bool :=
  let now := (s.firn core).toNat
  decide (now < e.expiry) && decide (e.expiry ≤ now + 2 ^ (s.hub.leaseCode e.leaf + 5) / 4) &&
    !(s.core core).ahead.any fun x => x.ctx == e.ctx && x.page == e.page && decide (e.expiry < x.expiry)

/-- The addresses of a request that are due for a renewal walk, each with its entry: in pages with bytes to issue, in their last
quarter and not already found wanting (R271; DEDUCED, log 21). -/
def State.toRenew (s : State) (core : Nat) (r : LReq) : List (Tlb × Word × Bool) :=
  ((s.core core).ahead.filter fun e => e.ctx == r.ctx && s.lastQuarter core e).flatMap fun e =>
    [false, true].filterMap fun write =>
      (r.within e.page e.pages write).bind fun va =>
        if r.renewed.any fun x => x.page == va.toNat / 65536 && x.write == write && decide ((s.firn core).toNat < x.expiry) then none
        else some (e, va, write)

/-- One renewal walk: a mapping that allows the access gives a new entry, which serves once the old one has run out; any other
finding is kept until then (R271; DEDUCED, log 21). -/
def State.renewOne (s : State) (core : Nat) (r : LReq) (x : Tlb × Word × Bool) : State × LReq :=
  let (e, va, write) := x
  let mark (code level : Nat) (bad : Bool) : LReq :=
    { r with renewed := r.renewed.filter (fun y => !(y.page == va.toNat / 65536 && y.write == write)) ++
        [⟨va.toNat / 65536, write, e.expiry, code, level, bad⟩] }
  let o := s.walk (dieOf core) r.ctx (s.rootId r.pack) va true
  match s.walked (dieOf core) va o with
  | (s, .miss level bad) => (s, mark 0 level bad)
  | (s, .ok _ leaf _) =>
    if pteKind leaf == 3 then (s, mark 8 0 false)
    else if s.engDenied va write leaf then (s, mark 4 0 false)
    else
      match o.expiry with
      | none => (s, r)
      | some t =>
        let c := s.core core
        let (p, n) := leafPages va leaf
        (s.setCore core { c with ahead := c.ahead ++ [⟨r.ctx, p, n, leaf, t, o.pool⟩] }, r)

/-- WALK_AHEAD_RENEWAL (R271): pages in which the head has bytes to issue and whose entries are in their last quarter are walked
again (DEDUCED, log 21). -/
def execWalkAheadRenewal (core queue : Nat) (s : State) : Out :=
  match ((s.core core).queue queue).zipIdx.find? fun e => e.1.more with
  | none => .fault .notDue
  | some (r, i) =>
    let due := s.toRenew core r
    if due.isEmpty then .fault .notDue
    else
      let (s, r) := due.foldl (fun (a : State × LReq) e => a.1.renewOne core a.2 e) (s, r)
      .next (s.putReq core queue i r)

/-- The most pages that a queue translates ahead of the byte that it is issuing (R340). -/
def aheadPages : Nat := 4

/-- The pages that follow the one a request is issuing in, on each side, as far as it has bytes there (R340). -/
def LReq.aheadVas (r : LReq) : List (Word × Bool) :=
  [false, true].flatMap fun write =>
    match r.within 0 (2 ^ 48) write with
    | none => []
    | some va => (List.range aheadPages).filterMap fun k => (r.within (va.toNat / 65536 + k + 1) 1 write).map fun v => (v, write)

/-- PAGE_WALK (R338, R340): a queue walks a page ahead of the byte that it is issuing, which it has no translation of; one without
a translation records nothing (DEDUCED, log 21). -/
def execPageWalk (core queue : Nat) (va : Word) (s : State) : Out :=
  match (s.core core).head queue with
  | none => .fault .notDue
  | some r =>
    if (r.aheadVas.any fun e => e.1 == va) && canonical va && (s.cached .latch core r.ctx va).isNone then
      .next (s.walkKeep .latch core r.ctx (s.rootId r.pack) va false).1
    else .fault .notDue

end Sys2Proof.Machine
end

