-- ==== Sys2Proof/Machine/Regs.lean ====
section
/-! DEFINITION. The registers of the hub MMIO window as reads find them (R380): the front end (R381 to R389, R395, R398), Firn
(R257), Moraine (R272), the fault queue (R342), HBM and stack blocks (R347, R352), the CXL block (R373 to R378), the die blocks
(R301, R322, R358, R368, R393, R398), and scheduler memory. -/

namespace Sys2Proof.Machine
open Sys2Proof

/-- A bit as a number at its place. -/
def bitIf (b : Bool) (i : Nat) : Nat := if b then 2 ^ i else 0

/-- Instances of a queue that are pending or running (R387). -/
def Hub.pending (h : Hub) (q : Nat) : Nat := (h.insts.filter fun x => x.queue == q).length

/-- Front-end registers (R381 to R398); write-only registers read zero. -/
def Hub.frontReg (h : Hub) (o : Nat) : Nat :=
  if 0x100 ≤ o ∧ o < 0x200 then
    let i := (o - 0x100) / 16
    let q := h.queues.toList.getD i Queue.reset
    if o % 16 = 0 then bitIf q.en 63 + q.ltol.toNat
    else 2 ^ 32 * q.done.toNat + 2 ^ 24 * q.err.toNat + 2 ^ 12 * q.node.toNat + bitIf q.ovf 8 + h.pending i
  else
    match o with
    | 0x008 => bitIf h.ctxBusy 63 + h.ctxLast.toNat
    | 0x018 => h.haltlog.toNat
    | 0x020 => h.haltaddr.toNat
    | 0x028 => 2 ^ 12 * h.ctxbase.toNat
    | 0x208 => 2 ^ 8 * h.bootErr.toNat + h.bootPhase.toNat
    | 0x210 => h.mflog.toNat
    | _ => 0

/-- Firn registers (R257). -/
def Hub.firnReg (h : Hub) (o : Nat) : Nat :=
  match o with
  | 0x00 => h.firn.toNat
  | 0x08 => 2 ^ 16 * h.podskew.toNat + h.skewmax.toNat
  | 0x10 => bitIf h.podrs 24 + 2 ^ 16 * h.resync.toNat + bitIf h.pod 8 + h.skew.toNat
  | 0x18 => 2 ^ 8 * h.xcap.toNat + h.lcap.toNat
  | _ => 0

/-- Moraine registers (R272). -/
def Hub.moraineReg (h : Hub) (o : Nat) : Nat :=
  match o with
  | 0x00 => 2 ^ 16 * h.mdata.toNat
  | 0x08 => 2 ^ 17 * h.mrec.toNat
  | 0x10 => 2 ^ 16 * h.nframes.toNat + bitIf h.fold 8 + 2 ^ 4 * h.defop.toNat + bitIf h.men 0
  | _ => 0

/-- Fault-queue registers (R342). -/
def Hub.faultReg (h : Hub) (o : Nat) : Nat :=
  match o with
  | 0x00 => 2 ^ 12 * h.fqbase.toNat
  | 0x08 => bitIf h.fqien 32 + bitIf h.fqen 31 + h.fqlog2.toNat
  | 0x10 => h.fqtail.toNat
  | 0x18 => h.fqhead.toNat
  | 0x28 => bitIf h.badresp 1 + bitIf h.fqfull 0
  | _ => 0

/-- CXL registers (R373 to R378). -/
def Hub.cxlReg (h : Hub) (o : Nat) : Nat :=
  if o < 0x40 then (h.cxlwin.toList.getD (o / 8) 0).toNat
  else
    match o with
    | 0x40 => bitIf h.podEn 32 + 2 ^ 28 * h.self.toNat + 2 ^ 24 * h.master.toNat + 2 ^ 16 * h.podSize.toNat
    | 0x48 => 2 ^ 60 * h.podHome.toNat + 2 ^ 9 * h.podBase.toNat
    | 0x50 => 2 ^ 4 * h.cxlUp.toNat + bitIf h.uncl 0
    | _ => 0

/-- The code of a bank state (R317). -/
def BankSt.code : BankSt → Nat
  | .l1 => 0
  | .free => 1
  | .pack => 2
  | .gated => 3

/-- CORESRAM of a core (R322). -/
def Core.sramReg (c : Core) : Nat :=
  ((List.range 16).map fun i =>
    let b := c.banks.getD i Bank.reset
    2 ^ (2 * i) * b.st.code + bitIf b.waking (32 + i)).sum

/-- Die registers (R301, R322, R358, R368, R393, R398). -/
def State.dieReg (s : State) (d o : Nat) : Nat :=
  let x := s.die d
  if 0x100 ≤ o ∧ o < 0x240 then (s.core (40 * d + (o - 0x100) / 8)).sramReg
  else
    match o with
    | 0x00 => bitIf x.wdIen 32 + x.wdLimit.toNat
    | 0x08 => x.wdlog.toNat
    | 0x10 => 2 ^ 16 * x.gain.toNat + 2 ^ 8 * x.fresv.toNat + 2 ^ 4 * x.lmin.toNat + bitIf x.auto 0
    | 0x18 => x.win.toNat
    | 0x20 => 2 ^ 32 * x.held + bitIf x.jfull 17 + bitIf x.tfull 16 + x.entries
    | 0x28 => 2 ^ 32 * x.permits + 2 * x.fmax.toNat + bitIf x.boost 0
    | 0x30 => 2 ^ 32 * x.replay.toNat + x.corr.toNat
    | _ => 0

/-- Stack registers (R352). -/
def Stack.reg (k : Stack) (o : Nat) : Nat :=
  match o with
  | 0x00 => 2 ^ 32 * k.rtint.toNat + bitIf k.ien 16 + k.thresh.toNat
  | 0x08 => 2 ^ 8 * k.selPc.toNat + k.selLane.toNat
  | 0x10 =>
    if 32 ≤ k.selLane.toNat then 0
    else
      let e := k.eyes.getD (64 * k.selPc.toNat + k.selLane.toNat) (0, 0)
      2 ^ 8 * e.1.toNat + e.2.toNat
  | 0x18 => k.eyestat.toNat
  | 0x20 => k.half.toNat
  | 0x28 => k.fenced.toNat
  | 0x38 => k.corr.toNat
  | _ => 0

/-- The 8-byte register at an aligned offset of the window (R380); an offset that is not listed reads as zero
(DEDUCED, log 28). -/
def State.reg (s : State) (o : Nat) : Word :=
  BitVec.ofNat 64
    (if schedBase ≤ o ∧ o < windowSize then leNat ((List.range 8).map fun i => s.hub.sched.getD (o - schedBase + i) 0)
     else if o < 0x1000 then s.hub.frontReg o
     else if o < 0x2000 then s.hub.firnReg (o - 0x1000)
     else if o < 0x3000 then s.hub.moraineReg (o - 0x2000)
     else if o < 0x4000 then s.hub.faultReg (o - 0x3000)
     else if o < 0x5000 then (if o = 0x4000 then bitIf s.hub.lock 32 + s.hub.linseg.toNat else 0)
     else if o < 0x6000 then s.hub.cxlReg (o - 0x5000)
     else if 0x10000 ≤ o ∧ o < 0x18000 then s.dieReg ((o - 0x10000) / 0x1000) (o % 0x1000)
     else if 0x20000 ≤ o ∧ o < 0x30000 then (s.stack ((o - 0x20000) / 0x1000)).reg (o % 0x1000)
     else 0)

/-- Reads 4 or 8 aligned bytes of the window (R175, R253; DEDUCED, log 28). -/
def State.regRead (s : State) (o n : Nat) : Nat :=
  let x := (s.reg (o / 8 * 8)).toNat
  if n = 8 then x else x / 2 ^ (8 * (o % 8)) % 2 ^ (8 * n)

/-- What a physical address of KIND 3 reads as (R380). -/
def State.mmioBytes (s : State) (pa n : Nat) : List Byte :=
  let o := pa - mmioBase
  natLe n (if o < windowSize then s.regRead o n else 0)

end Sys2Proof.Machine
end

