-- ==== Sys2Proof/Decode.lean ====
section
/-! DEFINITION. From words to instructions and back (spec 04). `decode` is total on 64-bit words and names the cause of
R106 for every word that is not an instruction. `encode` is written from the same encoding tables. -/

namespace Sys2Proof

/-- Why a word is not an instruction: the issue-time causes that depend on the word alone, in the order of R106. -/
inductive DecodeError where
  | illegalOpcode | runControl | pairBank | illegalOperand
  deriving DecidableEq, Repr

/-! ### Codes of the enumerated fields -/

def ITy.code : ITy → BitVec 2
  | .s32 => 0 | .n32 => 1 | .s64 => 2 | .n64 => 3
def ITy.ofCode (c : BitVec 2) : ITy :=
  match c.toNat with
  | 0 => .s32 | 1 => .n32 | 2 => .s64 | _ => .n64
def FTy.code : FTy → BitVec 2
  | .f32 => 0 | .f64 => 1 | .f16x2 => 2 | .bf16x2 => 3
def FTy.ofCode (c : BitVec 2) : FTy :=
  match c.toNat with
  | 0 => .f32 | 1 => .f64 | 2 => .f16x2 | _ => .bf16x2
def Tier.code : Tier → BitVec 2
  | .auto => 0 | .full => 1 | .half => 2 | .quart => 3
def Tier.ofCode (c : BitVec 2) : Tier :=
  match c.toNat with
  | 0 => .auto | 1 => .full | 2 => .half | _ => .quart
def RMode.code : RMode → BitVec 2
  | .rn => 0 | .rz => 1 | .ru => 2 | .rd => 3
def RMode.ofCode (c : BitVec 2) : RMode :=
  match c.toNat with
  | 0 => .rn | 1 => .rz | 2 => .ru | _ => .rd
def ICond.code : ICond → BitVec 4
  | .eq => 0 | .ne => 1 | .lt => 2 | .le => 3 | .gt => 4 | .ge => 5 | .tst => 6 | .ntst => 7
  | .ltu => 8 | .leu => 9 | .gtu => 10 | .geu => 11
def ICond.ofCode (c : BitVec 4) : Option ICond :=
  match c.toNat with
  | 0 => some .eq | 1 => some .ne | 2 => some .lt | 3 => some .le | 4 => some .gt | 5 => some .ge | 6 => some .tst
  | 7 => some .ntst | 8 => some .ltu | 9 => some .leu | 10 => some .gtu | 11 => some .geu | _ => none
def FCond.code : FCond → BitVec 4
  | .eq => 0 | .ne => 1 | .lt => 2 | .le => 3 | .gt => 4 | .ge => 5 | .uno => 6 | .ord => 7
  | .ult => 8 | .ule => 9 | .ugt => 10 | .uge => 11 | .ueq => 12 | .one => 13
def FCond.ofCode (c : BitVec 4) : Option FCond :=
  match c.toNat with
  | 0 => some .eq | 1 => some .ne | 2 => some .lt | 3 => some .le | 4 => some .gt | 5 => some .ge | 6 => some .uno
  | 7 => some .ord | 8 => some .ult | 9 => some .ule | 10 => some .ugt | 11 => some .uge | 12 => some .ueq
  | 13 => some .one | _ => none
/-- Format codes of R105. -/
def Fmt.code : Fmt → BitVec 5
  | .f64 => 0 | .f32 => 1 | .f16 => 2 | .bf16 => 3 | .e4m3 => 4 | .e5m2 => 5 | .e2m3 => 6 | .e3m2 => 7 | .e2m1 => 8
  | .e8m0 => 9 | .s4 => 16 | .s8 => 17 | .s16 => 18 | .s32 => 19 | .s64 => 20 | .n4 => 21 | .n8 => 22 | .n16 => 23
  | .n32 => 24 | .n64 => 25
def Fmt.ofCode (c : BitVec 5) : Option Fmt :=
  match c.toNat with
  | 0 => some .f64 | 1 => some .f32 | 2 => some .f16 | 3 => some .bf16 | 4 => some .e4m3 | 5 => some .e5m2
  | 6 => some .e2m3 | 7 => some .e3m2 | 8 => some .e2m1 | 9 => some .e8m0 | 16 => some .s4 | 17 => some .s8
  | 18 => some .s16 | 19 => some .s32 | 20 => some .s64 | 21 => some .n4 | 22 => some .n8 | 23 => some .n16
  | 24 => some .n32 | 25 => some .n64 | _ => none
def MxFmt.code : MxFmt → BitVec 5
  | .e4m3 => 4 | .e5m2 => 5 | .e2m3 => 6 | .e3m2 => 7 | .e2m1 => 8
def MxFmt.ofCode (c : BitVec 5) : Option MxFmt :=
  match c.toNat with
  | 4 => some .e4m3 | 5 => some .e5m2 | 6 => some .e2m3 | 7 => some .e3m2 | 8 => some .e2m1 | _ => none
def RTy.code : RTy → BitVec 3
  | .s32 => 0 | .n32 => 1 | .s64 => 2 | .n64 => 3 | .f32 => 4 | .f64 => 5 | .f16x2 => 6 | .bf16x2 => 7
def RTy.ofCode (c : BitVec 3) : RTy :=
  match c.toNat with
  | 0 => .s32 | 1 => .n32 | 2 => .s64 | 3 => .n64 | 4 => .f32 | 5 => .f64 | 6 => .f16x2 | _ => .bf16x2
def ROp.code : ROp → BitVec 3
  | .add => 0 | .min => 1 | .max => 2 | .and => 3 | .or => 4 | .xor => 5
def ROp.ofCode (c : BitVec 3) : Option ROp :=
  match c.toNat with
  | 0 => some .add | 1 => some .min | 2 => some .max | 3 => some .and | 4 => some .or | 5 => some .xor | _ => none
def Vote.code : Vote → BitVec 2
  | .any => 0 | .all => 1 | .uni => 2
def Vote.ofCode (c : BitVec 2) : Option Vote :=
  match c.toNat with
  | 0 => some .any | 1 => some .all | 2 => some .uni | _ => none
def ChkKind.code : ChkKind → BitVec 2
  | .abs => 0 | .rel => 1 | .cur => 2 | .unb => 3
def ChkKind.ofCode (c : BitVec 2) : ChkKind :=
  match c.toNat with
  | 0 => .abs | 1 => .rel | 2 => .cur | _ => .unb
def Level.code : Level → BitVec 2
  | .near => 0 | .mid => 1 | .far => 2 | .stream => 3
def Level.ofCode (c : BitVec 2) : Level :=
  match c.toNat with
  | 0 => .near | 1 => .mid | 2 => .far | _ => .stream
def Ord3.code : Ord3 → BitVec 2
  | .rlx => 0 | .acqRel => 1 | .sc => 2
def Ord3.ofCode (c : BitVec 2) : Option Ord3 :=
  match c.toNat with
  | 0 => some .rlx | 1 => some .acqRel | 2 => some .sc | _ => none
def Scope.code : Scope → BitVec 3
  | .core => 0 | .quad => 1 | .die => 2 | .pkg => 3 | .sys => 4 | .pod => 5
def Scope.ofCode (c : BitVec 3) : Option Scope :=
  match c.toNat with
  | 0 => some .core | 1 => some .quad | 2 => some .die | 3 => some .pkg | 4 => some .sys | 5 => some .pod | _ => none
def Sz.code : Sz → BitVec 3
  | .n8 => 0 | .s8 => 1 | .n16 => 2 | .s16 => 3 | .b32 => 4 | .b64 => 5 | .b128 => 6
def Sz.ofCode (c : BitVec 3) : Option Sz :=
  match c.toNat with
  | 0 => some .n8 | 1 => some .s8 | 2 => some .n16 | 3 => some .s16 | 4 => some .b32 | 5 => some .b64 | 6 => some .b128
  | _ => none
def ATy.code : ATy → BitVec 3
  | .s32 => 0 | .n32 => 1 | .f32 => 2 | .s64 => 3 | .n64 => 4 | .f64 => 5
def ATy.ofCode (c : BitVec 3) : Option ATy :=
  match c.toNat with
  | 0 => some .s32 | 1 => some .n32 | 2 => some .f32 | 3 => some .s64 | 4 => some .n64 | 5 => some .f64 | _ => none
/-- Reconcile code: bit 3 is POL[21], bits [2:0] are SZ (R103, R104, R188). -/
def ReconOp.code : ReconOp → BitVec 4
  | .addS64 => 0 | .addF64 => 1 | .maxS64 => 2 | .minS64 => 3 | .or => 4 | .and => 5 | .xor => 6 | .first => 7 | .last => 8
def ReconOp.ofCode (c : BitVec 4) : Option ReconOp :=
  match c.toNat with
  | 0 => some .addS64 | 1 => some .addF64 | 2 => some .maxS64 | 3 => some .minS64 | 4 => some .or | 5 => some .and
  | 6 => some .xor | 7 => some .first | 8 => some .last | _ => none
def SbarLevel.code : SbarLevel → BitVec 3
  | .quad => 1 | .die => 2 | .pkg => 3 | .pod => 5
def SbarLevel.ofCode (c : BitVec 3) : Option SbarLevel :=
  match c.toNat with
  | 1 => some .quad | 2 => some .die | 3 => some .pkg | 5 => some .pod | _ => none

/-! ### The four forms as fields (R95) -/

/-- F form. -/
structure FWord where
  s : Bool
  op : BitVec 9
  gn : Bool
  gp : BitVec 3
  mod : BitVec 8
  d : BitVec 10
  a : BitVec 10
  b : BitVec 10
  c : BitVec 10
  deriving DecidableEq, Repr

/-- I form. -/
structure IWord where
  s : Bool
  op : BitVec 7
  gp : BitVec 3
  gn : Bool
  d : BitVec 10
  mod : BitVec 8
  imm : BitVec 32
  deriving DecidableEq, Repr

/-- M form. -/
structure MWord where
  s : Bool
  op : BitVec 7
  gn : Bool
  gp : BitVec 3
  d : BitVec 10
  sa : BitVec 7
  vb : BitVec 10
  pol : BitVec 7
  sz : BitVec 3
  off : BitVec 13
  deriving DecidableEq, Repr

/-- One 30-bit slot of a P word (R99). -/
structure SlotWord where
  op : BitVec 7
  mod3 : BitVec 3
  d : BitVec 10
  a : BitVec 10
  deriving DecidableEq, Repr

/-- Bit i of a word as a Bool. -/
def bitAt {n : Nat} (w : BitVec n) (i : Nat) : Bool := w.getLsbD i

/-- Bits [lo + len - 1 : lo] of a word. -/
def bitsAt {n : Nat} (w : BitVec n) (lo len : Nat) : BitVec len := w.extractLsb' lo len

/-- A Bool as one bit. -/
def bit1 (b : Bool) : BitVec 1 := BitVec.ofBool b

def FWord.unpack (w : Word) : FWord :=
  { s := bitAt w 63, op := bitsAt w 52 9, gn := bitAt w 51, gp := bitsAt w 48 3, mod := bitsAt w 40 8,
    d := bitsAt w 30 10, a := bitsAt w 20 10, b := bitsAt w 10 10, c := bitsAt w 0 10 }
def FWord.pack (f : FWord) : Word :=
  bit1 f.s ++ (0#2 ++ (f.op ++ (bit1 f.gn ++ (f.gp ++ (f.mod ++ (f.d ++ (f.a ++ (f.b ++ f.c))))))))

def IWord.unpack (w : Word) : IWord :=
  { s := bitAt w 63, op := bitsAt w 54 7, gp := bitsAt w 51 3, gn := bitAt w 50, d := bitsAt w 40 10,
    mod := bitsAt w 32 8, imm := bitsAt w 0 32 }
def IWord.pack (f : IWord) : Word :=
  bit1 f.s ++ (2#2 ++ (f.op ++ (f.gp ++ (bit1 f.gn ++ (f.d ++ (f.mod ++ f.imm))))))

def MWord.unpack (w : Word) : MWord :=
  { s := bitAt w 63, op := bitsAt w 54 7, gn := bitAt w 53, gp := bitsAt w 50 3, d := bitsAt w 40 10,
    sa := bitsAt w 33 7, vb := bitsAt w 23 10, pol := bitsAt w 16 7, sz := bitsAt w 13 3, off := bitsAt w 0 13 }
def MWord.pack (f : MWord) : Word :=
  bit1 f.s ++ (3#2 ++ (f.op ++ (bit1 f.gn ++ (f.gp ++ (f.d ++ (f.sa ++ (f.vb ++ (f.pol ++ (f.sz ++ f.off)))))))))

def SlotWord.unpack (w : BitVec 30) : SlotWord :=
  { op := bitsAt w 23 7, mod3 := bitsAt w 20 3, d := bitsAt w 10 10, a := bitsAt w 0 10 }
def SlotWord.pack (f : SlotWord) : BitVec 30 := f.op ++ (f.mod3 ++ (f.d ++ f.a))

/-- The P word: S, form 0b01, Y = 0, slot 1, slot 0 (R95, R99). -/
def packPair (s : Bool) (slot1 slot0 : BitVec 30) : Word := bit1 s ++ (1#2 ++ (0#1 ++ (slot1 ++ slot0)))

def FWord.hdr (w : FWord) : Hdr := ⟨w.s, w.gn, w.gp⟩
def IWord.hdr (w : IWord) : Hdr := ⟨w.s, w.gn, w.gp⟩
def MWord.hdr (w : MWord) : Hdr := ⟨w.s, w.gn, w.gp⟩

/-! ### Fields by operand class (R96) -/

/-- Class S in a 10-bit field. -/
def fS (x : BitVec 10) : Option SReg := if x.toNat < 128 then some (x.setWidth 7) else none
/-- Class P. -/
def fP (x : BitVec 10) : Option PReg := if x.toNat < 16 then some (x.setWidth 4) else none
/-- Class T. -/
def fT (x : BitVec 10) : Option TReg := if x.toNat < 16 then some (x.setWidth 4) else none
/-- Class A. -/
def fA (x : BitVec 10) : Option AReg := if x.toNat < 8 then some (x.setWidth 3) else none
/-- Class J. -/
def fJ (x : BitVec 10) : Option JReg := if x.toNat < 8 then some (x.setWidth 3) else none
/-- An unused field holds 0x3FF. -/
def fNone (x : BitVec 10) : Option Unit := if x = 0x3FF#10 then some () else none
/-- An unused field as it is encoded. -/
def unused : BitVec 10 := 0x3FF#10
/-- A bit or field that must be zero. -/
def fZero {n : Nat} (x : BitVec n) : Option Unit := if x = 0#n then some () else none

/-- A smaller register number in its 10-bit field. -/
def reg10 {n : Nat} (x : BitVec n) : BitVec 10 := x.setWidth 10

/-- The class code of R97: whether A and whether B are uniform. -/
def classCode (c : BitVec 10) : Option (Bool × Bool) :=
  match c.toNat with
  | 0x3FF => some (false, false)
  | 0x3FE => some (false, true)
  | 0x3FD => some (true, false)
  | 0x3FC => some (true, true)
  | _ => none
def VS.isS : VS → Bool
  | .s _ => true
  | .v _ => false
/-- The class code for two V* operands. -/
def classOf (ua ub : Bool) : BitVec 10 :=
  match ua, ub with
  | false, false => 0x3FF | false, true => 0x3FE | true, false => 0x3FD | true, true => 0x3FC
/-- A V* field under its class bit. -/
def fVS (uniform : Bool) (x : BitVec 10) : Option VS :=
  if uniform then (fS x).map .s else some (.v x)
/-- A V* operand in its field. -/
def VS.field : VS → BitVec 10
  | .v r => r
  | .s r => reg10 r

/-! ### MOD layouts (R98) -/

def mInt (m : BitVec 8) : Option IntMod := do
  fZero (bitsAt m 0 5)
  some ⟨ITy.ofCode (bitsAt m 6 2), bitAt m 5⟩
def IntMod.field (m : IntMod) : BitVec 8 := m.ty.code ++ (bit1 m.sat ++ 0#5)
/-- INT layout with a condition code in [3:0] (R134, R142). -/
def mCmp (m : BitVec 8) : Option (ITy × ICond) := do
  fZero (bitsAt m 4 2)
  let c ← ICond.ofCode (bitsAt m 0 4)
  some (ITy.ofCode (bitsAt m 6 2), c)
def mFp (m : BitVec 8) : FpMod :=
  ⟨FTy.ofCode (bitsAt m 6 2), Tier.ofCode (bitsAt m 4 2), RMode.ofCode (bitsAt m 2 2), bitAt m 0⟩
def FpMod.field (m : FpMod) (nc : Bool) : BitVec 8 :=
  m.ty.code ++ (m.tier.code ++ (m.rm.code ++ (bit1 nc ++ bit1 m.q)))
/-- AUTO (false) or FULL (true) in [5:4] (R75). -/
def mFull (m : BitVec 8) : Option Bool :=
  match (bitsAt m 4 2).toNat with
  | 0 => some false
  | 1 => some true
  | _ => none
def fullField (full : Bool) : BitVec 2 := if full then 1 else 0
def mCv (m : BitVec 8) : Option CvMod := do
  let full ← mFull m
  fZero (bitsAt m 1 1)
  some ⟨bitAt m 7, bitAt m 6, full, RMode.ofCode (bitsAt m 2 2), bitAt m 0⟩
def CvMod.field (m : CvMod) : BitVec 8 :=
  bit1 m.sr ++ (bit1 m.sat ++ (fullField m.full ++ (m.rm.code ++ (0#1 ++ bit1 m.q))))
/-- W in [7:6]: 0 or 1, the rest zero (R162, R168). -/
def mW (m : BitVec 8) : Option Bool :=
  match m.toNat with
  | 0x00 => some false
  | 0x40 => some true
  | _ => none
def wField (w : Bool) : BitVec 8 := if w then 0x40 else 0x00

/-- POL of an M word (R103). -/
def mMem (w : MWord) : Option MemOp := do
  let o ← Ord3.ofCode (bitsAt w.pol 3 2)
  let sc ← Scope.ofCode (bitsAt w.pol 0 3)
  some ⟨Level.ofCode (bitsAt w.pol 5 2), o, sc, w.sa, w.vb, w.off⟩
def MemOp.pol (m : MemOp) (level : BitVec 2) : BitVec 7 := level ++ (m.order.code ++ m.scope.code)

/-! ### Decoding, shape by shape -/

section Shapes
variable {α : Type}

def dS3 (w : FWord) (k : Hdr → IntMod → SReg → SReg → SReg → α) : Option α := do
  let m ← mInt w.mod; let d ← fS w.d; let a ← fS w.a; let b ← fS w.b; fNone w.c
  some (k w.hdr m d a b)
def dS4 (w : FWord) (k : Hdr → IntMod → SReg → SReg → SReg → SReg → α) : Option α := do
  let m ← mInt w.mod; let d ← fS w.d; let a ← fS w.a; let b ← fS w.b; let c ← fS w.c
  some (k w.hdr m d a b c)
def dS2 (w : FWord) (k : Hdr → IntMod → SReg → SReg → α) : Option α := do
  let m ← mInt w.mod; let d ← fS w.d; let a ← fS w.a; fNone w.b; fNone w.c
  some (k w.hdr m d a)
def dSCMP (w : FWord) (k : Hdr → ITy → ICond → PReg → SReg → SReg → α) : Option α := do
  let m ← mCmp w.mod; let p ← fP w.d; let a ← fS w.a; let b ← fS w.b; fNone w.c
  some (k w.hdr m.1 m.2 p a b)
def dP3 (w : FWord) (k : Hdr → PReg → PReg → PReg → α) : Option α := do
  fZero w.mod; let d ← fP w.d; let a ← fP w.a; let b ← fP w.b; fNone w.c
  some (k w.hdr d a b)
def dP2 (w : FWord) (k : Hdr → PReg → PReg → α) : Option α := do
  fZero w.mod; let d ← fP w.d; let a ← fP w.a; fNone w.b; fNone w.c
  some (k w.hdr d a)
def dPSET (w : FWord) (k : Hdr → PReg → SReg → α) : Option α := do
  fZero w.mod; let d ← fP w.d; let a ← fS w.a; fNone w.b; fNone w.c
  some (k w.hdr d a)
def dPGET (w : FWord) (k : Hdr → SReg → PReg → α) : Option α := do
  fZero w.mod; let d ← fS w.d; let a ← fP w.a; fNone w.b; fNone w.c
  some (k w.hdr d a)
def dV3 (w : FWord) (k : Hdr → IntMod → VReg → VS → VS → α) : Option α := do
  let m ← mInt w.mod; let u ← classCode w.c; let a ← fVS u.1 w.a; let b ← fVS u.2 w.b
  some (k w.hdr m w.d a b)
def dV4 (w : FWord) (k : Hdr → IntMod → VReg → VReg → VReg → VReg → α) : Option α := do
  let m ← mInt w.mod
  some (k w.hdr m w.d w.a w.b w.c)
/-- Class code of an instruction whose B is unused: B may not be made uniform (R97). -/
def classA (w : FWord) : Option VS := do
  let u ← classCode w.c; fNone w.b
  if u.2 then none else fVS u.1 w.a
def dV2 (w : FWord) (k : Hdr → IntMod → VReg → VS → α) : Option α := do
  let m ← mInt w.mod; let a ← classA w
  some (k w.hdr m w.d a)
def dVCMP (w : FWord) (k : Hdr → ITy → ICond → PReg → VS → VS → α) : Option α := do
  let m ← mCmp w.mod; let p ← fP w.d; let u ← classCode w.c; let a ← fVS u.1 w.a; let b ← fVS u.2 w.b
  some (k w.hdr m.1 m.2 p a b)
def dVSEL (w : FWord) (k : Hdr → ITy → VReg → VReg → VReg → PReg → α) : Option α := do
  let m ← mInt w.mod; fZero (bit1 m.sat); let p ← fP w.c
  some (k w.hdr m.ty w.d w.a w.b p)
def dF3 (w : FWord) (k : Hdr → FpMod → VReg → VS → VS → α) : Option α := do
  fZero (bitsAt w.mod 1 1); let u ← classCode w.c; let a ← fVS u.1 w.a; let b ← fVS u.2 w.b
  some (k w.hdr (mFp w.mod) w.d a b)
def dFFMA (w : FWord) (k : Hdr → FpMod → Bool → VReg → VReg → VReg → VReg → α) : Option α :=
  some (k w.hdr (mFp w.mod) (bitAt w.mod 1) w.d w.a w.b w.c)
def dF2 (w : FWord) (k : Hdr → FpMod → VReg → VS → α) : Option α := do
  fZero (bitsAt w.mod 1 1); let a ← classA w
  some (k w.hdr (mFp w.mod) w.d a)
def dFCLASS (w : FWord) (k : Hdr → FTy → Bool → VReg → VS → α) : Option α := do
  fZero (bitsAt w.mod 0 4); let full ← mFull w.mod; let a ← classA w
  some (k w.hdr (FTy.ofCode (bitsAt w.mod 6 2)) full w.d a)
def dFCMP (w : FWord) (k : Hdr → FTy → Bool → FCond → PReg → VS → VS → α) : Option α := do
  let full ← mFull w.mod; let c ← FCond.ofCode (bitsAt w.mod 0 4); let p ← fP w.d
  let u ← classCode w.c; let a ← fVS u.1 w.a; let b ← fVS u.2 w.b
  some (k w.hdr (FTy.ofCode (bitsAt w.mod 6 2)) full c p a b)
def dCVT (w : FWord) (k : Hdr → CvMod → Fmt → Fmt → VReg → VS → α) : Option α := do
  let m ← mCv w.mod; let src ← Fmt.ofCode (bitsAt w.b 5 5); let dst ← Fmt.ofCode (bitsAt w.b 0 5)
  let u ← classCode w.c; let a ← if u.2 then none else fVS u.1 w.a
  some (k w.hdr m dst src w.d a)
/-- Class E in C: a format code with [9:5] zero (R96). -/
def fE (c : BitVec 10) : Option MxFmt := do
  fZero (bitsAt c 5 5)
  MxFmt.ofCode (bitsAt c 0 5)
def dMXSCALE (w : FWord) (k : Hdr → Bool → MxFmt → VReg → VReg → α) : Option α := do
  fZero (bitsAt w.mod 6 2); fZero (bitsAt w.mod 0 4); let full ← mFull w.mod; fNone w.b; let f ← fE w.c
  some (k w.hdr full f w.d w.a)
def dMXQ (w : FWord) (k : Hdr → Bool → Bool → Bool → Bool → Bool → MxFmt → VReg → VReg → VReg → α) : Option α := do
  fZero (bitsAt w.mod 2 2); let full ← mFull w.mod; let f ← fE w.c
  some (k w.hdr (bitAt w.mod 7) (bitAt w.mod 6) full (bitAt w.mod 0) (bitAt w.mod 1) f w.d w.a w.b)
def dMXDQ (w : FWord) (k : Hdr → Bool → Bool → Bool → MxFmt → VReg → VReg → VReg → α) : Option α := do
  fZero (bitsAt w.mod 6 2); fZero (bitsAt w.mod 2 2); let full ← mFull w.mod; let f ← fE w.c
  some (k w.hdr full (bitAt w.mod 0) (bitAt w.mod 1) f w.d w.a w.b)
def dVRFL (w : FWord) (k : Hdr → Bool → SReg → VReg → α) : Option α := do
  let x ← mW w.mod; let d ← fS w.d; fNone w.b; fNone w.c
  some (k w.hdr x d w.a)
def dVRLN (w : FWord) (k : Hdr → Bool → SReg → VReg → SReg → α) : Option α := do
  let x ← mW w.mod; let d ← fS w.d; let b ← fS w.b; fNone w.c
  some (k w.hdr x d w.a b)
def dVWLN (w : FWord) (k : Hdr → Bool → VReg → SReg → SReg → α) : Option α := do
  let x ← mW w.mod; let a ← fS w.a; let b ← fS w.b; fNone w.c
  some (k w.hdr x w.d a b)
def dVBCST (w : FWord) (k : Hdr → Bool → VReg → VReg → SReg → α) : Option α := do
  let x ← mW w.mod; let b ← fS w.b; fNone w.c
  some (k w.hdr x w.d w.a b)
def dVSHFL (w : FWord) (k : Hdr → Bool → Bool → VReg → VReg → VReg → α) : Option α := do
  fZero (bitsAt w.mod 7 1); fZero (bitsAt w.mod 5 1); fZero (bitsAt w.mod 0 4); fNone w.c
  some (k w.hdr (bitAt w.mod 6) (bitAt w.mod 4) w.d w.a w.b)
def dVROT (w : FWord) (k : Hdr → Bool → BitVec 2 → VReg → VReg → SReg → α) : Option α := do
  fZero (bitsAt w.mod 7 1); fZero (bitsAt w.mod 0 4); let b ← fS w.b; fNone w.c
  some (k w.hdr (bitAt w.mod 6) (bitsAt w.mod 4 2) w.d w.a b)
def dVRED (w : FWord) (k : Hdr → RTy → ROp → Bool → VReg → VReg → α) : Option α := do
  fZero (bitsAt w.mod 1 1); let op ← ROp.ofCode (bitsAt w.mod 2 3); fNone w.b; fNone w.c
  some (k w.hdr (RTy.ofCode (bitsAt w.mod 5 3)) op (bitAt w.mod 0) w.d w.a)
def dVVOTE (w : FWord) (k : Hdr → Vote → PReg → PReg → α) : Option α := do
  fZero (bitsAt w.mod 2 6); let m ← Vote.ofCode (bitsAt w.mod 0 2); let d ← fP w.d; let a ← fP w.a; fNone w.b; fNone w.c
  some (k w.hdr m d a)
def dVLANE (w : FWord) (k : Hdr → Bool → VReg → α) : Option α := do
  fZero (bitsAt w.mod 1 7); fNone w.a; fNone w.b; fNone w.c
  some (k w.hdr (bitAt w.mod 0) w.d)
def dBGET (w : FWord) (k : Hdr → Bool → VReg → VReg → α) : Option α := do
  let x ← mW w.mod; fNone w.b; fNone w.c
  some (k w.hdr x w.d w.a)
def dBCLR (w : FWord) (k : Hdr → Bool → VReg → α) : Option α := do
  let x ← mW w.mod; fNone w.a; fNone w.b; fNone w.c
  some (k w.hdr x w.d)
def dBMAXR (w : FWord) (k : Hdr → Bool → VReg → VReg → VReg → α) : Option α := do
  let x ← mW w.mod; fNone w.c
  some (k w.hdr x w.d w.a w.b)
def dBCHK (w : FWord) (k : Hdr → FTy → ChkKind → PReg → VReg → α) : Option α := do
  fZero (bitsAt w.mod 2 4); let p ← fP w.d; fNone w.b; fNone w.c
  some (k w.hdr (FTy.ofCode (bitsAt w.mod 6 2)) (ChkKind.ofCode (bitsAt w.mod 0 2)) p w.a)
def dU_A (w : FWord) (k : Hdr → SReg → α) : Option α := do
  fZero w.mod; fNone w.d; let a ← fS w.a; fNone w.b; fNone w.c
  some (k w.hdr a)
def dU_D (w : FWord) (k : Hdr → SReg → α) : Option α := do
  fZero w.mod; let d ← fS w.d; fNone w.a; fNone w.b; fNone w.c
  some (k w.hdr d)
def dU_DA (w : FWord) (k : Hdr → SReg → SReg → α) : Option α := do
  fZero w.mod; let d ← fS w.d; let a ← fS w.a; fNone w.b; fNone w.c
  some (k w.hdr d a)
def dU_AB (w : FWord) (k : Hdr → SReg → SReg → α) : Option α := do
  fZero w.mod; fNone w.d; let a ← fS w.a; let b ← fS w.b; fNone w.c
  some (k w.hdr a b)
def dMMA (w : FWord) (k : Hdr → Tier → Bool → AReg → TReg → TReg → JReg → α) : Option α := do
  fZero (bitsAt w.mod 6 2); fZero (bitsAt w.mod 1 3)
  let d ← fA w.d; let a ← fT w.a; let b ← fT w.b; let j ← fJ w.c
  some (k w.hdr (Tier.ofCode (bitsAt w.mod 4 2)) (bitAt w.mod 0) d a b j)
def dA_D (w : FWord) (k : Hdr → AReg → α) : Option α := do
  fZero w.mod; let d ← fA w.d; fNone w.a; fNone w.b; fNone w.c
  some (k w.hdr d)
def dACCMOV (w : FWord) (k : Hdr → VReg → AReg → SReg → α) : Option α := do
  fZero w.mod; let a ← fA w.a; let b ← fS w.b; fNone w.c
  some (k w.hdr w.d a b)
def dACCBND (w : FWord) (k : Hdr → VReg → AReg → α) : Option α := do
  fZero w.mod; let a ← fA w.a; fNone w.b; fNone w.c
  some (k w.hdr w.d a)
def dACCSPILL (w : FWord) (k : Hdr → AReg → SReg → α) : Option α := do
  fZero w.mod; fNone w.d; let a ← fA w.a; let b ← fS w.b; fNone w.c
  some (k w.hdr a b)
def dACCFILL (w : FWord) (k : Hdr → Bool → BitVec 2 → AReg → SReg → α) : Option α := do
  fZero (bitsAt w.mod 3 5); let d ← fA w.d; let a ← fS w.a; fNone w.b; fNone w.c
  some (k w.hdr (bitAt w.mod 2) (bitsAt w.mod 0 2) d a)
def dTCFG (w : FWord) (k : Hdr → TReg → SReg → α) : Option α := do
  fZero w.mod; let d ← fT w.d; let a ← fS w.a; fNone w.b; fNone w.c
  some (k w.hdr d a)
def dT_D (w : FWord) (k : Hdr → TReg → α) : Option α := do
  fZero w.mod; let d ← fT w.d; fNone w.a; fNone w.b; fNone w.c
  some (k w.hdr d)
def dJDECL (w : FWord) (k : Hdr → JReg → SReg → α) : Option α := do
  fZero w.mod; let d ← fJ w.d; let a ← fS w.a; fNone w.b; fNone w.c
  some (k w.hdr d a)
def dJSIGN (w : FWord) (k : Hdr → JReg → PReg → α) : Option α := do
  fZero w.mod; let d ← fJ w.d; let a ← fP w.a; fNone w.b; fNone w.c
  some (k w.hdr d a)
def dJ_D (w : FWord) (k : Hdr → JReg → α) : Option α := do
  fZero w.mod; let d ← fJ w.d; fNone w.a; fNone w.b; fNone w.c
  some (k w.hdr d)
def dROW2 (w : FWord) (k : Hdr → SReg → SReg → SReg → α) : Option α := do
  fZero w.mod; let d ← fS w.d; let a ← fS w.a; fNone w.b; let c ← fS w.c
  some (k w.hdr d a c)
def dROW3 (w : FWord) (k : Hdr → SReg → SReg → SReg → SReg → α) : Option α := do
  fZero w.mod; let d ← fS w.d; let a ← fS w.a; let b ← fS w.b; let c ← fS w.c
  some (k w.hdr d a b c)
def dBRX (w : FWord) (k : Hdr → BitVec 8 → VReg → α) : Option α := do
  fNone w.d; fNone w.b; fNone w.c
  some (k w.hdr w.mod w.a)
def noFields (w : FWord) : Option Unit := do
  fNone w.d; fNone w.a; fNone w.b; fNone w.c
def dNONE (w : FWord) (k : Hdr → α) : Option α := do
  fZero w.mod; noFields w
  some (k w.hdr)
def dPRIO (w : FWord) (k : Hdr → BitVec 8 → α) : Option α := do
  noFields w
  some (k w.hdr w.mod)
def dMFSR (w : FWord) (k : Hdr → SReg → BitVec 10 → α) : Option α := do
  fZero w.mod; let d ← fS w.d; fNone w.b; fNone w.c
  some (k w.hdr d w.a)
def dMTSR (w : FWord) (k : Hdr → BitVec 10 → SReg → α) : Option α := do
  fZero w.mod; let a ← fS w.a; fNone w.b; fNone w.c
  some (k w.hdr w.d a)
def dFENCE (w : FWord) (k : Hdr → Bool → Scope → α) : Option α := do
  fZero (bitsAt w.mod 5 3); noFields w
  let sc ← match (bitsAt w.mod 3 2).toNat with | 1 => some false | 2 => some true | _ => none
  let s ← Scope.ofCode (bitsAt w.mod 0 3)
  some (k w.hdr sc s)
def dSBAR (w : FWord) (k : Hdr → SbarLevel → BitVec 5 → PReg → α) : Option α := do
  let l ← SbarLevel.ofCode (bitsAt w.mod 0 3); fNone w.d; let a ← fP w.a; fNone w.b; fNone w.c
  some (k w.hdr l (bitsAt w.mod 3 5) a)
def dCACHE (w : FWord) (k0 k1 k2 : Hdr → SReg → α) : Option α := do
  fZero (bitsAt w.mod 2 6); fNone w.d; let a ← fS w.a; fNone w.b; fNone w.c
  match (bitsAt w.mod 0 2).toNat with
  | 0 => some (k0 w.hdr a)
  | 1 => some (k1 w.hdr a)
  | 2 => some (k2 w.hdr a)
  | _ => none

def dBRA (w : IWord) (k : Hdr → BitVec 8 → BitVec 32 → α) : Option α := do
  fNone w.d
  some (k w.hdr w.mod w.imm)
def dBRC (w : IWord) (k : Hdr → BitVec 8 → PReg → BitVec 32 → α) : Option α := do
  let p ← fP w.d
  some (k w.hdr w.mod p w.imm)
def dCALL (w : IWord) (k : Hdr → BitVec 8 → VReg → BitVec 32 → α) : Option α :=
  some (k w.hdr w.mod w.d w.imm)
def dIMM (w : IWord) (k : Hdr → BitVec 32 → α) : Option α := do
  fNone w.d; fZero w.mod
  some (k w.hdr w.imm)
def dSI (w : IWord) (k : Hdr → SReg → BitVec 32 → α) : Option α := do
  let d ← fS w.d; fZero w.mod
  some (k w.hdr d w.imm)
def dSCMPI (w : IWord) (k : Hdr → ICond → PReg → SReg → BitVec 32 → α) : Option α := do
  let c ← ICond.ofCode (bitsAt w.mod 0 4); let a ← fS w.d
  some (k w.hdr c (bitsAt w.mod 4 4) a w.imm)
def dVI (w : IWord) (k : Hdr → VReg → BitVec 32 → α) : Option α := do
  fZero w.mod
  some (k w.hdr w.d w.imm)
def dMTSRI (w : IWord) (k : Hdr → BitVec 10 → BitVec 32 → α) : Option α := do
  fZero w.mod
  some (k w.hdr w.d w.imm)
def dBUDI (w : IWord) (k : Hdr → BitVec 16 → α) : Option α := do
  fNone w.d; fZero w.mod; fZero (bitsAt w.imm 16 16)
  some (k w.hdr (bitsAt w.imm 0 16))

def dLD (w : MWord) (k : Hdr → MemOp → Sz → VReg → α) : Option α := do
  let m ← mMem w; let z ← Sz.ofCode w.sz
  some (k w.hdr m z w.d)
def dLDU (w : MWord) (k : Hdr → MemOp → Sz → SReg → α) : Option α := do
  let m ← mMem w; let z ← Sz.ofCode w.sz; let d ← fS w.d
  some (k w.hdr m z d)
def dPREF (w : MWord) (k : Hdr → MemOp → α) : Option α := do
  let m ← mMem w; fZero w.sz; fNone w.d
  some (k w.hdr m)
/-- The level field of an atomic is its return field: 0 returns, 1 does not (R103, R183). -/
def dATOM (w : MWord) (k : Hdr → MemOp → ATy → Bool → VReg → α) : Option α := do
  let m ← mMem w; let t ← ATy.ofCode w.sz; fZero (bitsAt w.pol 6 1)
  some (k w.hdr ⟨.near, m.order, m.scope, m.sa, m.vb, m.off⟩ t (!bitAt w.pol 5) w.d)
def dLDV (w : MWord) (k : Hdr → MemOp → VReg → α) : Option α := do
  let m ← mMem w; if w.sz = 5#3 then some (k w.hdr m w.d) else none
def dRECON (w : MWord) (k : Hdr → MemOp → ReconOp → VReg → α) : Option α := do
  let m ← mMem w; fZero (bitsAt w.pol 6 1); let op ← ReconOp.ofCode (bitsAt w.pol 5 1 ++ w.sz)
  some (k w.hdr ⟨.near, m.order, m.scope, m.sa, m.vb, m.off⟩ op w.d)
/-- The fields every barrier word fixes: VB none, SZ 0 (R194). -/
def barFields (w : MWord) : Option Unit := do
  fNone w.vb; fZero w.sz
def dBARINIT (w : MWord) (k : Hdr → Scope → SReg → SReg → BitVec 13 → α) : Option α := do
  barFields w; fZero (bitsAt w.pol 3 4); let s ← Scope.ofCode (bitsAt w.pol 0 3); let d ← fS w.d
  some (k w.hdr s d w.sa w.off)
def dBARP (w : MWord) (k : Hdr → PReg → SReg → BitVec 13 → α) : Option α := do
  barFields w; fZero w.pol; let d ← fP w.d
  some (k w.hdr d w.sa w.off)
def dBARS (w : MWord) (k : Hdr → SReg → SReg → BitVec 13 → α) : Option α := do
  barFields w; fZero w.pol; let d ← fS w.d
  some (k w.hdr d w.sa w.off)
def dTLD (w : MWord) (k : Hdr → MemOp → TReg → α) : Option α := do
  let m ← mMem w; fZero w.sz; let d ← fT w.d
  some (k w.hdr m d)
def dACCLD (w : MWord) (k : Hdr → MemOp → AReg → α) : Option α := do
  let m ← mMem w; fZero w.sz; let d ← fA w.d
  some (k w.hdr m d)
/-- ACCST: SZ 0 plain, 1 add (R109, R212). -/
def dACCST (w : MWord) (k0 k1 : Hdr → MemOp → AReg → α) : Option α := do
  let m ← mMem w; let d ← fA w.d
  match w.sz.toNat with
  | 0 => some (k0 w.hdr m d)
  | 1 => some (k1 w.hdr m d)
  | _ => none
def dCPYKICK (w : MWord) (k : Hdr → BitVec 2 → Scope → SReg → SReg → BitVec 13 → α) : Option α := do
  fNone w.vb; fZero (bitsAt w.pol 3 4); let s ← Scope.ofCode (bitsAt w.pol 0 3); fZero (bitsAt w.sz 2 1); let d ← fS w.d
  some (k w.hdr (bitsAt w.sz 0 2) s d w.sa w.off)

end Shapes

/-- A listed opcode whose operand fields decode or break R96 to R105. -/
def word (x : Option Instr) : Except DecodeError Instr :=
  match x with
  | some i => if i.legal then .ok i else .error .illegalOperand
  | none => .error .illegalOperand
/-- A listed opcode that must carry S = 1 (R29, R106); the last word that a run may have behaves as if it did (`Run.behaves`, R27). -/
def ctl (s : Bool) (x : Option Instr) : Except DecodeError Instr := if s then word x else .error .runControl

/-- The F-form map (R107). -/
def decodeF (w : FWord) : Except DecodeError Instr :=
  match w.op.toNat with
  | 0x000 => word (dS3 w .sadd)
  | 0x001 => word (dS3 w .ssub)
  | 0x002 => word (dS3 w .smul)
  | 0x003 => word (dS3 w .smulh)
  | 0x004 => word (dS4 w .smad)
  | 0x005 => word (dS3 w .sand)
  | 0x006 => word (dS3 w .sor)
  | 0x007 => word (dS3 w .sxor)
  | 0x008 => word (dS2 w .snot)
  | 0x009 => word (dS3 w .sshl)
  | 0x00A => word (dS3 w .sshr)
  | 0x00B => word (dS3 w .ssar)
  | 0x00C => word (dS3 w .smin)
  | 0x00D => word (dS3 w .smax)
  | 0x00E => word (dSCMP w .scmp)
  | 0x00F => word (dS4 w .ssel)
  | 0x010 => word (dS2 w .smov)
  | 0x011 => word (dS2 w .sclz)
  | 0x012 => word (dS2 w .spopc)
  | 0x013 => word (dS3 w .sbfe)
  | 0x040 => word (dP3 w .pand)
  | 0x041 => word (dP3 w .por)
  | 0x042 => word (dP3 w .pxor)
  | 0x043 => word (dP3 w .pandn)
  | 0x044 => word (dP2 w .pnot)
  | 0x045 => word (dP2 w .pmov)
  | 0x046 => word (dPSET w .pset)
  | 0x047 => word (dPGET w .pget)
  | 0x048 => word (dPGET w .ppopc)
  | 0x049 => word (dPGET w .pfirst)
  | 0x060 => word (dV3 w .vadd)
  | 0x061 => word (dV3 w .vsub)
  | 0x062 => word (dV3 w .vmul)
  | 0x063 => word (dV3 w .vmulh)
  | 0x064 => word (dV4 w .vmad)
  | 0x065 => word (dV2 w .vabs)
  | 0x066 => word (dV2 w .vneg)
  | 0x067 => word (dV3 w .vmin)
  | 0x068 => word (dV3 w .vmax)
  | 0x069 => word (dV3 w .vand)
  | 0x06A => word (dV3 w .vor)
  | 0x06B => word (dV3 w .vxor)
  | 0x06C => word (dV2 w .vnot)
  | 0x06D => word (dV3 w .vshl)
  | 0x06E => word (dV3 w .vshr)
  | 0x06F => word (dV3 w .vsar)
  | 0x070 => word (dV2 w .vclz)
  | 0x071 => word (dV2 w .vpopc)
  | 0x072 => word (dV3 w .vbfe)
  | 0x073 => word (dV4 w .vbfi)
  | 0x074 => word (dVCMP w .vcmp)
  | 0x075 => word (dVSEL w .vsel)
  | 0x076 => word (dV2 w .vmov)
  | 0x0A0 => word (dF3 w .fadd)
  | 0x0A1 => word (dF3 w .fsub)
  | 0x0A2 => word (dF3 w .fmul)
  | 0x0A3 => word (dFFMA w .ffma)
  | 0x0A4 => word (dF3 w .fmin)
  | 0x0A5 => word (dF3 w .fmax)
  | 0x0A6 => word (dF2 w .fabs)
  | 0x0A7 => word (dF2 w .fneg)
  | 0x0A8 => word (dFCMP w .fcmp)
  | 0x0A9 => word (dFCLASS w .fclass)
  | 0x0AA => word (dF2 w .frcp)
  | 0x0AB => word (dF2 w .frsq)
  | 0x0AC => word (dF2 w .fsqrt)
  | 0x0AD => word (dF3 w .fdiv)
  | 0x0AE => word (dF2 w .fexp2)
  | 0x0AF => word (dF2 w .flog2)
  | 0x0B0 => word (dF3 w .fldexp)
  | 0x0B1 => word (dF2 w .frnd)
  | 0x0E0 => word (dCVT w .cvt)
  | 0x0E1 => word (dCVT w .cvtpk)
  | 0x0E2 => word (dMXSCALE w .mxscale)
  | 0x0E3 => word (dMXQ w .mxq)
  | 0x0E4 => word (dMXDQ w .mxdq)
  | 0x0F0 => word (dVRFL w .vrfl)
  | 0x0F1 => word (dVRLN w .vrln)
  | 0x0F2 => word (dVWLN w .vwln)
  | 0x0F3 => word (dVBCST w .vbcst)
  | 0x0F4 => word (dVSHFL w .vshfl)
  | 0x0F5 => word (dVROT w .vrot)
  | 0x0F6 => word (dVRED w .vred)
  | 0x0F7 => word (dVRED w .vscan)
  | 0x0F8 => word (dVVOTE w .vvote)
  | 0x0F9 => word (dVLANE w .vlane)
  | 0x110 => word (dBGET w .bget)
  | 0x111 => word (dBGET w .bset)
  | 0x112 => word (dBCLR w .bclr)
  | 0x113 => word (dBMAXR w .bmaxr)
  | 0x114 => word (dBCLR w .bunb)
  | 0x115 => word (dBCHK w .bchk)
  | 0x116 => word (dU_A w .bud)
  | 0x120 => ctl w.s (dMMA w .mma)
  | 0x121 => word (dA_D w .accz)
  | 0x122 => word (dACCMOV w .accmov)
  | 0x123 => word (dACCBND w .accbnd)
  | 0x124 => word (dACCSPILL w .accspill)
  | 0x125 => word (dACCFILL w .accfill)
  | 0x126 => word (dTCFG w .tcfg)
  | 0x127 => word (dT_D w .tzero)
  | 0x128 => word (dJDECL w .jdecl)
  | 0x129 => word (dJSIGN w .jsign)
  | 0x12A => ctl w.s (dJ_D w .jwait)
  | 0x12B => word (dU_A w .keydrop)
  | 0x12C => word (dU_DA w .keyq)
  | 0x140 => word (dROW2 w .rowcpy)
  | 0x141 => word (dROW2 w .rowfil)
  | 0x142 => word (dROW3 w .rowand)
  | 0x143 => word (dROW3 w .rowor)
  | 0x144 => word (dROW3 w .rowxor)
  | 0x145 => word (dROW2 w .rownot)
  | 0x146 => word (dROW3 w .rowmaj)
  | 0x147 => word (dROW2 w .rowrdx)
  | 0x148 => word (dU_DA w .rowstat)
  | 0x160 => ctl w.s (dBRX w .brx)
  | 0x161 => ctl w.s (dBRX w .ret)
  | 0x162 => ctl w.s (dNONE w .exit)
  | 0x163 => word (dNONE w .nop)
  | 0x164 => ctl w.s (dNONE w .reconv)
  | 0x165 => word (dPRIO w .prio)
  | 0x166 => ctl w.s (dNONE w .yield)
  | 0x167 => ctl w.s (dNONE w .rft)
  | 0x168 => word (dMFSR w .mfsr)
  | 0x169 => word (dMTSR w .mtsr)
  | 0x16A => word (dU_D w .firnrd)
  | 0x16B => ctl w.s (dU_A w .lwait)
  | 0x16C => word (dU_AB w .seed)
  | 0x16D => word (dNONE w .halt)
  | 0x16E => ctl w.s (dPRIO w .bkpt)
  | 0x16F => word (dU_A w .frsave)
  | 0x170 => word (dU_A w .frload)
  | 0x171 => word (dU_DA w .cpystat)
  | 0x172 => word (dU_A w .cpycan)
  | 0x173 => word (dFENCE w .fence)
  | 0x174 => word (dCACHE w .cacheDrop .cacheClean .cacheInval)
  | 0x175 => word (dSBAR w .sbar)
  | _ => .error .illegalOpcode

/-- The I-form map (R108). -/
def decodeI (w : IWord) : Except DecodeError Instr :=
  match w.op.toNat with
  | 0x00 => ctl w.s (dBRA w .bra)
  | 0x01 => ctl w.s (dBRC w .brc)
  | 0x02 => ctl w.s (dCALL w .call)
  | 0x03 => ctl w.s (dIMM w .trap)
  | 0x04 => word (dIMM w .sleep)
  | 0x10 => word (dSI w .smovi)
  | 0x11 => word (dSI w .smovih)
  | 0x12 => word (dSI w .saddi)
  | 0x13 => word (dSI w .sandi)
  | 0x14 => word (dSI w .sori)
  | 0x15 => word (dSI w .sxori)
  | 0x16 => word (dSI w .sshli)
  | 0x17 => word (dSI w .sshri)
  | 0x18 => word (dSI w .ssari)
  | 0x19 => word (dSCMPI w .scmpi)
  | 0x1A => word (dSI w .smuli)
  | 0x30 => word (dVI w .vmovi)
  | 0x31 => word (dVI w .vaddi)
  | 0x32 => word (dVI w .vandi)
  | 0x33 => word (dVI w .vori)
  | 0x34 => word (dVI w .vshli)
  | 0x35 => word (dVI w .vshri)
  | 0x36 => word (dVI w .fmovi)
  | 0x40 => word (dMTSRI w .mtsri)
  | 0x41 => word (dBUDI w .budi)
  | _ => .error .illegalOpcode

/-- The M-form map (R109). -/
def decodeM (w : MWord) : Except DecodeError Instr :=
  match w.op.toNat with
  | 0x00 => word (dLD w .ld)
  | 0x01 => word (dLD w .st)
  | 0x02 => word (dLDU w .ldu)
  | 0x03 => word (dLDU w .stu)
  | 0x04 => word (dPREF w .pref)
  | 0x05 => word (dLDU w .ldsp)
  | 0x08 => word (dLD w .lds)
  | 0x09 => word (dLD w .sts)
  | 0x10 => word (dATOM w .atomAdd)
  | 0x11 => word (dATOM w .atomSub)
  | 0x12 => word (dATOM w .atomMin)
  | 0x13 => word (dATOM w .atomMax)
  | 0x14 => word (dATOM w .atomAnd)
  | 0x15 => word (dATOM w .atomOr)
  | 0x16 => word (dATOM w .atomXor)
  | 0x17 => word (dATOM w .atomXchg)
  | 0x18 => word (dATOM w .atomCas)
  | 0x20 => word (dATOM w .atomsAdd)
  | 0x21 => word (dATOM w .atomsSub)
  | 0x22 => word (dATOM w .atomsMin)
  | 0x23 => word (dATOM w .atomsMax)
  | 0x24 => word (dATOM w .atomsAnd)
  | 0x25 => word (dATOM w .atomsOr)
  | 0x26 => word (dATOM w .atomsXor)
  | 0x27 => word (dATOM w .atomsXchg)
  | 0x28 => word (dATOM w .atomsCas)
  | 0x30 => word (dLDV w .ldv)
  | 0x31 => word (dLDV w .stv)
  | 0x32 => word (dRECON w .recon)
  | 0x38 => word (dBARINIT w .barinit)
  | 0x39 => word (dBARP w .bararr)
  | 0x3A => word (dBARS w .barexp)
  | 0x3B => ctl w.s (dBARS w .barwait)
  | 0x3C => word (dBARS w .bartest)
  | 0x3D => word (dBARP w .bardrop)
  | 0x40 => word (dTLD w .tld)
  | 0x41 => word (dTLD w .tst)
  | 0x42 => word (dTLD w .tldk)
  | 0x43 => word (dACCLD w .accld)
  | 0x44 => word (dACCST w .accst .accstAdd)
  | 0x45 => word (dBARS w .keycut)
  | 0x48 => word (dCPYKICK w .cpykick)
  | _ => .error .illegalOpcode

/-- Slot fields by file (R99). -/
def slotV (w : SlotWord) (k : ITy → VReg → VReg → Slot) : Option Slot := do
  fZero (bitsAt w.mod3 0 1)
  some (k (ITy.ofCode (bitsAt w.mod3 1 2)) w.d w.a)
def slotF (w : SlotWord) (k : FTy → Bool → VReg → VReg → Slot) : Option Slot :=
  some (k (FTy.ofCode (bitsAt w.mod3 1 2)) (bitAt w.mod3 0) w.d w.a)
def slotS (w : SlotWord) (k : SReg → SReg → Slot) : Option Slot := do
  fZero w.mod3; let d ← fS w.d; let a ← fS w.a
  some (k d a)
def slotP (w : SlotWord) (k : PReg → PReg → Slot) : Option Slot := do
  fZero w.mod3; let d ← fP w.d; let a ← fP w.a
  some (k d a)

/-- The P-slot map (R110): the slot that an opcode and its fields name, where the opcode is listed. The inner option
is none where a field breaks its class (R99). -/
def decodeSlot (w : SlotWord) : Option (Option Slot) :=
  match w.op.toNat with
  | 0x00 => some (slotV w .vadd)
  | 0x01 => some (slotV w .vsub)
  | 0x02 => some (slotV w .vmul)
  | 0x03 => some (slotV w .vand)
  | 0x04 => some (slotV w .vor)
  | 0x05 => some (slotV w .vxor)
  | 0x06 => some (slotV w .vmin)
  | 0x07 => some (slotV w .vmax)
  | 0x08 => some (slotV w .vmov)
  | 0x09 => some (slotV w .vshl)
  | 0x0A => some (slotV w .vshr)
  | 0x10 => some (slotF w .fadd)
  | 0x11 => some (slotF w .fsub)
  | 0x12 => some (slotF w .fmul)
  | 0x13 => some (slotF w .fmin)
  | 0x14 => some (slotF w .fmax)
  | 0x20 => some (slotS w .sadd)
  | 0x21 => some (slotS w .ssub)
  | 0x22 => some (slotS w .sand)
  | 0x23 => some (slotS w .sor)
  | 0x24 => some (slotS w .sxor)
  | 0x25 => some (slotS w .smov)
  | 0x26 => some (slotS w .sshl)
  | 0x27 => some (slotS w .sshr)
  | 0x30 => some (slotP w .pand)
  | 0x31 => some (slotP w .por)
  | 0x32 => some (slotP w .pmov)
  | _ => none

/-- The file of a listed slot opcode (R110), as Slot.file numbers it. -/
def slotFile (op : BitVec 7) : Nat := if op.toNat < 0x20 then 0 else if op.toNat < 0x30 then 1 else 2

/-- The instruction of two decoded slots: it is named by slot 0 (R99). -/
def ofSlots (s : Bool) (x y : Slot) : Instr :=
  match x with
  | .vadd ty d a => .vaddSlot s ty d a y
  | .vsub ty d a => .vsubSlot s ty d a y
  | .vmul ty d a => .vmulSlot s ty d a y
  | .vand ty d a => .vandSlot s ty d a y
  | .vor ty d a => .vorSlot s ty d a y
  | .vxor ty d a => .vxorSlot s ty d a y
  | .vmin ty d a => .vminSlot s ty d a y
  | .vmax ty d a => .vmaxSlot s ty d a y
  | .vmov ty d a => .vmovSlot s ty d a y
  | .vshl ty d a => .vshlSlot s ty d a y
  | .vshr ty d a => .vshrSlot s ty d a y
  | .fadd ty full d a => .faddSlot s ty full d a y
  | .fsub ty full d a => .fsubSlot s ty full d a y
  | .fmul ty full d a => .fmulSlot s ty full d a y
  | .fmin ty full d a => .fminSlot s ty full d a y
  | .fmax ty full d a => .fmaxSlot s ty full d a y
  | .sadd d a => .saddSlot s d a y
  | .ssub d a => .ssubSlot s d a y
  | .sand d a => .sandSlot s d a y
  | .sor d a => .sorSlot s d a y
  | .sxor d a => .sxorSlot s d a y
  | .smov d a => .smovSlot s d a y
  | .sshl d a => .sshlSlot s d a y
  | .sshr d a => .sshrSlot s d a y
  | .pand d a => .pandSlot s d a y
  | .por d a => .porSlot s d a y
  | .pmov d a => .pmovSlot s d a y

/-- A P word (R99, R100, R106): Y and the slot opcodes first, then PAIR_BANK on the raw fields, then the operands. -/
def decodeP (w : Word) : Except DecodeError Instr :=
  let w0 := SlotWord.unpack (bitsAt w 0 30)
  let w1 := SlotWord.unpack (bitsAt w 30 30)
  match bitAt w 60, decodeSlot w0, decodeSlot w1 with
  | false, some x, some y =>
    if pairBank (slotFile w0.op) w0.d.toNat w0.a.toNat (slotFile w1.op) w1.d.toNat w1.a.toNat then .error .pairBank
    else word (match x, y with
      | some x, some y => some (ofSlots (bitAt w 63) x y)
      | _, _ => none)
  | _, _, _ => .error .illegalOpcode

/-- Every 64-bit word: its instruction, or the first cause of R106 that the word alone raises. -/
def decode (w : Word) : Except DecodeError Instr :=
  match (bitsAt w 61 2).toNat with
  | 0 => decodeF (FWord.unpack w)
  | 1 => decodeP w
  | 2 => decodeI (IWord.unpack w)
  | _ => decodeM (MWord.unpack w)

/-- The instruction the decoder reads from a word, as an option. -/
def decode? (w : Word) : Option Instr :=
  match decode w with
  | .ok i => some i
  | .error _ => none

/-- The little-endian word of eight bytes, byte 0 first (R6, R95). -/
def wordOfBytes (bs : List Byte) : Word := bs.foldr (fun b w => (w <<< 8) ||| b.setWidth 64) 0#64

/-- The eight bytes of a word as memory stores them, byte 0 first (R6, R95). -/
def bytesOfWord (w : Word) : List Byte := (List.range 8).map fun i => bitsAt w (8 * i) 8

/-- The table's numbering: bit 0 is the least significant bit of the first word. An instruction word is one 64-bit
word, so its bytes as stored are the table's bytes, and bits above nbits are zero. -/
def tableWord (nbits w : Nat) : Word := BitVec.ofNat 64 (w % 2 ^ (min nbits 64))

/-- The instruction the decoder reads from a word given in the table's numbering. -/
def decodeTableWord (nbits w : Nat) : Option Instr := decode? (wordOfBytes (bytesOfWord (tableWord nbits w)))

/-- An F word from its fields. -/
def encF (op : BitVec 9) (h : Hdr) (mod : BitVec 8) (d a b c : BitVec 10) : Option Word :=
  some (FWord.pack ⟨h.s, op, h.gn, h.gp, mod, d, a, b, c⟩)
/-- An I word from its fields. -/
def encI (op : BitVec 7) (h : Hdr) (d : BitVec 10) (mod : BitVec 8) (imm : BitVec 32) : Option Word :=
  some (IWord.pack ⟨h.s, op, h.gp, h.gn, d, mod, imm⟩)
/-- An M word from its fields. -/
def encM (op : BitVec 7) (h : Hdr) (d : BitVec 10) (m : MemOp) (pol : BitVec 7) (sz : BitVec 3) : Option Word :=
  some (MWord.pack ⟨h.s, op, h.gn, h.gp, d, m.sa, m.vb, pol, sz, m.off⟩)
/-- An M word with VB none. -/
def encB (op : BitVec 7) (h : Hdr) (d : BitVec 10) (sa : SReg) (off : BitVec 13) (pol : BitVec 7) (sz : BitVec 3) :
    Option Word :=
  some (MWord.pack ⟨h.s, op, h.gn, h.gp, d, sa, 0x3FF, pol, sz, off⟩)
/-- MOD3 of a typed slot (R99). -/
def encSlot (x : Slot) : BitVec 30 :=
  match x with
  | .vadd ty d a => SlotWord.pack ⟨0x00, ty.code ++ 0#1, d, a⟩
  | .vsub ty d a => SlotWord.pack ⟨0x01, ty.code ++ 0#1, d, a⟩
  | .vmul ty d a => SlotWord.pack ⟨0x02, ty.code ++ 0#1, d, a⟩
  | .vand ty d a => SlotWord.pack ⟨0x03, ty.code ++ 0#1, d, a⟩
  | .vor ty d a => SlotWord.pack ⟨0x04, ty.code ++ 0#1, d, a⟩
  | .vxor ty d a => SlotWord.pack ⟨0x05, ty.code ++ 0#1, d, a⟩
  | .vmin ty d a => SlotWord.pack ⟨0x06, ty.code ++ 0#1, d, a⟩
  | .vmax ty d a => SlotWord.pack ⟨0x07, ty.code ++ 0#1, d, a⟩
  | .vmov ty d a => SlotWord.pack ⟨0x08, ty.code ++ 0#1, d, a⟩
  | .vshl ty d a => SlotWord.pack ⟨0x09, ty.code ++ 0#1, d, a⟩
  | .vshr ty d a => SlotWord.pack ⟨0x0A, ty.code ++ 0#1, d, a⟩
  | .fadd ty full d a => SlotWord.pack ⟨0x10, ty.code ++ bit1 full, d, a⟩
  | .fsub ty full d a => SlotWord.pack ⟨0x11, ty.code ++ bit1 full, d, a⟩
  | .fmul ty full d a => SlotWord.pack ⟨0x12, ty.code ++ bit1 full, d, a⟩
  | .fmin ty full d a => SlotWord.pack ⟨0x13, ty.code ++ bit1 full, d, a⟩
  | .fmax ty full d a => SlotWord.pack ⟨0x14, ty.code ++ bit1 full, d, a⟩
  | .sadd d a => SlotWord.pack ⟨0x20, 0, reg10 d, reg10 a⟩
  | .ssub d a => SlotWord.pack ⟨0x21, 0, reg10 d, reg10 a⟩
  | .sand d a => SlotWord.pack ⟨0x22, 0, reg10 d, reg10 a⟩
  | .sor d a => SlotWord.pack ⟨0x23, 0, reg10 d, reg10 a⟩
  | .sxor d a => SlotWord.pack ⟨0x24, 0, reg10 d, reg10 a⟩
  | .smov d a => SlotWord.pack ⟨0x25, 0, reg10 d, reg10 a⟩
  | .sshl d a => SlotWord.pack ⟨0x26, 0, reg10 d, reg10 a⟩
  | .sshr d a => SlotWord.pack ⟨0x27, 0, reg10 d, reg10 a⟩
  | .pand d a => SlotWord.pack ⟨0x30, 0, reg10 d, reg10 a⟩
  | .por d a => SlotWord.pack ⟨0x31, 0, reg10 d, reg10 a⟩
  | .pmov d a => SlotWord.pack ⟨0x32, 0, reg10 d, reg10 a⟩
/-- A P word from its slots. -/
def encP (s : Bool) (x y : Slot) : Option Word := some (packPair s (encSlot y) (encSlot x))

/-- The word of an instruction, from the encoding tables of R95 to R110. An event has none. -/
def encode : Instr → Option Word
  | .bra h prio imm => encI 0x000 h unused prio imm
  | .brc h prio p imm => encI 0x001 h (reg10 p) prio imm
  | .call h prio d imm => encI 0x002 h d prio imm
  | .brx h prio a => encF 0x160 h prio unused a unused unused
  | .ret h prio a => encF 0x161 h prio unused a unused unused
  | .exit h => encF 0x162 h 0 unused unused unused unused
  | .nop h => encF 0x163 h 0 unused unused unused unused
  | .reconv h => encF 0x164 h 0 unused unused unused unused
  | .prio h n => encF 0x165 h n unused unused unused unused
  | .yield h => encF 0x166 h 0 unused unused unused unused
  | .sleep h imm => encI 0x004 h unused 0 imm
  | .sadd h m d a b => encF 0x000 h m.field (reg10 d) (reg10 a) (reg10 b) unused
  | .ssub h m d a b => encF 0x001 h m.field (reg10 d) (reg10 a) (reg10 b) unused
  | .smul h m d a b => encF 0x002 h m.field (reg10 d) (reg10 a) (reg10 b) unused
  | .smulh h m d a b => encF 0x003 h m.field (reg10 d) (reg10 a) (reg10 b) unused
  | .smad h m d a b c => encF 0x004 h m.field (reg10 d) (reg10 a) (reg10 b) (reg10 c)
  | .sand h m d a b => encF 0x005 h m.field (reg10 d) (reg10 a) (reg10 b) unused
  | .sor h m d a b => encF 0x006 h m.field (reg10 d) (reg10 a) (reg10 b) unused
  | .sxor h m d a b => encF 0x007 h m.field (reg10 d) (reg10 a) (reg10 b) unused
  | .snot h m d a => encF 0x008 h m.field (reg10 d) (reg10 a) unused unused
  | .sshl h m d a b => encF 0x009 h m.field (reg10 d) (reg10 a) (reg10 b) unused
  | .sshr h m d a b => encF 0x00A h m.field (reg10 d) (reg10 a) (reg10 b) unused
  | .ssar h m d a b => encF 0x00B h m.field (reg10 d) (reg10 a) (reg10 b) unused
  | .smin h m d a b => encF 0x00C h m.field (reg10 d) (reg10 a) (reg10 b) unused
  | .smax h m d a b => encF 0x00D h m.field (reg10 d) (reg10 a) (reg10 b) unused
  | .scmp h ty cond p a b => encF 0x00E h (ty.code ++ (0#2 ++ cond.code)) (reg10 p) (reg10 a) (reg10 b) unused
  | .ssel h m d a b c => encF 0x00F h m.field (reg10 d) (reg10 a) (reg10 b) (reg10 c)
  | .smov h m d a => encF 0x010 h m.field (reg10 d) (reg10 a) unused unused
  | .sclz h m d a => encF 0x011 h m.field (reg10 d) (reg10 a) unused unused
  | .spopc h m d a => encF 0x012 h m.field (reg10 d) (reg10 a) unused unused
  | .sbfe h m d a b => encF 0x013 h m.field (reg10 d) (reg10 a) (reg10 b) unused
  | .smovi h d imm => encI 0x010 h (reg10 d) 0 imm
  | .smovih h d imm => encI 0x011 h (reg10 d) 0 imm
  | .saddi h d imm => encI 0x012 h (reg10 d) 0 imm
  | .sandi h d imm => encI 0x013 h (reg10 d) 0 imm
  | .sori h d imm => encI 0x014 h (reg10 d) 0 imm
  | .sxori h d imm => encI 0x015 h (reg10 d) 0 imm
  | .sshli h d imm => encI 0x016 h (reg10 d) 0 imm
  | .sshri h d imm => encI 0x017 h (reg10 d) 0 imm
  | .ssari h d imm => encI 0x018 h (reg10 d) 0 imm
  | .smuli h d imm => encI 0x01A h (reg10 d) 0 imm
  | .scmpi h cond p a imm => encI 0x019 h (reg10 a) (p ++ cond.code) imm
  | .saddSlot s d a other => encP s (.sadd d a) other
  | .ssubSlot s d a other => encP s (.ssub d a) other
  | .sandSlot s d a other => encP s (.sand d a) other
  | .sorSlot s d a other => encP s (.sor d a) other
  | .sxorSlot s d a other => encP s (.sxor d a) other
  | .smovSlot s d a other => encP s (.smov d a) other
  | .sshlSlot s d a other => encP s (.sshl d a) other
  | .sshrSlot s d a other => encP s (.sshr d a) other
  | .pand h d a b => encF 0x040 h 0 (reg10 d) (reg10 a) (reg10 b) unused
  | .por h d a b => encF 0x041 h 0 (reg10 d) (reg10 a) (reg10 b) unused
  | .pxor h d a b => encF 0x042 h 0 (reg10 d) (reg10 a) (reg10 b) unused
  | .pandn h d a b => encF 0x043 h 0 (reg10 d) (reg10 a) (reg10 b) unused
  | .pnot h d a => encF 0x044 h 0 (reg10 d) (reg10 a) unused unused
  | .pmov h d a => encF 0x045 h 0 (reg10 d) (reg10 a) unused unused
  | .pset h d a => encF 0x046 h 0 (reg10 d) (reg10 a) unused unused
  | .pget h d a => encF 0x047 h 0 (reg10 d) (reg10 a) unused unused
  | .ppopc h d a => encF 0x048 h 0 (reg10 d) (reg10 a) unused unused
  | .pfirst h d a => encF 0x049 h 0 (reg10 d) (reg10 a) unused unused
  | .pandSlot s d a other => encP s (.pand d a) other
  | .porSlot s d a other => encP s (.por d a) other
  | .pmovSlot s d a other => encP s (.pmov d a) other
  | .vadd h m d a b => encF 0x060 h m.field d a.field b.field (classOf a.isS b.isS)
  | .vsub h m d a b => encF 0x061 h m.field d a.field b.field (classOf a.isS b.isS)
  | .vmul h m d a b => encF 0x062 h m.field d a.field b.field (classOf a.isS b.isS)
  | .vmulh h m d a b => encF 0x063 h m.field d a.field b.field (classOf a.isS b.isS)
  | .vmad h m d a b c => encF 0x064 h m.field d a b c
  | .vabs h m d a => encF 0x065 h m.field d a.field unused (classOf a.isS false)
  | .vneg h m d a => encF 0x066 h m.field d a.field unused (classOf a.isS false)
  | .vmin h m d a b => encF 0x067 h m.field d a.field b.field (classOf a.isS b.isS)
  | .vmax h m d a b => encF 0x068 h m.field d a.field b.field (classOf a.isS b.isS)
  | .vand h m d a b => encF 0x069 h m.field d a.field b.field (classOf a.isS b.isS)
  | .vor h m d a b => encF 0x06A h m.field d a.field b.field (classOf a.isS b.isS)
  | .vxor h m d a b => encF 0x06B h m.field d a.field b.field (classOf a.isS b.isS)
  | .vnot h m d a => encF 0x06C h m.field d a.field unused (classOf a.isS false)
  | .vshl h m d a b => encF 0x06D h m.field d a.field b.field (classOf a.isS b.isS)
  | .vshr h m d a b => encF 0x06E h m.field d a.field b.field (classOf a.isS b.isS)
  | .vsar h m d a b => encF 0x06F h m.field d a.field b.field (classOf a.isS b.isS)
  | .vclz h m d a => encF 0x070 h m.field d a.field unused (classOf a.isS false)
  | .vpopc h m d a => encF 0x071 h m.field d a.field unused (classOf a.isS false)
  | .vbfe h m d a b => encF 0x072 h m.field d a.field b.field (classOf a.isS b.isS)
  | .vbfi h m d a b c => encF 0x073 h m.field d a b c
  | .vcmp h ty cond p a b => encF 0x074 h (ty.code ++ (0#2 ++ cond.code)) (reg10 p) a.field b.field (classOf a.isS b.isS)
  | .vsel h ty d a b p => encF 0x075 h (IntMod.field ⟨ty, false⟩) d a b (reg10 p)
  | .vmov h m d a => encF 0x076 h m.field d a.field unused (classOf a.isS false)
  | .vmovi h d imm => encI 0x030 h d 0 imm
  | .vaddi h d imm => encI 0x031 h d 0 imm
  | .vandi h d imm => encI 0x032 h d 0 imm
  | .vori h d imm => encI 0x033 h d 0 imm
  | .vshli h d imm => encI 0x034 h d 0 imm
  | .vshri h d imm => encI 0x035 h d 0 imm
  | .fmovi h d imm => encI 0x036 h d 0 imm
  | .vaddSlot s ty d a other => encP s (.vadd ty d a) other
  | .vsubSlot s ty d a other => encP s (.vsub ty d a) other
  | .vmulSlot s ty d a other => encP s (.vmul ty d a) other
  | .vandSlot s ty d a other => encP s (.vand ty d a) other
  | .vorSlot s ty d a other => encP s (.vor ty d a) other
  | .vxorSlot s ty d a other => encP s (.vxor ty d a) other
  | .vminSlot s ty d a other => encP s (.vmin ty d a) other
  | .vmaxSlot s ty d a other => encP s (.vmax ty d a) other
  | .vmovSlot s ty d a other => encP s (.vmov ty d a) other
  | .vshlSlot s ty d a other => encP s (.vshl ty d a) other
  | .vshrSlot s ty d a other => encP s (.vshr ty d a) other
  | .fadd h m d a b => encF 0x0A0 h (m.field false) d a.field b.field (classOf a.isS b.isS)
  | .fsub h m d a b => encF 0x0A1 h (m.field false) d a.field b.field (classOf a.isS b.isS)
  | .fmul h m d a b => encF 0x0A2 h (m.field false) d a.field b.field (classOf a.isS b.isS)
  | .ffma h m nc d a b c => encF 0x0A3 h (m.field nc) d a b c
  | .fmin h m d a b => encF 0x0A4 h (m.field false) d a.field b.field (classOf a.isS b.isS)
  | .fmax h m d a b => encF 0x0A5 h (m.field false) d a.field b.field (classOf a.isS b.isS)
  | .fabs h m d a => encF 0x0A6 h (m.field false) d a.field unused (classOf a.isS false)
  | .fneg h m d a => encF 0x0A7 h (m.field false) d a.field unused (classOf a.isS false)
  | .fcmp h ty full cond p a b => encF 0x0A8 h (ty.code ++ (fullField full ++ cond.code)) (reg10 p) a.field b.field (classOf a.isS b.isS)
  | .fclass h ty full d a => encF 0x0A9 h (ty.code ++ (fullField full ++ 0#4)) d a.field unused (classOf a.isS false)
  | .fdiv h m d a b => encF 0x0AD h (m.field false) d a.field b.field (classOf a.isS b.isS)
  | .fsqrt h m d a => encF 0x0AC h (m.field false) d a.field unused (classOf a.isS false)
  | .frcp h m d a => encF 0x0AA h (m.field false) d a.field unused (classOf a.isS false)
  | .frsq h m d a => encF 0x0AB h (m.field false) d a.field unused (classOf a.isS false)
  | .fexp2 h m d a => encF 0x0AE h (m.field false) d a.field unused (classOf a.isS false)
  | .flog2 h m d a => encF 0x0AF h (m.field false) d a.field unused (classOf a.isS false)
  | .fldexp h m d a b => encF 0x0B0 h (m.field false) d a.field b.field (classOf a.isS b.isS)
  | .frnd h m d a => encF 0x0B1 h (m.field false) d a.field unused (classOf a.isS false)
  | .faddSlot s ty full d a other => encP s (.fadd ty full d a) other
  | .fsubSlot s ty full d a other => encP s (.fsub ty full d a) other
  | .fmulSlot s ty full d a other => encP s (.fmul ty full d a) other
  | .fminSlot s ty full d a other => encP s (.fmin ty full d a) other
  | .fmaxSlot s ty full d a other => encP s (.fmax ty full d a) other
  | .cvt h m dst src d a => encF 0x0E0 h m.field d a.field (src.code ++ dst.code) (classOf a.isS false)
  | .cvtpk h m dst src d a => encF 0x0E1 h m.field d a.field (src.code ++ dst.code) (classOf a.isS false)
  | .mxscale h full fmt d a => encF 0x0E2 h (0#2 ++ (fullField full ++ 0#4)) d a unused (0#5 ++ fmt.code)
  | .mxq h sr sat full q pack fmt d a b => encF 0x0E3 h (bit1 sr ++ (bit1 sat ++ (fullField full ++ (0#2 ++ (bit1 pack ++ bit1 q))))) d a b (0#5 ++ fmt.code)
  | .mxdq h full q pack fmt d a b => encF 0x0E4 h (0#2 ++ (fullField full ++ (0#2 ++ (bit1 pack ++ bit1 q)))) d a b (0#5 ++ fmt.code)
  | .vrfl h w d a => encF 0x0F0 h (wField w) (reg10 d) a unused unused
  | .vrln h w d a b => encF 0x0F1 h (wField w) (reg10 d) a (reg10 b) unused
  | .vwln h w d a b => encF 0x0F2 h (wField w) d (reg10 a) (reg10 b) unused
  | .vbcst h w d a b => encF 0x0F3 h (wField w) d a (reg10 b) unused
  | .vshfl h w xor d a b => encF 0x0F4 h (0#1 ++ (bit1 w ++ (0#1 ++ (bit1 xor ++ 0#4)))) d a b unused
  | .vrot h w g d a b => encF 0x0F5 h (0#1 ++ (bit1 w ++ (g ++ 0#4))) d a (reg10 b) unused
  | .vred h ty op q d a => encF 0x0F6 h (ty.code ++ (op.code ++ (0#1 ++ bit1 q))) d a unused unused
  | .vscan h ty op q d a => encF 0x0F7 h (ty.code ++ (op.code ++ (0#1 ++ bit1 q))) d a unused unused
  | .vvote h mode d a => encF 0x0F8 h (0#6 ++ mode.code) (reg10 d) (reg10 a) unused unused
  | .vlane h gid d => encF 0x0F9 h (0#7 ++ bit1 gid) d unused unused unused
  | .bget h w d a => encF 0x110 h (wField w) d a unused unused
  | .bset h w d a => encF 0x111 h (wField w) d a unused unused
  | .bclr h w d => encF 0x112 h (wField w) d unused unused unused
  | .bunb h w d => encF 0x114 h (wField w) d unused unused unused
  | .bmaxr h w d a b => encF 0x113 h (wField w) d a b unused
  | .bchk h ty kind p a => encF 0x115 h (ty.code ++ (0#4 ++ kind.code)) (reg10 p) a unused unused
  | .bud h a => encF 0x116 h 0 unused (reg10 a) unused unused
  | .budi h imm => encI 0x041 h unused 0 (0#16 ++ imm)
  | .ld h m sz d => encM 0x000 h d m (m.pol m.level.code) sz.code
  | .st h m sz d => encM 0x001 h d m (m.pol m.level.code) sz.code
  | .ldu h m sz d => encM 0x002 h (reg10 d) m (m.pol m.level.code) sz.code
  | .stu h m sz d => encM 0x003 h (reg10 d) m (m.pol m.level.code) sz.code
  | .lds h m sz d => encM 0x008 h d m (m.pol m.level.code) sz.code
  | .sts h m sz d => encM 0x009 h d m (m.pol m.level.code) sz.code
  | .pref h m => encM 0x004 h unused m (m.pol m.level.code) 0
  | .ldsp h m sz d => encM 0x005 h (reg10 d) m (m.pol m.level.code) sz.code
  | .atomAdd h m ty ret d => encM 0x010 h d m (m.pol (if ret then 0 else 1)) ty.code
  | .atomSub h m ty ret d => encM 0x011 h d m (m.pol (if ret then 0 else 1)) ty.code
  | .atomMin h m ty ret d => encM 0x012 h d m (m.pol (if ret then 0 else 1)) ty.code
  | .atomMax h m ty ret d => encM 0x013 h d m (m.pol (if ret then 0 else 1)) ty.code
  | .atomAnd h m ty ret d => encM 0x014 h d m (m.pol (if ret then 0 else 1)) ty.code
  | .atomOr h m ty ret d => encM 0x015 h d m (m.pol (if ret then 0 else 1)) ty.code
  | .atomXor h m ty ret d => encM 0x016 h d m (m.pol (if ret then 0 else 1)) ty.code
  | .atomXchg h m ty ret d => encM 0x017 h d m (m.pol (if ret then 0 else 1)) ty.code
  | .atomCas h m ty ret d => encM 0x018 h d m (m.pol (if ret then 0 else 1)) ty.code
  | .atomsAdd h m ty ret d => encM 0x020 h d m (m.pol (if ret then 0 else 1)) ty.code
  | .atomsSub h m ty ret d => encM 0x021 h d m (m.pol (if ret then 0 else 1)) ty.code
  | .atomsMin h m ty ret d => encM 0x022 h d m (m.pol (if ret then 0 else 1)) ty.code
  | .atomsMax h m ty ret d => encM 0x023 h d m (m.pol (if ret then 0 else 1)) ty.code
  | .atomsAnd h m ty ret d => encM 0x024 h d m (m.pol (if ret then 0 else 1)) ty.code
  | .atomsOr h m ty ret d => encM 0x025 h d m (m.pol (if ret then 0 else 1)) ty.code
  | .atomsXor h m ty ret d => encM 0x026 h d m (m.pol (if ret then 0 else 1)) ty.code
  | .atomsXchg h m ty ret d => encM 0x027 h d m (m.pol (if ret then 0 else 1)) ty.code
  | .atomsCas h m ty ret d => encM 0x028 h d m (m.pol (if ret then 0 else 1)) ty.code
  | .ldv h m d => encM 0x030 h d m (m.pol m.level.code) 5
  | .stv h m d => encM 0x031 h d m (m.pol m.level.code) 5
  | .recon h m op d => encM 0x032 h d m (m.pol (0#1 ++ bitsAt op.code 3 1)) (bitsAt op.code 0 3)
  | .fence h sc scope => encF 0x173 h (0#3 ++ ((if sc then 2#2 else 1#2) ++ scope.code)) unused unused unused unused
  | .cacheDrop h a => encF 0x174 h 0 unused (reg10 a) unused unused
  | .cacheClean h a => encF 0x174 h 1 unused (reg10 a) unused unused
  | .cacheInval h a => encF 0x174 h 2 unused (reg10 a) unused unused
  | .barinit h scope d sa off => encB 0x038 h (reg10 d) sa off (0#4 ++ scope.code) 0
  | .bararr h d sa off => encB 0x039 h (reg10 d) sa off 0 0
  | .barexp h d sa off => encB 0x03A h (reg10 d) sa off 0 0
  | .barwait h d sa off => encB 0x03B h (reg10 d) sa off 0 0
  | .bartest h d sa off => encB 0x03C h (reg10 d) sa off 0 0
  | .bardrop h d sa off => encB 0x03D h (reg10 d) sa off 0 0
  | .sbar h level b a => encF 0x175 h (b ++ level.code) unused (reg10 a) unused unused
  | .jdecl h d a => encF 0x128 h 0 (reg10 d) (reg10 a) unused unused
  | .jsign h d a => encF 0x129 h 0 (reg10 d) (reg10 a) unused unused
  | .jwait h d => encF 0x12A h 0 (reg10 d) unused unused unused
  | .tcfg h d a => encF 0x126 h 0 (reg10 d) (reg10 a) unused unused
  | .tzero h d => encF 0x127 h 0 (reg10 d) unused unused unused
  | .tld h m d => encM 0x040 h (reg10 d) m (m.pol m.level.code) 0
  | .tst h m d => encM 0x041 h (reg10 d) m (m.pol m.level.code) 0
  | .mma h tier q d a b j => encF 0x120 h (0#2 ++ (tier.code ++ (0#3 ++ bit1 q))) (reg10 d) (reg10 a) (reg10 b) (reg10 j)
  | .accz h d => encF 0x121 h 0 (reg10 d) unused unused unused
  | .accmov h d a b => encF 0x122 h 0 d (reg10 a) (reg10 b) unused
  | .accbnd h d a => encF 0x123 h 0 d (reg10 a) unused unused
  | .accspill h a b => encF 0x124 h 0 unused (reg10 a) (reg10 b) unused
  | .accfill h mcode ncode d a => encF 0x125 h (0#5 ++ (bit1 mcode ++ ncode)) (reg10 d) (reg10 a) unused unused
  | .accld h m d => encM 0x043 h (reg10 d) m (m.pol m.level.code) 0
  | .accst h m d => encM 0x044 h (reg10 d) m (m.pol m.level.code) 0
  | .accstAdd h m d => encM 0x044 h (reg10 d) m (m.pol m.level.code) 1
  | .keycut h d sa off => encB 0x045 h (reg10 d) sa off 0 0
  | .tldk h m d => encM 0x042 h (reg10 d) m (m.pol m.level.code) 0
  | .keydrop h a => encF 0x12B h 0 unused (reg10 a) unused unused
  | .keyq h d a => encF 0x12C h 0 (reg10 d) (reg10 a) unused unused
  | .cpykick h queue scope d sa off => encB 0x048 h (reg10 d) sa off (0#4 ++ scope.code) (0#1 ++ queue)
  | .cpystat h d a => encF 0x171 h 0 (reg10 d) (reg10 a) unused unused
  | .cpycan h a => encF 0x172 h 0 unused (reg10 a) unused unused
  | .rowcpy h d a c => encF 0x140 h 0 (reg10 d) (reg10 a) unused (reg10 c)
  | .rowfil h d a c => encF 0x141 h 0 (reg10 d) (reg10 a) unused (reg10 c)
  | .rowand h d a b c => encF 0x142 h 0 (reg10 d) (reg10 a) (reg10 b) (reg10 c)
  | .rowor h d a b c => encF 0x143 h 0 (reg10 d) (reg10 a) (reg10 b) (reg10 c)
  | .rowxor h d a b c => encF 0x144 h 0 (reg10 d) (reg10 a) (reg10 b) (reg10 c)
  | .rownot h d a c => encF 0x145 h 0 (reg10 d) (reg10 a) unused (reg10 c)
  | .rowmaj h d a b c => encF 0x146 h 0 (reg10 d) (reg10 a) (reg10 b) (reg10 c)
  | .rowrdx h d a c => encF 0x147 h 0 (reg10 d) (reg10 a) unused (reg10 c)
  | .rowstat h d a => encF 0x148 h 0 (reg10 d) (reg10 a) unused unused
  | .trap h imm => encI 0x003 h unused 0 imm
  | .bkpt h n => encF 0x16E h n unused unused unused unused
  | .rft h => encF 0x167 h 0 unused unused unused unused
  | .mfsr h d x => encF 0x168 h 0 (reg10 d) x unused unused
  | .mtsr h x a => encF 0x169 h 0 x (reg10 a) unused unused
  | .mtsri h x imm => encI 0x040 h x 0 imm
  | .firnrd h d => encF 0x16A h 0 (reg10 d) unused unused unused
  | .lwait h a => encF 0x16B h 0 unused (reg10 a) unused unused
  | .seed h a b => encF 0x16C h 0 unused (reg10 a) (reg10 b) unused
  | .halt h => encF 0x16D h 0 unused unused unused unused
  | .frsave h a => encF 0x16F h 0 unused (reg10 a) unused unused
  | .frload h a => encF 0x170 h 0 unused (reg10 a) unused unused
  | .issueClock _ _ => none
  | .runBoundary _ => none
  | .loadResponse _ _ => none
  | .mmaFire _ _ => none
  | .mmaComplete _ _ => none
  | .sleepDeadline _ => none
  | .lwaitDeadline _ => none
  | .firnSyncBeat _ _ => none
  | .firnSkew _ => none
  | .podFirnSample _ _ => none
  | .l1LeaseExpiry _ _ => none
  | .leaseHorizonReached _ _ => none
  | .directoryRecall _ => none
  | .pageWalk _ _ _ => none
  | .translationLeaseExpiry _ _ _ => none
  | .walkAheadRenewal _ _ => none
  | .faultQueueEntryWrite => none
  | .fqrespRetry _ => none
  | .fqrespDeny _ => none
  | .cpykickQueueEvent _ _ => none
  | .latchRequestStart _ _ => none
  | .latchPieceIssue _ => none
  | .latchPieceLand _ _ => none
  | .ldspCopyLand _ => none
  | .accstAddApply _ => none
  | .seracFork _ => none
  | .seracRowStep _ => none
  | .seracJoin _ => none
  | .packSaveComplete _ => none
  | .packPlacement _ => none
  | .packRestorePlacement _ => none
  | .preempt _ => none
  | .sliceExpiry _ _ => none
  | .nodeRelease _ _ => none
  | .nodeComplete _ _ => none
  | .watchdogIssueReport _ => none
  | .watchdogStallReport _ => none
  | .carveOutInterval _ => none
  | .bankGate _ _ => none
  | .bankReady _ _ => none
  | .powerStateEntry _ => none
  | .dieWake _ => none
  | .boostInterval _ _ => none
  | .permitRefill _ => none
  | .moduleReset => none
  | .bootctlWrite _ _ _ => none
  | .bootFull => none
  | .eyeMarginLow _ _ _ => none
  | .periodicRetrain _ => none
  | .channelWidthChange _ _ _ _ => none
  | .hingeLinkFail _ => none
  | .hostCxlMemWrite _ _ => none
  | .hostCxlMemRead _ _ => none
  | .hostSnoop _ _ => none
  | .poolBackInvalidate _ => none
  | .peerAccess _ _ _ => none
  | .podBarrierArrival _ => none
  | .podBarrierCompletion _ _ => none
  | .trigger _ => none
  | .ctxctlPreempt _ => none
  | .ctxctlEnd _ => none
  | .contextEndRelease _ => none
  | .eyeactRetrain _ _ => none
  | .eyeactRepair _ _ _ => none
  | .eyeactHalfWidth _ _ => none
  | .eyeactFullWidth _ _ _ => none
  | .mpolicyWrite _ => none
  | .cxlwinWrite _ _ => none
  | .hbmmapWrite _ => none
  | .mmioRegisterWrite _ _ _ => none
  | .storePerformed _ _ => none
  | .cxlPortTraining _ _ => none
  | .hbmRefresh _ _ => none

end Sys2Proof
end

