-- ==== Sys2Proof/Machine/Uniform.lean ====
section
/-! DEFINITION. The uniform datapath (spec 05): F-form (R132 to R135), immediates (R136) and the slot operations (R137). The
helpers Val, Put and the field extraction also serve the vector instructions (R141). -/

namespace Sys2Proof.Machine
open Sys2Proof

/-- Val of R132: the low W bits of an operand as the type's integer. -/
def valOf (ty : ITy) (x : Nat) : Int := intVal ty.bits ty.signed x

/-- SVal of R133: the low W bits as a signed integer, whatever the type. -/
def svalOf (ty : ITy) (x : Nat) : Int := intVal ty.bits true x

/-- Put of R132 without the extension: clamps under saturation and reduces to W bits. -/
def putBits (ty : ITy) (sat : Bool) (v : Int) : Nat :=
  let v := if sat then min (max v (intMin ty.bits ty.signed)) (intMax ty.bits ty.signed) else v
  intBits ty.bits v

/-- The register value of W result bits: extended to 64 bits by the type (R132). -/
def extBits (ty : ITy) (b : Nat) : Word := BitVec.ofInt 64 (intVal ty.bits ty.signed b)

/-- Put of R132. -/
def put (m : IntMod) (v : Int) : Word := extBits m.ty (putBits m.ty m.sat v)

/-- Bits of a W-bit value, as a list of positions that are 1. -/
def onesIn (w x : Nat) : Nat := ((List.range w).filter fun i => x.testBit i).length

/-- Leading zeros of a W-bit value. -/
def clzIn (w x : Nat) : Nat := let y := x % 2 ^ w; if y = 0 then w else w - 1 - Nat.log2 y

/-- The field of R135: n = min(len, W) bits of a from position pos on, with the type's fill above W. -/
def bitField (ty : ITy) (a pos len : Nat) : Int :=
  let w := ty.bits
  let n := min len w
  if n = 0 then 0
  else intVal n ty.signed (intBits n (valOf ty a / (2 : Int) ^ min pos w))

/-- The integer operations of R133 and R141 that Put reduces: exact results on operand bits a, b, c and amount amt. -/
inductive IOp where
  | add | sub | mul | mulh | mad | and | or | xor | not | shl | shr | sar | min | max | mov | clz | popc | bfe | abs | neg
  deriving DecidableEq, Repr

/-- The shift amount that matters: beyond 2W every left shift gives the same result (R133). -/
def shlVal (ty : ITy) (sat : Bool) (a : Int) (amt : Nat) : Int :=
  if sat then a * (2 : Int) ^ Nat.min amt 64 else if ty.bits ≤ amt then 0 else a * (2 : Int) ^ amt

/-- The value that Put receives. -/
def iop (op : IOp) (ty : ITy) (sat : Bool) (a b c amt : Nat) : Int :=
  let w := ty.bits
  let m := 2 ^ w
  match op with
  | .add => valOf ty a + valOf ty b
  | .sub => valOf ty a - valOf ty b
  | .mul => valOf ty a * valOf ty b
  | .mulh => (valOf ty a * valOf ty b) / (2 : Int) ^ w
  | .mad => valOf ty a * valOf ty b + valOf ty c
  | .and => intVal w ty.signed ((a % m) &&& (b % m))
  | .or => intVal w ty.signed ((a % m) ||| (b % m))
  | .xor => intVal w ty.signed ((a % m) ^^^ (b % m))
  | .not => intVal w ty.signed (m - 1 - a % m)
  | .shl => shlVal ty sat (valOf ty a) amt
  | .shr => intVal w ty.signed (if w ≤ amt then 0 else a % m / 2 ^ amt)
  | .sar => svalOf ty a / (2 : Int) ^ Nat.min amt (w - 1)
  | .min => Min.min (valOf ty a) (valOf ty b)
  | .max => Max.max (valOf ty a) (valOf ty b)
  | .mov => valOf ty a
  | .clz => clzIn w a
  | .popc => onesIn w a
  | .bfe => bitField ty a (b % 256) (b / 256 % 256)
  | .abs => (valOf ty a).natAbs
  | .neg => - valOf ty a

/-- A uniform write, once when ACTIVE holds a lane (R132). -/
def Ctx.uni (c : Ctx) (d : SReg) (x : Word) : Ctx := c.once fun c => c.setS d x

/-- A uniform ALU word (R133). -/
def uniOp (c : Ctx) (op : IOp) (m : IntMod) (d a b e : SReg) : Ctx :=
  let A := (c.sr .a a).toNat
  let B := (c.sr .b b).toNat
  c.uni d (put m (iop op m.ty m.sat A B (c.sr .c e).toNat B))

/-- Integer conditions (R134): a and b as the type's integers and as W-bit values. -/
def icond (k : ICond) (a b : Int) (ua ub : Nat) : Bool :=
  match k with
  | .eq => a == b
  | .ne => a != b
  | .lt => decide (a < b)
  | .le => decide (a ≤ b)
  | .gt => decide (b < a)
  | .ge => decide (b ≤ a)
  | .tst => ua &&& ub != 0
  | .ntst => ua &&& ub == 0
  | .ltu => decide (ua < ub)
  | .leu => decide (ua ≤ ub)
  | .gtu => decide (ub < ua)
  | .geu => decide (ub ≤ ua)

/-- SADD (R133). -/
def execSadd (h : Hdr) (m : IntMod) (d a b : SReg) (s : State) : Out :=
  onRegs (.sadd h m d a b) h s fun c => uniOp c .add m d a b 0
/-- SSUB (R133). -/
def execSsub (h : Hdr) (m : IntMod) (d a b : SReg) (s : State) : Out :=
  onRegs (.ssub h m d a b) h s fun c => uniOp c .sub m d a b 0
/-- SMUL (R133). -/
def execSmul (h : Hdr) (m : IntMod) (d a b : SReg) (s : State) : Out :=
  onRegs (.smul h m d a b) h s fun c => uniOp c .mul m d a b 0
/-- SMULH (R133). -/
def execSmulh (h : Hdr) (m : IntMod) (d a b : SReg) (s : State) : Out :=
  onRegs (.smulh h m d a b) h s fun c => uniOp c .mulh m d a b 0
/-- SMAD (R133). -/
def execSmad (h : Hdr) (m : IntMod) (d a b e : SReg) (s : State) : Out :=
  onRegs (.smad h m d a b e) h s fun c => uniOp c .mad m d a b e
/-- SAND (R133). -/
def execSand (h : Hdr) (m : IntMod) (d a b : SReg) (s : State) : Out :=
  onRegs (.sand h m d a b) h s fun c => uniOp c .and m d a b 0
/-- SOR (R133). -/
def execSor (h : Hdr) (m : IntMod) (d a b : SReg) (s : State) : Out :=
  onRegs (.sor h m d a b) h s fun c => uniOp c .or m d a b 0
/-- SXOR (R133). -/
def execSxor (h : Hdr) (m : IntMod) (d a b : SReg) (s : State) : Out :=
  onRegs (.sxor h m d a b) h s fun c => uniOp c .xor m d a b 0
/-- SNOT (R133). -/
def execSnot (h : Hdr) (m : IntMod) (d a : SReg) (s : State) : Out :=
  onRegs (.snot h m d a) h s fun c => uniOp c .not m d a 0 0
/-- SSHL (R133). -/
def execSshl (h : Hdr) (m : IntMod) (d a b : SReg) (s : State) : Out :=
  onRegs (.sshl h m d a b) h s fun c => uniOp c .shl m d a b 0
/-- SSHR (R133). -/
def execSshr (h : Hdr) (m : IntMod) (d a b : SReg) (s : State) : Out :=
  onRegs (.sshr h m d a b) h s fun c => uniOp c .shr m d a b 0
/-- SSAR (R133). -/
def execSsar (h : Hdr) (m : IntMod) (d a b : SReg) (s : State) : Out :=
  onRegs (.ssar h m d a b) h s fun c => uniOp c .sar m d a b 0
/-- SMIN (R133). -/
def execSmin (h : Hdr) (m : IntMod) (d a b : SReg) (s : State) : Out :=
  onRegs (.smin h m d a b) h s fun c => uniOp c .min m d a b 0
/-- SMAX (R133). -/
def execSmax (h : Hdr) (m : IntMod) (d a b : SReg) (s : State) : Out :=
  onRegs (.smax h m d a b) h s fun c => uniOp c .max m d a b 0
/-- SMOV (R133). -/
def execSmov (h : Hdr) (m : IntMod) (d a : SReg) (s : State) : Out :=
  onRegs (.smov h m d a) h s fun c => uniOp c .mov m d a 0 0
/-- SCLZ (R133). -/
def execSclz (h : Hdr) (m : IntMod) (d a : SReg) (s : State) : Out :=
  onRegs (.sclz h m d a) h s fun c => uniOp c .clz m d a 0 0
/-- SPOPC (R133). -/
def execSpopc (h : Hdr) (m : IntMod) (d a : SReg) (s : State) : Out :=
  onRegs (.spopc h m d a) h s fun c => uniOp c .popc m d a 0 0
/-- SBFE (R135). -/
def execSbfe (h : Hdr) (m : IntMod) (d a b : SReg) (s : State) : Out :=
  onRegs (.sbfe h m d a b) h s fun c => uniOp c .bfe m d a b 0

/-- SCMP (R134): writes the bits of ACTIVE of p[D]. -/
def execScmp (h : Hdr) (ty : ITy) (k : ICond) (p : PReg) (a b : SReg) (s : State) : Out :=
  onRegs (.scmp h ty k p a b) h s fun c =>
    let A := (c.sr .a a).toNat % 2 ^ ty.bits
    let B := (c.sr .b b).toNat % 2 ^ ty.bits
    c.setP p c.act (if icond k (valOf ty A) (valOf ty B) A B then allLanes else 0)

/-- SSEL (R133): c is tested on all 64 bits. -/
def execSsel (h : Hdr) (m : IntMod) (d a b e : SReg) (s : State) : Out :=
  onRegs (.ssel h m d a b e) h s fun c =>
    c.uni d (put m (valOf m.ty (if c.sr .c e ≠ 0 then c.sr .a a else c.sr .b b).toNat))

/-- An immediate word that reads its destination (R136). -/
def uniImm (c : Ctx) (d : SReg) (imm : BitVec 32) (f : Word → Word → Word) : Ctx :=
  c.uni d (f (c.sr .d d) (imm.signExtend 64))

/-- SMOVI (R136). -/
def execSmovi (h : Hdr) (d : SReg) (imm : BitVec 32) (s : State) : Out :=
  onRegs (.smovi h d imm) h s fun c => c.uni d (imm.signExtend 64)
/-- SMOVIH (R136): the low half of D stays. -/
def execSmovih (h : Hdr) (d : SReg) (imm : BitVec 32) (s : State) : Out :=
  onRegs (.smovih h d imm) h s fun c => c.uni d ((imm.setWidth 64 <<< 32) ||| ((c.sr .d d).setWidth 32).setWidth 64)
/-- SADDI (R136). -/
def execSaddi (h : Hdr) (d : SReg) (imm : BitVec 32) (s : State) : Out :=
  onRegs (.saddi h d imm) h s fun c => uniImm c d imm (· + ·)
/-- SANDI (R136). -/
def execSandi (h : Hdr) (d : SReg) (imm : BitVec 32) (s : State) : Out :=
  onRegs (.sandi h d imm) h s fun c => uniImm c d imm (· &&& ·)
/-- SORI (R136). -/
def execSori (h : Hdr) (d : SReg) (imm : BitVec 32) (s : State) : Out :=
  onRegs (.sori h d imm) h s fun c => uniImm c d imm (· ||| ·)
/-- SXORI (R136). -/
def execSxori (h : Hdr) (d : SReg) (imm : BitVec 32) (s : State) : Out :=
  onRegs (.sxori h d imm) h s fun c => uniImm c d imm (· ^^^ ·)
/-- SSHLI (R136). -/
def execSshli (h : Hdr) (d : SReg) (imm : BitVec 32) (s : State) : Out :=
  onRegs (.sshli h d imm) h s fun c => uniImm c d imm fun x k => x <<< k.toNat
/-- SSHRI (R136). -/
def execSshri (h : Hdr) (d : SReg) (imm : BitVec 32) (s : State) : Out :=
  onRegs (.sshri h d imm) h s fun c => uniImm c d imm fun x k => x >>> k.toNat
/-- SSARI (R136). -/
def execSsari (h : Hdr) (d : SReg) (imm : BitVec 32) (s : State) : Out :=
  onRegs (.ssari h d imm) h s fun c => uniImm c d imm fun x k => x.sshiftRight k.toNat
/-- SMULI (R136). -/
def execSmuli (h : Hdr) (d : SReg) (imm : BitVec 32) (s : State) : Out :=
  onRegs (.smuli h d imm) h s fun c => uniImm c d imm (· * ·)
/-- SCMPI (R136): signed conditions 2 to 5, unsigned ones 8 to 11, all on 64 bits. -/
def execScmpi (h : Hdr) (k : ICond) (p : PReg) (a : SReg) (imm : BitVec 32) (s : State) : Out :=
  onRegs (.scmpi h k p a imm) h s fun c =>
    let x := c.sr .d a
    let y := imm.signExtend 64
    c.setP p c.act (if icond k x.toInt y.toInt x.toNat y.toNat then allLanes else 0)

end Sys2Proof.Machine
end

