-- ==== Sys2Proof/Machine/VectorInt.lean ====
section
/-! DEFINITION. Vector integer instructions and immediates (spec 06, R140 to R146). -/

namespace Sys2Proof.Machine
open Sys2Proof

/-- A register operand as V*. -/
def vreg (r : VReg) : VS := .v r

/-- A vector integer word of up to three operands (R141) with the integer bound rule (R146): `n` operands are read. -/
def vecOp (c : Ctx) (op : IOp) (m : IntMod) (d : VReg) (n : Nat) (a b e : VS) : Ctx :=
  let w := m.ty.wide
  let A := c.lanes w .a a
  let B := c.lanes w .b b
  let E := c.lanes w .c e
  let ins := fun (l : Fin 64) => [A.bnd l, B.bnd l, E.bnd l].take n
  let out := fun l => intBound (ins l)
  (c.setLanes w d c.act
    (fun l => putBits m.ty m.sat (iop op m.ty m.sat (A.val w l) (B.val w l) (E.val w l) (B.val w l))) out).stick
    (unbBit c.act out ins)

/-- A word of one operand. -/
def vecOp1 (c : Ctx) (op : IOp) (m : IntMod) (d : VReg) (a : VS) : Ctx := vecOp c op m d 1 a a a
/-- A word of two operands. -/
def vecOp2 (c : Ctx) (op : IOp) (m : IntMod) (d : VReg) (a b : VS) : Ctx := vecOp c op m d 2 a b b

/-- VADD (R141). -/
def execVadd (h : Hdr) (m : IntMod) (d : VReg) (a b : VS) (s : State) : Out :=
  onRegs (.vadd h m d a b) h s fun c => vecOp2 c .add m d a b
/-- VSUB (R141). -/
def execVsub (h : Hdr) (m : IntMod) (d : VReg) (a b : VS) (s : State) : Out :=
  onRegs (.vsub h m d a b) h s fun c => vecOp2 c .sub m d a b
/-- VMUL (R141). -/
def execVmul (h : Hdr) (m : IntMod) (d : VReg) (a b : VS) (s : State) : Out :=
  onRegs (.vmul h m d a b) h s fun c => vecOp2 c .mul m d a b
/-- VMULH (R141). -/
def execVmulh (h : Hdr) (m : IntMod) (d : VReg) (a b : VS) (s : State) : Out :=
  onRegs (.vmulh h m d a b) h s fun c => vecOp2 c .mulh m d a b
/-- VMAD (R141). -/
def execVmad (h : Hdr) (m : IntMod) (d a b e : VReg) (s : State) : Out :=
  onRegs (.vmad h m d a b e) h s fun c => vecOp c .mad m d 3 (vreg a) (vreg b) (vreg e)
/-- VABS (R141). -/
def execVabs (h : Hdr) (m : IntMod) (d : VReg) (a : VS) (s : State) : Out :=
  onRegs (.vabs h m d a) h s fun c => vecOp1 c .abs m d a
/-- VNEG (R141). -/
def execVneg (h : Hdr) (m : IntMod) (d : VReg) (a : VS) (s : State) : Out :=
  onRegs (.vneg h m d a) h s fun c => vecOp1 c .neg m d a
/-- VMIN (R141). -/
def execVmin (h : Hdr) (m : IntMod) (d : VReg) (a b : VS) (s : State) : Out :=
  onRegs (.vmin h m d a b) h s fun c => vecOp2 c .min m d a b
/-- VMAX (R141). -/
def execVmax (h : Hdr) (m : IntMod) (d : VReg) (a b : VS) (s : State) : Out :=
  onRegs (.vmax h m d a b) h s fun c => vecOp2 c .max m d a b
/-- VAND (R141). -/
def execVand (h : Hdr) (m : IntMod) (d : VReg) (a b : VS) (s : State) : Out :=
  onRegs (.vand h m d a b) h s fun c => vecOp2 c .and m d a b
/-- VOR (R141). -/
def execVor (h : Hdr) (m : IntMod) (d : VReg) (a b : VS) (s : State) : Out :=
  onRegs (.vor h m d a b) h s fun c => vecOp2 c .or m d a b
/-- VXOR (R141). -/
def execVxor (h : Hdr) (m : IntMod) (d : VReg) (a b : VS) (s : State) : Out :=
  onRegs (.vxor h m d a b) h s fun c => vecOp2 c .xor m d a b
/-- VNOT (R141). -/
def execVnot (h : Hdr) (m : IntMod) (d : VReg) (a : VS) (s : State) : Out :=
  onRegs (.vnot h m d a) h s fun c => vecOp1 c .not m d a
/-- VSHL (R141). -/
def execVshl (h : Hdr) (m : IntMod) (d : VReg) (a b : VS) (s : State) : Out :=
  onRegs (.vshl h m d a b) h s fun c => vecOp2 c .shl m d a b
/-- VSHR (R141). -/
def execVshr (h : Hdr) (m : IntMod) (d : VReg) (a b : VS) (s : State) : Out :=
  onRegs (.vshr h m d a b) h s fun c => vecOp2 c .shr m d a b
/-- VSAR (R141). -/
def execVsar (h : Hdr) (m : IntMod) (d : VReg) (a b : VS) (s : State) : Out :=
  onRegs (.vsar h m d a b) h s fun c => vecOp2 c .sar m d a b
/-- VCLZ (R141). -/
def execVclz (h : Hdr) (m : IntMod) (d : VReg) (a : VS) (s : State) : Out :=
  onRegs (.vclz h m d a) h s fun c => vecOp1 c .clz m d a
/-- VPOPC (R141). -/
def execVpopc (h : Hdr) (m : IntMod) (d : VReg) (a : VS) (s : State) : Out :=
  onRegs (.vpopc h m d a) h s fun c => vecOp1 c .popc m d a
/-- VBFE (R141). -/
def execVbfe (h : Hdr) (m : IntMod) (d : VReg) (a b : VS) (s : State) : Out :=
  onRegs (.vbfe h m d a b) h s fun c => vecOp2 c .bfe m d a b

/-- VBFI of R143 on W-bit values. -/
def insertField (w a b e : Nat) : Nat :=
  let p := min (e % 256) w
  let n := min (e / 256 % 256) (w - p)
  let hole := (2 ^ n - 1) * 2 ^ p
  ((a ||| hole) ^^^ hole) ||| (b % 2 ^ n * 2 ^ p)

/-- VBFI (R143). -/
def execVbfi (h : Hdr) (m : IntMod) (d a b e : VReg) (s : State) : Out :=
  onRegs (.vbfi h m d a b e) h s fun c =>
    let w := m.ty.wide
    let A := c.lanesV w .a a
    let B := c.lanesV w .b b
    let E := c.lanesV w .c e
    let ins := fun (l : Fin 64) => [A.bnd l, B.bnd l, E.bnd l]
    let out := fun l => intBound (ins l)
    (c.setLanes w d c.act (fun l => insertField m.ty.bits (A.val w l) (B.val w l) (E.val w l)) out).stick
      (unbBit c.act out ins)

/-- The bits of a predicate that lanes give. -/
def maskOf (p : Fin 64 → Bool) : Mask := maskWhere fun l => if h : l < 64 then p ⟨l, h⟩ else false

/-- VCMP (R142). -/
def execVcmp (h : Hdr) (ty : ITy) (k : ICond) (p : PReg) (a b : VS) (s : State) : Out :=
  onRegs (.vcmp h ty k p a b) h s fun c =>
    let w := ty.wide
    let A := c.lanes w .a a
    let B := c.lanes w .b b
    c.setP p c.act (maskOf fun l => icond k (valOf ty (A.val w l)) (valOf ty (B.val w l)) (A.val w l) (B.val w l))

/-- VSEL (R143): the bound is that of the lane chosen (R146). -/
def execVsel (h : Hdr) (ty : ITy) (d a b : VReg) (p : PReg) (s : State) : Out :=
  onRegs (.vsel h ty d a b p) h s fun c =>
    let w := ty.wide
    let A := c.lanesV w .a a
    let B := c.lanesV w .b b
    let q := c.p .c p
    c.setLanes w d c.act (fun l => if has q l.val then A.val w l else B.val w l)
      fun l => if has q l.val then A.bnd l else B.bnd l

/-- VMOV (R141): the bound is copied (R146). -/
def execVmov (h : Hdr) (m : IntMod) (d : VReg) (a : VS) (s : State) : Out :=
  onRegs (.vmov h m d a) h s fun c =>
    let w := m.ty.wide
    let A := c.lanes w .a a
    c.setLanes w d c.act (A.val w) A.bnd

/-- An immediate word that reads its destination (R144), with the integer bound rule. -/
def vecImm (c : Ctx) (d : VReg) (imm : BitVec 32) (f : BitVec 32 → BitVec 32 → BitVec 32) : Ctx :=
  let D := c.v .d d
  let out := fun (l : Fin 64) => intBound [D.bnd[l]]
  (c.setLanes false d c.act (fun l => (f D.val[l] imm).toNat) out).stick (unbBit c.act out fun l => [D.bnd[l]])

/-- A constant to every lane of ACTIVE with bound 0x0000 (R144). -/
def vecConst (c : Ctx) (d : VReg) (imm : BitVec 32) : Ctx := c.setLanes false d c.act (fun _ => imm.toNat) fun _ => 0

/-- VMOVI (R144). -/
def execVmovi (h : Hdr) (d : VReg) (imm : BitVec 32) (s : State) : Out :=
  onRegs (.vmovi h d imm) h s fun c => vecConst c d imm
/-- VADDI (R144). -/
def execVaddi (h : Hdr) (d : VReg) (imm : BitVec 32) (s : State) : Out :=
  onRegs (.vaddi h d imm) h s fun c => vecImm c d imm (· + ·)
/-- VANDI (R144). -/
def execVandi (h : Hdr) (d : VReg) (imm : BitVec 32) (s : State) : Out :=
  onRegs (.vandi h d imm) h s fun c => vecImm c d imm (· &&& ·)
/-- VORI (R144). -/
def execVori (h : Hdr) (d : VReg) (imm : BitVec 32) (s : State) : Out :=
  onRegs (.vori h d imm) h s fun c => vecImm c d imm (· ||| ·)
/-- VSHLI (R144). -/
def execVshli (h : Hdr) (d : VReg) (imm : BitVec 32) (s : State) : Out :=
  onRegs (.vshli h d imm) h s fun c => vecImm c d imm fun x k => x <<< k.toNat
/-- VSHRI (R144). -/
def execVshri (h : Hdr) (d : VReg) (imm : BitVec 32) (s : State) : Out :=
  onRegs (.vshri h d imm) h s fun c => vecImm c d imm fun x k => x >>> k.toNat
/-- FMOVI (R144): raw FP32 bits. -/
def execFmovi (h : Hdr) (d : VReg) (imm : BitVec 32) (s : State) : Out :=
  onRegs (.fmovi h d imm) h s fun c => vecConst c d imm

end Sys2Proof.Machine
end

