-- ==== Sys2Proof/Machine/Float.lean ====
section
/-! DEFINITION. Floating-point instructions (spec 06, R147 to R154). -/

namespace Sys2Proof.Machine
open Sys2Proof

/-- Registers of a destination. -/
def regsOf (wide : Bool) : Nat := if wide then 2 else 1

/-- A tiered word (R147, R148): fma reads three operands, the others two. -/
def tieredWord (c : Ctx) (op : TOp) (m : FpMod) (d : VReg) (a b : VS) (e : Option VReg) : State :=
  let w := m.ty.wide
  let A := c.lanes w .a a
  let B := c.lanes w .b b
  let E := match e with
    | some r => c.lanesV w .c r
    | none => bcast 0
  let els := fun (l : Fin 64) => ops3 m.ty (A.val w l) (B.val w l) (E.val w l) (A.bnd l) (B.bnd l) (E.bnd l)
  let (t, c, up) := c.resolveTier m.ty m.tier op m.rm (activeEls c.act els)
  let o := tieredOuts c.env (!m.q) c.act m.ty op m.rm t els fun l => [A.bnd l, B.bnd l, E.bnd l]
  fpBack c d.toNat (regsOf w) o (tierCode t) fun c => if up then c.stick stickyTIERUP else c

/-- A word of one or two operands that executes at the format's own precision (R147): f maps the codes and bounds of an
element to its result. -/
def plainWord (c : Ctx) (m : FpMod) (d : VReg) (n : Nat) (a b : VS) (f : FFmt → Nat → Nat → Bound → Bound → El) : State :=
  let w := m.ty.wide
  let A := c.lanes w .a a
  let B := c.lanes w .b b
  let o := outs c.act fun l =>
    laneOut c.env (!m.q) m.ty
      ((ops3 m.ty (A.val w l) (B.val w l) 0 (A.bnd l) (B.bnd l) 0).map fun x => f (fmtOf m.ty) x.a x.b x.ea x.eb)
      ([A.bnd l, B.bnd l].take n)
  fpBack c d.toNat (regsOf w) o 1 id

/-- FADD (R148). -/
def execFadd (h : Hdr) (m : FpMod) (d : VReg) (a b : VS) (s : State) : Out :=
  onWord (.fadd h m d a b) h s fun c => tieredWord c .add m d a b none
/-- FSUB (R148). -/
def execFsub (h : Hdr) (m : FpMod) (d : VReg) (a b : VS) (s : State) : Out :=
  onWord (.fsub h m d a b) h s fun c => tieredWord c .sub m d a b none
/-- FMUL (R148). -/
def execFmul (h : Hdr) (m : FpMod) (d : VReg) (a b : VS) (s : State) : Out :=
  onWord (.fmul h m d a b) h s fun c => tieredWord c .mul m d a b none
/-- FFMA (R148). -/
def execFfma (h : Hdr) (m : FpMod) (nc : Bool) (d a b e : VReg) (s : State) : Out :=
  onWord (.ffma h m nc d a b e) h s fun c => tieredWord c (.fma nc) m d (vreg a) (vreg b) (some e)
/-- FMIN (R149). -/
def execFmin (h : Hdr) (m : FpMod) (d : VReg) (a b : VS) (s : State) : Out :=
  onWord (.fmin h m d a b) h s fun c => plainWord c m d 2 a b fun F x y ea eb => fminmax F false c.env.dnan x y ea eb
/-- FMAX (R149). -/
def execFmax (h : Hdr) (m : FpMod) (d : VReg) (a b : VS) (s : State) : Out :=
  onWord (.fmax h m d a b) h s fun c => plainWord c m d 2 a b fun F x y ea eb => fminmax F true c.env.dnan x y ea eb
/-- FABS (R149). -/
def execFabs (h : Hdr) (m : FpMod) (d : VReg) (a : VS) (s : State) : Out :=
  onWord (.fabs h m d a) h s fun c => plainWord c m d 1 a a fun F x _ ea _ => fsign F true x ea
/-- FNEG (R149). -/
def execFneg (h : Hdr) (m : FpMod) (d : VReg) (a : VS) (s : State) : Out :=
  onWord (.fneg h m d a) h s fun c => plainWord c m d 1 a a fun F x _ ea _ => fsign F false x ea

/-- FCMP (R150): a packed lane's bit is 1 only when the condition holds for both elements; FRAG per element (R85). -/
def execFcmp (h : Hdr) (ty : FTy) (full : Bool) (k : FCond) (p : PReg) (a b : VS) (s : State) : Out :=
  onRegs (.fcmp h ty full k p a b) h s fun c =>
    let w := ty.wide
    let A := c.lanes w .a a
    let B := c.lanes w .b b
    let res := fun (l : Fin 64) =>
      (ops3 ty (A.val w l) (B.val w l) 0 (A.bnd l) (B.bnd l) 0).map fun x => fcmp (fmtOf ty) k x.a x.b x.ea x.eb
    let act := (List.finRange 64).filter fun l => has c.act l.val
    let fl := act.foldl (fun f l => (res l).foldl (fun f x => f.or x.2.1) f) Flags.none
    let frag := act.any fun l => (res l).any (·.2.2)
    ((c.setP p c.act (maskOf fun l => (res l).all (·.1))).flag fl).stick (if frag then stickyFRAG else 0)

/-- FCLASS (R151): one 32-bit register for every type; the bound follows the integer rule. -/
def execFclass (h : Hdr) (ty : FTy) (full : Bool) (d : VReg) (a : VS) (s : State) : Out :=
  onRegs (.fclass h ty full d a) h s fun c =>
    let w := ty.wide
    let A := c.lanes w .a a
    let out := fun (l : Fin 64) => intBound [A.bnd l]
    (c.setLanes false d c.act
      (fun l =>
        let cs := (elemsOf ty (A.val w l)).map (fclass (fmtOf ty))
        cs.getD 0 0 + 65536 * cs.getD 1 0) out).stick (unbBit c.act out fun l => [A.bnd l])

/-- FDIV (R152). -/
def execFdiv (h : Hdr) (m : FpMod) (d : VReg) (a b : VS) (s : State) : Out :=
  onWord (.fdiv h m d a b) h s fun c => plainWord c m d 2 a b fun F x y ea eb => fdiv F m.rm c.env.dnan x y ea eb
/-- FSQRT (R152). -/
def execFsqrt (h : Hdr) (m : FpMod) (d : VReg) (a : VS) (s : State) : Out :=
  onWord (.fsqrt h m d a) h s fun c => plainWord c m d 1 a a fun F x _ ea _ => fsqrt F m.rm c.env.dnan x ea
/-- FRCP (R153). -/
def execFrcp (h : Hdr) (m : FpMod) (d : VReg) (a : VS) (s : State) : Out :=
  onWord (.frcp h m d a) h s fun c => plainWord c m d 1 a a fun F x _ ea _ => frcp F c.env.dnan x ea
/-- FRSQ (R153). -/
def execFrsq (h : Hdr) (m : FpMod) (d : VReg) (a : VS) (s : State) : Out :=
  onWord (.frsq h m d a) h s fun c => plainWord c m d 1 a a fun F x _ ea _ => frsq F c.env.dnan x ea
/-- FEXP2 (R153). -/
def execFexp2 (h : Hdr) (m : FpMod) (d : VReg) (a : VS) (s : State) : Out :=
  onWord (.fexp2 h m d a) h s fun c => plainWord c m d 1 a a fun F x _ ea _ => fexp2 F c.env.dnan x ea
/-- FLOG2 (R153). -/
def execFlog2 (h : Hdr) (m : FpMod) (d : VReg) (a : VS) (s : State) : Out :=
  onWord (.flog2 h m d a) h s fun c => plainWord c m d 1 a a fun F x _ ea _ => flog2 F c.env.dnan x ea

/-- The exponent of an FLDEXP element: 32 low bits, or the element's 16 bits for packed types (R154). -/
def ldexpN (ty : FTy) (y : Nat) : Int :=
  match ty with
  | .f32 | .f64 => intVal 32 true y
  | .f16x2 | .bf16x2 => intVal 16 true y

/-- FLDEXP (R154). -/
def execFldexp (h : Hdr) (m : FpMod) (d : VReg) (a b : VS) (s : State) : Out :=
  onWord (.fldexp h m d a b) h s fun c =>
    plainWord c m d 2 a b fun F x y ea eb => fldexp F m.rm c.env.dnan x (ldexpN m.ty y) ea (eb == 0)
/-- FRND (R154). -/
def execFrnd (h : Hdr) (m : FpMod) (d : VReg) (a : VS) (s : State) : Out :=
  onWord (.frnd h m d a) h s fun c => plainWord c m d 1 a a fun F x _ ea _ => frnd F m.rm c.env.dnan x ea

end Sys2Proof.Machine
end

