-- ==== Sys2Proof/Machine/Conversion.lean ====
section
/-! DEFINITION. Conversions and MX instructions (spec 06, R156 to R160), with the Spindrift step (R59, R61). -/

namespace Sys2Proof.Machine
open Sys2Proof

/-- The Spindrift seed (R59). -/
def SysRegs.seed (y : SysRegs) : Word := (y.seedhi.setWidth 64 <<< 32) ||| y.seedlo.setWidth 64

/-- The rounding of element e of lane l: drawn under SR with the step at issue (R59), else the mode. -/
def Ctx.cvRnd (c : Ctx) (sr : Bool) (md : RMode) (l e : Nat) : CvRnd :=
  if sr then .drawn (mix c.f.sys.sdstep l e c.f.sys.seed).toNat else .mode md

/-- The index of SDSTEP (R42). -/
def ixSdstep : Nat := 0x032

/-- SDSTEP advances once per issue of a word with SR = 1 (R61), outside handler mode (R306); a value that MTSR wrote in this
run advances too (R31). -/
def Ctx.drew (c : Ctx) (sr : Bool) : Ctx :=
  if sr && !c.f.handler then
    { c with f := { c.f with
        sys := { c.f.sys with sdstep := c.f.sys.sdstep + 1 },
        sysPend := match c.f.sysPend.find? ixSdstep with
          | some x => c.f.sysPend.put ixSdstep ((x.setWidth 32 + (1 : BitVec 32)).setWidth 64)
          | none => c.f.sysPend } }
  else c

/-- Element k of w bits of a list of 32-bit register values. -/
def elemAt (w : Nat) (regs : List Nat) (k : Nat) : Nat := regs.getD (k * w / 32) 0 / 2 ^ (k * w % 32) % 2 ^ w

/-- A register of 32 bits from its elements of w bits. -/
def joinElems (w : Nat) (cs : List Nat) : Nat := cs.foldr (fun x n => x + 2 ^ w * n) 0

/-- CVT (R156). -/
def execCvt (h : Hdr) (m : CvMod) (dst src : Fmt) (d : VReg) (a : VS) (s : State) : Out :=
  onWord (.cvt h m dst src d a) h s fun c =>
    let A := c.lanes src.wide .a a
    let v := c.env
    let o := outs c.act fun l =>
      let e := cvtEl dst src m.sat v.dnan (c.cvRnd m.sr m.rm l.val 0) (A.val src.wide l) (A.bnd l)
      let x := cvtPlace dst e.code
      { regs := if dst.wide then [(x % 4294967296, e.bnd), (x / 4294967296, e.bnd)] else [(x, e.bnd)]
        fl := e.fl
        unb := isU e.bnd && !isU (A.bnd l)
        breach := if !m.q && v.breach e.bnd e then some e.bnd else none }
    fpBack c d.toNat (regsOf dst.wide) o 1 fun c => c.drew m.sr

/-- CVTPK (R157): a group of n elements per lane, from ns source registers to nd destination registers; the bound of a
destination register is judged by the limit of each of its elements (R80; DEDUCED, log 15). -/
def execCvtpk (h : Hdr) (m : CvMod) (dst src : Fmt) (d : VReg) (a : VS) (s : State) : Out :=
  onWord (.cvtpk h m dst src d a) h s fun c =>
    let ws := src.container
    let wd := dst.container
    let n := cvtpkN dst src
    let ns := cvtpkNs dst src
    let nd := cvtpkNd dst src
    let rows : List VRow := match a with
      | .v r => (List.range ns).map fun k => c.vAt .a r k
      | .s r => [(bcast (c.sr .a r)).lo]
    let v := c.env
    let o := outs c.act fun l =>
      let vals := rows.map fun x => x.val[l].toNat
      let bnds := rows.map fun x => x.bnd[l]
      let els := (List.range n).map fun i =>
        cvtEl dst src m.sat v.dnan (c.cvRnd m.sr m.rm l.val i) (elemAt ws vals i % 2 ^ fmtBits src) (bnds.getD (i * ws / 32) 0)
      let per := 32 / wd
      let regs := (List.range nd).map fun k =>
        let es := (els.drop (k * per)).take per
        (joinElems wd (es.map (·.code)), boundMaxL (es.map (·.bnd)))
      { regs := regs
        fl := els.foldl (fun f e => f.or e.fl) Flags.none
        unb := regs.any (fun r => isU r.2) && !bnds.any isU
        breach := if m.q then none else ((regs.zipIdx.filterMap fun r =>
          if ((els.drop (r.2 * per)).take per).any (v.breach r.1.2) then some r.1.2 else none).head?) }
    fpBack c d.toNat nd o 1 fun c => c.drew m.sr

/-- The active lanes of the half with base hb. -/
def halfLanes (m : Mask) (hb : Nat) : List (Fin 64) := (List.finRange 64).filter fun l => has m l.val && l.val / 32 == hb / 32

/-- MXSCALE (R158, R70). -/
def execMxscale (h : Hdr) (full : Bool) (fmt : MxFmt) (d a : VReg) (s : State) : Out :=
  onRegs (.mxscale h full fmt d a) h s fun c =>
    let A := c.v .a a
    let sc := fun hb => mxScale fmt ((halfLanes c.act hb).map fun l => A.val[l].toNat)
    let lo := sc 0
    let hi := sc 32
    c.setLanes false d c.act (fun l => if l.val < 32 then lo else hi) fun _ => 0

/-- The quantised elements of the lanes of a mask (R71; DEDUCED, log 15). -/
def mxEls (c : Ctx) (sr : Bool) (fmt : MxFmt) (A B : VRow) : Vector El 64 :=
  Vector.ofFn fun l =>
    if has c.act l.val then
      mxQuant fmt c.env.dnan (c.cvRnd sr .rn l.val 0) A.val[l].toNat (B.val[l].toNat % 256) A.bnd[l]
    else ⟨0, Flags.none, 0, none, 0⟩

/-- The elements that have bits in word j of a group of 32 elements of w bits. -/
def elemsInWord (w j : Nat) : List Nat := (List.range 32).filter fun i => decide (i * w < 32 * (j + 1)) && decide (32 * j < (i + 1) * w)

/-- MXQ (R159): unpacked codes, or block groups of the halves in their first lanes (DEDUCED, log 15). -/
def execMxq (h : Hdr) (sr sat full q pack : Bool) (fmt : MxFmt) (d a b : VReg) (s : State) : Out :=
  onWord (.mxq h sr sat full q pack fmt d a b) h s fun c =>
    let A := c.v .a a
    let B := c.v .b b
    let w := (mxFmt fmt).width
    let els := mxEls c sr fmt A B
    let v := c.env
    let packed := fun (l : Fin 64) =>
      let hb := l.val / 32 * 32
      let j := l.val - hb
      if j < w then
        let all := els.toList.drop hb
        let word := joinElems w ((all.take 32).map (·.code)) / 2 ^ (32 * j) % 4294967296
        (word, boundMaxL ((elemsInWord w j).map fun i => ((all.getD i ⟨0, Flags.none, 0, none, 0⟩).bnd)))
      else (0, 0)
    let ins := fun (l : Fin 64) =>
      if pack then
        let hb := l.val / 32 * 32
        (elemsInWord w (l.val - hb)).flatMap fun i =>
          if has c.act (hb + i) then [A.bnd.toList.getD (hb + i) 0, B.bnd.toList.getD (hb + i) 0] else []
      else [A.bnd[l], B.bnd[l]]
    let o := outs c.act fun l =>
      let e := els[l]
      let r := if pack then packed l else (e.code, e.bnd)
      { regs := [r], fl := e.fl, unb := isU r.2 && !(ins l).any isU,
        breach := if !q && v.breach e.bnd e then some e.bnd else none }
    fpBack c d.toNat 1 o 1 fun c => c.drew sr

/-- MXDQ (R160; DEDUCED, log 15). -/
def execMxdq (h : Hdr) (full q pack : Bool) (fmt : MxFmt) (d a b : VReg) (s : State) : Out :=
  onWord (.mxdq h full q pack fmt d a b) h s fun c =>
    let A := c.v .a a
    let B := c.v .b b
    let w := (mxFmt fmt).width
    let v := c.env
    let o := outs c.act fun l =>
      let hb := l.val / 32 * 32
      let i := l.val - hb
      let ws := (List.range w).filter fun j => (elemsInWord w j).contains i
      let code := if pack then
          joinElems 32 ((List.range w).map fun j => (A.val.toList.getD (hb + j) 0).toNat) / 2 ^ (i * w) % 2 ^ w
        else A.val[l].toNat % 2 ^ w
      let src := if pack then ws.map fun j => A.bnd.toList.getD (hb + j) 0 else [A.bnd[l]]
      let e := mxDequant fmt v.dnan code (B.val[l].toNat % 256) (boundMaxL src)
      { regs := [(e.code, e.bnd)], fl := e.fl, unb := isU e.bnd && !(src ++ [B.bnd[l]]).any isU,
        breach := if !q && v.breach e.bnd e then some e.bnd else none }
    fpBack c d.toNat 1 o 1 id

end Sys2Proof.Machine
end

