-- ==== Sys2Proof/Machine/Rime.lean ====
section
/-! DEFINITION. Rime control instructions (spec 07, R168 to R172) and the writes of the per-floe system registers that they
share with MTSR (R31, R80). -/

namespace Sys2Proof.Machine
open Sys2Proof

/-- A write of a governing register (R31): it takes effect at the next run. -/
def Ctx.pendSys (c : Ctx) (ix : Nat) (x : Word) : Ctx := { c with f := { c.f with sysPend := c.f.sysPend.put ix x } }

/-- The index of EBUD (R42). -/
def ixEbud : Nat := 0x020

/-- Writes bounds of the lanes of a mask of a register and leaves its values. -/
def Ctx.setBnd (c : Ctx) (reg : Nat) (m : Mask) (b : Fin 64 → Bound) : Ctx :=
  let cur := c.f.vreg reg
  c.setV reg m ⟨cur.val, Vector.ofFn b⟩

/-- Writes bounds to a register or pair (R168), with UNB where a lane gains U (R169). -/
def bndWord (c : Ctx) (w : Bool) (d : VReg) (b : Fin 64 → Bound) : Ctx :=
  let D := c.v .d d
  let c' := c.setBnd d.toNat c.act b
  let c' := if w then c'.setBnd (d.toNat + 1) c.act b else c'
  c'.stick (unbBit c.act b fun l => [D.bnd[l]])

/-- BGET (R169): one 32-bit register. -/
def execBget (h : Hdr) (w : Bool) (d a : VReg) (s : State) : Out :=
  onRegs (.bget h w d a) h s fun c =>
    let A := c.v .a a
    c.setLanes false d c.act (fun l => A.bnd[l].toNat) fun _ => 0
/-- BSET (R169): the code of A in canonical form. -/
def execBset (h : Hdr) (w : Bool) (d a : VReg) (s : State) : Out :=
  onRegs (.bset h w d a) h s fun c =>
    let A := c.v .a a
    bndWord c w d fun l => canonBound (A.val[l].setWidth 16)
/-- BCLR (R169). -/
def execBclr (h : Hdr) (w : Bool) (d : VReg) (s : State) : Out := onRegs (.bclr h w d) h s fun c => bndWord c w d fun _ => 0
/-- BUNB (R169). -/
def execBunb (h : Hdr) (w : Bool) (d : VReg) (s : State) : Out :=
  onRegs (.bunb h w d) h s fun c => bndWord c w d fun _ => 0x8000
/-- BMAXR (R169): the value of A with the larger of two bounds. -/
def execBmaxr (h : Hdr) (w : Bool) (d a b : VReg) (s : State) : Out :=
  onRegs (.bmaxr h w d a b) h s fun c =>
    let A := c.lanesV w .a a
    let B := c.lanesV w .b b
    c.setLanes w d c.act (A.val w) fun l => boundMax (A.bnd l) (B.bnd l)

/-- BCHK (R171). -/
def execBchk (h : Hdr) (ty : FTy) (kind : ChkKind) (p : PReg) (a : VReg) (s : State) : Out :=
  onRegs (.bchk h ty kind p a) h s fun c =>
    let w := ty.wide
    let A := c.lanesV w .a a
    let F := fmtOf ty
    let v := c.env
    let y := c.f.sys
    let test := fun (chk : BitVec 2) (l : Fin 64) =>
      (elemsOf ty (A.val w l)).any fun x =>
        ({ v with chk := chk } : FpEnv).breach (A.bnd l) (El.checked F x Flags.none (A.bnd l))
    c.setP p c.act (maskOf fun l => match kind with
      | .abs => test 1 l
      | .rel => test 2 l
      | .cur => test (y.bmode.setWidth 2) l
      | .unb => isU (A.bnd l))

/-- BUD (R172). -/
def execBud (h : Hdr) (a : SReg) (s : State) : Out :=
  onRegs (.bud h a) h s fun c =>
    c.once fun c => c.pendSys ixEbud ((canonBound ((c.sr .a a).setWidth 16)).setWidth 64)
/-- BUDI (R172). -/
def execBudi (h : Hdr) (imm : BitVec 16) (s : State) : Out :=
  onRegs (.budi h imm) h s fun c => c.once fun c => c.pendSys ixEbud ((canonBound imm).setWidth 64)

end Sys2Proof.Machine
end

