-- ==== Sys2Proof/Machine/Sync.lean ====
section
/-! DEFINITION. Hardware barriers (R198, R199, R379), join registers (R200 to R202), synchronising instructions whose membership is
complete (R25, R197), and the arrivals at barrier objects (R195). -/

namespace Sys2Proof.Machine
open Sys2Proof

/-! ### Fields -/

/-- Replaces a field. -/
def State.putField (s : State) (x : Field) : State :=
  s.setHub { s.hub with fields := s.hub.fields.map fun f => if f.inst == x.inst && f.node == x.node then x else f }

/-- The extent of a field along its partition axis, and the packs of one index of that axis (R283). -/
def Desc.slab (d : Desc) : Nat :=
  match d.axis with
  | 0 => d.ny * d.nz
  | 1 => d.nx * d.nz
  | _ => d.nx * d.ny

/-- The ranges along the partition axis that a die has, in ascending order (R283, R284). -/
def Field.rangesOf (f : Field) (die : Nat) : List (Nat × Nat) :=
  ((f.ranges.zip f.owners).filter fun e => e.2 == die).map (·.1)

/-- Indices of ranges. -/
def rangesLen (rs : List (Nat × Nat)) : Nat := (rs.map fun r => r.2 - r.1).sum

/-- Packs in a die's range (R283). -/
def Field.count (f : Field) (die : Nat) : Nat := rangesLen (f.rangesOf die) * f.desc.slab

/-- A floe of a field by pack number and floe index. -/
def floeCode (k findex : Nat) : Nat := k * 16 + findex

/-- Floes of a pack that have not retired. -/
def liveStats (st : List FloeStat) : Nat := (st.filter (· != .retired)).length

/-- Floes of a field that have not retired, in the range of one die or in all (R199). -/
def State.liveFloes (s : State) (f : Field) (die : Option Nat) : Nat :=
  let dies := match die with
    | some d => [d]
    | none => List.range 8
  dies.foldl (fun n d =>
    n + (f.count d - f.placed.getD d 0) * f.desc.nfloes +
      ((List.filter (fun e => e.2.id.inst == f.inst && e.2.id.node == f.node && dieOf (coreOf e.1) == d) s.packs).map fun e =>
        liveStats e.2.stats).sum +
      ((f.saved.filter fun v => v.die == d).map fun v => liveStats v.stats).sum) 0

/-! ### Hardware barriers -/

/-- The barriers of a level that the launch allocated (R199, R382). -/
def Desc.bars (d : Desc) : SbarLevel → Nat
  | .quad => d.barq
  | .die => d.bard
  | .pkg => d.barp
  | .pod => d.barpod

/-- Where a level's barrier stands for a core. -/
def sbarPlace (lv : SbarLevel) (core : Nat) : Nat :=
  match lv with
  | .quad => quadOf core
  | .die => dieOf core
  | _ => 0

/-- A barrier of a field; an untouched one is at generation 0 (R198). -/
def Field.bar (f : Field) (lv : SbarLevel) (place index : Nat) : HwBar :=
  (f.bars.find? fun b => b.level == lv && b.place == place && b.index == index).getD ⟨lv, place, index, 0, [], []⟩

/-- Replaces a barrier of a field. -/
def Field.putBar (f : Field) (b : HwBar) : Field :=
  { f with bars := (f.bars.filter fun x => !(x.level == b.level && x.place == b.place && x.index == b.index)) ++ [b] }

/-- The floes of a field resident in a quad (R199). -/
def State.quadFloes (s : State) (f : Field) (quad : Nat) : List Nat :=
  s.floes.filterMap fun e =>
    if quadOf (coreOf e.1) = quad then
      match s.packs.find? e.2.pack with
      | some p => if p.id.inst = f.inst ∧ p.id.node = f.node then some (floeCode p.id.k e.2.findex) else none
      | none => none
    else none

/-- Whether every participant of the open generation has arrived (R198, R199); a pod barrier's local ones
(DEDUCED, log 40). -/
def State.sbarFull (s : State) (f : Field) (b : HwBar) : Bool :=
  match b.level with
  | .quad => !b.arrived.isEmpty && b.members.all fun m => b.arrived.contains m
  | .die => !b.arrived.isEmpty && b.arrived.length == s.liveFloes f (some b.place)
  | .pkg | .pod => !b.arrived.isEmpty && b.arrived.length == s.liveFloes f none

/-- Ends SBWAIT on entries. -/
def clearSbwait (fr : List Entry) : List Entry := fr.map fun e => { e with flags := e.flags &&& ~~~flagSbwait }

/-- Clears SBWAIT on the floes of a field that arrived in a generation of a barrier and wait on it, wherever they stand now: in
their frontier, the interrupted one and the one that FRLOAD loaded; and lets arrivals that the wait held back take theirs
(R198). -/
def State.sbarRelease (s : State) (f : Field) (b : HwBar) : State :=
  { s with floes := s.floes.map fun e =>
    let mine := match s.packs.find? e.2.pack with
      | some p => p.id.inst == f.inst && p.id.node == f.node && b.arrived.contains (floeCode p.id.k e.2.findex)
      | none => false
    match e.2.sbar with
    | some (l, i, g) =>
      if mine && l == b.level && i.toNat == b.index && g == b.gen then
        (e.1, { e.2 with
          sbar := none, frontier := clearSbwait e.2.frontier, intFrontier := clearSbwait e.2.intFrontier
          loaded := e.2.loaded.map clearSbwait })
      else e
    | none => e }

/-- Opens the next generation of a full barrier and ends the waits on the complete one (R198). A pod barrier's local
generation closes with its arrival at the record (R379); its waiters stay until the completion comes
(DEDUCED, log 40). -/
def State.sbarCheck (s : State) (inst node : Nat) (lv : SbarLevel) (place index : Nat) : State :=
  match s.hub.fields.find? fun f => f.inst == inst && f.node == node with
  | none => s
  | some f =>
    let b := f.bar lv place index
    if lv = .pod || !s.sbarFull f b then s
    else
      (s.putField (f.putBar { b with gen := b.gen + 1, arrived := [], members := [] })).sbarRelease f b

/-- One arrival of a floe at a hardware barrier (R198): recorded in the open generation; the floe then waits on it. -/
def State.sbarArrive (s : State) (key : Nat) (lv : SbarLevel) (index : Nat) : State :=
  match s.floes.find? key with
  | none => s
  | some x =>
    match s.packs.find? x.pack with
    | none => s
    | some p =>
      match s.fieldOf p.id with
      | none => s
      | some f =>
        let place := sbarPlace lv (coreOf key)
        let b := f.bar lv place index
        let me := floeCode p.id.k x.findex
        let members := if b.arrived.isEmpty && lv == .quad then s.quadFloes f place else b.members
        let b := { b with arrived := if b.arrived.contains me then b.arrived else b.arrived ++ [me], members := members }
        let s := (s.putField (f.putBar b)).setFloe key { x with sbar := some (lv, BitVec.ofNat 5 index, b.gen) }
        s.sbarCheck p.id.inst p.id.node lv place index

/-! ### Join registers -/

/-- The number of completed generations of a join register: those before the first that is fired and not yet written (R200,
R201). -/
def Pack.doneOf (p : Pack) (j : JReg) : BitVec 16 :=
  let x := p.joins.toList.getD j.toNat Join.idle
  match p.mmas.find? fun m => m.join == j && m.gen != x.gen with
  | some m => m.gen
  | none => x.gen

/-- A pack with a join register replaced and DONE brought up to date. -/
def Pack.putJoin (p : Pack) (j : JReg) (x : Join) : Pack :=
  let p := { p with joins := p.joins.set j.toNat x j.isLt }
  { p with joins := p.joins.set j.toNat { x with done := p.doneOf j } j.isLt }

/-- The state of join register j. -/
def Pack.join (p : Pack) (j : JReg) : Join := p.joins[j.toNat]'j.isLt

/-- Whether a signed generation of MMA has reached its count (R201). -/
def Pack.isFired (p : Pack) (m : Mma) : Bool := m.gen != (p.join m.join).gen

/-- Whether the signed generation g has completed (R200): every one has but those from DONE to GEN, in the order of the 16-bit
counts (DEDUCED, log 40). -/
def Join.genDone (x : Join) (g : BitVec 16) : Bool := decide ((x.gen - x.done).toNat < (g - x.done).toNat)

/-- Ends the JWAITs of a pack on completed generations of j (R200). -/
def State.joinWake (s : State) (pack : Nat) (j : JReg) : State :=
  match s.packs.find? pack with
  | none => s
  | some p =>
    s.eachFloe pack fun f => f.wake fun w => match w with
      | .join k g => k == j && (p.join j).genDone g
      | _ => false

/-- A boundary cause raised in a floe from outside its run. -/
def State.raiseAt (s : State) (key : Nat) (t : BTrap) : State := s.modFloe key fun f => { f with traps := f.traps ++ [t] }

/-- XINFO of a join mismatch (R202). -/
def joinInfo (code : Nat) (j : JReg) : Word := BitVec.ofNat 64 (code + 256 * j.toNat)

/-- A failed signature (R202): the count is cleared, and every other floe whose signature it included takes code 4. Each still
holds its signature, so that its JWAIT waits as it stood. -/
def State.joinFail (s : State) (pack : Nat) (j : JReg) (except_ : Nat) : State :=
  match s.packs.find? pack with
  | none => s
  | some p =>
    let x := p.join j
    let heldSig (f : Floe) : Option Sig :=
      if x.count = 0 then none else (f.signed.find? j.toNat).bind fun g => if g.gen = x.gen ∧ g.counted then some g else none
    let hit (e : Nat × Floe) : Nat × Floe :=
      if e.2.pack ≠ pack then e
      else
        match heldSig e.2 with
        | none => e
        | some g =>
          let f := { e.2 with signed := e.2.signed.put j.toNat { g with counted := false } }
          let t : BTrap := ⟨⟨0x31, g.pc, 0, g.pc.setWidth 64, joinInfo 4 j, false⟩, .jwait j, true, true, true⟩
          if e.1 = except_ then (e.1, f) else (e.1, { f with traps := f.traps ++ [t] })
    let s := { s with floes := s.floes.map hit }
    s.setPack pack
      ({ p with mmas := p.mmas.filter fun m => !(m.join == j && m.gen == x.gen) }.putJoin j { x with count := 0, rec? := none })

/-- Sign of R201 for a floe with n lanes and record r: the new state, or the mismatch code. -/
def State.sign (s : State) (pack : Nat) (j : JReg) (key n : Nat) (r : SignRec) (g : Mask) (pc : BitVec 48) (word : Word) :
    Option State × Nat :=
  match s.packs.find? pack with
  | none => (none, 1)
  | some p =>
    let x := p.join j
    if x.expected = 0 then (none, 1)
    else if x.count ≠ 0 ∧ x.rec? ≠ some r then (none, 2)
    else if x.expected.toNat < x.count.toNat + n then (none, 3)
    else
      let cnt := x.count.toNat + n
      let mine (m : Mma) : Bool := m.join == j && m.gen == x.gen
      let me : Signer :=
        match s.floes.find? key with
        | some f => ⟨f.findex, g, pc, word, f.handler⟩
        | none => ⟨0, g, pc, word, false⟩
      let mmas :=
        if !r.mma then p.mmas
        else if p.mmas.any mine then
          p.mmas.map fun m => if mine m then { m with signers := m.signers ++ [me] } else m
        else p.mmas ++ [⟨j, x.gen, r, [me], none⟩]
      let fired := cnt == x.expected.toNat
      let mmas := if fired then mmas.filter (!mine ·) ++ mmas.filter mine else mmas
      let y : Join := if fired then { x with count := 0, gen := x.gen + 1, rec? := none }
        else { x with count := BitVec.ofNat 11 cnt, rec? := some r }
      let s := (s.setPack pack ({ p with mmas := mmas }.putJoin j y)).modFloe key fun f =>
        { f with signed := f.signed.put j.toNat ⟨x.gen, g, pc, word, true⟩ }
      (some (if fired then s.joinWake pack j else s), 0)

/-- The record of a JSIGN (R201). -/
def SignRec.jsign : SignRec := ⟨false, 0, 0, 0, 0, 0, 0, 0⟩

/-! ### Synchronising instructions (R25, R197) -/

/-- The most synchronising instructions with an incomplete membership that a floe holds (R25). -/
def syncLimit : Nat := 64

/-- Whether a named lane has still to execute the instruction. -/
def SyncRec.open? (x : SyncRec) : Bool := x.member &&& ~~~x.done != 0

/-- The records of the floe's present mode. -/
def Floe.syncsNow (f : Floe) : List SyncRec := f.syncs.filter fun x => x.handler == f.handler

/-- Every lane of the membership has executed the instruction. -/
def SyncRec.full (x : SyncRec) : Bool := !x.bad && !x.open?

/-- What a record's instruction does; after a restore, read off its word with the restored registers (R312). -/
def SyncRec.what (x : SyncRec) (f : Floe) : Option SyncOp :=
  match x.op with
  | some o => some o
  | none =>
    match decode? (marked x.word) with
    | some (.bararr _ _ sa off) => some (.arrive (f.sreg sa.toNat + off.signExtend 64))
    | some (.bardrop _ _ sa off) => some (.drop (f.sreg sa.toNat + off.signExtend 64))
    | some (.sbar _ level b _) => some (.sbar level b)
    | some (.jsign _ j _) => some (.jsign j)
    | _ => none

/-- Whether lanes of a floe have accesses that are not performed, which a release waits for (R244), also those of later words of its
run that have issued (R249; DEDUCED, log 11). -/
def State.lanesBusy (s : State) (key seq : Nat) (m : Mask) : Bool :=
  s.pend.any fun e => e.2.floe == key && e.2.seq == seq && e.2.lanes &&& m != 0

/-- An event or a signature: made, failed with cause, XADDR and XINFO, or still to wait. -/
inductive SyncRes where
  | made (s : State)
  | fail (s : State) (cause : BitVec 8) (addr info : Word)
  | wait
  deriving DecidableEq, Repr

/-- One more completed arrival (R293). -/
def Floe.arrived (f : Floe) : Floe := { f with arrivals := f.arrivals + 1 }

/-- An arrival or drop of n lanes at an object (R193, R194). -/
def State.arriveAt (s : State) (key : Nat) (f : Floe) (bar : Word) (n : Nat) (isDrop : Bool) : SyncRes :=
  match s.packs.find? f.pack with
  | none => .made s
  | some p =>
    let o := bar.toNat
    let dExp := if isDrop then n else 0
    if !p.inPad o 16 then .made s
    else if (s.obj f.pack p o).short n dExp then .fail s 0x32 bar (if isDrop then 4 else 3)
    else .made ((s.barEvent f.pack p o n dExp 0).modFloe key Floe.arrived)

/-- The event or signature of a complete membership (DEDUCED, log 11). -/
def State.syncEvent (s : State) (key : Nat) (f : Floe) (x : SyncRec) : SyncRes :=
  let n := popc x.member
  match x.what f with
  | some (.drop bar) => s.arriveAt key f bar n true
  | some (.arrive bar) => if s.lanesBusy key f.seq x.member then .wait else s.arriveAt key f bar n false
  | some (.sbar level b) =>
    if f.sbar.isSome || s.lanesBusy key f.seq x.member then .wait
    else
      let sbwait (e : Entry) : Entry := if e.mask &&& x.done != 0 then { e with flags := e.flags ||| flagSbwait } else e
      let s := s.modFloe key fun f =>
        { f.arrived with
          frontier := f.frontier.map sbwait, run := f.run.map fun r => { r with sbar := r.sbar ||| (x.done &&& r.mask) } }
      .made (s.sbarArrive key level b.toNat)
  | some (.jsign j) =>
    if s.lanesBusy key f.seq x.member then .wait
    else
      match s.sign f.pack j key n SignRec.jsign x.member x.addr x.word with
      | (some s, _) => .made s
      | (none, k) => .fail (s.joinFail f.pack j key) 0x31 (x.addr.setWidth 64) (joinInfo k j)
  | none => .made s

/-- Clears SYWAIT where neither a pending instruction nor its trap holds it. -/
def Floe.clearSywait (f : Floe) : Floe :=
  let trapped (m : Mask) (t : BTrap) : Bool := match t.who with
    | .sywait l => (t.own || !f.handler) && l &&& m != 0
    | _ => false
  let held (e : Entry) : Bool := f.syncsNow.any (fun x => x.done &&& e.mask != 0) || f.traps.any (trapped e.mask)
  { f with frontier := f.frontier.map fun e => if held e then e else { e with flags := e.flags &&& ~~~flagSywait } }

/-- A floe without a record. -/
def Floe.dropSync (f : Floe) (x : SyncRec) : Floe :=
  { f with syncs := f.syncs.filter fun y => !(y.addr == x.addr && y.handler == x.handler) }

/-- The moment at which every lane named has executed a synchronising instruction (R197): its event or signature takes place and
SYWAIT ends, or it fails, which the boundary raises in each entry that executed it. An SBAR held back by an SBWAIT waits
(R198). -/
def State.syncMoment (s : State) (key : Nat) (x : SyncRec) : State :=
  match s.floes.find? key with
  | none => s
  | some f =>
    match s.syncEvent key f x with
    | .made s => s.modFloe key fun f => (f.dropSync x).clearSywait
    | .fail s cause addr info =>
      s.modFloe key fun f => { f with syncs := f.syncs.map fun y =>
        if y.addr == x.addr && y.handler == x.handler then { y with failed := some (cause, addr, info) } else y }
    | .wait => s

/-- The lanes of ACTIVE execute a synchronising instruction with a membership: it joins its record, and its moment comes when
every named lane has. A broken membership, or one beyond the capacity of the sync records, is marked, and the boundary raises
SYNC_MASK in every entry that executed the instruction (R25, R197). -/
def Ctx.sync (c : Ctx) (member : Mask) (op : SyncOp) : Ctx :=
  if c.act = 0 then c else
  let mine (x : SyncRec) : Bool := x.addr == c.pc && x.handler == c.handler
  let full := decide (syncLimit ≤ (c.f.syncs.filter SyncRec.open?).length)
  let x : SyncRec :=
    match c.f.syncs.find? mine with
    | some x =>
      { x with done := x.done ||| c.act, word := c.word, op := some op,
               bad := x.bad || x.member != member || c.act &&& ~~~x.member != 0 }
    | none => ⟨c.pc, if full then c.act else member, c.act, c.word, some op, full || c.act &&& ~~~member != 0, c.handler, none⟩
  let c := { c with
    f := { c.f with syncs := if c.f.syncs.any mine then c.f.syncs.map fun z => if mine z then x else z else c.f.syncs ++ [x] }
    r := { c.r with sync := c.r.sync ||| c.act } }
  if x.full && x.failed.isNone then c.via fun s => s.syncMoment c.key x else c

/-! ### The instructions -/

/-- BARARR (R195): the arrival takes place when the membership is complete. -/
def execBararr (h : Hdr) (d : PReg) (sa : SReg) (off : BitVec 13) (s : State) : Out :=
  onWord (.bararr h d sa off) h s fun c =>
    let bar := c.addr1 sa off
    c.onObj bar false fun _ _ _ => retire (c.sync (c.p .d d) (.arrive bar))

/-- BARDROP (R195): the drop takes place when the membership is complete. -/
def execBardrop (h : Hdr) (d : PReg) (sa : SReg) (off : BitVec 13) (s : State) : Out :=
  onWord (.bardrop h d sa off) h s fun c =>
    let bar := c.addr1 sa off
    c.onObj bar false fun _ _ _ => retire (c.sync (c.p .d d) (.drop bar))

/-- SBAR (R198): the arrival takes place when the membership is complete (DEDUCED, log 40). -/
def execSbar (h : Hdr) (level : SbarLevel) (b : BitVec 5) (a : PReg) (s : State) : Out :=
  onWord (.sbar h level b a) h s fun c =>
    if c.act = 0 then retire c else
    match c.pack?.bind fun p => c.s.fieldOf p.id with
    | none => retire c
    | some f =>
      if f.desc.bars level ≤ b.toNat then trapAt c 0x32 c.act 0 6
      else retire (c.sync (c.p .a a) (.sbar level b))

/-- JDECL (R200). -/
def execJdecl (h : Hdr) (d : JReg) (a : SReg) (s : State) : Out :=
  onWord (.jdecl h d a) h s fun c =>
    if c.act = 0 then retire c else
    match c.pack? with
    | none => retire c
    | some p =>
      let v := (c.sr .a a).toNat
      let x := p.join d
      let ok := v ≤ 1024 && (x.expected == 0 || x.count == 0 || x.expected.toNat == v)
      if !ok then trapAt c 0x31 c.act 0 (joinInfo 5 d)
      else retire { c with s := c.s.setPack c.f.pack (p.putJoin d { x with expected := BitVec.ofNat 11 v }) }

/-- JSIGN (R200): the signature takes place when the membership is complete. -/
def execJsign (h : Hdr) (d : JReg) (a : PReg) (s : State) : Out :=
  onWord (.jsign h d a) h s fun c => retire (c.sync (c.p .a a) (.jsign d))

/-- JWAIT (R200): the lanes of ACTIVE wait at the word with BLOCKED for the generation that this floe last signed. They do not
keep the wait of a SLEEP earlier in the run (DEDUCED, log 39). -/
def execJwait (h : Hdr) (d : JReg) (s : State) : Out :=
  onWord (.jwait h d) h s fun c =>
    match c.pack?, c.f.signed.find? d.toNat with
    | some p, some g =>
      if c.act = 0 || (p.join d).genDone g.gen then retire c.endRun
      else
        retire ((c.leave c.act
          [{ pc := c.pc, prio := c.r.prio, flags := flagBlocked, mask := c.act, wait := .join d g.gen }]).endRun)
    | _, _ => retire c.endRun

end Sys2Proof.Machine
end

