-- ==== Sys2Proof/Machine/Memory.lean ====
section
/-! DEFINITION. Loads, stores, atomics, Moraine accesses, fences and cache control (spec 08). A global access issues here and is
performed by LOAD_RESPONSE or STORE_PERFORMED; a scratchpad access is performed at its issue. -/

namespace Sys2Proof.Machine
open Sys2Proof

/-! ### Data of lanes -/

/-- The registers that a loaded datum writes, with their bounds (R177). -/
def loadWords (sz : Sz) (bs : List (Byte × Bound)) : List (Lane × Bound) :=
  let word (k n : Nat) : Nat := leNat (((bs.drop k).take n).map (·.1))
  let bnd (k n : Nat) : Bound := boundMaxL (((bs.drop k).take n).map (·.2))
  match sz with
  | .n8 => [(BitVec.ofNat 32 (word 0 1), bnd 0 1)]
  | .s8 => [((BitVec.ofNat 8 (word 0 1)).signExtend 32, bnd 0 1)]
  | .n16 => [(BitVec.ofNat 32 (word 0 2), bnd 0 2)]
  | .s16 => [((BitVec.ofNat 16 (word 0 2)).signExtend 32, bnd 0 2)]
  | .b32 => [(BitVec.ofNat 32 (word 0 4), bnd 0 4)]
  | .b64 => [(BitVec.ofNat 32 (word 0 4), bnd 0 8), (BitVec.ofNat 32 (word 4 4), bnd 0 8)]
  | .b128 => (List.range 4).map fun k => (BitVec.ofNat 32 (word (4 * k) 4), bnd (4 * k) 4)

/-- Writes loaded data to the lanes of a mask of the registers from d on. A bound of U that a load brings sets no bit of
BSTICKY: R85 speaks of input bounds, and a load has none (DEDUCED, log 15). -/
def putLoad (fr : Floe × Run) (num : Nat) (sz : Sz) (d : VReg) (m : Mask) (data : Nat → List (Byte × Bound)) : Floe × Run :=
  let rows : Vector (List (Lane × Bound)) 64 :=
    Vector.ofFn fun l => if has m l.val then loadWords sz (data l.val) else []
  (List.range (szSpan sz)).foldl (fun fr k =>
    writeV fr.1 fr.2 num (d.toNat + k) m
      ⟨Vector.ofFn fun l => (rows[l].getD k (0, 0)).1, Vector.ofFn fun l => (rows[l].getD k (0, 0)).2⟩) fr

/-- The value that LDU writes (R179). -/
def uniWord (sz : Sz) (bs : List (Byte × Bound)) : Word :=
  let n := leNat (bs.map (·.1))
  match sz with
  | .s8 => (BitVec.ofNat 8 n).signExtend 64
  | .s16 => (BitVec.ofNat 16 n).signExtend 64
  | _ => BitVec.ofNat 64 n

/-- Byte k of a lane's store data with its bound (R178): of a pair the even register's bound. -/
def Ctx.storeByte (rows : List VRow) (sz : Sz) (lane k : Nat) : Byte × Bound :=
  let row := rows.getD (k / 4) VRow.zero
  let from_ := if sz = .b64 then rows.getD 0 VRow.zero else row
  (BitVec.ofNat 8 ((row.val.toList.getD lane 0).toNat / 256 ^ (k % 4)), from_.bnd.toList.getD lane 0)

/-- The registers of a store's data. -/
def Ctx.dataRows (c : Ctx) (d : VReg) (n : Nat) : List VRow := (List.range n).map fun k => c.vAt .d d k

/-- Sets BSTICKY.LOST when it is due (R88; DEDUCED, log 47): after the store has issued, so that a store that traps drops nothing
(R85, R304). -/
def Ctx.lost (c : Ctx) (b : Bool) : Ctx := if b then c.stick stickyLOST else c

/-! ### Global loads and stores (R177 to R179) -/

/-- LD (R177). -/
def execLd (h : Hdr) (m : MemOp) (sz : Sz) (d : VReg) (s : State) : Out :=
  onWord (.ld h m sz d) h s fun c =>
    let n := szBytes sz
    let act := c.act
    c.access ⟨false, 1, none, false⟩ n (c.addrs m) fun c cks =>
      let units := unitsOf (c.act == act) (cks.flatMap (laneUnits m.level n))
      retire (c.issue ⟨laneMask c.act cks, m.order, m.scope, true, false, units.map .load, .vec sz d, minExp cks, true, onMmio cks⟩)

/-- The units of a store: each unit's spans with the bytes that no higher lane writes; a unit left empty is none. -/
def storeUnits (units : List (List Span)) (data : Nat → Nat → Byte × Bound) : List (List StSpan) :=
  let all := units.flatten
  (units.map fun u => (u.map (storeSpan all data)).filter fun x => !x.bytes.isEmpty).filter fun u => !u.isEmpty

/-- ST (R178). -/
def execSt (h : Hdr) (m : MemOp) (sz : Sz) (d : VReg) (s : State) : Out :=
  onWord (.st h m sz d) h s fun c =>
    let n := szBytes sz
    let act := c.act
    let rows := c.dataRows d (szSpan sz)
    c.access ⟨true, 1, none, false⟩ n (c.addrs m) fun c cks =>
      let units := storeUnits (unitsOf (c.act == act) (cks.flatMap fun k => laneUnits m.level n k)) (Ctx.storeByte rows sz)
      retire ((c.issue ⟨laneMask c.act cks, m.order, m.scope, false, true, units.map .store, .none, minExp cks, storeTraps cks,
        onMmio cks⟩).lost (units.any dropsBound))

/-- LDU (R179): one access of every lane of ACTIVE. -/
def execLdu (h : Hdr) (m : MemOp) (sz : Sz) (d : SReg) (s : State) : Out :=
  onWord (.ldu h m sz d) h s fun c =>
    if c.act = 0 then retire c else
    let n := szBytes sz
    c.access ⟨false, 1, none, false⟩ n [(64, c.addr1 m.sa m.off)] fun c cks =>
      let spans := cks.flatMap (laneUnits m.level n)
      retire (c.issue ⟨laneMask c.act cks, m.order, m.scope, true, false, spans.map fun x => .load [x], .uni sz d, minExp cks, true,
        onMmio cks⟩)

/-- STU (R179): bounds 0x0000. -/
def execStu (h : Hdr) (m : MemOp) (sz : Sz) (d : SReg) (s : State) : Out :=
  onWord (.stu h m sz d) h s fun c =>
    if c.act = 0 then retire c else
    let n := szBytes sz
    let x := c.sr .d d
    c.access ⟨true, 1, none, false⟩ n [(64, c.addr1 m.sa m.off)] fun c cks =>
      let units := storeUnits ((cks.flatMap fun k => laneUnits m.level n k).map fun x => [x]) fun _ k =>
        (BitVec.ofNat 8 (x.toNat / 256 ^ k), 0)
      retire (c.issue ⟨laneMask c.act cks, m.order, m.scope, false, true, units.map .store, .none, minExp cks, storeTraps cks, onMmio cks⟩)

/-! ### Scratchpad (R177, R178, R180) -/

/-- The checks of R174 and R180 for n bytes at each lane's scratchpad offset. -/
def Ctx.onPad (c : Ctx) (align n : Nat) (las : List (Nat × Word)) (k : Pack → State) : State :=
  match c.pack? with
  | none => retire c
  | some p =>
    let bad (t : Word → Bool) : Mask := maskWhere fun l => las.any fun e => e.1 == l && t e.2
    let addr (t : Word → Bool) : Word := ((las.find? fun e => t e.2).map (·.2)).getD 0
    let mis := fun (a : Word) => a.toNat % align != 0
    let far := fun (a : Word) => !p.inPad a.toNat n
    if bad mis ≠ 0 then trapAt c 0x22 (bad mis) (addr mis) c.word
    else if bad far ≠ 0 then trapAt c 0x21 (bad far) (addr far) c.word
    else k p

/-- The same for an access that belongs to every lane of ACTIVE (R206, R212). -/
def Ctx.onPadAll (c : Ctx) (align n : Nat) (las : List (Nat × Word)) (k : Pack → State) : State :=
  match c.pack? with
  | none => retire c
  | some p =>
    match las.find? fun e => e.2.toNat % align != 0 with
    | some e => trapAt c 0x22 c.act e.2 c.word
    | none =>
      match las.find? fun e => !p.inPad e.2.toNat n with
      | some e => trapAt c 0x21 c.act e.2 c.word
      | none => k p

/-- The core of the floe's pack. -/
def Ctx.padCore (c : Ctx) : Core := c.s.core c.core

/-- LDS (R177, R180). -/
def execLds (h : Hdr) (m : MemOp) (sz : Sz) (d : VReg) (s : State) : Out :=
  onWord (.lds h m sz d) h s fun c =>
    let n := szBytes sz
    let las := c.addrs m
    c.onPad n n las fun p =>
      let x := c.padCore
      let (f, r) := putLoad (c.f, c.r) c.num sz d c.act fun l =>
        padLoad x p (((las.find? fun e => e.1 == l).map (·.2.toNat)).getD 0) n
      retire { c with f := f, r := r }

/-- A store of bytes with bounds to the pack's scratchpad in one event, with what it does to barrier objects (R364, R367). -/
def Ctx.padStore (c : Ctx) (p : Pack) (w : List (Nat × Byte × Bound)) : Ctx :=
  c.via fun s => (s.setCore c.core (padWrite (s.core c.core) p w)).afterStore c.f.pack p s c.handler (w.map (·.1))

/-- STS (R178, R180): the highest lane that writes a byte supplies it. -/
def execSts (h : Hdr) (m : MemOp) (sz : Sz) (d : VReg) (s : State) : Out :=
  onWord (.sts h m sz d) h s fun c =>
    let n := szBytes sz
    let las := c.addrs m
    let rows := c.dataRows d (szSpan sz)
    c.onPad n n las fun p =>
      let w := las.flatMap fun e =>
        if las.any fun g => decide (e.1 < g.1) && g.2 == e.2 then []
        else (List.range n).map fun k => (e.2.toNat + k, Ctx.storeByte rows sz e.1 k)
      retire (c.padStore p w)

/-! ### Prefetch and asynchronous load (R181, R182) -/

/-- PREF (R181): lines of lanes that pass every check, at a level other than stream; no effect on any value. -/
def execPref (h : Hdr) (m : MemOp) (s : State) : Out :=
  onWord (.pref h m) h s fun c =>
    match c.pack? with
    | none => retire c
    | some p =>
      let (s, cks) := checkLanes c.core c.f.ctx (c.s.rootOf p) c.f.handler ⟨false, 1, none, true⟩ c.s ((c.addrs m).map fun la => (la, 1))
      let s := cks.foldl (fun s ck =>
        if ck.prot || ck.mis || ck.cell then s
        else ck.pieces.foldl (fun s q =>
          let lv := effLevel m.level q.leaf
          if lv = .stream then s else s.cacheLoad c.core q.pa lv) s) s
      retire { c with s := s }

/-- LDSP (R182): one engine copy per lane, forked at issue (DEDUCED, log 43). Its destination is checked before its barrier
(DEDUCED, log 21). -/
def execLdsp (h : Hdr) (m : MemOp) (sz : Sz) (d : SReg) (s : State) : Out :=
  onWord (.ldsp h m sz d) h s fun c =>
    let n := szBytes sz
    let x := (c.sr .d d).toNat
    let bar := bitsAt x 32 24
    let dst := bitsAt x 0 24
    let at_ := fun l => BitVec.ofNat 64 (dst + l * n)
    if bitsAt x 56 8 ≠ 0 ∨ bitsAt x 24 8 ≠ 0 then illegalOperand c
    else if c.act = 0 then retire c
    else
      c.onPad n n ((lanesOf c.act).map fun l => (l, at_ l)) fun _ =>
        c.onObj (BitVec.ofNat 64 bar) false fun p _ _ =>
          c.access ⟨false, 1, none, false⟩ n (c.addrs m) fun c cks =>
            let copies := cks.zipIdx.map fun e =>
              ({ id := c.s.fresh + e.2, born := c.s.hub.firn.toNat, exp := minExp [e.1], pack := p.id, ctx := c.f.ctx, src := laneUnits m.level n e.1, dst := dst + e.1.lane * n,
                 n := n, bar := bar, fork := ⟨c.key, c.f.seq, c.num, maskWhere fun l => l == e.1.lane⟩ } : Copy)
            retire { c with s := { c.s with copies := c.s.copies ++ copies, fresh := c.s.fresh + copies.length } }

/-! ### Atomics (R183 to R185) -/

/-- Width in bytes of an atomic type. -/
def atBytes (ty : ATy) : Nat := if ty.wide then 8 else 4

/-- Apply of R184 with the bound of R88: the new word and bound, none where nothing is written (a failed cas). -/
def atomApply (f : AFun) (ty : ATy) (dnan : Bool) (old : Nat) (oldB : Bound) (x y : Word) (xb yb : Bound) : Option (Nat × Bound) :=
  let W := 8 * atBytes ty
  let a := old
  let b := x.toNat % 2 ^ W
  let fmt : Option FFmt := match ty with
    | .f32 => some FFmt.f32
    | .f64 => some FFmt.f64
    | _ => none
  let signed : Bool := match ty with
    | .s32 | .s64 => true
    | _ => false
  let lt (p q : Nat) : Bool := decide (intVal W signed p < intVal W signed q)
  let int (v : Nat) : Option (Nat × Bound) := some (v % 2 ^ W, intBound [oldB, xb])
  let flt (F : FFmt) (op : TOp) : Option (Nat × Bound) :=
    let e := tiered F op F.P .rn dnan a b 0 oldB xb 0
    some (e.code, e.bnd)
  let sel (F : FFmt) (mx : Bool) : Option (Nat × Bound) :=
    let e := fminmax F mx dnan a b oldB xb
    some (e.code, e.bnd)
  match f, fmt with
  | .add, none => int (a + b)
  | .sub, none => int (a + 2 ^ W - b)
  | .min, none => int (if lt b a then b else a)
  | .max, none => int (if lt a b then b else a)
  | .add, some F => flt F .add
  | .sub, some F => flt F .sub
  | .min, some F => sel F false
  | .max, some F => sel F true
  | .and, _ => int (a &&& b)
  | .or, _ => int (a ||| b)
  | .xor, _ => int (a ^^^ b)
  | .xchg, _ => some (b, xb)
  | .cas, _ => if a = b then some (y.toNat % 2 ^ W, yb) else none

/-- The data of a lane of an atomic: value and bound, for cas also the new value (R183, R88). -/
def Ctx.atomData (c : Ctx) (ty : ATy) (d : VReg) (l : Nat) : Word × Word × Bound × Bound :=
  let word (k : Nat) : Word × Bound :=
    let lo := c.vAt .d d k
    let hi := c.vAt .d d (k + 1)
    let v : Word := (lo.val.toList.getD l 0).setWidth 64
    (if ty.wide then v ||| ((hi.val.toList.getD l 0).setWidth 64 <<< 32) else v, lo.bnd.toList.getD l 0)
  let x := word 0
  let y := word (if ty.wide then 2 else 1)
  (x.1, y.1, x.2, y.2)

/-- The size at which an atomic's old value returns. -/
def atSz (ty : ATy) : Sz := if ty.wide then .b64 else .b32

/-- An ATOM word (R184, R185): lanes of one line make one unit. -/
def atomWord (c : Ctx) (f : AFun) (m : MemOp) (ty : ATy) (ret : Bool) (d : VReg) : State :=
  let n := atBytes ty
  let data := (List.range 64).map fun l => if has c.act l then c.atomData ty d l else (0, 0, 0, 0)
  c.access ⟨true, n, some false, true⟩ n (c.addrs m) fun c cks =>
    let lanes := cks.flatMap fun ck => ck.pieces.map fun q =>
      let x := data.getD ck.lane (0, 0, 0, 0)
      (⟨ck.lane, ck.va, q.pa, x.1, x.2.1, x.2.2.1, x.2.2.2, leafTagged q.leaf⟩ : AtLane)
    let lines := (lanes.map fun x => lineOf x.pa).eraseDups
    let units := lines.map fun ln => Work.atomic f ty (c.f.sys.fpctl.getLsbD 2) (lanes.filter fun x => lineOf x.pa == ln)
    retire (c.issue ⟨laneMask c.act cks, m.order, m.scope, true, true, units, if ret then .vec (atSz ty) d else .none, minExp cks, ret,
      false⟩)

/-- ATOM.add (R184). -/
def execAtomAdd (h : Hdr) (m : MemOp) (ty : ATy) (ret : Bool) (d : VReg) (s : State) : Out :=
  onWord (.atomAdd h m ty ret d) h s fun c => atomWord c .add m ty ret d
/-- ATOM.sub (R184). -/
def execAtomSub (h : Hdr) (m : MemOp) (ty : ATy) (ret : Bool) (d : VReg) (s : State) : Out :=
  onWord (.atomSub h m ty ret d) h s fun c => atomWord c .sub m ty ret d
/-- ATOM.min (R184). -/
def execAtomMin (h : Hdr) (m : MemOp) (ty : ATy) (ret : Bool) (d : VReg) (s : State) : Out :=
  onWord (.atomMin h m ty ret d) h s fun c => atomWord c .min m ty ret d
/-- ATOM.max (R184). -/
def execAtomMax (h : Hdr) (m : MemOp) (ty : ATy) (ret : Bool) (d : VReg) (s : State) : Out :=
  onWord (.atomMax h m ty ret d) h s fun c => atomWord c .max m ty ret d
/-- ATOM.and (R184). -/
def execAtomAnd (h : Hdr) (m : MemOp) (ty : ATy) (ret : Bool) (d : VReg) (s : State) : Out :=
  onWord (.atomAnd h m ty ret d) h s fun c => atomWord c .and m ty ret d
/-- ATOM.or (R184). -/
def execAtomOr (h : Hdr) (m : MemOp) (ty : ATy) (ret : Bool) (d : VReg) (s : State) : Out :=
  onWord (.atomOr h m ty ret d) h s fun c => atomWord c .or m ty ret d
/-- ATOM.xor (R184). -/
def execAtomXor (h : Hdr) (m : MemOp) (ty : ATy) (ret : Bool) (d : VReg) (s : State) : Out :=
  onWord (.atomXor h m ty ret d) h s fun c => atomWord c .xor m ty ret d
/-- ATOM.xchg (R184). -/
def execAtomXchg (h : Hdr) (m : MemOp) (ty : ATy) (ret : Bool) (d : VReg) (s : State) : Out :=
  onWord (.atomXchg h m ty ret d) h s fun c => atomWord c .xchg m ty ret d
/-- ATOM.cas (R184). -/
def execAtomCas (h : Hdr) (m : MemOp) (ty : ATy) (ret : Bool) (d : VReg) (s : State) : Out :=
  onWord (.atomCas h m ty ret d) h s fun c => atomWord c .cas m ty ret d

/-- The lanes of an ATOMS applied in ascending order to the scratchpad: the old values with their bounds by lane (R184,
R185, R89). -/
def atomsApply (c : Ctx) (p : Pack) (f : AFun) (ty : ATy) (d : VReg) (las : List (Nat × Word)) :
    Ctx × List (Nat × List (Byte × Bound)) :=
  let n := atBytes ty
  las.foldl (fun (acc : Ctx × List (Nat × List (Byte × Bound))) e =>
    let (c', got) := acc
    let o := e.2.toNat
    let bs := padLoad c'.padCore p o n
    let x := c.atomData ty d e.1
    let got := got ++ [(e.1, bs)]
    match atomApply f ty (c.f.sys.fpctl.getLsbD 2) (leNat (bs.map (·.1))) (boundMaxL (bs.map (·.2))) x.1 x.2.1 x.2.2.1 x.2.2.2 with
    | none => (c', got)
    | some (v, b) => (c'.padStore p ((natLe n v).zipIdx.map fun z => (o + z.2, z.1, b)), got)) (c, [])

/-- An ATOMS word (R185): every active lane in one scratchpad event. -/
def atomsWord (c : Ctx) (f : AFun) (m : MemOp) (ty : ATy) (ret : Bool) (d : VReg) : State :=
  let n := atBytes ty
  let las := c.addrs m
  c.onPad n n las fun p =>
    let (c', got) := atomsApply c p f ty d las
    if ret then
      let (f, r) := putLoad (c'.f, c'.r) c'.num (atSz ty) d c'.act fun l => ((got.find? fun g => g.1 == l).map (·.2)).getD []
      retire { c' with f := f, r := r }
    else retire c'

/-- ATOMS.add (R185). -/
def execAtomsAdd (h : Hdr) (m : MemOp) (ty : ATy) (ret : Bool) (d : VReg) (s : State) : Out :=
  onWord (.atomsAdd h m ty ret d) h s fun c => atomsWord c .add m ty ret d
/-- ATOMS.sub (R185). -/
def execAtomsSub (h : Hdr) (m : MemOp) (ty : ATy) (ret : Bool) (d : VReg) (s : State) : Out :=
  onWord (.atomsSub h m ty ret d) h s fun c => atomsWord c .sub m ty ret d
/-- ATOMS.min (R185). -/
def execAtomsMin (h : Hdr) (m : MemOp) (ty : ATy) (ret : Bool) (d : VReg) (s : State) : Out :=
  onWord (.atomsMin h m ty ret d) h s fun c => atomsWord c .min m ty ret d
/-- ATOMS.max (R185). -/
def execAtomsMax (h : Hdr) (m : MemOp) (ty : ATy) (ret : Bool) (d : VReg) (s : State) : Out :=
  onWord (.atomsMax h m ty ret d) h s fun c => atomsWord c .max m ty ret d
/-- ATOMS.and (R185). -/
def execAtomsAnd (h : Hdr) (m : MemOp) (ty : ATy) (ret : Bool) (d : VReg) (s : State) : Out :=
  onWord (.atomsAnd h m ty ret d) h s fun c => atomsWord c .and m ty ret d
/-- ATOMS.or (R185). -/
def execAtomsOr (h : Hdr) (m : MemOp) (ty : ATy) (ret : Bool) (d : VReg) (s : State) : Out :=
  onWord (.atomsOr h m ty ret d) h s fun c => atomsWord c .or m ty ret d
/-- ATOMS.xor (R185). -/
def execAtomsXor (h : Hdr) (m : MemOp) (ty : ATy) (ret : Bool) (d : VReg) (s : State) : Out :=
  onWord (.atomsXor h m ty ret d) h s fun c => atomsWord c .xor m ty ret d
/-- ATOMS.xchg (R185). -/
def execAtomsXchg (h : Hdr) (m : MemOp) (ty : ATy) (ret : Bool) (d : VReg) (s : State) : Out :=
  onWord (.atomsXchg h m ty ret d) h s fun c => atomsWord c .xchg m ty ret d
/-- ATOMS.cas (R185). -/
def execAtomsCas (h : Hdr) (m : MemOp) (ty : ATy) (ret : Bool) (d : VReg) (s : State) : Out :=
  onWord (.atomsCas h m ty ret d) h s fun c => atomsWord c .cas m ty ret d

/-! ### Moraine accesses (R186 to R189) -/

/-- The lanes of a Moraine word, from its register group: value, token, sibling index. -/
def Ctx.cellLanes (c : Ctx) (d : VReg) (cks : List LaneCheck) : List CellLane :=
  let at_ (k l : Nat) : Lane := (c.vAt .d d k).val.toList.getD l 0
  cks.flatMap fun ck => ck.pieces.map fun q =>
    let l := ck.lane
    ⟨l, ck.va, q.pa, ((at_ 1 l).setWidth 64 <<< 32) ||| (at_ 0 l).setWidth 64, ((at_ 2 l) >>> 8).setWidth 8, at_ 3 l,
      (at_ 2 l).setWidth 2⟩

/-- Lanes grouped by line. -/
def byLine (xs : List CellLane) : List (List CellLane) :=
  (xs.map fun x => lineOf x.pa).eraseDups.map fun n => xs.filter fun x => lineOf x.pa == n

/-- LDV (R186). -/
def execLdv (h : Hdr) (m : MemOp) (d : VReg) (s : State) : Out :=
  onWord (.ldv h m d) h s fun c =>
    c.access ⟨false, 8, some true, false⟩ 8 (c.addrs m) fun c cks =>
      retire (c.issue ⟨laneMask c.act cks, m.order, m.scope, true, false, (c.cellLanes d cks).map .ldv, .vec .b128 d, minExp cks, true,
        false⟩)

/-- STV (R187). -/
def execStv (h : Hdr) (m : MemOp) (d : VReg) (s : State) : Out :=
  onWord (.stv h m d) h s fun c =>
    let row := c.vAt .d d 0
    c.access ⟨true, 8, some true, false⟩ 8 (c.addrs m) fun c cks =>
      let dropped := cks.any fun ck => row.bnd.toList.getD ck.lane 0 != 0
      retire ((c.issue ⟨laneMask c.act cks, m.order, m.scope, false, true, (byLine (c.cellLanes d cks)).map .stv, .none, minExp cks,
        storeTraps cks, false⟩).lost dropped)

/-- RECON (R188). -/
def execRecon (h : Hdr) (m : MemOp) (op : ReconOp) (d : VReg) (s : State) : Out :=
  onWord (.recon h m op d) h s fun c =>
    c.access ⟨true, 8, some true, false⟩ 8 (c.addrs m) fun c cks =>
      let units := (byLine (c.cellLanes d cks)).map fun u => Work.recon op (c.f.sys.fpctl.getLsbD 2) u
      retire (c.issue ⟨laneMask c.act cks, m.order, m.scope, true, true, units, .vec .b128 d, minExp cks, true, false⟩)

/-! ### Fences and cache control (R190, R191) -/

/-- FENCE (R190, R245): later accesses of the lanes of ACTIVE respect it. -/
def execFence (h : Hdr) (sc : Bool) (scope : Scope) (s : State) : Out :=
  onRegs (.fence h sc scope) h s fun c =>
    c.once fun c => { c with s := { c.s with fences := c.s.fences ++ [⟨c.key, c.f.seq, c.num, c.act, sc, scope⟩] } }

/-- The physical address that CACHE acts on, when there is one in cacheable memory (R191). -/
def Ctx.cacheAddr (c : Ctx) (va : Word) : Option Nat :=
  match c.pack? with
  | none => none
  | some p =>
    if !canonical va then none
    else
      match (c.s.walk c.die c.f.ctx (c.s.rootOf p) va false).leaf with
      | some leaf => if pteKind leaf = 3 then none else some (leafPa leaf va)
      | none => none

/-- A CACHE word acts once on the line of s[A] (R191). -/
def cacheWord (c : Ctx) (a : SReg) (f : State → Nat → State) : State :=
  retire (c.once fun c => match c.cacheAddr (c.sr .a a) with
    | some pa => { c with s := f c.s pa }
    | none => c)

/-- CACHE.drop (R191, R263): the L1 copy goes, and a lease that is running comes back; when it is the line's only grant, the
horizon comes down to the present. -/
def execCacheDrop (h : Hdr) (a : SReg) (s : State) : Out :=
  onWord (.cacheDrop h a) h s fun c => cacheWord c a fun s pa =>
    let n := lineOf pa
    let x := s.core c.core
    match x.l1.find? n with
    | none => s
    | some y =>
      let s := s.setCore c.core { x with l1 := x.l1.del n }
      let d := s.die c.die
      let l := d.line n
      match l.leases.find? fun e => e.core == c.core && e.expiry == y.expiry && decide (d.firn.toNat < y.expiry) with
      | none => s
      | some e =>
        let l := l.close e
        s.setDie c.die (d.setLine n (if l.grants = 1 then { l with horizon := min l.horizon d.firn.toNat, grants := 0 } else l))

/-- CACHE.clean (R191): a dirty copy in the die L2 is written home and stays valid, as Exclusive (DESIGN CHOICE, log 9). -/
def execCacheClean (h : Hdr) (a : SReg) (s : State) : Out :=
  onWord (.cacheClean h a) h s fun c => cacheWord c a fun s pa =>
    if ((s.die c.die).line (lineOf pa)).st = .m then s.setL2 c.die (lineOf pa) .e else s

/-- CACHE.inval (R191): as clean, then the line leaves the die L2, the halves of a host line too, and every L1 of the die. -/
def execCacheInval (h : Hdr) (a : SReg) (s : State) : Out :=
  onWord (.cacheInval h a) h s fun c => cacheWord c a fun s pa =>
    (s.dropL2 c.die (lineOf pa)).dropL1 c.die (lineOf pa)

end Sys2Proof.Machine
end

