-- ==== Sys2Proof/Machine/Tile.lean ====
section
/-! DEFINITION. Tiles (R203 to R206), accumulators (R210 to R213) and shape keys (R215 to R217) as instructions use them. A
global access issues here; its tile or accumulator is written when its last unit has been performed. -/

namespace Sys2Proof.Machine
open Sys2Proof

/-! ### Shapes and rows -/

/-- Fields of TSHAPE (R39). -/
def shV (w : Word) : Bool := w.getLsbD 20
def shFmt (w : Word) : Nat := bitsAt w.toNat 0 4
def shRows (w : Word) : Nat := 8 * 2 ^ bitsAt w.toNat 6 2
def shBytes (w : Word) : Nat := bitsAt w.toNat 8 8 + 1
def shScale (w : Word) : Nat := bitsAt w.toNat 16 4

/-- TSHAPE of tile t as a word reads it: one written by a run that has not ended reads old or new (R30, R207). -/
def Pack.shape (p : Pack) (num t : Nat) : Word :=
  let cur := p.tshape.toList.getD t 0
  match p.shapeOld.find? t with
  | some (_, old) => if Config.hazard num 96 t 0 then old else cur
  | none => cur

/-- Physical tile and accumulator n of a core. -/
def Core.tile (c : Core) (n : Nat) : Tile := c.tiles.getD n Tile.zero
def Core.acc (c : Core) (n : Nat) : Accum := c.accs.getD n Accum.zero
def Core.setTile (c : Core) (n : Nat) (t : Tile) : Core := { c with tiles := c.tiles.put n t }
def Core.setAcc (c : Core) (n : Nat) (a : Accum) : Core := { c with accs := c.accs.put n a }

/-- A write of a tile by a run, which until that run ends keeps what the tile held before it (R30). -/
def Tile.write (t : Tile) (run : Nat) (bytes : Tbl Byte) (bnd : Tbl Bound) : Tile :=
  { bytes := bytes, bnd := bnd
    old := match t.old with
      | some (r, b, d) => if r = run then some (r, b, d) else some (run, t.bytes, t.bnd)
      | none => some (run, t.bytes, t.bnd) }

/-- Bytes and bound of row r, of n bytes, as they stand. -/
def Tile.row (t : Tile) (r n : Nat) : List Byte × Bound := ((List.range n).map fun i => t.bytes.getD (r * n + i) 0, t.bnd.getD r 0)

/-- Row r as a word reads it (R30, R207; DEDUCED, log 7). -/
def Tile.readRow (t : Tile) (num phys r n : Nat) : List Byte × Bound :=
  match t.old with
  | some (_, b, d) => if Config.hazard num (80 + phys) r 0 then (⟨b, d, none⟩ : Tile).row r n else t.row r n
  | none => t.row r n

/-- Rows as a table of bytes and a table of bounds. -/
def rowTables (n : Nat) (rows : List (List Byte × Bound)) (bytes : Tbl Byte) (bnd : Tbl Bound) : Tbl Byte × Tbl Bound :=
  rows.zipIdx.foldl (fun (x : Tbl Byte × Tbl Bound) e =>
    (e.1.1.zipIdx.foldl (fun t b => t.set 0 (e.2 * n + b.2) b.1) x.1, x.2.set 0 e.2 e.1.2)) (bytes, bnd)

/-- Bytes with bounds cut into rows of n bytes, each with the BoundMax of its bytes (R90). -/
def cutRows (n rows : Nat) (bs : List (Byte × Bound)) : List (List Byte × Bound) :=
  (List.range rows).map fun r =>
    let x := (bs.drop (r * n)).take n
    (x.map (·.1), boundMaxL (x.map (·.2)))

/-- Writes the rows of a tile (R206). -/
def Core.loadTile (c : Core) (phys run n : Nat) (rows : List (List Byte × Bound)) : Core :=
  let t := c.tile phys
  let (b, d) := rowTables n rows t.bytes t.bnd
  c.setTile phys (t.write run b d)

/-- Rows and columns of an accumulator (R40). -/
def Accum.m (a : Accum) : Nat := if a.m32 then 32 else 16
def Accum.n (a : Accum) : Nat := 16 * 2 ^ a.ncode.toNat

/-- A write of an accumulator by a run (R30). -/
def Accum.write (a : Accum) (run : Nat) (data : Tbl Lane) (bnd : Tbl Bound) : Accum :=
  { a with
    data := data, bnd := bnd
    old := match a.old with
      | some (r, b, d) => if r = run then some (r, b, d) else some (run, a.data, a.bnd)
      | none => some (run, a.data, a.bnd) }

/-- R210: an instruction that writes an accumulator that is not live takes it for the context (DEDUCED, log 50). -/
def Accum.claim (a : Accum) (ctx : BitVec 8) : Accum :=
  if a.live then a else { a with live := true, owner := ctx, spill := 0 }

/-- Elements and bound of row r as a word reads them (R30, R207; DEDUCED, log 7). -/
def Accum.readRow (a : Accum) (num phys r : Nat) : List Lane × Bound :=
  let (data, bnd) := match a.old with
    | some (_, b, d) => if Config.hazard num (112 + phys) r 0 then (b, d) else (a.data, a.bnd)
    | none => (a.data, a.bnd)
  ((List.range a.n).map fun j => data.getD (r * a.n + j) 0, bnd.getD r 0)

/-- The rows of an accumulator's shape as a word reads them. -/
def Accum.readRows (a : Accum) (num phys : Nat) : List (List Lane × Bound) := (List.range a.m).map (a.readRow num phys)

/-- The image of rows: each element as four bytes with the row's bound (R212, R93). -/
def accImage (rows : List (List Lane × Bound)) : List (Byte × Bound) :=
  rows.flatMap fun r => r.1.flatMap fun x => (natLe 4 x.toNat).map fun b => (b, r.2)

/-- Writes the elements of an image of the accumulator's shape (R212, R91). -/
def Core.loadAcc (c : Core) (phys run : Nat) (ctx : BitVec 8) (bs : List (Byte × Bound)) : Core :=
  let a := c.acc phys
  let rows := cutRows (4 * a.n) a.m bs
  let bnd := rows.zipIdx.foldl (fun t e => t.set 0 e.2 e.1.2) a.bnd
  let data := (List.range (a.m * a.n)).foldl (fun t k =>
    t.set 0 k (BitVec.ofNat 32 (leNat (((bs.drop (4 * k)).take 4).map (·.1))))) a.data
  c.setAcc phys ((a.write run data bnd).claim ctx)

/-- The words 0 to 1023 and the 32 row bounds of a spill image (R213). -/
def Core.fillAcc (c : Core) (phys run : Nat) (m32 : Bool) (ncode : BitVec 2) (bs : List Byte) : Core :=
  let a := c.acc phys
  let data := (List.range 1024).foldl (fun t k => Tbl.set 0 t k (BitVec.ofNat 32 (leNat ((bs.drop (4 * k)).take 4)))) ([] : Tbl Lane)
  let bnd := (List.range 32).foldl (fun t r =>
    Tbl.set 0 t r (canonBound (BitVec.ofNat 16 (leNat ((bs.drop (0x1000 + 2 * r)).take 2))))) ([] : Tbl Bound)
  let a := a.write run data bnd
  c.setAcc phys { a with live := true, m32 := m32, ncode := ncode }

/-! ### Tile instructions -/

/-- The legality of a TCFG value other than zero (R203); v has bit 20 clear. -/
def tcfgOk (tiles d : Nat) (v : Word) : Bool :=
  let fmt := shFmt v
  let rb := shBytes v
  let mx := decide (4 ≤ fmt) && decide (fmt ≤ 8)
  v.toNat / 2 ^ 21 == 0 && bitsAt v.toNat 4 2 == 0 && fmt ≤ 10 && shRows v * rb ≤ 4096 &&
    (match fmt with
     | 0 | 1 => rb % 2 == 0
     | 4 | 5 => rb % 32 == 0
     | 6 | 7 => rb % 24 == 0
     | 8 => rb % 16 == 0
     | _ => true) &&
    (if mx then shScale v < tiles && shScale v != d else shScale v == 0)

/-- TCFG (R203). -/
def execTcfg (h : Hdr) (d : TReg) (a : SReg) (s : State) : Out :=
  onWord (.tcfg h d a) h s fun c =>
    match c.pack? with
    | none => retire c
    | some p =>
      let v := c.sr .a a &&& ~~~(0x100000 : Word)
      if v ≠ 0 ∧ tcfgOk p.tiles.length d.toNat v = false then illegalShape c
      else
        retire (c.once fun c =>
          let old := p.tshape[d.toNat]'d.isLt
          let new : Word := if v = 0 then old &&& ~~~(0x100000 : Word) else v ||| 0x100000
          let keep := match p.shapeOld.find? d.toNat with
            | some (r, w) => if r = c.r.number then (r, w) else (c.r.number, old)
            | none => (c.r.number, old)
          let p' := { p with tshape := p.tshape.set d.toNat new d.isLt, shapeOld := p.shapeOld.put d.toNat keep }
          let s := c.s.setPack c.f.pack p'
          let core := s.core c.core
          let phys := p.tiles.getD d.toNat 0
          let t := core.tile phys
          let all := if shV old then boundMaxL ((List.range (shRows old)).map fun r => t.bnd.getD r 0) else 0
          let bnd := (List.range (shRows new)).foldl (fun b r => Tbl.set 0 b r all) ([] : Tbl Bound)
          { c with s := if v = 0 then s else s.setCore c.core (core.setTile phys (t.write c.r.number t.bytes bnd)) })

/-- The tile that a word names, when it is configured; else ILLEGAL_SHAPE (R204, R206). -/
def Ctx.onTile (c : Ctx) (d : TReg) (k : Pack → Nat → Word → State) : State :=
  match c.pack? with
  | none => retire c
  | some p =>
    let w := p.shape c.num d.toNat
    if shV w then k p (p.tiles.getD d.toNat 0) w else illegalShape c

/-- TZERO (R204). -/
def execTzero (h : Hdr) (d : TReg) (s : State) : Out :=
  onWord (.tzero h d) h s fun c =>
    c.onTile d fun _ phys _ =>
      retire (c.once fun c =>
        let core := c.s.core c.core
        { c with s := c.s.setCore c.core (core.setTile phys ((core.tile phys).write c.r.number [] [])) })

/-- The base of an address pair (R205). -/
def Ctx.pairBase (c : Ctx) (m : MemOp) : Word := c.addr1 m.sa m.off
/-- Its control word (R205). -/
def Ctx.pairCtl (c : Ctx) (m : MemOp) : Word := c.srAt .a m.sa 1
/-- SP of a control word. -/
def ctlSp (w : Word) : Bool := w.getLsbD 63

/-- The addresses of a tile's rows (R206). -/
def tileRowsAt (base ctl : Word) (rows : Nat) : List Word :=
  (List.range rows).map fun r => base + BitVec.ofNat 64 r * (ctl.setWidth 48).signExtend 64

/-- Alignment of a tile's rows (R206). -/
def tileAlign (shape : Word) : Nat := if shFmt shape ≤ 1 then 2 else 1

/-- Spans of a row, at its place in the image. -/
def placeRow (n : Nat) (e : List Span × Nat) : List Span := e.1.map fun x => { x with k := x.k + e.2 * n }

/-- TLD (R206; DEDUCED, log 50). -/
def execTld (h : Hdr) (m : MemOp) (d : TReg) (s : State) : Out :=
  onWord (.tld h m d) h s fun c =>
    let ctl := c.pairCtl m
    if bitsAt ctl.toNat 48 15 ≠ 0 then illegalShape c
    else
      c.onTile d fun _ phys w =>
        if c.act = 0 then retire c else
        let n := shBytes w
        let las := (tileRowsAt (c.pairBase m) ctl (shRows w)).map fun a => (64, a)
        if ctlSp ctl then
          c.onPadAll (tileAlign w) n las fun p =>
            let core := c.s.core c.core
            let bs := las.flatMap fun e => padLoad core p e.2.toNat n
            retire { c with s := c.s.setCore c.core (core.loadTile phys c.r.number n (cutRows n (shRows w) bs)) }
        else
          c.access ⟨false, tileAlign w, none, false⟩ n las fun c cks =>
            let spans := (cks.map (laneUnits m.level n)).zipIdx.flatMap (placeRow n)
            retire (c.issue ⟨laneMask c.act cks, m.order, m.scope, true, false, spans.map fun x => .load [x],
              .tile phys n (shRows w), minExp cks, true, onMmio cks⟩)

/-- Bytes stored by rows that may overlap: the spec orders no row before another, so each shared byte takes any one of them
(DEDUCED, log 50). -/
def mixBytes (num : Nat) (w : List (Nat × Byte × Bound)) : List (Nat × Byte × Bound) :=
  w.zipIdx.foldl (fun acc e =>
    if acc.any fun x => x.1 == e.1.1 then
      (if Config.hazard num 128 e.1.1 e.2 then acc.map fun x => if x.1 == e.1.1 then e.1 else x else acc)
    else acc ++ [e.1]) []

/-- TST (R206; DEDUCED, log 50; DEDUCED, log 36). -/
def execTst (h : Hdr) (m : MemOp) (d : TReg) (s : State) : Out :=
  onWord (.tst h m d) h s fun c =>
    let ctl := c.pairCtl m
    if bitsAt ctl.toNat 48 15 ≠ 0 then illegalShape c
    else
      c.onTile d fun _ phys w =>
        if c.act = 0 then retire c else
        let n := shBytes w
        let las := (tileRowsAt (c.pairBase m) ctl (shRows w)).map fun a => (64, a)
        let t := (c.s.core c.core).tile phys
        let rows := (List.range (shRows w)).map fun r => t.readRow c.num phys r n
        let img := rows.flatMap fun r => r.1.map fun b => (b, r.2)
        if ctlSp ctl then
          c.onPadAll (tileAlign w) n las fun p =>
            let w := las.zipIdx.flatMap fun e =>
              (List.range n).map fun k => (e.1.2.toNat + k, img.getD (e.2 * n + k) (0, 0))
            let pitch := ((ctl.setWidth 48).signExtend 64).toInt.natAbs
            retire (c.padStore p (if pitch < n then mixBytes c.num w else w))
        else
          c.access ⟨true, tileAlign w, none, false⟩ n las fun c cks =>
            let spans := (cks.map (laneUnits m.level n)).zipIdx.flatMap (placeRow n)
            let units := spans.map fun x => Work.store [storeSpan [x] (fun _ k => img.getD k (0, 0)) x]
            retire (c.issue ⟨laneMask c.act cks, m.order, m.scope, false, true, units, .none, minExp cks, storeTraps cks, onMmio cks⟩)

/-! ### Accumulator instructions -/

/-- The check of R210 for accumulator d, with a lane active: ACC_FOREIGN reports the spill address. An owner that an earlier
word of the run has written may be in effect or not (R232). -/
def Ctx.ownAcc (c : Ctx) (d : AReg) (k : Nat → Accum → State) : State :=
  if c.act = 0 then retire c else
  match c.pack? with
  | none => retire c
  | some p =>
    let phys := p.accs.getD d.toNat 0
    let a := (c.s.core c.core).acc phys
    let ix := 0x090 + d.toNat
    let owner := match c.f.sysPend.find? ix with
      | some w => if Config.staleRead c.num ix then a.owner else w.setWidth 8
      | none => a.owner
    if a.live && owner != c.f.ctx then trapAt c 0x40 c.act a.spill (BitVec.ofNat 64 d.toNat) else k phys a

/-- ACCZ (R211). -/
def execAccz (h : Hdr) (d : AReg) (s : State) : Out :=
  onWord (.accz h d) h s fun c =>
    c.ownAcc d fun phys a =>
      let core := c.s.core c.core
      retire { c with s := c.s.setCore c.core (core.setAcc phys ((a.write c.r.number [] []).claim c.f.ctx)) }

/-- The accumulator behind a name, whoever owns it. -/
def Ctx.accAt (c : Ctx) (a : AReg) : Nat × Accum :=
  match c.pack? with
  | some p => let n := p.accs.getD a.toNat 0; (n, (c.s.core c.core).acc n)
  | none => (0, Accum.zero)

/-- ACCMOV (R211). -/
def execAccmov (h : Hdr) (d : VReg) (a : AReg) (b : SReg) (s : State) : Out :=
  onWord (.accmov h d a b) h s fun c =>
    let k0 := (c.sr .b b).toNat
    let x := (c.accAt a).2
    if k0 % 64 ≠ 0 ∨ x.m * x.n ≤ k0 then illegalShape c
    else
      c.ownAcc a fun phys x =>
        let rows := x.readRows c.num phys
        let at_ := fun (l : Nat) => rows.getD ((k0 + l) / x.n) ([], 0)
        retire (c.setV d.toNat c.act
          ⟨Vector.ofFn fun l => (at_ l.val).1.getD ((k0 + l.val) % x.n) 0, Vector.ofFn fun l => (at_ l.val).2⟩)

/-- ACCBND (R211). -/
def execAccbnd (h : Hdr) (d : VReg) (a : AReg) (s : State) : Out :=
  onWord (.accbnd h d a) h s fun c =>
    c.ownAcc a fun phys x =>
      retire (c.setV d.toNat c.act
        ⟨Vector.ofFn fun l => if l.val < 32 then ((x.readRow c.num phys l.val).2).setWidth 32 else 0, Vector.replicate 64 0⟩)

/-- The spill image of an accumulator (R213): elements beyond the shape carry the BoundMax of all 32 row bounds. -/
def spillImage (a : Accum) (num phys : Nat) : List (Byte × Bound) :=
  let inside := accImage (a.readRows num phys)
  let bnds := (List.range 32).map fun r => (a.readRow num phys r).2
  let all := boundMaxL bnds
  let rest := (List.range (1024 - a.m * a.n)).flatMap fun k =>
    let e := a.m * a.n + k
    let row := a.readRow num phys (e / a.n)
    (natLe 4 ((row.1.getD (e % a.n) 0).toNat)).map fun b => (b, all)
  inside ++ rest ++ bnds.flatMap fun b => (natLe 2 b.toNat).map fun x => (x, (0 : Bound))

/-- ACCSPILL (R213): a relaxed store of every lane of ACTIVE. -/
def execAccspill (h : Hdr) (a : AReg) (b : SReg) (s : State) : Out :=
  onWord (.accspill h a b) h s fun c =>
    if c.act = 0 then retire c else
    let (phys, x) := c.accAt a
    let img := spillImage x c.num phys
    c.access ⟨true, 64, none, false⟩ 4160 [(64, c.sr .b b)] fun c cks =>
      let units := (cks.flatMap (laneUnits .near 4160)).map fun x => Work.store [storeSpan [x] (fun _ k => img.getD k (0, 0)) x]
      retire (c.issue ⟨laneMask c.act cks, .rlx, .core, false, true, units, .none, minExp cks, storeTraps cks, onMmio cks⟩)

/-- ACCFILL (R213): a relaxed load of every lane of ACTIVE. -/
def execAccfill (h : Hdr) (mcode : Bool) (ncode : BitVec 2) (d : AReg) (a : SReg) (s : State) : Out :=
  onWord (.accfill h mcode ncode d a) h s fun c =>
    if c.act = 0 then retire c else
    let (phys, _) := c.accAt d
    c.access ⟨false, 64, none, false⟩ 4160 [(64, c.sr .a a)] fun c cks =>
      let units := (cks.flatMap (laneUnits .near 4160)).map fun x => Work.load [x]
      retire (c.issue ⟨laneMask c.act cks, .rlx, .core, true, false, units, .fill phys mcode ncode, minExp cks, true, onMmio cks⟩)

/-- ACCLD (R212). -/
def execAccld (h : Hdr) (m : MemOp) (d : AReg) (s : State) : Out :=
  onWord (.accld h m d) h s fun c =>
    let ctl := c.pairCtl m
    if ctl &&& 0x7FFFFFFFFFFFFFFF ≠ 0 then illegalShape c
    else
      c.ownAcc d fun phys a =>
        let n := 4 * a.m * a.n
        let base := c.pairBase m
        if ctlSp ctl then
          c.onPadAll n n [(64, base)] fun p =>
            let core := c.s.core c.core
            retire { c with s := c.s.setCore c.core (core.loadAcc phys c.r.number c.f.ctx (padLoad core p base.toNat n)) }
        else
          c.access ⟨false, n, none, false⟩ n [(64, base)] fun c cks =>
            let units := (cks.flatMap (laneUnits m.level n)).map fun x => Work.load [x]
            retire (c.issue ⟨laneMask c.act cks, m.order, m.scope, true, false, units, .acc phys (4 * a.n) a.m, minExp cks, true,
              onMmio cks⟩)

/-- ACCST with SZ 0 (R212, R93; DEDUCED, log 50). -/
def execAccst (h : Hdr) (m : MemOp) (d : AReg) (s : State) : Out :=
  onWord (.accst h m d) h s fun c =>
    let ctl := c.pairCtl m
    if ctl &&& 0x7FFFFFFFFFFFFFFF ≠ 0 then illegalShape c
    else
      c.ownAcc d fun phys a =>
        let n := 4 * a.m * a.n
        let base := c.pairBase m
        let img := accImage (a.readRows c.num phys)
        if ctlSp ctl then
          c.onPadAll n n [(64, base)] fun p =>
            retire (c.padStore p (img.zipIdx.map fun e => (base.toNat + e.2, e.1)))
        else
          c.access ⟨true, n, none, false⟩ n [(64, base)] fun c cks =>
            let units := (cks.flatMap (laneUnits m.level n)).map fun x =>
              Work.store [storeSpan [x] (fun _ k => img.getD k (0, 0)) x]
            retire (c.issue ⟨laneMask c.act cks, m.order, m.scope, false, true, units, .none, minExp cks, storeTraps cks, onMmio cks⟩)

/-- One element of ACCST.add (R212, R93): the sum and its bound (DEDUCED, log 50). -/
def accAdd (int dnan : Bool) (old : Nat) (q : Bound) (x : Lane) (e : Bound) : Nat × Bound :=
  if int then ((old + x.toNat) % 4294967296, intBound [q, e])
  else
    let r := tiered FFmt.f32 .add 24 .rn dnan old x.toNat 0 q e 0
    (r.code, r.bnd)

/-- The image that ACCST.add leaves, from the bytes and quarter bounds that memory holds (DEDUCED, log 50). -/
def addImage (int dnan : Bool) (old : List (Byte × Bound)) (rows : List (List Lane × Bound)) : List (Byte × Bound) :=
  let xs := rows.flatMap fun r => r.1.map fun x => (x, r.2)
  xs.zipIdx.flatMap fun e =>
    let bs := (old.drop (4 * e.2)).take 4
    let (v, b) := accAdd int dnan (leNat (bs.map (·.1))) (boundMaxL (bs.map (·.2))) e.1.1 e.1.2
    (natLe 4 v).map fun x => (x, b)

/-- ACCST.add (R212): one scratchpad event, or an engine operation on global memory. -/
def execAccstAdd (h : Hdr) (m : MemOp) (d : AReg) (s : State) : Out :=
  onWord (.accstAdd h m d) h s fun c =>
    let ctl := c.pairCtl m
    let sp := ctlSp ctl
    let bv := ctl.getLsbD 62
    let int := ctl.getLsbD 61
    let bar := bitsAt ctl.toNat 32 24
    if bitsAt ctl.toNat 56 5 ≠ 0 ∨ bitsAt ctl.toNat 0 32 ≠ 0 ∨ bv = sp ∨ (sp = true ∧ bar ≠ 0) then illegalShape c
    else
      c.ownAcc d fun phys a =>
        let n := 4 * a.m * a.n
        let base := c.pairBase m
        let rows := a.readRows c.num phys
        let dnan := c.f.sys.fpctl.getLsbD 2
        if sp then
          c.onPadAll n n [(64, base)] fun p =>
            let img := addImage int dnan (padLoad (c.s.core c.core) p base.toNat n) rows
            retire (c.padStore p (img.zipIdx.map fun e => (base.toNat + e.2, e.1)))
        else
          c.onObj (BitVec.ofNat 64 bar) false fun p _ _ =>
            c.access ⟨true, n, none, false⟩ n [(64, base)] fun c cks =>
              let new := (cks.flatMap fun ck => ck.pieces.take 1).map fun q =>
                ({ id := c.s.fresh, born := c.s.hub.firn.toNat, exp := q.exp, pack := p.id, ctx := c.f.ctx, pa := q.pa, va := base, int := int, dnan := dnan,
                   tagged := leafTagged q.leaf, cols := a.n, data := rows.flatMap (·.1), bnd := rows.map (·.2), bar := bar,
                   fork := ⟨c.key, c.f.seq, c.num, c.act⟩ } : Drain)
              retire { c with s := { c.s with drains := c.s.drains ++ new, fresh := c.s.fresh + 1 } }

/-! ### Shape keys (R215 to R217) -/

/-- The first handle that no key has, of the 4,095 taken in a circle from n on. -/
def freeHandle (keys : Tbl Key) : Nat → Nat → Option Nat
  | 0, _ => none
  | f + 1, n => match keys.find? (n % 4095 + 1) with
    | none => some (n % 4095 + 1)
    | some _ => freeHandle keys f (n + 1)

/-- KEYCUT (R215): which free handle it takes is the device's choice (DESIGN CHOICE, log 2). -/
def execKeycut (h : Hdr) (d sa : SReg) (off : BitVec 13) (s : State) : Out :=
  onWord (.keycut h d sa off) h s fun c =>
    if c.act = 0 then retire c else
    let a := c.addr1 sa off
    match c.pack? with
    | none => retire c
    | some p =>
      if a.toNat % 16 ≠ 0 then trapAt c 0x22 c.act a c.word
      else if !p.inPad a.toNat 96 then trapAt c 0x21 c.act a c.word
      else
        let bs := c.s.padBytes c.f.pack p a.toNat 96
        match freeHandle c.s.hub.keys 4095 (Config.pick 0 c.s.fresh) with
        | none => retire (c.setS d 0x10000)
        | some n =>
          let st := (keyOf bs).status
          if st ≠ 0 then retire (c.setS d (BitVec.ofNat 64 (st * 65536)))
          else
            let s := (c.s.setHub { c.s.hub with keys := c.s.hub.keys.put n ⟨c.f.ctx, bs⟩ }).bump
            retire ({ c with s := s }.setS d (BitVec.ofNat 64 n))

/-- Whether a tile of a shape fits the box of a key (R216). -/
def KeyD.fits (k : KeyD) (w : Word) : Bool :=
  match k.xform with
  | 1 => shFmt w == k.fmt && shBytes w * 8 == k.boxAt 1 * k.ebits && shRows w == k.boxAt 0 && k.boxAt 2 == 1 && k.boxAt 3 == 1 && k.boxAt 4 == 1
  | 2 => shFmt w == 0 && shBytes w == k.boxAt 0 * 2 && shRows w == k.rows
  | _ => shFmt w == k.fmt && shBytes w * 8 == k.boxAt 0 * k.ebits && shRows w == k.rows

/-- The coordinates of a TLDK from its four uniforms (R216). -/
def tldkCoords (w0 w1 w2 : Word) : List Int :=
  let f (w : Word) (i : Nat) : Int := signedOf 32 (bitsAt w.toNat i 32)
  [f w0 32, f w1 0, f w1 32, f w2 0, f w2 32]

/-- TLDK (R216), through the walk-ahead TLB. A span's offset is the virtual address of its first byte. Its shape is judged with
ACTIVE empty too (R106; DEDUCED, log 43). PROTECTION of its handle reports XADDR 0 (DEDUCED, log 30). -/
def execTldk (h : Hdr) (m : MemOp) (d : TReg) (s : State) : Out :=
  onWord (.tldk h m d) h s fun c =>
    let w (i : Nat) := c.srAt .a m.sa i
    let handle := bitsAt (w 0).toNat 0 12
    if bitsAt (w 0).toNat 12 20 ≠ 0 ∨ w 3 ≠ 0 then illegalShape c
    else
      let denied := if c.act = 0 then retire c else trapAt c 0x21 c.act 0 (BitVec.ofNat 64 handle)
      match c.s.keyAt handle with
      | none => denied
      | some key =>
        if key.ctx ≠ c.f.ctx then denied
        else
          c.onTile d fun _ phys sh =>
            let k := keyOf key.bytes
            if !k.fits sh then illegalShape c
            else if c.act = 0 then retire c
            else
              let cs := tldkCoords (w 0) (w 1) (w 2)
              let rs := k.ranges cs
              if rs.isEmpty then
                let rows := k.tileRows cs fun _ => (0, 0)
                let core := c.s.core c.core
                retire { c with s := c.s.setCore c.core (core.loadTile phys c.r.number (shBytes sh) rows) }
              else
                c.accessN ⟨false, 1, none, false⟩ (rs.map fun r => ((64, r.1), r.2)) (fun c cks =>
                  let units := cks.flatMap fun ck =>
                    (laneUnits (levelOf k.level) 0 ck).map fun x => Work.load [{ x with k := ck.va.toNat + x.k }]
                  retire (c.issue ⟨laneMask c.act cks, .rlx, .core, true, false, units, .keyed phys key.bytes cs, minExp cks, true,
                    onMmio cks⟩))
                  .latch

/-- KEYDROP (R217). -/
def execKeydrop (h : Hdr) (a : SReg) (s : State) : Out :=
  onRegs (.keydrop h a) h s fun c =>
    c.once fun c =>
      let n := bitsAt (c.sr .a a).toNat 0 12
      match c.s.keyAt n with
      | some key => if key.ctx = c.f.ctx then { c with s := c.s.setHub { c.s.hub with keys := c.s.hub.keys.del n } } else c
      | none => c

/-- What KEYQ reports of an entry (R217). -/
def keyReport (key : Key) (ctx : BitVec 8) : Nat :=
  let k := keyOf key.bytes
  1 + (if key.ctx = ctx then 2 else 0) + 2 ^ 8 * k.rank + 2 ^ 16 * k.fmt + 2 ^ 24 * k.xform + 2 ^ 26 * k.bpol

/-- KEYQ (R217). -/
def execKeyq (h : Hdr) (d a : SReg) (s : State) : Out :=
  onRegs (.keyq h d a) h s fun c =>
    c.once fun c =>
      c.setS d (BitVec.ofNat 64 (match c.s.keyAt (bitsAt (c.sr .a a).toNat 0 12) with
        | some key => keyReport key c.f.ctx
        | none => 0))

end Sys2Proof.Machine
end

