-- ==== Sys2Proof/Machine/System.lean ====
section
/-! DEFINITION. System instructions (R230 to R237): traps and RFT, system registers, time, the seed, HALT, and the floe record
of FRSAVE and FRLOAD (R312, R313). -/

namespace Sys2Proof.Machine
open Sys2Proof

/-! ### Traps, return, halt -/

/-- SWTRAP at the run boundary (R230). -/
def swTrap (c : Ctx) (info : Word) : State :=
  if c.act = 0 then retire c.endRun
  else retire (c.raise ⟨⟨0x42, c.pc + 8, c.act, c.pc.setWidth 64, info, false⟩, .run c.r.mask, false, false, true⟩).endRun

/-- TRAP (R230). -/
def execTrap (h : Hdr) (imm : BitVec 32) (s : State) : Out :=
  onWord (.trap h imm) h s fun c => swTrap c (imm.setWidth 64)

/-- BKPT (R230). -/
def execBkpt (h : Hdr) (n : BitVec 8) (s : State) : Out :=
  onWord (.bkpt h n) h s fun c => swTrap c (0x100000000 + n.setWidth 64)

/-- HALT (R236): the floe stops at the run boundary (DEDUCED, log 16). -/
def execHalt (h : Hdr) (s : State) : Out :=
  onRegs (.halt h) h s fun c => c.once fun c => { c with r := { c.r with halt := some (c.r.halt.getD c.pc) } }

/-! ### System registers (R42) -/

/-- Indices of registers that MTSR writes (R42). -/
def ixFpctl : Nat := 0x010
def ixFpflags : Nat := 0x011
def ixBmode : Nat := 0x021
def ixBguard : Nat := 0x022
def ixBsticky : Nat := 0x023
def ixSeedlo : Nat := 0x030
def ixSeedhi : Nat := 0x031
def ixXpc : Nat := 0x100
def ixXcause : Nat := 0x101
def ixXmask : Nat := 0x102
def ixXaddr : Nat := 0x103
def ixXinfo : Nat := 0x104

/-- A governing or sticky register in a set of them, none for other indices. -/
def SysRegs.read (y : SysRegs) (ix : Nat) : Option Word :=
  match ix with
  | 0x010 => some (y.fpctl.setWidth 64)
  | 0x011 => some (y.fpflags.setWidth 64)
  | 0x020 => some (y.ebud.setWidth 64)
  | 0x021 => some (y.bmode.setWidth 64)
  | 0x022 => some (y.bguard.setWidth 64)
  | 0x023 => some (y.bsticky.setWidth 64)
  | 0x024 => some (y.lasttier.setWidth 64)
  | 0x030 => some (y.seedlo.setWidth 64)
  | 0x031 => some (y.seedhi.setWidth 64)
  | 0x032 => some (y.sdstep.setWidth 64)
  | _ => none

/-- Sets a governing register (R31, R80); reserved fields ignore writes (R10). -/
def SysRegs.write (y : SysRegs) (ix : Nat) (x : Word) : SysRegs :=
  match ix with
  | 0x010 => { y with fpctl := x.setWidth 3 }
  | 0x020 => { y with ebud := canonBound (x.setWidth 16) }
  | 0x021 => { y with bmode := x.setWidth 4 }
  | 0x022 => { y with bguard := x.setWidth 4 }
  | 0x030 => { y with seedlo := x.setWidth 32 }
  | 0x031 => { y with seedhi := x.setWidth 32 }
  | 0x032 => { y with sdstep := x.setWidth 32 }
  | _ => y

/-- FLOEID (R42). -/
def floeId (key : Nat) (f : Floe) : Word :=
  BitVec.ofNat 64 (2 ^ 23 * coreOf key + 2 ^ 20 * dieOf (coreOf key) + 2 ^ 14 * (key % 64) + f.findex)

/-- PACKID (R42). -/
def packId (key : Nat) (p : Pack) : Word :=
  BitVec.ofNat 64 (2 ^ 27 * p.tiles.length + 2 ^ 23 * p.accs.length + 2 ^ 16 * (key % 64) + 2 ^ 8 * p.nfloes)

/-- ACCOWN of an accumulator (R40). -/
def Accum.own (a : Accum) : Word :=
  BitVec.ofNat 64 ((if a.live then 2 ^ 15 else 0) + 2 ^ 9 * a.ncode.toNat + (if a.m32 then 2 ^ 8 else 0) + a.owner.toNat)

/-- SPADLIM (R323). -/
def spadLim (p : Pack) : Word :=
  BitVec.ofNat 64 (2 ^ 32 * p.banks.length + 2 ^ 24 * p.spmax + 2 ^ 16 * p.spmin + (p.banks.map fun b => 2 ^ b).sum)

/-- SLICE.LEFT: ticks left in the context's slice on a die (R296). -/
def State.sliceLeft (s : State) (die : Nat) (ctx : BitVec 8) : Nat :=
  let d := s.die die
  match d.slices.find? fun x => x.ctx == ctx with
  | some x => if x.expired then 0 else min 0xFFFFFFFF (x.start + x.len - d.firn.toNat)
  | none => 0

/-- PSLOT of the pack of an engine request (R363): its place now, or the one it was saved from. -/
def State.pslotOf (s : State) (id : PackId) : Nat :=
  match s.packOf id, s.redirect id with
  | some (k, _), _ => k % 64
  | none, some (_, r) => r.pslot
  | none, none => 0

/-- A register of R42 that no write of the run touches, as it stands. -/
def sysVal (c : Ctx) (ix : Nat) : Word :=
  let p := c.pack?
  let desc := p.bind fun p => (c.s.fieldOf p.id).map (·.desc)
  let pk (g : Pack → Word) : Word := (p.map g).getD 0
  let ds (g : Desc → Nat) : Word := (desc.map fun d => BitVec.ofNat 64 (g d - 1)).getD 0
  let core := c.s.core c.core
  match ix with
  | 0x000 => floeId c.key c.f
  | 0x001 => pk (packId c.f.pack)
  | 0x002 => pk fun p => p.x.setWidth 64
  | 0x003 => pk fun p => p.y.setWidth 64
  | 0x004 => pk fun p => p.z.setWidth 64
  | 0x005 => ds (·.nx)
  | 0x006 => ds (·.ny)
  | 0x007 => ds (·.nz)
  | 0x008 => c.f.ctx.setWidth 64
  | 0x009 => BitVec.ofNat 64 c.f.valloc
  | 0x040 => c.s.firn c.core
  | 0x0C0 => pk spadLim
  | 0x100 => c.f.xpc.setWidth 64
  | 0x101 => c.f.xcause.setWidth 64
  | 0x102 => c.f.xmask
  | 0x103 => c.f.xaddr
  | 0x104 => c.f.xinfo
  | 0x105 => c.f.xbase.setWidth 64
  | 0x106 => c.f.xsave
  | 0x107 => BitVec.ofNat 64 (2 ^ 32 * c.f.restores.toNat + c.s.sliceLeft c.die c.f.ctx)
  | _ =>
    match c.f.sys.read ix with
    | some x => x
    | none =>
      if 0x080 ≤ ix ∧ ix < 0x090 then pk fun p => p.shape c.num (ix - 0x080)
      else if 0x090 ≤ ix ∧ ix < 0x098 then (c.accAt (BitVec.ofNat 3 (ix - 0x090))).2.own
      else if 0x098 ≤ ix ∧ ix < 0x09C then kickReg core (ix - 0x098) c.s.pslotOf
      else 0

/-- A register as a word reads it (R31, R232): one that an earlier word of the run has changed reads as before the run or as
changed, for each read (DEDUCED, log 7). -/
def sysRead (c : Ctx) (ix : Nat) : Word :=
  let stale := Config.staleRead c.num ix
  match c.f.sysPend.find? ix with
  | some x =>
    if stale then (c.r.sysOld.read ix).getD (sysVal c ix)
    else if 0x090 ≤ ix ∧ ix < 0x098 then (sysVal c ix &&& ~~~(0xFF : Word)) ||| x
    else x
  | none => if stale then (c.r.sysOld.read ix).getD (sysVal c ix) else sysVal c ix

/-- Whether a register may be written in handler mode only (R42). -/
def handlerOnly (ix : Nat) : Bool := (0x100 ≤ ix && ix ≤ 0x104) || (0x090 ≤ ix && ix < 0x098)

/-- Whether an index names an accumulator that the pack does not have (R42). -/
def noAcc (c : Ctx) (ix : Nat) : Bool :=
  decide (0x090 ≤ ix) && decide (ix < 0x098) && decide (((c.pack?.map fun p => p.accs.length).getD 0) ≤ ix - 0x090)

/-- MFSR (R232). -/
def execMfsr (h : Hdr) (d : SReg) (x : BitVec 10) (s : State) : Out :=
  onWord (.mfsr h d x) h s fun c =>
    if noAcc c x.toNat then illegalOperand c else retire (c.once fun c => c.setS d (sysRead c x.toNat))

/-- A write of a system register (R232, R31): sticky bits clear at once; every other write takes effect from the next run on. -/
def sysWrite (c : Ctx) (ix : Nat) (v : Word) : Ctx :=
  let y := c.f.sys
  if ix = ixFpflags then { c with f := { c.f with sys := { y with fpflags := y.fpflags &&& ~~~(v.setWidth 5) } } }
  else if ix = ixBsticky then { c with f := { c.f with sys := { y with bsticky := y.bsticky &&& ~~~(v.setWidth 5) } } }
  else if ix = ixEbud then c.pendSys ix ((canonBound (v.setWidth 16)).setWidth 64)
  else if ix = ixFpctl then c.pendSys ix (v &&& 0x7)
  else if ix = ixBmode ∨ ix = ixBguard then c.pendSys ix (v &&& 0xF)
  else if ix = ixSeedlo ∨ ix = ixSeedhi ∨ ix = ixSdstep then c.pendSys ix (v &&& 0xFFFFFFFF)
  else if ix = ixXpc then c.pendSys ix (v &&& 0xFFFFFFFFFFFF)
  else if ix = ixXcause then c.pendSys ix (v &&& 0x3FF)
  else if ix = ixXmask ∨ ix = ixXaddr ∨ ix = ixXinfo then c.pendSys ix v
  else if 0x090 ≤ ix ∧ ix < 0x098 then c.pendSys ix (v &&& 0xFF)
  else c

/-- MTSR and MTSRI (R232, R42); the checks run when ACTIVE is empty too (R106; DEDUCED, log 43). -/
def sysWriteWord (c : Ctx) (ix : Nat) (v : Word) : State :=
  if noAcc c ix || (handlerOnly ix && !c.handler) || (ix == ixBmode && v &&& 3 == 3) then illegalOperand c
  else if c.act = 0 then retire c
  else retire (sysWrite c ix v)

/-- MTSR (R232). -/
def execMtsr (h : Hdr) (x : BitVec 10) (a : SReg) (s : State) : Out :=
  onWord (.mtsr h x a) h s fun c => sysWriteWord c x.toNat (c.sr .a a)

/-- MTSRI (R232). -/
def execMtsri (h : Hdr) (x : BitVec 10) (imm : BitVec 32) (s : State) : Out :=
  onWord (.mtsri h x imm) h s fun c => sysWriteWord c x.toNat (imm.setWidth 64)

/-- What a run's writes of system registers do when it ends (R31, R232): the floe, and its accumulators' owners. -/
def Floe.applySys (f : Floe) : Floe :=
  let g := (f.sysPend : List (Nat × Word)).foldl (fun (f : Floe) e =>
    let f := { f with sys := f.sys.write e.1 e.2 }
    if e.1 = ixXpc then { f with xpc := e.2.setWidth 48 }
    else if e.1 = ixXcause then { f with xcause := e.2.setWidth 10 }
    else if e.1 = ixXmask then { f with xmask := e.2 }
    else if e.1 = ixXaddr then { f with xaddr := e.2 }
    else if e.1 = ixXinfo then { f with xinfo := e.2 }
    else f) f
  { g with sysPend := [] }

/-- The writes of ACCOWN of a run that ends: an accumulator whose owner changes has no spill address (R315). -/
def State.applyOwners (s : State) (key : Nat) (f : Floe) : State :=
  match s.packs.find? f.pack with
  | none => s
  | some p =>
    (f.sysPend : List (Nat × Word)).foldl (fun s e =>
      if 0x090 ≤ e.1 ∧ e.1 < 0x098 then
        let n := p.accs.getD (e.1 - 0x090) 0
        let core := s.core (coreOf key)
        let a := core.acc n
        let o : Byte := e.2.setWidth 8
        s.setCore (coreOf key) (core.setAcc n { a with owner := o, spill := if a.owner = o then a.spill else 0 })
      else s) s

/-! ### Time and seed -/

/-- FIRNRD (R233). -/
def execFirnrd (h : Hdr) (d : SReg) (s : State) : Out :=
  onRegs (.firnrd h d) h s fun c => c.once fun c => c.setS d (c.s.firn c.core)

/-- LWAIT (R234): the issuing entry waits at the word with BLOCKED until Firn reaches the deadline (DEDUCED, log 39). -/
def execLwait (h : Hdr) (a : SReg) (s : State) : Out :=
  onWord (.lwait h a) h s fun c =>
    let t := c.sr .a a
    if c.act = 0 ∨ t.toNat ≤ (c.s.firn c.core).toNat then retire c.endRun
    else
      let c := { c with f := { c.f with deadline := if c.f.deadline.toNat < t.toNat then t else c.f.deadline } }
      let e : Entry := { pc := c.pc, prio := c.r.prio, flags := flagBlocked, mask := c.r.mask, wait := .lwait }
      retire (c.leave c.r.mask [e]).endRun

/-- SEED (R235). -/
def execSeed (h : Hdr) (a b : SReg) (s : State) : Out :=
  onRegs (.seed h a b) h s fun c =>
    c.once fun c =>
      let x := c.sr .a a
      ((c.pendSys ixSeedlo (x &&& 0xFFFFFFFF)).pendSys ixSeedhi (x >>> 32)).pendSys ixSdstep (c.sr .b b &&& 0xFFFFFFFF)

/-! ### The floe record (R313) -/

/-- A frontier entry in 16 bytes (R19). -/
def Entry.image (e : Entry) : List Byte :=
  natLe 8 (e.pc.toNat + 2 ^ 48 * e.prio.toNat + 2 ^ 56 * e.flags.toNat) ++ natLe 8 e.mask.toNat

/-- Puts an entry into a list ordered as R22 chooses: higher priority, then lower PC. -/
def putEntry (e : Entry) : List Entry → List Entry
  | [] => [e]
  | x :: t =>
    if x.prio.toNat < e.prio.toNat ∨ (x.prio = e.prio ∧ e.pc.toNat < x.pc.toNat) then e :: x :: t else x :: putEntry e t

/-- The entries of a frontier in the order in which a record holds them (R313, R409; DEDUCED, log 23). -/
def inOrder (fr : List Entry) : List Entry := fr.foldl (fun l e => putEntry e l) []

/-- The level of a code (R198). -/
def sbarLevelOf (n : Nat) : Option SbarLevel :=
  match n with
  | 1 => some .quad
  | 2 => some .die
  | 3 => some .pkg
  | 5 => some .pod
  | _ => none

/-- The synchronising instructions of the interrupted program, which the record holds (R313). -/
def Floe.savedSyncs (f : Floe) : List SyncRec := f.syncs.filter (!·.handler)

/-- The header of a record: offsets 0 to 0x3F. -/
def recHeader (f : Floe) : List Byte :=
  let sigs := (List.range 8).map fun j => ((f.signed.find? j).map (·.gen.toNat))
  natLe 4 0x464C4F45 ++ natLe 2 1 ++ natLe 2 f.valloc ++ natLe 1 f.intFrontier.length ++ natLe 1 f.trapPrio.toNat ++
    natLe 1 f.findex ++ natLe 1 ((List.range 8).map fun j => if (sigs.getD j none).isSome then 2 ^ j else 0).sum ++
    (sigs.flatMap fun g => natLe 2 (g.getD 0)) ++
    (match f.sbar with
     | some (l, i, g) => natLe 1 l.code.toNat ++ natLe 1 i.toNat ++ natLe 2 f.savedSyncs.length ++ natLe 4 g.toNat
     | none => natLe 1 0 ++ natLe 1 0 ++ natLe 2 f.savedSyncs.length ++ natLe 4 0) ++
    natLe 28 0

/-- The slots of system registers, in the order of R313. -/
def recSlots (c : Ctx) : List Word :=
  ([0x010, 0x011, 0x020, 0x021, 0x022, 0x023, 0x024, 0x030, 0x031, 0x032, 0x100, 0x101, 0x102, 0x103, 0x104, 0x008, 0x009, 0x000,
    0x001, 0x002, 0x003, 0x004] : List Nat).map (sysRead c) ++ [BitVec.ofNat 64 c.f.arrivals, sysRead c 0x107]

/-- The record that FRSAVE writes, all but the uniform area, as offset and bytes (DEDUCED, log 23). -/
def recParts (c : Ctx) : List (Nat × List Byte) :=
  let n := c.f.valloc
  let preds := (List.range 16).flatMap fun k => natLe 8 (readP c.f c.r c.num .a k).toNat
  let fr := (inOrder c.f.intFrontier).flatMap Entry.image
  let rows := (List.range n).map fun k => readV c.f c.r c.num .a k
  [(0, recHeader c.f ++ ((recSlots c).flatMap fun x => natLe 8 x.toNat) ++ preds ++ fr ++ List.replicate (1024 - fr.length) 0),
    (0x980, List.replicate 128 0 ++ (rows.flatMap fun r => r.val.toList.flatMap fun x => natLe 4 x.toNat) ++
      (rows.flatMap fun r => r.bnd.toList.flatMap fun b => natLe 2 b.toNat) ++
      (c.f.savedSyncs.flatMap fun x => natLe 8 x.addr.toNat ++ natLe 8 x.member.toNat ++ natLe 8 x.done.toNat))]

/-- The lanes' checks of a record access cover its parts. -/
def recAddrs (base : Word) (parts : List (Nat × Nat)) : List ((Nat × Word) × Nat) :=
  parts.map fun e => ((64, base + BitVec.ofNat 64 e.1), e.2)

/-- What the device keeps of the floe beside the record that it writes (DEDUCED, log 54). -/
def Floe.keep (f : Floe) : Kept :=
  ⟨(f.intFrontier.filter fun e => e.wait == .sleep && e.flags &&& flagBlocked != 0).foldl (fun m e => m ||| e.mask) 0, f.signed, f.ckpts⟩

/-- FRSAVE (R237): a relaxed store of every lane of ACTIVE with bounds 0x0000 (DEDUCED, log 23). -/
def execFrsave (h : Hdr) (a : SReg) (s : State) : Out :=
  onWord (.frsave h a) h s fun c =>
    if !c.handler then illegalOperand c
    else if c.act = 0 then retire c
    else
      let base := c.sr .a a
      if base.toNat % 256 ≠ 0 then trapAt c 0x22 c.act base c.word
      else
        let parts := recParts c
        c.accessN ⟨true, 1, none, false⟩ (recAddrs base (parts.map fun e => (e.1, e.2.length))) fun c cks =>
          let units := (cks.zip parts).flatMap fun e =>
            (laneUnits .near e.2.2.length e.1).map fun x => Work.store [storeSpan [x] (fun _ k => (e.2.2.getD k 0, 0)) x]
          retire ({ c with f := { c.f with kept := c.f.keep } }.issue
            ⟨laneMask c.act cks, .rlx, .core, false, true, units, .none, minExp cks, storeTraps cks, onMmio cks⟩)

/-- The number of sync records of the record that stands at an address, as FRLOAD finds it when it issues. -/
def Ctx.peekSyncs (c : Ctx) (base : Word) : Nat :=
  match c.pack? with
  | none => 0
  | some p =>
    match (c.s.walk c.die c.f.ctx (c.s.rootOf p) base false).leaf with
    | some leaf => min 64 (leNat (c.s.pbytes (leafPa leaf base + 0x1E) 2))
    | none => 0

/-- FRLOAD (R237): a relaxed load of every lane of ACTIVE; the record is checked and loaded when all of it has been read
(DEDUCED, log 23). -/
def execFrload (h : Hdr) (a : SReg) (s : State) : Out :=
  onWord (.frload h a) h s fun c =>
    if !c.handler then illegalOperand c
    else if c.act = 0 then retire c
    else
      let base := c.sr .a a
      if base.toNat % 256 ≠ 0 then trapAt c 0x22 c.act base c.word
      else
        let parts := [(0, 0x580), (0x980, recFixed c.f.valloc - 0x980 + 24 * c.peekSyncs base)]
        c.accessN ⟨false, 1, none, false⟩ (recAddrs base parts) fun c cks =>
          let spans := (cks.zip parts).flatMap fun e => (laneUnits .near e.2.2 e.1).map fun x => { x with k := x.k + e.2.1 }
          retire (c.issue ⟨laneMask c.act cks, .rlx, .core, true, false, spans.map fun x => .load [x], .frload, minExp cks, true,
            onMmio cks⟩)

/-- The frontier of a record. -/
def recFrontier (bs : List Byte) : List Entry :=
  let n (o k : Nat) : Nat := leNat ((bs.drop o).take k)
  (List.range (n 8 1)).map fun i =>
    let o := 0x180 + 16 * i
    { pc := BitVec.ofNat 48 (n o 6), prio := BitVec.ofNat 8 (n (o + 6) 1), flags := BitVec.ofNat 8 (n (o + 7) 1),
      mask := BitVec.ofNat 64 (n (o + 8) 8) }

/-- The sync records of a record: address, membership, lanes that have executed. -/
def recSyncs (n : Nat) (bs : List Byte) : List (Nat × Mask × Mask) :=
  let f (o : Nat) : Nat := leNat ((bs.drop o).take 8)
  (List.range (leNat ((bs.drop 0x1E).take 2))).map fun i =>
    let o := recFixed n + 24 * i
    (f o, BitVec.ofNat 64 (f (o + 8)), BitVec.ofNat 64 (f (o + 16)))

/-- Whether the masks of entries are disjoint. -/
def disjoint : List Entry → Bool
  | [] => true
  | e :: t => t.all (fun x => x.mask &&& e.mask == 0) && disjoint t

/-- The record check of FRLOAD for a floe of n vector registers (R313). -/
def recOk (n : Nat) (bs : List Byte) : Bool :=
  let f (o k : Nat) : Nat := leNat ((bs.drop o).take k)
  let fr := recFrontier bs
  f 0 4 == 0x464C4F45 && f 4 2 == 1 && f 0x24 28 == 0 && f 0x980 128 == 0 && f 6 2 == n && decide (1 ≤ f 8 1) &&
    decide (f 8 1 ≤ 64) && (f 0x1C 1 == 0 || (sbarLevelOf (f 0x1C 1)).isSome) &&
    f (0x180 + 16 * f 8 1) (1024 - 16 * f 8 1) == 0 &&
    fr.all (fun e => e.mask != 0 && e.pc.toNat % 8 == 0 && e.flags.toNat < 32) && disjoint fr && decide (f 0x1E 2 ≤ 64) &&
    (recSyncs n bs).all fun x => decide (x.1 < 2 ^ 48) && x.2.2 &&& ~~~x.2.1 == 0

/-- What FRLOAD loads from a record that passes the check (R237, R313); with a signature comes what the device kept of it
(DEDUCED, log 54); the residues of the registers that it writes are computed again (R396). -/
def loadRec (f : Floe) (r : Run) (num : Nat) (bs : List Byte) : Floe × Run :=
  let n (o k : Nat) : Nat := leNat ((bs.drop o).take k)
  let slot (i : Nat) : Nat := n (0x40 + 8 * i) 8
  let sys : SysRegs :=
    { fpctl := BitVec.ofNat 3 (slot 0), fpflags := BitVec.ofNat 5 (slot 1), ebud := canonBound (BitVec.ofNat 16 (slot 2)),
      bmode := BitVec.ofNat 4 (slot 3), bguard := BitVec.ofNat 4 (slot 4), bsticky := BitVec.ofNat 5 (slot 5),
      lasttier := BitVec.ofNat 2 (slot 6), seedlo := BitVec.ofNat 32 (slot 7), seedhi := BitVec.ofNat 32 (slot 8),
      sdstep := BitVec.ofNat 32 (slot 9) }
  let signed := (List.range 8).foldl (fun (t : Tbl Sig) j =>
    let gen := BitVec.ofNat 16 (n (0xC + 2 * j) 2)
    if (n 0xB 1).testBit j then
      t.put j (((f.kept.signed.find? j).filter fun g => g.gen == gen).getD ⟨gen, 0, 0, 0, true⟩)
    else t.del j) []
  let g := { f with
    sys := sys, arrivals := slot 22, signed := signed
    sbar := (sbarLevelOf (n 0x1C 1)).map fun l => (l, BitVec.ofNat 5 (n 0x1D 1), BitVec.ofNat 32 (n 0x20 4))
    syncs := f.syncs.filter (·.handler) ++
      (recSyncs f.valloc bs).map fun x => ⟨BitVec.ofNat 48 x.1, x.2.1, x.2.2, 0, none, false, false, none⟩
    resids := f.resids.filter fun x => !(decide (x.reg < f.valloc) || (decide (1153 ≤ x.reg) && decide (x.reg ≤ 1165)))
    loaded := some (recFrontier bs) }
  let fr := (List.range 13).foldl (fun (fr : Floe × Run) k =>
    writeP fr.1 fr.2 (k + 1) allLanes (BitVec.ofNat 64 (n (0x100 + 8 * (k + 1)) 8))) (g, r)
  (List.range f.valloc).foldl (fun (fr : Floe × Run) k =>
    writeV fr.1 fr.2 num k allLanes
      ⟨Vector.ofFn fun l => BitVec.ofNat 32 (n (0xA00 + 256 * k + 4 * l.val) 4),
       Vector.ofFn fun l => canonBound (BitVec.ofNat 16 (n (0xA00 + 256 * f.valloc + 128 * k + 2 * l.val) 2))⟩) fr

/-! ### RFT (R231, R307, R312) -/

/-- The word at an address, when it can be fetched. -/
def State.codeAt (s : State) (key : Nat) (f : Floe) (pc : BitVec 48) : Option Word :=
  match s.packs.find? f.pack with
  | none => none
  | some p =>
    let va : Word := pc.setWidth 64
    match (s.walk (dieOf (coreOf key)) f.ctx (s.rootOf p) va false).leaf with
    | some leaf =>
      if !pteX leaf || pteK leaf || pteKind leaf == 3 || s.poisonedAt (dieOf (coreOf key)) (leafPa leaf va) then none
      else some (BitVec.ofNat 64 (leNat (s.pbytes (leafPa leaf va) 8)))
    | none => none

/-- The wait of a restored BLOCKED entry, read off the word at its PC, which ended its run (R27), with the restored registers (R312): none where no wait of
its own continues. The second part says that the wait has ended at the next word. -/
def State.waitAt (s : State) (key : Nat) (f : Floe) (pc : BitVec 48) : Wait × Bool :=
  match (s.codeAt key f pc).bind fun w => decode? (marked w) with
  | some (.barwait _ d sa off) =>
    (match s.packs.find? f.pack with
     | none => (.none, false)
     | some p =>
       let o := (f.sreg sa.toNat + off.signExtend 64).toNat
       let want := (f.sreg d.toNat).setWidth 32
       if o % 16 ≠ 0 ∨ !p.inPad o 16 then (.none, false)
       else if (s.obj f.pack p o).phase = want then (.bar o want, false)
       else (.none, true))
  | some (.jwait _ j) =>
    (match s.packs.find? f.pack, f.signed.find? j.toNat with
     | some p, some g => if (p.join j).genDone g.gen then (.none, true) else (.join j g.gen, false)
     | _, _ => (.none, true))
  | some (.lwait _ a) => if (f.sreg a.toNat).toNat ≤ (s.firn (coreOf key)).toNat then (.none, true) else (.lwait, false)
  | _ => (.none, false)

/-- The deadline of a restored LWAIT (R312). -/
def State.deadlineAt (s : State) (key : Nat) (f : Floe) (pc : BitVec 48) : Word :=
  match (s.codeAt key f pc).bind fun w => decode? (marked w) with
  | some (.lwait _ a) => f.sreg a.toNat
  | _ => 0

/-- An entry of a loaded frontier as it goes on (R312, R309; DEDUCED, log 23): a sleeper continues at its PC (R131;
DEDUCED, log 54). -/
def State.resume (s : State) (key : Nat) (f : Floe) (sbarOver : Bool) (e : Entry) : Entry :=
  let e := { e with flags := e.flags &&& ~~~flagParked }
  let e := if sbarOver then { e with flags := e.flags &&& ~~~flagSbwait } else e
  if e.flags &&& flagBlocked = 0 then e
  else
    match (if e.mask &&& ~~~f.kept.asleep = 0 then (Wait.none, false) else s.waitAt key f e.pc) with
    | (.none, true) => { e with pc := e.pc + 8, flags := e.flags &&& ~~~flagBlocked }
    | (.none, false) => { e with flags := e.flags &&& ~~~flagBlocked }
    | (w, _) => { e with wait := w }

/-- Whether the floe's recorded hardware-barrier generation is over (R312): no barrier of that level and index, wherever it
stands, holds the floe's arrival in that generation (DEDUCED, log 23). -/
def State.sbarOver (s : State) (f : Floe) : Bool :=
  match f.sbar, s.packs.find? f.pack with
  | some (l, i, g), some p =>
    match s.fieldOf p.id with
    | some fd => !fd.bars.any fun b =>
        b.level == l && b.index == i.toNat && b.gen == g && b.arrived.contains (floeCode p.id.k f.findex)
    | none => false
  | _, _ => false

/-- A boundary cause that has arisen in handler mode and is still to be taken as an RFT ends that mode: it stops the floe
(R306). -/
def Floe.lateCause (f : Floe) : Option Trap :=
  ((f.traps.find? (·.own)).map (·.trap)).or
    (f.syncsNow.findSome? fun x => match x.failed with
      | some (cause, addr, info) => some ⟨cause, x.addr, 0, addr, info, false⟩
      | none => if x.bad || x.member &&& ~~~f.live != 0 then some ⟨0x30, x.addr, 0, x.addr.setWidth 64, x.word, false⟩ else none)

/-- RFT (R231, R307): handler mode ends, and the floe goes on with the rebuilt frontier; where XPC is no word address, the floe
halts instead (DEDUCED, log 49). -/
def execRft (h : Hdr) (s : State) : Out :=
  onWord (.rft h) h s fun c =>
    if !c.handler then illegalOperand c
    else if c.act = 0 then retire c.endRun
    else
      let f := { c.f with run := some c.r }
      let barred := c.s.sbarOver f
      let fr := match f.loaded with
        | some l => l.map (c.s.resume c.key f barred)
        | none => f.intFrontier
      let xpc := (sysRead c ixXpc).setWidth 48
      let kill := (sysRead c ixXcause).getLsbD 8
      match rftFrontier fr f.live f.trapPrio xpc (sysRead c ixXmask) kill with
      | none =>
        let c := { c with f := { c.f with halted := true } }
        retire { c.endRun with s := reportHalt c.s c.key c.f 0x22 true (c.pc.setWidth 64) }
      | some new =>
        let dl := match f.loaded with
          | some l => l.foldl (fun (d : Word) e =>
              if e.flags &&& flagBlocked = 0 ∨ e.mask &&& ~~~f.kept.asleep = 0 then d
              else let t := c.s.deadlineAt c.key f e.pc; if d.toNat < t.toNat then t else d) f.deadline
          | none => f.deadline
        let left : Mask := if f.loaded.isSome then allLanes else sysRead c ixXmask &&& f.live
        let s := (c.s.unwait c.key c.f.seq allLanes true).unwait c.key c.f.seq left false
        let answered (t : BTrap) : BTrap := match t.who with
          | .sywait l => { t with who := .sywait (l &&& ~~~(sysRead c ixXmask)) }
          | _ => t
        let named := c.f.savedSyncs.map fun x => if x.op.isNone then { x with word := (c.s.codeAt c.key f x.addr).getD 0 } else x
        let g := { c.f with
          frontier := new, intFrontier := [], loaded := none, handler := false, deadline := dl, syncs := named
          traps := c.f.traps.map answered
          sbar := if f.loaded.isSome && barred then none else c.f.sbar }
        retire ({ c with s := s, f := g, r := { c.r with mask := 0, late := c.f.lateCause } } : Ctx).endRun

end Sys2Proof.Machine
end

