-- ==== Sys2Proof/Machine/Launch.lean ====
section
/-! DEFINITION. The front end (spec 21): launch descriptors (R382), task graphs, triggers and queues (R384 to R387), the
release and completion of nodes (R283, R284, R385, R390), the end of a context (R388), machine faults (R398). -/

namespace Sys2Proof.Machine
open Sys2Proof

/-! ### Reports -/

/-- Records a machine fault in MFLOG and raises vector 21 (R398). -/
def State.machineFault (s : State) (kind die detail : Nat) : State :=
  let h := s.hub
  let log : Word :=
    if h.mflog &&& logValid = 0 then BitVec.ofNat 64 (2 ^ 63 + 2 ^ 48 * kind + 2 ^ 40 * die + detail % 2 ^ 40)
    else h.mflog ||| 0x4000000000000000
  (s.setHub { h with mflog := log }).interrupt 21

/-- Records a queue's error and raises vector 16 (R387, R390). -/
def State.queueError (s : State) (q node code : Nat) : State :=
  let h := s.hub
  let x := h.queues.toList.getD q Queue.reset
  let y := { x with err := BitVec.ofNat 4 code, node := BitVec.ofNat 12 node }
  (s.setHub { h with queues := h.queues.setIfInBounds q y }).interrupt 16

/-! ### Waking a die (R392) -/

/-- A die enters A0; one that leaves A2 or A3 resynchronises. With the package leaving A3, the other dies are no deeper than A2
and resynchronise too (R392; DEDUCED, log 25). -/
def State.wakeDie (s : State) (die : Nat) : State :=
  let d := s.die die
  let up (e : Nat × Die) : Nat × Die :=
    if e.1 = die then (e.1, { e.2 with power := .a0, agree := 0 })
    else if d.power = .a3 ∧ e.2.power = .a3 then (e.1, { e.2 with power := .a2, agree := 0 })
    else e
  let out (k : Nat) : Bool :=
    if k = die then d.power == .a2 || d.power == .a3 else d.power == .a3 && (s.die k).power == .a3
  if d.power = .a0 then s
  else
    let bits := BitVec.ofNat 8 (((List.range 8).filter out).map (2 ^ ·)).sum
    ({ s with dies := s.dies.map up } : State).setHub { s.hub with resync := s.hub.resync ||| bits }

/-! ### Descriptors (R382) -/

/-- The bytes of a descriptor or node as numbers: n bytes at offset o. -/
def fieldAt (bs : List Byte) (o n : Nat) : Nat := leNat ((bs.drop o).take n)

/-- Reads the fields of a descriptor. -/
def descOf (bs : List Byte) : Desc :=
  let f := fieldAt bs
  { entry := BitVec.ofNat 64 (f 0 8), ctx := BitVec.ofNat 8 (f 8 1), prio := BitVec.ofNat 8 (f 9 1), nfloes := f 0xA 1,
    tiles := f 0xB 1, accs := f 0xC 1, spmin := f 0xD 1, spmax := f 0xE 1, guard := BitVec.ofNat 4 (f 0xF 1), vregs := f 0x10 2,
    budget := canonBound (BitVec.ofNat 16 (f 0x12 2)), bmode := BitVec.ofNat 4 (f 0x14 1), fpctl := BitVec.ofNat 3 (f 0x15 1),
    barq := f 0x16 1, bard := f 0x17 1, barp := f 0x18 1, barpod := f 0x1A 1, axis := f 0x19 1, slice := f 0x1C 4,
    nx := f 0x20 4 + 1, ny := f 0x24 4 + 1, nz := f 0x28 4 + 1, bounds := (List.range 8).map fun i => f (0x30 + 4 * i) 4,
    seed := BitVec.ofNat 64 (f 0x50 8), step := BitVec.ofNat 32 (f 0x58 4), saveSlots := f 0x5C 2,
    xbase := BitVec.ofNat 64 (f 0x60 8), saveBase := BitVec.ofNat 64 (f 0x68 8), pstride := f 0x70 4,
    uargs := (List.range 8).map fun i => BitVec.ofNat 64 (f (0x80 + 8 * i) 8) }

/-- Whether every field of a descriptor is within its limits; the axis code 3 is left to the check of the partition (R382, R283;
DEDUCED, log 24). -/
def descOk (bs : List Byte) : Bool :=
  let f := fieldAt bs
  f 0 8 < 2 ^ 48 && f 0 8 % 8 == 0 && 1 ≤ f 0xA 1 && f 0xA 1 ≤ 16 && f 0xB 1 ≤ 16 && f 0xC 1 ≤ 8 && f 0xD 1 ≤ f 0xE 1 &&
    f 0xE 1 ≤ 16 && f 0xF 1 < 16 && 16 ≤ f 0x10 2 && f 0x10 2 ≤ 1008 && f 0x10 2 % 16 == 0 && f 0x14 1 < 16 &&
    f 0x14 1 % 4 != 3 && f 0x15 1 < 8 && f 0x16 1 ≤ 32 && f 0x17 1 ≤ 32 && f 0x18 1 ≤ 32 && f 0x19 1 < 4 && f 0x1A 1 ≤ 32 &&
    f 0x1B 1 == 0 && 1 ≤ f 0x1C 4 && f 0x2C 4 == 0 && 1 ≤ f 0x5C 2 && f 0x5E 2 == 0 && f 0x60 8 < 2 ^ 48 && f 0x60 8 % 8 == 0 &&
    f 0x68 8 % 65536 == 0 && f 0x74 12 == 0

/-- The extent of a field along its partition axis (R283). -/
def Desc.extent (d : Desc) : Nat :=
  match d.axis with
  | 0 => d.nx
  | 1 => d.ny
  | _ => d.nz

/-- Whether a list never falls. -/
def rising : List Nat → Bool
  | a :: b :: t => decide (a ≤ b) && rising (b :: t)
  | _ => true

/-- The checks of the partition vector (R283; DEDUCED, log 24). -/
def Desc.partitionOk (d : Desc) : Bool :=
  d.axis != 3 && d.bounds.headD 0 == 0 && rising d.bounds && decide (d.bounds.getD 7 0 ≤ d.extent)

/-- The ranges of the partition vector. -/
def Desc.ranges (d : Desc) : List (Nat × Nat) := (List.range 8).map fun i => (d.bounds.getD i 0, (d.bounds ++ [d.extent]).getD (i + 1) 0)

/-- The bytes that a pack's save area needs (R383). -/
def Desc.saveNeed (d : Desc) : Nat := d.nfloes * floeStride d.vregs + 0x20000 + d.spmax * 65536

/-- Whether a pack fits on an empty core whose L1 keeps at least lmin banks (R286, R287). -/
def Desc.fitsEmpty (d : Desc) (lmin : Nat) : Bool := d.nfloes * (d.vregs + 8) ≤ 2048 && d.spmin ≤ 16 - lmin

/-! ### Dies in service (R284) -/

/-- Whether a die takes packs: booted, not retired, its link up (R284, R369, R395). -/
def State.serves (s : State) (die : Nat) : Bool :=
  (s.die die).inService && !(s.die die).retired && (s.hub.bootPhase == 2 || s.hub.bootPhase == 3)

/-- The lowest-numbered die in service. -/
def State.firstDie (s : State) : Option Nat := (List.range 8).find? s.serves

/-- The die that takes over for a die (R284, R285). -/
def State.standIn (s : State) (die : Nat) : Nat := if s.serves die then die else (s.firstDie.getD die)

/-! ### Graphs (R384) and triggers (R386, R387) -/

/-- n bytes of scheduler memory (DESIGN CHOICE, log 3). -/
def Hub.schedBytes (h : Hub) (o n : Nat) : List Byte := (List.range n).map fun i => h.sched.getD (o + i) 0

/-- Whether n bytes of scheduler memory hold poisoned data (R397). -/
def Hub.schedPoisoned (h : Hub) (o n : Nat) : Bool := h.schedBad.any fun w => decide (8 * w < o + n) && decide (o < 8 * w + 8)

/-- The header's offset of graph g, none for no graph, or for one whose entry or header is poisoned data (R384; DESIGN CHOICE, log
46). -/
def Hub.graphAt (h : Hub) (g : Nat) : Option Nat :=
  let x := leNat (h.schedBytes (4 * g) 4) % 2 ^ 15
  if x = 0 || h.schedPoisoned (4 * g) 4 || h.schedPoisoned (256 * x) 256 then none else some (256 * x)

/-- A patch entry, none for a bad one; with LAST (DEDUCED, log 24). -/
def patchOf (nnodes : Nat) (bs : List Byte) : Option (Patch × Bool) :=
  let f := fieldAt bs
  let w := 2 ^ (f 3 1 % 4)
  if nnodes ≤ f 0 2 ∨ f 2 1 % w ≠ 0 ∨ 192 < f 2 1 + w ∨ f 3 1 / 4 % 32 ≠ 0 ∨ f 4 4 ≠ 0 then none
  else some (⟨f 0 2, f 2 1, (bs.drop 8).take w⟩, 128 ≤ f 3 1)

/-- The patch list at a physical address (R386): at most 256 entries; an entry in a line that reads as poison is a bad one (DESIGN
CHOICE, log 45). -/
def State.patches (s : State) (nnodes : Nat) : Nat → Nat → Option (List Patch)
  | 0, _ => none
  | f + 1, a =>
    match (if s.poisoned a then none else patchOf nnodes (s.pbytes a 16)) with
    | none => none
    | some (p, true) => some [p]
    | some (p, false) => (s.patches nnodes f (a + 16)).map fun t => p :: t

/-- The first unclaimed address that a front end meets in the entries of a patch list (R374, R386). -/
def State.patchUncl (s : State) (nnodes : Nat) : Nat → Nat → Option Nat
  | 0, _ => none
  | f + 1, a =>
    if s.unclaimed a then some a
    else
      match patchOf nnodes (s.pbytes a 16) with
      | some (_, false) => s.patchUncl nnodes f (a + 16)
      | _ => none

/-- A write of TRIGGER (R386, R387). A queue that is not enabled accepts none (DEDUCED, log 24). -/
def State.trigger (s : State) (v : Word) : State :=
  let h := s.hub
  let q := bitsAt v.toNat 0 4
  let list := bitsAt v.toNat 4 48 * 16
  let x := h.queues.toList.getD q Queue.reset
  if !x.en then s
  else if 64 ≤ h.pending q then
    (s.setHub { h with queues := h.queues.setIfInBounds q { x with ovf := true } }).interrupt 16
  else
    match h.graphAt (bitsAt v.toNat 52 12) with
    | none => s.queueError q 0 1
    | some o =>
      let n := leNat (h.schedBytes o 2)
      if n = 0 ∨ 4096 < n then s.queueError q 0 1
      else
        match (if list = 0 then some [] else s.patches n 256 list) with
        | none => (s.noteUncl (s.patchUncl n 256 list)).queueError q 0 2
        | some ps =>
          let i : Inst := ⟨h.nextInst, q, bitsAt v.toNat 52 12, o, n, h.schedBytes o (256 * (n + 1)), ps, [], [], false⟩
          s.setHub { h with insts := h.insts ++ [i], nextInst := h.nextInst + 1 }

/-- TRIGGER (R386). -/
def execTrigger (value : BitVec 64) (s : State) : Out := .next (s.trigger value)

/-! ### Release (R385, R387, R381, R199) -/

/-- The 256 bytes of a node of an instance: each aligned word as it stands, or as it stood at the trigger where the host has
rewritten it, with the instance's patches (R386; DESIGN CHOICE, log 45). -/
def State.nodeBytes (s : State) (i : Inst) (node : Nat) : List Byte :=
  let o := 256 * (node + 1)
  let now := s.hub.schedBytes (i.header + o) 256
  let old := (i.image.drop o).take 256
  let mixed := (List.range 32).flatMap fun k =>
    let a := (now.drop (8 * k)).take 8
    let b := (old.drop (8 * k)).take 8
    if a != b && Config.pick 8 (s.fresh + k) % 2 == 1 then b else a
  i.patches.foldl (fun bs p =>
    if p.node = node then bs.zipIdx.map fun e => if p.off ≤ e.2 ∧ e.2 < p.off + p.bytes.length then p.bytes.getD (e.2 - p.off) e.1 else e.1
    else bs) mixed

/-- The predecessors of a node, none for a bad one (R384). -/
def nodePreds (node : Nat) (bs : List Byte) : Option (List Nat) :=
  let ps := ((List.range 8).map fun i => fieldAt bs (0xC0 + 2 * i) 2).filter (· != 0xFFFF)
  if ps.all (· < node) && fieldAt bs 0xD0 48 == 0 then some ps else none

/-- TROOT of a context's entry, none for BADCTX (R381, R334). -/
def State.contextRoot (s : State) (ctx : BitVec 8) : Option Nat :=
  let base := 4096 * s.hub.ctxbase.toNat
  if kindOf base ≠ 0 ∧ kindOf base ≠ 1 then none
  else
    let bs := s.bytes (base + 16 * ctx.toNat) 16
    let t := fieldAt bs 0 8
    let here := kindOf t == 0 || kindOf t == 1 || (kindOf t == 2 && s.cacheable t)
    if fieldAt bs 8 8 == 1 && t % 65536 == 0 && here then some t else none

/-- The error code of a node at its release, 0 for none (R387; DEDUCED, log 24). -/
def State.nodeError (s : State) (node : Nat) (bs : List Byte) : Nat :=
  let d := descOf bs
  if (nodePreds node bs).isNone then 8
  else if (s.contextRoot d.ctx).isNone then 6
  else if !descOk bs then 3
  else if !d.partitionOk then 4
  else if d.pstride * 65536 < d.saveNeed then 7
  else
    let owners := (List.range 8).map s.standIn
    let dies := ((d.ranges.zip owners).filter fun e => e.1.1 < e.1.2).map (·.2)
    if dies.all fun k => d.fitsEmpty (s.die k).lmin.toNat then 0 else 5

/-- Whether the hardware barriers of a node are free (R198, R199). -/
def State.barsFree (s : State) (d : Desc) (owners : List Nat) : Bool :=
  let dies (ranges : List (Nat × Nat)) (os : List Nat) : List Nat := ((ranges.zip os).filter fun e => e.1.1 < e.1.2).map (·.2)
  let on (k : Nat) : List Field := s.hub.fields.filter fun f => (dies f.ranges f.owners).contains k
  (dies d.ranges owners).all (fun k =>
    ((on k).map (·.desc.barq)).sum + d.barq ≤ 64 && ((on k).map (·.desc.bard)).sum + d.bard ≤ 256) &&
    decide ((s.hub.fields.map (·.desc.barp)).sum + d.barp ≤ 1024)

/-- Replaces an instance. -/
def State.putInst (s : State) (i : Inst) : State :=
  s.setHub { s.hub with insts := s.hub.insts.map fun x => if x.id == i.id then i else x }

/-- Ends an instance that is over: completed, which raises its queue's vector, or in error with no released node left running
(R387, R390). -/
def State.endInst (s : State) (i : Inst) : State :=
  let h := s.hub
  let rest := h.insts.filter fun x => x.id != i.id
  if i.error then (if i.released.all i.completed.contains then s.setHub { h with insts := rest } else s)
  else if i.completed.length = i.nnodes then
    let x := h.queues.toList.getD i.queue Queue.reset
    (s.setHub { h with insts := rest, queues := h.queues.setIfInBounds i.queue { x with done := x.done + 1 } }).interrupt i.queue
  else s

/-- Whether an instance is the oldest of its queue (R387). -/
def Hub.isHead (h : Hub) (i : Inst) : Bool := (h.insts.find? fun x => x.queue == i.queue).any fun x => x.id == i.id

/-- NODE_RELEASE (R385): a node whose predecessors have all completed becomes a field, or ends its instance with an error; one in
poisoned data is a bad one (R397; DESIGN CHOICE, log 46). -/
def execNodeRelease (inst node : Nat) (s : State) : Out :=
  match s.hub.insts.find? fun x => x.id == inst with
  | none => .fault .noObject
  | some i =>
    if !s.hub.isHead i || i.error || i.nnodes ≤ node || i.released.contains node || s.firstDie.isNone then .fault .notDue
    else
      let bs := s.nodeBytes i node
      let d := descOf bs
      let bad := s.hub.schedPoisoned (i.header + 256 * (node + 1)) 256
      let ready := bad || match nodePreds node bs with
        | some ps => ps.all i.completed.contains
        | none => true
      if !ready then .fault .notDue
      else
        match (if bad then 8 else s.nodeError node bs) with
        | 0 =>
          let owners := (List.range 8).map s.standIn
          if !s.barsFree d owners then .fault .notDue
          else
            let f : Field :=
              { inst := inst, node := node, desc := d, troot := (s.contextRoot d.ctx).getD 0, ranges := d.ranges, owners := owners,
                placed := List.replicate 8 0, retired := 0, saved := [], slots := [], bars := [], ended := false }
            let s := s.putInst { i with released := i.released ++ [node] }
            .next (s.setHub { s.hub with fields := s.hub.fields ++ [f] }).bump
        | e =>
          let i := { i with error := true }
          .next (((s.putInst i).queueError i.queue node e).endInst i).bump

/-! ### Retirement of packs (R26, R126) -/

/-- Engine operations that aim at a pack or use its scratchpad (R126). -/
def State.engineBusy (s : State) (id : PackId) : Bool :=
  (s.cores.any fun c => (c.2.queues.any fun q => q.2.any fun r => r.pack == id) || c.2.kicks.any fun k => k.pack == id) ||
    (s.copies.any fun x => x.pack == id) || (s.drains.any fun x => x.pack == id) || (s.seracs.any fun x => x.pack == id)

/-- Replaces a bank. -/
def Core.setBank (c : Core) (b : Nat) (x : Bank) : Core := { c with banks := c.banks.set Bank.reset b x }
/-- The banks of a core in a state, ascending. -/
def Core.banksIn (c : Core) (st : BankSt) : List Nat := (List.range 16).filter fun b => (c.bank b).st == st

/-- Moves banks between FREE or GATED and L1 until L1 has n (R320). -/
def Core.splitTo (c : Core) (n : Nat) (now : Word) : Nat → Core
  | 0 => c
  | f + 1 =>
    let l1 := c.banksIn .l1
    if l1.length < n then
      match c.banksIn .free ++ c.banksIn .gated with
      | b :: _ => Core.splitTo (c.setBank b ⟨.l1, (c.bank b).st == .gated, now⟩) n now f
      | [] => c
    else if n < l1.length then
      let b := l1.getLastD 0
      Core.splitTo ((c.setBank b ⟨.free, false, now⟩).dropBank b) n now f
    else c

/-- SRAMCTL as it stands, which an interval's end and a placement put in force on a core (R322). -/
def Die.sramctl (d : Die) : Sram := ⟨d.gain, d.fresv, d.lmin, d.auto⟩

/-- The pinned split after a placement or a release, by the SRAMCTL in force on the core (R320, R322). -/
def State.pinBanks (s : State) (core : Nat) : State :=
  let c := s.core core
  if c.sram.auto then s
  else
    let held := (c.banksIn .pack).length
    s.setCore core (c.splitTo (max c.sram.lmin.toNat (16 - held - c.sram.fresv.toNat)) (s.firn core) 16)

/-- Takes a pack off its core: banks become FREE, and the context's slice ends with its last pack there (R317, R296). -/
def State.dropPack (s : State) (key : Nat) : State :=
  match s.packs.find? key with
  | none => s
  | some p =>
    let core := coreOf key
    let c := s.core core
    let now := s.firn core
    let s := s.setCore core (p.banks.foldl (fun c b => c.setBank b ⟨.free, false, now⟩) c)
    let s := { s with packs := s.packs.del key }
    let die := dieOf core
    let d := s.die die
    let left := s.packs.any fun e => dieOf (coreOf e.1) == die && e.2.ctx == p.ctx
    let s := if left then s else s.setDie die { d with slices := d.slices.filter fun x => x.ctx != p.ctx }
    s.pinBanks core

/-- A pack all of whose floes have retired releases its resources once its stores and engine operations are done (R26, R126). -/
def State.reapPack (s : State) (key : Nat) (p : Pack) : State :=
  if p.ending || p.stats.any (· != .retired) || s.engineBusy p.id || s.pend.any fun e => e.2.pack == p.id then s
  else
    let s := s.dropPack key
    let s := match s.redirect p.id with
      | some (d, _) => s.putRedirect d p.id none
      | none => s
    match s.fieldOf p.id with
    | none => s
    | some f => s.putField { f with retired := f.retired + 1, slots := f.slots.filter (· != p.saveSlot) }

/-- Retires every pack that is done. -/
def State.reap (s : State) : State := (s.packs : List (Nat × Pack)).foldl (fun s e => s.reapPack e.1 e.2) s

/-! ### Completion (R385, R390) -/

/-- The packs of a field. -/
def Field.total (f : Field) : Nat := f.desc.nx * f.desc.ny * f.desc.nz

/-- A context none of whose fields is left has no first placement on any die (R297; DEDUCED, log 24). -/
def State.forgetFirst (s : State) (ctx : BitVec 8) : State :=
  if s.hub.fields.any fun f => f.desc.ctx == ctx then s
  else { s with dies := s.dies.map fun e => (e.1, { e.2 with firsts := e.2.firsts.del ctx.toNat }) }

/-- NODE_COMPLETE (R385): every pack of the field has retired; its barriers are free again (R199). -/
def execNodeComplete (inst node : Nat) (s : State) : Out :=
  let s := s.reap
  match s.hub.fields.find? fun f => f.inst == inst && f.node == node with
  | none => .fault .noObject
  | some f =>
    if f.ended || f.retired != f.total then .fault .notDue
    else
      let s := s.setHub { s.hub with fields := s.hub.fields.filter fun x => !(x.inst == inst && x.node == node) }
      let s := s.forgetFirst f.desc.ctx
      match s.hub.insts.find? fun x => x.id == inst with
      | none => .next s
      | some i =>
        let i := { i with completed := i.completed ++ [node] }
        .next ((s.putInst i).endInst i)

/-! ### Pre-empting and ending a context (R297, R388) -/

/-- Whether an EXIT of the last lane ends a save (R310; DEDUCED, log 23). -/
def Floe.endsSave (f : Floe) : Bool := f.handler && f.xcause.toNat % 256 == 0x41 && !f.xinfo.getLsbD 0

/-- Pre-empts the resident packs of a context on one die or on all (R297): their floes take PREEMPT when they can; those in
their save handler have had theirs. -/
def State.preemptCtx (s : State) (ctx : BitVec 8) (die : Option Nat) : State :=
  let here (key : Nat) : Bool := match die with
    | some d => dieOf (coreOf key) == d
    | none => true
  let pk (e : Nat × Pack) : Nat × Pack := if e.2.ctx = ctx ∧ here e.1 then (e.1, { e.2 with saving := true }) else e
  let fl (e : Nat × Floe) : Nat × Floe :=
    if e.2.ctx = ctx ∧ here e.1 ∧ !e.2.endsSave then (e.1, { e.2 with preempt := true }) else e
  { s with packs := s.packs.map pk, floes := s.floes.map fl }

/-- CTXCTL with ACTION 1 (R388). -/
def execCtxctlPreempt (ctx : BitVec 8) (s : State) : Out := .next (s.preemptCtx ctx none)

/-- Cancels the Latch requests of a context, and its chains that wait to enter a queue (R388, R225). -/
def State.cancelCtx (s : State) (ctx : BitVec 8) : State :=
  (s.cores : List (Nat × Core)).foldl (fun s e =>
    let c := s.core e.1
    let c := { c with
      kicks := c.kicks.filter fun k => k.ctx != ctx
      queues := c.queues.map fun q => (q.1, q.2.map fun r => if r.ctx = ctx then { r with cancel := true } else r) }
    (s.setCore e.1 c).settleAll e.1) s

/-- Ends a context (R388): its packs stop, its instances end, its requests are cancelled, its Tumbler entries and waiters go
(DEDUCED, log 24). -/
def State.endCtx (s : State) (ctx : BitVec 8) : State :=
  let h := s.hub
  let mine := (h.fields.filter fun f => f.desc.ctx == ctx).map (·.inst)
  let stop (e : Nat × Pack) : Nat × Pack := if e.2.ctx = ctx then (e.1, { e.2 with ending := true, mmas := [] }) else e
  let forget (e : Nat × Die) : Nat × Die := (e.1, { e.2 with redirects := e.2.redirects.filter fun r => r.ctx != ctx })
  let s := { s with
    floes := List.filter (fun (e : Nat × Floe) => e.2.ctx != ctx) s.floes, packs := s.packs.map stop, dies := s.dies.map forget }
  let s := s.cancelCtx ctx
  let h := s.hub
  s.setHub { h with
    insts := h.insts.filter fun i => !mine.contains i.id
    fields := h.fields.map fun (f : Field) => if f.desc.ctx = ctx then { f with ended := true, saved := [] } else f
    faults := h.faults.map fun (r : FaultRec) => if r.ctx = ctx then { r with waiters := [] } else r
    ctxBusy := true, ctxLast := ctx, ending := h.ending.filter (· != ctx) ++ [ctx] }

/-- CTXCTL with ACTION 2 (R388). -/
def execCtxctlEnd (ctx : BitVec 8) (s : State) : Out := .next (s.endCtx ctx)

/-- CTXCTL (R388): other actions are ignored. -/
def State.ctxctl (s : State) (v : Word) : State :=
  let ctx := BitVec.ofNat 8 (bitsAt v.toNat 0 8)
  match bitsAt v.toNat 16 2 with
  | 1 => s.preemptCtx ctx none
  | 2 => s.endCtx ctx
  | _ => s

/-- Engine operations of a context. -/
def State.engineOf (s : State) (ctx : BitVec 8) : Bool :=
  (s.cores.any fun c => c.2.queues.any fun q => q.2.any fun r => r.ctx == ctx) || (s.copies.any fun x => x.ctx == ctx) ||
    (s.drains.any fun x => x.ctx == ctx) || s.seracs.any fun x => x.ctx == ctx

/-- CONTEXT_END_RELEASE (R388): once every engine operation of an ended context has completed, its packs' resources, its
accumulators and its keys are released, and no die remembers when it was first placed there (R297; DEDUCED, log 24). -/
def execContextEndRelease (ctx : BitVec 8) (s : State) : Out :=
  if !s.hub.ending.contains ctx then .fault .noObject
  else if s.engineOf ctx then .fault .notDue
  else
    let s := (s.packs : List (Nat × Pack)).foldl (fun s e => if e.2.ctx = ctx ∧ e.2.ending then s.dropPack e.1 else s) s
    let free (a : Nat × Accum) : Nat × Accum := if a.2.owner = ctx then (a.1, { a.2 with live := false, spill := 0 }) else a
    let clear (e : Nat × Core) : Nat × Core := (e.1, { e.2 with accs := e.2.accs.map free })
    let s := { s with cores := s.cores.map clear }
    let h := s.hub
    let ending := h.ending.filter (· != ctx)
    .next ((s.setHub { h with
      ending := ending, ctxBusy := !ending.isEmpty, keys := h.keys.filter fun k => k.2.ctx != ctx
      fields := h.fields.filter fun f => !(f.desc.ctx == ctx && f.ended) }).forgetFirst ctx)

end Sys2Proof.Machine
end

