-- ==== Sys2Proof/Machine/Place.lean ====
section
/-! DEFINITION. Dispatch (spec 14, 15): which pack a die takes next (R285), where it fits (R286 to R289, R317, R318), its placement
(R11, R20, R33 to R41), victims (R297), retirement and saving of floes (R26, R310), and the pack record: the end of a save and
restore placement (R310, R311, R314 to R316, R365 to R367, R411). -/

namespace Sys2Proof.Machine
open Sys2Proof

/-! ### Which pack comes next (R285) -/

/-- Index number n of ascending ranges. -/
def nthIn : List (Nat × Nat) → Nat → Nat
  | [], _ => 0
  | (a, b) :: t, n => if n < b - a then a + n else nthIn t (n - (b - a))

/-- Coordinates of the n-th pack, in linear order, of those that a die has (R283 to R285). -/
def Field.nth (f : Field) (die n : Nat) : Nat × Nat × Nat :=
  let d := f.desc
  let rs := f.rangesOf die
  let w := rangesLen rs
  match d.axis with
  | 0 => (nthIn rs (n % w), n / w % d.ny, n / w / d.ny)
  | 1 => (n % d.nx, nthIn rs (n / d.nx % w), n / d.nx / w)
  | _ => (n % d.nx, n / d.nx % d.ny, nthIn rs (n / (d.nx * d.ny)))

/-- The number of a pack in its field (R285). -/
def Desc.linear (d : Desc) (c : Nat × Nat × Nat) : Nat := c.1 + d.nx * (c.2.1 + d.ny * c.2.2)

/-- The lowest free save slot of a field (R383). -/
def Field.freeSlot (f : Field) : Option Nat := (List.range f.desc.saveSlots).find? fun n => !f.slots.contains n

/-- The saved pack of a field that a die resumes next, lowest number first. -/
def State.nextSaved (s : State) (f : Field) (die : Nat) : Option Saved :=
  (f.saved.filter fun v => s.standIn v.die == die).foldl (fun m v => match m with
    | some x => if v.k < x.k then some v else some x
    | none => some v) none

/-- Whether a field has a pack for a die. -/
def State.hasNext (s : State) (f : Field) (die : Nat) : Bool :=
  !f.ended && ((s.nextSaved f die).isSome || (f.placed.getD die 0 < f.count die && f.freeSlot.isSome))

/-- The field whose pack a die takes next: by descending priority, then in release order (R285). -/
def State.nextField (s : State) (die : Nat) : Option Field :=
  (s.hub.fields.filter fun f => s.hasNext f die).foldl (fun m f => match m with
    | some x => if x.desc.prio.toNat < f.desc.prio.toNat then some f else some x
    | none => some f) none

/-! ### Where it fits (R286 to R288) -/

/-- The floes and packs of a core. -/
def State.floesOn (s : State) (core : Nat) : List (Nat × Floe) := List.filter (fun e => coreOf e.1 == core) s.floes
def State.packsOn (s : State) (core : Nat) : List (Nat × Pack) := List.filter (fun e => coreOf e.1 == core) s.packs

/-- Free physical tiles and accumulators of a core. -/
def State.freeTiles (s : State) (core : Nat) : List Nat :=
  (List.range 16).filter fun t => !(s.packsOn core).any fun e => e.2.tiles.contains t
def State.freeAccs (s : State) (core : Nat) : List Nat :=
  (List.range 8).filter fun a => !(s.packsOn core).any fun e => e.2.accs.contains a

/-- The banks that no pack holds, less LMIN, which a raised LMIN can make negative (R287, R322). -/
def State.spareBanks (s : State) (core : Nat) : Int :=
  16 - ((s.core core).banksIn .pack).length - (s.die (dieOf core)).lmin.toNat

/-- The banks that a pack would receive on a core, when it fits there (R286, R287): nf floes, exactly b banks if given. -/
def State.fits (s : State) (core : Nat) (d : Desc) (nf : Nat) (exact? : Option Nat) : Option Nat :=
  let fl := s.floesOn core
  let f := s.spareBanks core
  let b := exact?.getD (max d.spmin (min (d.spmax : Int) f).toNat)
  let vr := (fl.map fun e => e.2.valloc + 8).sum
  if fl.length + nf ≤ 64 ∧ (s.packsOn core).length < 64 ∧ vr + nf * (d.vregs + 8) ≤ 2048 ∧ d.tiles ≤ (s.freeTiles core).length ∧
      d.accs ≤ (s.freeAccs core).length ∧ (b : Int) ≤ f then some b
  else none

/-- The core of a die with the most free floe slots among those where a pack fits, the lowest number on a tie (R288). -/
def State.bestCore (s : State) (die : Nat) (ok : Nat → Bool) : Option Nat :=
  (((List.range 40).map fun i => 40 * die + i).filter ok).foldl (fun m c => match m with
    | some x => if (s.floesOn c).length < (s.floesOn x).length then some c else some x
    | none => some c) none

/-! ### Placement -/

/-- The partition with the fewest resident floes, the lowest on a tie (R288). -/
def State.freestPart (s : State) (core : Nat) : Nat :=
  let n (p : Nat) : Nat := ((s.floesOn core).filter fun e => e.2.part == p).length
  (List.range 4).foldl (fun m p => if n p < n m then p else m) 0

/-- The lowest free floe slot and pack slot of a core (R288). -/
def State.freeFloeSlot (s : State) (core : Nat) : Nat :=
  64 * core + ((List.range 64).find? fun i => (s.floes.find? (64 * core + i)).isNone).getD 0
def State.freePackSlot (s : State) (core : Nat) : Nat :=
  64 * core + ((List.range 64).find? fun i => (s.packs.find? (64 * core + i)).isNone).getD 0

/-- A floe as its placement makes it (R11, R20, R33, R37, R38, R80, R382; DESIGN CHOICE, log 4). -/
def Floe.placed (d : Desc) (pack findex part seq : Nat) (now xsave : Word) : Floe :=
  { pack := pack, findex := findex, part := part, seq := seq, ctx := d.ctx, valloc := d.vregs, v := [],
    s := d.uargs.zipIdx.foldl (fun t e => t.set 0 (e.2 + 1) e.1) [], p := [],
    frontier := [{ pc := d.entry.setWidth 48, prio := 255, flags := 0, mask := allLanes }], run := none,
    sys := { fpctl := d.fpctl, fpflags := 0, ebud := d.budget, bmode := d.bmode, bguard := d.guard, bsticky := 0, lasttier := 0,
             seedlo := d.seed.setWidth 32, seedhi := (d.seed >>> 32).setWidth 32, sdstep := d.step },
    sysPend := [], xpc := 0, xcause := 0, xmask := 0, xaddr := 0, xinfo := 0, xbase := d.xbase.setWidth 48, xsave := xsave,
    restores := 0, handler := false, intFrontier := [], trapPrio := 0, loaded := none, syncs := [], signed := [], sbar := none,
    deadline := 0, arrivals := 0, rowstat := Vector.replicate 4 0, halted := false, preempt := false, kept := Kept.none,
    traps := [], ckpts := [], resids := [], readyFor := 0, yielded := false, waitFrom := now, reported := false }

/-- A restored floe: in handler mode with PREEMPT and an empty interrupted frontier (R311; DESIGN CHOICE, log 4;
DEDUCED, log 54). -/
def Floe.restored (f : Floe) (restores : BitVec 16) (arrivals : Nat) (kept : Kept) : Floe :=
  { f with
    frontier := [{ pc := f.xbase, prio := 255, flags := 0, mask := allLanes }], handler := true, xcause := 0x41, xinfo := 1,
    xaddr := f.xsave, p := f.p.set 0 15 allLanes, arrivals := arrivals, kept := kept, ckpts := kept.ckpts
    restores := if restores = 0xFFFF then restores else restores + 1 }

/-- Gives a pack b banks of a core: FREE before GATED before L1, from the lowest up, with every byte zero and every bound
0x0000 (R318). -/
def Core.takeBanks (c : Core) (b : Nat) (now : Word) : Core × List Nat :=
  let bs := (c.banksIn .free ++ c.banksIn .gated ++ c.banksIn .l1).take b
  let mine (a size : Nat) : Bool := bs.contains (a / size)
  let c := bs.foldl (fun c k => (c.setBank k ⟨.pack, true, now⟩).dropBank k) c
  let c := { c with
    spad := List.filter (fun e => !mine e.1 65536) c.spad, spadB := List.filter (fun e => !mine e.1 2048) c.spadB
    bars := List.filter (fun e => !mine e.1 4096) c.bars
    bad := c.bad.filter fun x => match x with
      | .quarter q => !mine q 2048
      | _ => true }
  (c, (List.range 16).filter bs.contains)

/-- n of a list, starting anywhere in it: which of several free things a placement takes is not fixed. -/
def takeAny (pick n : Nat) (xs : List Nat) : List Nat :=
  let k := if xs.isEmpty then 0 else pick % xs.length
  (xs.drop k ++ xs.take k).take n

/-- A context's slice on a die starts with its first pack there (R296); its first placement on the die stays the one that the die
remembers (R297; DEDUCED, log 24). -/
def Die.startSlice (d : Die) (ctx : BitVec 8) (slice : Nat) : Die :=
  if d.slices.any fun x => x.ctx == ctx then d
  else
    let first := d.firsts.getD ctx.toNat d.firn.toNat
    { d with
      slices := d.slices ++ [⟨ctx, d.firn.toNat, slice * 1000, false, first⟩], firsts := d.firsts.put ctx.toNat first }

/-- Floes placed in a quad join the open quad generations of their field (R199). -/
def Field.joinQuads (f : Field) (quad : Nat) (ids : List Nat) : Field :=
  { f with bars := f.bars.map fun b =>
    if b.level = .quad ∧ b.place = quad ∧ !b.arrived.isEmpty then { b with members := b.members ++ ids } else b }

/-- Places a pack on a core: `floes` gives, for each floe that is placed, its index and how it starts (R286 to R289, R296,
R318). -/
def State.place (s : State) (core : Nat) (f : Field) (at_ : Nat × Nat × Nat) (stats : List FloeStat) (arrivals : List Nat)
    (restores : List (BitVec 16)) (kept : List Kept) (slot banks : Nat) (bound : List (Option Nat)) (start : Nat → Floe → Floe) : State × Nat :=
  let d := f.desc
  let die := dieOf core
  let now := s.firn core
  let key := s.freePackSlot core
  let (c, bs) := ({ s.core core with sram := (s.die die).sramctl } : Core).takeBanks banks now
  let tiles := takeAny (Config.pick 2 s.fresh) d.tiles (s.freeTiles core)
  let rest := (s.freeAccs core).filter fun a => !bound.contains (some a)
  let free := takeAny (Config.pick 2 (s.fresh + 1)) d.accs rest
  let accs := (List.range d.accs).foldl (fun (x : List Nat × List Nat) n => match bound.getD n none with
    | some a => (x.1 ++ [a], x.2)
    | none => (x.1 ++ [x.2.headD 0], x.2.drop 1)) ([], free)
  let pbase := d.saveBase + BitVec.ofNat 64 (slot * d.pstride * 65536)
  let p : Pack :=
    { id := ⟨f.inst, f.node, d.linear at_⟩, x := BitVec.ofNat 32 at_.1, y := BitVec.ofNat 32 at_.2.1, z := BitVec.ofNat 32 at_.2.2,
      ctx := d.ctx, nfloes := d.nfloes, stats := stats, arrivals := arrivals, tiles := tiles, accs := accs.1,
      tshape := Vector.replicate 16 0, shapeOld := [], joins := Vector.replicate 8 Join.idle, mmas := [], banks := bs,
      spmin := d.spmin, spmax := d.spmax, saveSlot := slot, pbase := pbase, saving := false, ending := false,
      restores := restores, kept := kept, placedAt := s.fresh }
  let s := (s.setCore core c).setPack key p
  let mine := (List.range d.nfloes).filter fun i => stats.getD i .retired == .resident
  let s := mine.foldl (fun s i =>
    let c := s.core core
    let fl := Floe.placed d key i (s.freestPart core) c.seqNext now (pbase + BitVec.ofNat 64 (i * floeStride d.vregs))
    (s.setCore core { c with seqNext := c.seqNext + 1 }).setFloe (s.freeFloeSlot core) (start i fl)) s
  let s := s.setDie die ((s.die die).startSlice d.ctx d.slice)
  let s := s.putField (f.joinQuads (quadOf core) (mine.map fun i => floeCode p.id.k i))
  ((s.pinBanks core).bump.bump, key)

/-! ### Victims (R297) -/

/-- The victim context on a die for a pack of a priority: lower, or equal with its slice expired; the lowest priority, then the
earliest first placement. -/
def State.victim (s : State) (die : Nat) (prio : Nat) : Option Slice :=
  let prioOf (ctx : BitVec 8) : Nat :=
    ((s.packs : List (Nat × Pack)).filterMap fun e =>
      if e.2.ctx = ctx ∧ dieOf (coreOf e.1) = die then (s.fieldOf e.2.id).map fun f => f.desc.prio.toNat else none).foldl max 0
  let resident (ctx : BitVec 8) : Bool :=
    s.packs.any fun e => e.2.ctx == ctx && dieOf (coreOf e.1) == die && !e.2.ending
  (((s.die die).slices.filter fun x => resident x.ctx).filter fun x =>
    prioOf x.ctx < prio || (prioOf x.ctx == prio && x.expired)).foldl (fun m x => match m with
      | some y => if prioOf x.ctx < prioOf y.ctx ∨ (prioOf x.ctx = prioOf y.ctx ∧ x.first < y.first) then some x else some y
      | none => some x) none

/-- A pack of a priority cannot be placed on a die: the victim's packs are pre-empted; with no victim it waits. -/
def State.seekVictim (s : State) (die prio : Nat) : Out :=
  match s.victim die prio with
  | some v => .next (s.preemptCtx v.ctx (some die))
  | none => .fault .notDue

/-! ### New packs (R288) -/

/-- PACK_PLACEMENT (R288): the die places its next pack, or pre-empts a victim for it (R297). -/
def execPackPlacement (die : Nat) (s : State) : Out :=
  let s := s.reap
  if !s.serves die || (s.die die).power != .a0 then .fault .notDue
  else
    match s.nextField die with
    | none => .fault .notDue
    | some f =>
      if (s.nextSaved f die).isSome then .fault .notDue
      else
        match s.bestCore die fun c => (s.fits c f.desc f.desc.nfloes none).isSome with
        | none => s.seekVictim die f.desc.prio.toNat
        | some core =>
          let n := f.placed.getD die 0
          let slot := f.freeSlot.getD 0
          let f' := { f with placed := f.placed.set die (n + 1), slots := f.slots ++ [slot] }
          let nf := f.desc.nfloes
          let b := (s.fits core f.desc nf none).getD 0
          .next ((s.putField f').place core f' (f.nth die n) (List.replicate nf .resident) (List.replicate nf 0)
            (List.replicate nf 0) (List.replicate nf Kept.none) slot b (List.replicate f.desc.accs none) fun _ x => x).1

/-! ### The pack record (R314, R411) -/

/-- What the device finds at an address of a pack record: a place, a missing translation, or what ends the context (R411); with an
unclaimed address that it met (R374). -/
inductive RecAddr where
  | ok (pa : Nat) (leaf : Word)
  | miss (level : Nat) (bad : Bool) (uncl : Option Nat)
  | deny (uncl : Option Nat)
  deriving DecidableEq, Repr

/-- Translates the address of n bytes of a record for the device, with handler rights (R411). -/
def State.recAddr (s : State) (core : Nat) (ctx : BitVec 8) (root : Nat) (va : Word) (n : Nat) (write : Bool) : RecAddr :=
  if !canonical va then .deny none
  else
    let o := s.walk (dieOf core) ctx root va true
    match o.leaf with
    | none => .miss o.level o.bad o.uncl
    | some leaf =>
      let pa := leafPa leaf va
      if leafDenied s true ⟨write, 1, some false, true⟩ leaf pa || leafWrongCell ⟨write, 1, some false, true⟩ leaf ||
          (linesTouched pa n).any s.poisoned then
        .deny ((linesTouched pa n).find? s.unclaimed)
      else .ok pa leaf

/-- The parts of a pack record that the device uses: offset and length. -/
def recordParts (accs : Nat) : List (Nat × Nat) :=
  [(0, 64), (0x40, 256), (0x140, 128)] ++ (List.range accs).map fun n => (0x200 + 0x1080 * n + 0x1040, 8)

/-- Finds every part of a record: the places, or why the device stops (DEDUCED, log 23). -/
def State.recPlaces (s : State) (core : Nat) (ctx : BitVec 8) (root : Nat) (va : Word) (accs : Nat) (write : Bool) :
    Except (Word × RecAddr) (List (Nat × Word)) :=
  (recordParts accs).foldl (fun acc p =>
    match acc with
    | .error e => .error e
    | .ok xs =>
      let a := va + BitVec.ofNat 64 p.1
      match s.recAddr core ctx root a p.2 write with
      | .ok pa leaf => .ok (xs ++ [(pa, leaf)])
      | r => .error (a, r)) (.ok [])

/-- A record access that cannot be made: its page is reported, or the context ends with a machine fault of KIND 7 (R411;
DEDUCED, log 24). -/
def State.recStop (s : State) (id : PackId) (core : Nat) (ctx : BitVec 8) (write : Bool) (e : Word × RecAddr) : State :=
  match e.2 with
  | .miss l b u => (s.noteUncl u).pageFault ctx e.1 (faultInfo write false true l b) core 0x7F (.record id)
  | .deny u => ((s.noteUncl u).endCtx ctx).machineFault 7 (dieOf core) e.1.toNat
  | .ok .. => s

/-- The image of a join register (R314). -/
def Join.image (j : Join) : List Byte :=
  natLe 8 (j.expected.toNat + 2 ^ 11 * j.count.toNat + 2 ^ 22 * j.gen.toNat + 2 ^ 38 * j.done.toNat) ++
    match j.rec? with
    | none => List.replicate 24 0
    | some r =>
      if r.mma then
        natLe 2 0x120 ++ natLe 1 r.mod.toNat ++ natLe 1 r.d.toNat ++ natLe 1 r.a.toNat ++ natLe 1 r.b.toNat ++
          natLe 2 r.ebud.toNat ++ natLe 1 r.bmode.toNat ++ natLe 1 r.bguard.toNat ++ List.replicate 14 0
      else natLe 2 0x129 ++ List.replicate 22 0

/-- The join register of an image. -/
def joinOf (bs : List Byte) : Join :=
  let f := fieldAt bs
  let w := f 0 8
  { expected := BitVec.ofNat 11 w, count := BitVec.ofNat 11 (w / 2 ^ 11), gen := BitVec.ofNat 16 (w / 2 ^ 22),
    done := BitVec.ofNat 16 (w / 2 ^ 38)
    rec? := if f 8 2 = 0x120 then
        some ⟨true, BitVec.ofNat 8 (f 10 1), BitVec.ofNat 3 (f 11 1), BitVec.ofNat 4 (f 12 1), BitVec.ofNat 4 (f 13 1),
          canonBound (BitVec.ofNat 16 (f 14 2)), BitVec.ofNat 4 (f 16 1), BitVec.ofNat 4 (f 17 1)⟩
      else if f 8 2 = 0x129 then some SignRec.jsign
      else none }

/-- The header of a pack record (R314, R409; DEDUCED, log 23: the device writes all of it). -/
def packHeader (d : Desc) (banks accCore : Nat) : List Byte :=
  natLe 4 0x5041434B ++ natLe 2 1 ++ [d.nfloes, d.tiles, d.accs, banks].flatMap (natLe 1) ++ natLe 2 accCore ++ List.replicate 52 0

/-- ACCCORE of a record whose parts stand at these places. -/
def State.recCore (s : State) (places : List (Nat × Word)) : Nat := leNat (s.pbytes ((places.getD 0 (0, 0)).1 + 10) 2)

/-- The bank count of a record (R314, R318). -/
def State.recBanks (s : State) (places : List (Nat × Word)) : Nat := leNat (s.pbytes ((places.getD 0 (0, 0)).1 + 9) 1)

/-- Writes an image of a record (R411): with bound 0x0000 where the page is tagged. -/
def State.recWrite (s : State) (core : Nat) (at_ : Nat × Word) (bs : List Byte) : State :=
  s.physStore core core .near (leafTagged at_.2) (bs.zipIdx.map fun e => (at_.1 + e.2, e.1, (0 : Bound)))

/-! ### The end of a save (R310, R315, R316, R365, R366) -/

/-- Whether every floe of a pack is saved or retired, and some are saved. -/
def Pack.saved (p : Pack) : Bool := p.stats.all (· != .resident) && p.stats.any (· == .saved)

/-- Engine operations whose destination lies in a pack's scratchpad (R310). -/
def State.intoPad (s : State) (id : PackId) : Bool :=
  (s.cores.any fun c => (c.2.queues.any fun q => q.2.any fun r => r.pack == id && r.dsp) || c.2.kicks.any fun k => k.pack == id) ||
    s.copies.any fun x => x.pack == id

/-- The redirect entries of a die (R366). -/
def redirectLimit : Nat := 1024

/-- Registers the redirect of a saved pack and applies its journal to the image (R366), or says why the save waits. -/
def State.redirectSaved (s : State) (id : PackId) (ctx : BitVec 8) (key : Nat) (record : Word) : Except Stall State := do
  let core := coreOf key
  let (die, old) := match s.redirect id with
    | some (d, r) => (d, r)
    | none => (dieOf core, ⟨ctx, id, core, key % 64, record, .parking, [], [], 0⟩)
  let banks := ((s.packs.find? key).map (·.banks.length)).getD 0
  let r : Redirect := { old with core := core, pslot := key % 64, record := record, state := .saved, banks := banks }
  let s ← r.journal.foldlM (fun s ev => s.imageApply r ev) s
  .ok (s.putRedirect die id (some { r with journal := [] }))

/-- What the end of a save does to accumulator n: its state word and the accumulator (R315). -/
def saveAcc (a : Accum) (ctx : BitVec 8) (phys spilled : Nat) (slot : Word) : Nat × Accum :=
  if spilled % 4 = 1 then (spilled, { a with live := false, spill := 0 })
  else if a.live && a.owner == ctx then (2 + 2 ^ 8 * phys, { a with spill := slot })
  else (0, a)

/-- PACK_SAVE_COMPLETE (R310): the device writes its part of the pack record, registers the redirect and releases the pack's
resources (DEDUCED, log 23). -/
def execPackSaveComplete (pack : Nat) (s : State) : Out :=
  match s.packs.find? pack with
  | none => .fault .noObject
  | some p =>
    match s.fieldOf p.id with
    | none => .fault .noObject
    | some f =>
      let core := coreOf pack
      if !p.saved || p.ending || p.mmas.any p.isFired || s.intoPad p.id || (s.pend.any fun e => e.2.pack == p.id) || s.recWaits p.id then .fault .notDue
      else
        let record := recordVa p.pbase f.desc
        match s.recPlaces core p.ctx f.troot record f.desc.accs true with
        | .error e => .next (s.recStop p.id core p.ctx true e)
        | .ok places =>
          let lines := (places.zip (recordParts f.desc.accs)).flatMap fun e => linesTouched e.1.1 e.2.2
          let w := Writer.save p.id
          let aimed := s.engineBusy p.id || (s.redirect p.id).isSome
          let full := (s.redirect p.id).all (fun r => r.2.state == .parking) && redirectLimit ≤ (s.die (dieOf core)).entries
          if s.lineHeld s.fresh s.hub.firn.toNat (.core core) true (linesOf lines) then .fault .notDue
          else if !s.mayWrite (some w) lines then .next (s.waitWrites w lines)
          else if aimed && full then .next (s.setDie (dieOf core) { s.die (dieOf core) with tfull := true })
          else
            let c := s.core core
            let at_ (i : Nat) : Nat × Word := places.getD i (0, 0)
            let accs := (List.range f.desc.accs).map fun n =>
              let phys := p.accs.getD n 0
              (n, phys, saveAcc (c.acc phys) p.ctx phys (leNat (s.pbytes (at_ (3 + n)).1 8))
                (record + BitVec.ofNat 64 (0x200 + 0x1080 * n)))
            let lazy := accs.any fun e => e.2.2.1 % 4 == 2
            let t := (s.unqueue w).recWrite core (at_ 0) (packHeader f.desc p.banks.length (if lazy then core else 0xFFFF))
            let t := t.recWrite core (at_ 1) (p.joins.toList.flatMap Join.image)
            let t := t.recWrite core (at_ 2) (p.tshape.toList.flatMap fun w => natLe 8 w.toNat)
            let t := accs.foldl (fun s e => s.recWrite core (at_ (3 + e.1)) (natLe 8 e.2.2.1)) t
            let t := t.setCore core (accs.foldl (fun c e => c.setAcc e.2.1 e.2.2.2) (t.core core))
            .next (s.orWaits (if aimed then t.redirectSaved p.id p.ctx pack record else .ok t) fun s =>
              let v : Saved := ⟨dieOf core, p.id.k, p.stats, p.arrivals, p.restores, p.kept, p.mmas, p.saveSlot, p.pbase⟩
              let f := (s.fieldOf p.id).getD f
              (s.putField { f with saved := f.saved ++ [v] }).dropPack pack)

/-! ### Restore placement (R311) -/

/-- Generations of MMA that stood signed when a pack was saved (R314): with the words that signed them, which the device keeps
beside the record (DEDUCED, log 54; DEDUCED, log 22). -/
def restoredMmas (joins : List Join) (kept : List Mma) : List Mma :=
  joins.zipIdx.filterMap fun e => match e.1.rec? with
    | some r =>
      let j : JReg := BitVec.ofNat 3 e.2
      let signers := ((kept.find? fun m => m.join == j && m.gen == e.1.gen).map (·.signers)).getD []
      if r.mma && e.1.count != 0 then some ⟨j, e.1.gen, r, signers, none⟩ else none
    | none => none

/-- The Tumbler holds a restored pack's events until the handshakes of its parked objects (R367). -/
def State.redirectRestoring (s : State) (id : PackId) : State :=
  match s.redirect id with
  | none => s
  | some (d, r) => s.putRedirect d id (if r.parked.isEmpty then none else some { r with state := .restoring })

/-- For each accumulator of a record, the physical one that it is bound to when it was not spilled (R315). -/
def State.recBound (s : State) (d : Desc) (places : List (Nat × Word)) : List (Option Nat) :=
  (List.range d.accs).map fun n =>
    let w := leNat (s.pbytes (places.getD (3 + n) (0, 0)).1 8)
    if w % 4 = 2 then some (bitsAt w 8 3) else none

/-- Whether a saved pack fits on a core: with its bank count, and with the accumulators it is bound to (R311, R316, R318). -/
def State.restoreFits (s : State) (d : Desc) (v : Saved) (bound : List (Option Nat)) (banks accCore c : Nat) : Bool :=
  let lazy := bound.filterMap id
  (s.fits c d (v.stats.filter (· == .saved)).length (some banks)).isSome &&
    (lazy.isEmpty || (c == accCore && lazy.all fun a => (s.freeAccs c).contains a))

/-- The fields of TSHAPE; the other bits read as zero (R10, R39). -/
def shapeFields : Word := 0x1FFFCF

/-- PACK_RESTORE_PLACEMENT (R311): the die's next pack is a saved one that is placed again, in handler mode, or waits for a victim
or for its record (DEDUCED, log 23). -/
def execPackRestorePlacement (die : Nat) (s : State) : Out :=
  let s := s.reap
  if !s.serves die || (s.die die).power != .a0 then .fault .notDue
  else
    match s.nextField die with
    | none => .fault .notDue
    | some f =>
      match s.nextSaved f die with
      | none => .fault .notDue
      | some v =>
        let d := f.desc
        let id : PackId := ⟨f.inst, f.node, v.k⟩
        let record := recordVa v.pbase d
        let core0 := 40 * die
        if s.recWaits id then .fault .notDue
        else
          match s.recPlaces core0 d.ctx f.troot record d.accs false with
          | .error e => .next (s.recStop id core0 d.ctx false e)
          | .ok places =>
            let lines := (places.zip (recordParts d.accs)).flatMap fun e => linesTouched e.1.1 e.2.2
            if s.lineHeldNow core0 (linesOf lines) then .fault .notDue else
            let at_ (i : Nat) : Nat := (places.getD i (0, 0)).1
            let bound := s.recBound d places
            let banks := s.recBanks places
            match s.bestCore die (s.restoreFits d v bound banks (s.recCore places)) with
            | none => s.seekVictim die d.prio.toNat
            | some core =>
              let joins := (List.range 8).map fun j => joinOf (s.pbytes (at_ 1 + 32 * j) 32)
              let shapes := (List.range 16).map fun t => BitVec.ofNat 64 (leNat (s.pbytes (at_ 2 + 8 * t) 8)) &&& shapeFields
              let coords := (v.k % d.nx, v.k / d.nx % d.ny, v.k / d.nx / d.ny)
              let f' := { f with saved := f.saved.filter fun x => x.k != v.k }
              let stats := v.stats.map fun x => if x = .saved then FloeStat.resident else x
              let start (i : Nat) (x : Floe) : Floe := x.restored (v.restores.getD i 0) (v.arrivals.getD i 0) (v.kept.getD i Kept.none)
              let (s, key) := (s.putField f').place core f' coords stats v.arrivals v.restores v.kept v.saveSlot banks bound start
              let s := s.modPack key fun p =>
                { p with joins := Vector.ofFn fun j => joins.getD j.val Join.idle,
                         tshape := Vector.ofFn fun t => shapes.getD t.val 0, mmas := restoredMmas joins v.mmas }
              let c := s.core core
              let spill (p : Pack) (n : Nat) : Word :=
                let a := c.acc (p.accs.getD n 0)
                if a.live && a.owner != d.ctx then a.spill else 0
              let s := match s.packs.find? key with
                | none => s
                | some p => s.eachFloe key fun x =>
                  { x with s := (List.range d.accs).foldl (fun t n => t.set 0 (120 + n) (spill p n)) x.s }
              .next (s.redirectRestoring id)

/-! ### Floes that end (R26, R310, R299) -/

/-- A floe without live lanes leaves the core: saved, or retired (R26, R310). Barriers that no longer wait for it may complete
(R199; DEDUCED, log 40). -/
def State.endFloe (s : State) (key : Nat) : State :=
  match s.floes.find? key with
  | none => s
  | some x =>
    let stat := if x.endsSave then FloeStat.saved else .retired
    let s := { s with floes := s.floes.del key }
    match s.packs.find? x.pack with
    | none => s
    | some p =>
      let s := s.setPack x.pack
        { p with stats := p.stats.set x.findex stat, arrivals := p.arrivals.set x.findex x.arrivals,
                 restores := p.restores.set x.findex x.restores, kept := p.kept.set x.findex x.kept }
      match s.fieldOf p.id with
      | none => s
      | some f =>
        let me := floeCode p.id.k x.findex
        let leave (b : HwBar) : HwBar :=
          if b.level != .quad then { b with arrived := b.arrived.filter (· != me) }
          else if b.arrived.contains me then b
          else { b with members := b.members.filter (· != me) }
        let f := if stat = .retired then { f with bars := f.bars.map leave } else f
        let s := s.putField f
        f.bars.foldl (fun s b => s.sbarCheck f.inst f.node b.level b.place b.index) s

end Sys2Proof.Machine
end

