-- ==== Sys2Proof/Machine/Boundary.lean ====
section
/-! DEFINITION. What happens to a floe between its runs: the end of a run (R28, R30, R31), synchronising instructions whose
membership is complete or broken (R25, R197, R198, R201), the traps and halts of a boundary (R302, R236), merging and RECONV (R21,
R24), floes that end (R26), and PREEMPT (R298, R310). -/

namespace Sys2Proof.Machine
open Sys2Proof

/-! ### The end of a run -/

/-- Forgets what tiles and accumulators held before a run wrote them (R30). -/
def Core.settleRun (c : Core) (n : Nat) : Core :=
  let tile (e : Nat × Tile) : Nat × Tile := if e.2.old.any (·.1 == n) then (e.1, { e.2 with old := none }) else e
  let acc (e : Nat × Accum) : Nat × Accum := if e.2.old.any (·.1 == n) then (e.1, { e.2 with old := none }) else e
  { c with tiles := c.tiles.map tile, accs := c.accs.map acc }

/-- Forgets the shapes that a run replaced. -/
def Pack.settleRun (p : Pack) (n : Nat) : Pack := { p with shapeOld := List.filter (fun e => e.2.1 != n) p.shapeOld }

/-- Entries with lanes of a mask wait with SYWAIT (R197; DEDUCED, log 11). -/
def setSywait (m : Mask) (fr : List Entry) : List Entry :=
  fr.map fun e => if e.mask &&& m != 0 then { e with flags := e.flags ||| flagSywait } else e

/-- The entry that a run leaves: at its trapping word or its resume PC (R304), BLOCKED after a SLEEP (R131). -/
def Run.entry (r : Run) : List Entry :=
  if r.mask = 0 then []
  else
    let pc := match r.trap with
      | some t => t.pc
      | none => r.pc
    [{ pc := pc, prio := r.prio, flags := if r.slept then flagBlocked else 0, mask := r.mask,
       wait := if r.slept then .sleep else .none }]

/-- Entries with lanes of a mask wait with SBWAIT (R198). -/
def setSbwait (m : Mask) (fr : List Entry) : List Entry :=
  fr.map fun e => if e.mask &&& m != 0 then { e with flags := e.flags ||| flagSbwait } else e

/-- A run ends: its writes of system registers take effect, and its entry stands in the frontier again (R28, R31). -/
def State.endRun (s : State) (key : Nat) (f : Floe) (r : Run) : State :=
  let core := coreOf key
  let s := s.applyOwners key f
  let s := s.setCore core ((s.core core).settleRun r.number)
  let s := s.modPack f.pack fun p => p.settleRun r.number
  let g := f.applySys
  s.setFloe key
    { g with
      run := none, yielded := r.yielded, waitFrom := s.firn core
      frontier := setSbwait (if g.sbar.isSome then r.sbar else 0) (setSywait r.sync (g.frontier ++ r.entry)) }

/-! ### Synchronising instructions (R25, R197) -/

/-- A pending synchronising instruction at a boundary: its event if that is still to come, or the trap of every entry that executed it
(DEDUCED, log 11). -/
def State.syncStep (s : State) (key : Nat) (x : SyncRec) : State :=
  match s.floes.find? key with
  | none => s
  | some f =>
    let mine := f.frontier.filter fun e => e.mask &&& x.done != 0
    let all := mine.foldl (fun m e => m ||| e.mask) 0
    let fail (s : State) (cause : BitVec 8) (mask : Option Mask) (addr info : Word) : State :=
      let at_ (e : Entry) : BTrap :=
        ⟨⟨cause, x.addr, mask.getD 0, addr, info, false⟩, .sywait (e.mask &&& x.done), true, mask.isNone, true⟩
      s.modFloe key fun f => { f.dropSync x with traps := f.traps ++ mine.map at_ }
    match x.failed with
    | some (cause, addr, info) => fail s cause none addr info
    | none =>
    if x.full then
      match s.syncEvent key f x with
      | .made s => s.modFloe key (·.dropSync x)
      | .fail s cause addr info => fail s cause none addr info
      | .wait => s
    else if x.bad || x.member &&& ~~~f.live != 0 then fail s 0x30 (some all) (x.addr.setWidth 64) x.word
    else s

/-- Every pending synchronising instruction of a floe, in turn. -/
def State.syncAll (s : State) (key : Nat) : State :=
  match s.floes.find? key with
  | none => s
  | some f => (f.syncsNow.foldl (fun s x => s.syncStep key x) s).modFloe key Floe.clearSywait

/-! ### Traps and halts at a boundary -/

/-- Causes that a floe still has when it enters its handler wait for the RFT (DEDUCED, log 10). -/
def Floe.disown (f : Floe) : Floe := { f with traps := f.traps.map fun t => { t with own := false } }

/-- A cause that stops a floe (R306, R389). -/
def State.stopFloe (s : State) (key : Nat) (f : Floe) (t : Trap) : State :=
  reportHalt (s.setFloe key { f with halted := true }) key f t.cause true t.wordAddr

/-- What a boundary cause of the handler and the word cause and HALT of the run that ended do (R302, R306, R236; DESIGN CHOICE,
log 18). -/
def State.stops (s : State) (key : Nat) (r : Run) : State :=
  let s := match s.floes.find? key, r.late with
    | some f, some t => if f.halted then s else s.stopFloe key f t
    | _, _ => s
  let s := match s.floes.find? key, r.trap with
    | some f, some t => takeTrap s key f.disown t r.mask r.prio
    | _, _ => s
  match s.floes.find? key, r.halt with
  | some f, some pc => if f.halted then s else reportHalt (s.setFloe key { f with halted := true }) key f 0 false (pc.setWidth 64)
  | _, _ => s

/-- The entry of the run that ended: the one that it leaves, of the lanes `ended`, or where none of its lanes goes on one that holds
a lane of those that it started with (R302; DEDUCED, log 11). -/
def Floe.lastEntry (f : Floe) (ended start : Mask) : Option Entry :=
  (f.frontier.find? fun e => ended != 0 && e.mask == ended).or
    (if ended = 0 then f.frontier.find? fun e => e.mask &&& start != 0 else none)

/-- The entry that takes a boundary cause (R197, R202, R209, R302); the run that ended started with the lanes `start` and leaves
those of `ended`. A cause of a join that meets neither a JWAIT nor the end of a run is taken when no entry of the floe can issue
(DEDUCED, log 11). -/
def Floe.entryFor (f : Floe) (ended start : Mask) (t : BTrap) : Option Entry :=
  let last := f.lastEntry ended start
  match t.who with
  | .run m => (f.lastEntry ended (start &&& m)).or (f.frontier.find? fun e => e.mask &&& m != 0)
  | .jwait j =>
    let blocked := f.frontier.find? fun e => match e.wait with
      | .join k _ => k == j
      | _ => false
    let idle := if f.frontier.any (·.flags == 0) then none else f.frontier.head?
    blocked.or (last.or idle)
  | .sywait l => f.frontier.find? fun e => e.mask &&& l != 0 && (e.flags &&& flagSywait != 0 || e.mask == ended)

/-- Causes whose lanes have all exited are void (DEDUCED, log 11). -/
def Floe.dropVoid (f : Floe) : Floe :=
  let void (t : BTrap) : Bool := match t.who with
    | .run m => m &&& f.live == 0
    | .jwait _ => false
    | .sywait l => l &&& f.live == 0
  { f with traps := f.traps.filter fun t => !void t }

/-- The first boundary cause that can be taken, and its entry. In handler mode those that arose in it are, and stop the floe
(R306; DEDUCED, log 10). -/
def Floe.nextTrap (f : Floe) (ended start : Mask) : Option (BTrap × Entry) :=
  f.traps.findSome? fun t => if f.handler && !t.own then none else (f.entryFor ended start t).map fun e => (t, e)

/-- An entry takes a boundary cause; in handler mode the trap keeps the address of the word at fault, which the halt reports
(R389; DEDUCED, log 10). -/
def State.takeBoundary (s : State) (key : Nat) (f : Floe) (t : BTrap) (e : Entry) : State :=
  let mask := if t.fillMask then e.mask else if t.trap.cause = 0x03 then t.trap.mask &&& f.live else t.trap.mask
  let tr := { t.trap with pc := if t.fillPc && !f.handler then e.pc else t.trap.pc, mask := mask }
  let g := ({ f with traps := f.traps.erase t } : Floe).disown.clearSywait
  takeTrap s key g tr e.mask e.prio

/-! ### The frontier at a boundary -/

/-- Ends JWAITs on generations that have completed, where no cause of the join is to be taken (R200, R209). -/
def Floe.wakeJoins (f : Floe) (p : Option Pack) : Floe :=
  match p with
  | none => f
  | some p =>
    let met (w : Wait) : Bool := match w with
      | .join j g => (p.join j).genDone g && !f.traps.any fun t => t.who == .jwait j
      | _ => false
    { f with frontier := Sys2Proof.Machine.wake met f.frontier }

/-- Merges entries (R21), and ends a RECONV's wait that every live lane has joined (R24, R128). -/
def Floe.settle (f : Floe) : Floe :=
  let fr := mergeFrontier f.frontier
  { f with frontier := fr.map fun e => if e.flags = flagRcwait ∧ e.mask = f.live then { e with pc := e.pc + 8, flags := 0 } else e }

/-- The boundary once the run is over: a trap, or the frontier that the next choice finds; a floe without lanes ends (R26). -/
def State.quiet (s : State) (key : Nat) (ended start : Mask) : State :=
  match s.floes.find? key with
  | none => s
  | some f =>
    if f.halted then s
    else
      let f := f.dropVoid
      match f.nextTrap ended start with
      | some (t, e) => s.takeBoundary key f t e
      | none =>
        let f := (f.wakeJoins (s.packs.find? f.pack)).settle
        let s := s.setFloe key f
        if f.live = 0 then s.endFloe key else s

/-- Accesses of a floe that have still to return something or may still trap (R28, R304). -/
def State.openAccess (s : State) (key seq : Nat) : Bool :=
  s.pend.any fun e => e.2.floe == key && e.2.seq == seq && e.2.snap.isSome

/-- A run's end as the boundary makes it: synchronising instructions, then traps and halts, then the frontier
(DEDUCED, log 16). -/
def State.runOver (s : State) (key : Nat) (f : Floe) (r : Run) : State :=
  ((((s.endRun key f r).syncAll key).stops key r).quiet key r.mask r.began).reap

/-- RUN_BOUNDARY (R22, R28): of a run that has ended and whose results are all written, or of a floe that stands between runs and
has something to settle. -/
def execRunBoundary (floe : Nat) (s : State) : Out :=
  match s.floes.find? floe with
  | none => .fault .noObject
  | some f =>
    if f.halted then .fault .notDue
    else
      match f.run with
      | some r => if !r.ended || r.held || s.openAccess floe f.seq then .fault .notDue else .next (s.runOver floe f r)
      | none =>
        let t := ((s.syncAll floe).quiet floe 0 0).reap
        if t = s then .fault .notDue else .next t

/-! ### PREEMPT (R298, R310) -/

/-- Whether an MMA is in flight on one of the join registers of the floe's pack (R298, R315). -/
def State.mmaFlying (s : State) (f : Floe) : Bool :=
  match s.packs.find? f.pack with
  | none => false
  | some p => p.mmas.any p.isFired

/-- The highest priority of a frontier (R305). -/
def topPrio (fr : List Entry) : BitVec 8 := BitVec.ofNat 8 (fr.foldl (fun m e => max m e.prio.toNat) 0)

/-- PREEMPT (R298, R305): between runs, after the store drain, outside handler mode. -/
def execPreempt (floe : Nat) (s : State) : Out :=
  match s.floes.find? floe with
  | none => .fault .noObject
  | some f =>
    let drained := !s.pend.any fun e => e.2.floe == floe && e.2.seq == f.seq
    if !f.preempt || f.halted || f.handler || f.run.isSome || !drained || s.mmaFlying f then .fault .notDue
    else .next (takeTrap s floe { f.disown with preempt := false } ⟨0x41, 0, 0, 0, 0, false⟩ 0 (topPrio f.frontier))

end Sys2Proof.Machine
end

