-- ==== Sys2Proof/Machine/CrossLane.lean ====
section
/-! DEFINITION. Cross-lane instructions (spec 07, R161 to R167). -/

namespace Sys2Proof.Machine
open Sys2Proof

/-- Lane j of a register as reading lane l sees it (R161): after a write of the same run each reader takes either value. -/
def Ctx.regLane (c : Ctx) (pos : Pos) (reg l j : Nat) : Nat × Bound :=
  let row := match c.r.vOld.find? reg with
    | none => c.f.vreg reg
    | some h => if Config.hazard c.num pos.num reg (64 * (l + 1) + j) then h.old else h.last
  ((row.val.toList.getD j 0).toNat, row.bnd.toList.getD j 0)

/-- Lane j of a register or pair as lane l sees it; of a pair the even register's bound (R34). -/
def Ctx.srcLane (c : Ctx) (w : Bool) (pos : Pos) (r : VReg) (l j : Nat) : Nat × Bound :=
  let lo := c.regLane pos r.toNat l j
  if w then (lo.1 + 4294967296 * (c.regLane pos (r.toNat + 1) l j).1, lo.2) else lo

/-- Each lane of ACTIVE receives the value and bound of a source lane (R163). -/
def gather (c : Ctx) (w : Bool) (d a : VReg) (src : Nat → Nat) : Ctx :=
  c.setLanes w d c.act (fun l => (c.srcLane w .a a l.val (src l.val)).1) fun l => (c.srcLane w .a a l.val (src l.val)).2

/-- VRFL (R163): the lowest lane of ACTIVE. -/
def execVrfl (h : Hdr) (w : Bool) (d : SReg) (a : VReg) (s : State) : Out :=
  onRegs (.vrfl h w d a) h s fun c =>
    c.once fun c => c.setS d (BitVec.ofNat 64 (c.srcLane w .a a 64 (lowest c.act)).1)
/-- VRLN (R163). -/
def execVrln (h : Hdr) (w : Bool) (d : SReg) (a : VReg) (b : SReg) (s : State) : Out :=
  onRegs (.vrln h w d a b) h s fun c =>
    c.once fun c => c.setS d (BitVec.ofNat 64 (c.srcLane w .a a 64 ((c.sr .b b).toNat % 64)).1)
/-- VWLN (R163): writes lane s[B][5:0] whether or not it belongs to ACTIVE. -/
def execVwln (h : Hdr) (w : Bool) (d : VReg) (a b : SReg) (s : State) : Out :=
  onRegs (.vwln h w d a b) h s fun c =>
    c.once fun c =>
      c.setLanes w d (maskWhere fun l => l == (c.sr .b b).toNat % 64) (fun _ => (c.sr .a a).toNat) fun _ => 0
/-- VBCST (R163). -/
def execVbcst (h : Hdr) (w : Bool) (d a : VReg) (b : SReg) (s : State) : Out :=
  onRegs (.vbcst h w d a b) h s fun c => gather c w d a fun _ => (c.sr .b b).toNat % 64
/-- VSHFL (R163): B is a single 32-bit register. -/
def execVshfl (h : Hdr) (w xor : Bool) (d a b : VReg) (s : State) : Out :=
  onRegs (.vshfl h w xor d a b) h s fun c =>
    let B := c.v .b b
    gather c w d a fun l =>
      let j := (B.val.toList.getD l 0).toNat % 64
      if xor then l ^^^ j else j
/-- VROT (R163): groups of 64, 32, 16 or 8 lanes. -/
def execVrot (h : Hdr) (w : Bool) (g : BitVec 2) (d a : VReg) (b : SReg) (s : State) : Out :=
  onRegs (.vrot h w g d a b) h s fun c =>
    let n := 64 / 2 ^ g.toNat
    let k := (c.sr .b b).toNat % 64
    gather c w d a fun l => l / n * n + (l % n + k) % n

/-! ### Reductions (R63, R64, R165) -/

/-- A node value of a reduction tree. -/
structure Node where
  code : Nat
  bnd : Bound
  fl : Flags
  deriving DecidableEq, Repr

/-- The tree of R63 over 2^n leaves from index i * 2^n on: an absent child passes the other unchanged. -/
def treeAt (f : Node → Node → Node) (leaf : Nat → Option Node) : Nat → Nat → Option Node
  | 0, i => leaf i
  | n + 1, i =>
    match treeAt f leaf n (2 * i), treeAt f leaf n (2 * i + 1) with
    | some a, some b => some (f a b)
    | some a, none => some a
    | none, b => b

/-- The operation of a node on two present children (R165, R79). -/
def redNode (v : FpEnv) (ty : RTy) (op : ROp) (a b : Node) : Node :=
  let fl := a.fl.or b.fl
  let int (it : ITy) : Node :=
    let k : IOp := match op with
      | .add => .add
      | .min => .min
      | .max => .max
      | .and => .and
      | .or => .or
      | .xor => .xor
    ⟨putBits it false (iop k it false a.code b.code 0 0), intBound [a.bnd, b.bnd], fl⟩
  let flt (F : FFmt) : Node :=
    let e := match op with
      | .min => fminmax F false v.dnan a.code b.code a.bnd b.bnd
      | .max => fminmax F true v.dnan a.code b.code a.bnd b.bnd
      | _ => tiered F .add F.P v.rdef v.dnan a.code b.code 0 a.bnd b.bnd 0
    ⟨e.code, e.bnd, fl.or e.fl⟩
  match ty with
  | .s32 => int .s32
  | .n32 => int .n32
  | .s64 => int .s64
  | .n64 => int .n64
  | .f32 => flt FFmt.f32
  | .f64 => flt FFmt.f64
  | .f16x2 => flt FFmt.f16
  | .bf16x2 => flt FFmt.bf16

/-- The floating type of a reduction type. -/
def redFTy : RTy → Option FTy
  | .f32 => some .f32
  | .f64 => some .f64
  | .f16x2 => some .f16x2
  | .bf16x2 => some .bf16x2
  | _ => none

/-- Elements of a reduction type per lane. -/
def redElems (ty : RTy) (x : Nat) : List Nat :=
  match redFTy ty with
  | some t => elemsOf t x
  | none => [x]

/-- The result lane from the present lanes of a mask: every element in its own tree (R165). -/
def redLane (c : Ctx) (ty : RTy) (op : ROp) (q : Bool) (A : Lanes) (m : Mask) : LaneOut :=
  let w := ty.wide
  let v := c.env
  let k := (redElems ty 0).length
  let roots : List Node := (List.range k).map fun i =>
    (treeAt (redNode v ty op) (fun l => if h : l < 64 then
        (if has m l then some ⟨(redElems ty (A.val w ⟨l, h⟩)).getD i 0, A.bnd ⟨l, h⟩, Flags.none⟩ else none) else none) 6 0).getD
      ⟨0, 0, Flags.none⟩
  let b := boundMaxL (roots.map (·.bnd))
  let words := match redFTy ty with
    | some t => packElems t (roots.map Node.code)
    | none => let x := (roots.map Node.code).getD 0 0; if w then [x % 4294967296, x / 4294967296] else [x]
  { regs := words.map fun x => (x, b)
    fl := roots.foldl (fun f r => f.or r.fl) Flags.none
    unb := isU b && !((List.finRange 64).any fun l => has m l.val && isU (A.bnd l))
    breach := match redFTy ty with
      | some t =>
        if !q && roots.any (fun r => v.breach b (El.checked (fmtOf t) r.code r.fl r.bnd)) then some b else none
      | none => none }

/-- VRED (R165): the root to every lane of ACTIVE. -/
def execVred (h : Hdr) (ty : RTy) (op : ROp) (q : Bool) (d a : VReg) (s : State) : Out :=
  onWord (.vred h ty op q d a) h s fun c =>
    let r := redLane c ty op q (c.lanesV ty.wide .a a) c.act
    fpBack c d.toNat (regsOf ty.wide) (outs c.act fun _ => r) 1 id

/-- VSCAN (R165, R64): to lane i, the tree of the lanes up to i. -/
def execVscan (h : Hdr) (ty : RTy) (op : ROp) (q : Bool) (d a : VReg) (s : State) : Out :=
  onWord (.vscan h ty op q d a) h s fun c =>
    let A := c.lanesV ty.wide .a a
    let o := outs c.act fun l => redLane c ty op q A (c.act &&& maskWhere fun j => decide (j ≤ l.val))
    fpBack c d.toNat (regsOf ty.wide) o 1 id

/-- VVOTE (R166). -/
def execVvote (h : Hdr) (mode : Vote) (d a : PReg) (s : State) : Out :=
  onRegs (.vvote h mode d a) h s fun c =>
    let m := c.p .a a &&& c.act
    let r := match mode with
      | .any => m != 0
      | .all => m == c.act
      | .uni => m == 0 || m == c.act
    c.setP d c.act (if r then allLanes else 0)

/-- VLANE (R167). -/
def execVlane (h : Hdr) (gid : Bool) (d : VReg) (s : State) : Out :=
  onRegs (.vlane h gid d) h s fun c =>
    c.setLanes false d c.act (fun l => (if gid then c.f.findex * 64 else 0) + l.val) fun _ => 0

end Sys2Proof.Machine
end

