-- ==== Sys2Proof/Machine/Engine.lean ====
section
/-! DEFINITION. Engine operations of single words: the landing of LDSP copies (R182, R94) and the drains of ACCST.add (R212, R93). -/

namespace Sys2Proof.Machine
open Sys2Proof

/-- Bytes of a line that reads as poison, as an engine without an error outcome takes them: any values
(DESIGN CHOICE, log 45). -/
def State.freeBytes (s : State) (n : Nat) : List Byte := (List.range n).map fun i => BitVec.ofNat 8 (Config.pick 5 (s.fresh + i))

/-- What an LDSP copy reads at a span (R182, R94; DESIGN CHOICE, log 45). -/
def State.copyRead (s : State) (core : Nat) (x : Span) : List (Byte × Bound) :=
  if kindOf x.pa = 3 then (s.mmioBytes x.pa x.n).map fun b => (b, 0)
  else if s.anyPoison (dieOf core) ((List.range x.n).map fun i => x.pa + i) then (s.freeBytes x.n).map fun b => (b, canonBound (BitVec.ofNat 16 (Config.pick 7 s.fresh)))
  else s.physLoad x.pa x.n x.tagged

/-- One piece of a lane's LDSP copy that meets a test lands; with the last, the lane's bytes are subtracted (R182). Which piece comes
first is not fixed. Nothing lands in the scratchpad of an ended context (R388; DESIGN CHOICE, log 45). -/
def copyLand (copy : Nat) (ok : Span → Bool) (s : State) : Out :=
  match s.copies.find? fun x => x.id == copy with
  | none => .fault .noObject
  | some x =>
    if s.forkHeld x.fork then .fault .notDue
    else
      let may := x.src.filter ok
      match may[Config.pick 6 s.fresh % may.length]? with
      | none => .fault .notDue
      | some q =>
        let rest := x.src.erase q
        let bs := s.copyRead (coreOf x.fork.floe) q
        let offs := (List.range q.n).map fun i => x.dst + q.k + i
        let stalled := match s.packOf x.pack with
          | some (key, p) => s.padWaking key p offs
          | none => false
        if stalled || s.lineHeld x.id x.born (.core (coreOf x.fork.floe)) false (linesOf [q.pa, q.pa + q.n - 1]) then .fault .notDue else
        let land (s : State) : State :=
          let s := (s.noteUnclaimed q.pa).cacheLoads (coreOf x.fork.floe) q.level [q.pa]
          match s.packOf x.pack with
          | some (key, p) =>
            if p.ending then s else s.setCore (coreOf key) (padWrite (s.core (coreOf key)) p (bs.zipIdx.map fun e => (x.dst + q.k + e.2, e.1)))
          | none => s
        if rest.isEmpty then
          let t := land s
          let left := t.copies.filter fun y => y.id != copy
          .next (s.orWaits (({ t with copies := left } : State).aim x.pack (.sub x.bar x.n)) State.bump)
        else
          let all := s.copies.map fun y => if y.id = copy then { y with src := rest } else y
          let s := { s with copies := all }
          .next (land s).bump

/-- LDSP_COPY_LAND (R182): a piece lands that no row step holds at its bank (R358). -/
def execLdspCopyLand (copy : Nat) (s : State) : Out :=
  match s.copies.find? fun x => x.id == copy with
  | none => .fault .noObject
  | some x => copyLand copy (fun q => !s.bankHeld (coreOf x.fork.floe) q.level (addrsFrom q.pa q.n)) s

/-- The image that a drain leaves at its place: on versioned pages, as cell stores of context 0 (R189). -/
def State.drainImage (s : State) (x : Drain) : List (Byte × Bound) :=
  let n := 4 * x.data.length
  let rows := x.bnd.zipIdx.map fun e => ((x.data.drop (e.2 * x.cols)).take x.cols, e.1)
  addImage x.int x.dnan (s.physLoad x.pa n x.tagged) rows

/-- The whole image of a drain is added at the home in one event, where nothing holds it, then its size is subtracted (R212, R93). -/
def drainApply (drain : Nat) (s : State) : Out :=
  match s.drains.find? fun x => x.id == drain with
  | none => .fault .noObject
  | some x =>
    let n := 4 * x.data.length
    let pas := (List.range n).map fun i => x.pa + i
    let w := Writer.unit x.id 0
    if s.forkHeld x.fork || s.lineHeld x.id x.born .package true (linesOf pas) then .fault .notDue
    else if !s.mayWrite (some w) pas then .next (s.waitWrites w pas)
    else
      let core := coreOf x.fork.floe
      let img := s.drainImage x
      let t := (s.unqueue w).physStore core core .far x.tagged (img.zipIdx.map fun e => (x.pa + e.2, e.1))
      let left := t.drains.filter fun y => y.id != drain
      .next (s.orWaits (({ t with drains := left } : State).aim x.pack (.sub x.bar n)) id)

/-- ACCST_ADD_APPLY (R212, R93): a drain is applied, if no row step holds it at its bank (R358). -/
def execAccstAddApply (drain : Nat) (s : State) : Out :=
  match s.drains.find? fun x => x.id == drain with
  | none => .fault .noObject
  | some x =>
    if s.bankHeld (coreOf x.fork.floe) .far (addrsFrom x.pa (4 * x.data.length)) then .fault .notDue else drainApply drain s

end Sys2Proof.Machine
end

