-- ==== Sys2Proof/Machine/Fault.lean ====
section
/-! DEFINITION. The host fault queue (R342 to R344) and what an answer does to those that wait (R308, R309, R411). -/

namespace Sys2Proof.Machine
open Sys2Proof

/-- The ring's size in entries, and whether it is full (R342, R343). -/
def Hub.ringSize (h : Hub) : Nat := 2 ^ h.fqlog2.toNat
def Hub.ringFull (h : Hub) : Bool := h.ringSize == (h.fqtail - h.fqhead).toNat

/-- A fault's entry (R342). -/
def FaultRec.image (f : FaultRec) (now : Word) : List Byte :=
  natLe 8 f.va.toNat ++ natLe 2 f.id.toNat ++ natLe 1 f.ctx.toNat ++ natLe 1 f.info.toNat ++ natLe 2 f.core ++
    natLe 1 f.slot.toNat ++ natLe 1 0x20 ++ natLe 8 now.toNat ++ natLe 8 0

/-- FAULT_QUEUE_ENTRY_WRITE (R342, R343): the oldest fault that is not in the ring is written, FQTAIL advances, and the
interrupt is raised; without space it waits and FULL is set (DEDUCED, log 24). -/
def execFaultQueueEntryWrite (s : State) : Out :=
  let h := s.hub
  match h.faults.find? fun f => !f.written with
  | none => .fault .notDue
  | some f =>
    if !h.fqen || h.ringFull then (if h.fqfull then .fault .notDue else .next (s.setHub { h with fqfull := true }))
    else
      let at_ := 4096 * h.fqbase.toNat + 32 * (h.fqtail.toNat % h.ringSize)
      let pas := (List.range 32).map fun i => at_ + i
      let here := kindOf at_ == 0 || kindOf at_ == 1
      if here && s.lineHeld s.fresh s.hub.firn.toNat .package true (linesOf pas) then .fault .notDue
      else if here && !s.mayWrite (some .fault) pas then .next (s.waitWrites .fault pas)
      else
        let s := s.unqueue .fault
        let w := (f.image h.firn).zipIdx.map fun e => (at_ + e.2, e.1, (0 : Bound))
        let s := if here then s.physStore 0 hubWriter .far false w else s
        let h := s.hub
        let s := s.setHub { h with
          fqtail := h.fqtail + 1
          faults := h.faults.map fun g => if g.id = f.id then { g with written := true } else g }
        .next (if h.fqien then s.interrupt 17 else s)

/-- Clears PARKED on the parked entries of a frontier that hold lanes of a mask; with a denial, those lanes take PROTECTION at
the next issue of the entry, in whose run the denial then stands (R309, R344). -/
def unpark (m : Mask) (fetch deny : Bool) (fr : List Entry) : List Entry :=
  fr.map fun e =>
    if e.mask &&& m != 0 && e.flags &&& flagParked != 0 then
      { e with
        flags := e.flags &&& ~~~flagParked
        denied := if deny && !fetch then e.denied ||| (e.mask &&& m) else e.denied
        deniedFetch := if deny && fetch then e.deniedFetch ||| (e.mask &&& m) else e.deniedFetch }
    else e

/-- The parked entries that wait on a fault go on (R309, R344): the floe's own, or, where they parked before it entered its handler,
those set aside. -/
def Floe.answer (f : Floe) (m : Mask) (fetch deny handler : Bool) : Floe :=
  if f.handler && !handler then { f with intFrontier := unpark m fetch deny f.intFrontier }
  else { f with frontier := unpark m fetch deny f.frontier }

/-- The request of a queue that is stalled on a fault goes on, or ends with REQ_PROT (R221, R344). -/
def State.answerQueue (s : State) (core q : Nat) (id : BitVec 16) (deny : Bool) : State :=
  let c := s.core core
  let go (r : LReq) : LReq := if r.stall = some id then { r with stall := none, code := if deny then 4 else r.code } else r
  (s.setCore core { c with queues := c.queues.map fun e => if e.1 = q then (e.1, e.2.map go) else e }).settle core q

/-- The answer to a fault for one that waits on it. -/
def State.answerWaiter (s : State) (deny : Bool) (r : FaultRec) : Waiter → State
  | .lanes floe seq m fetch handler =>
    match s.floes.find? floe with
    | some f => if f.seq = seq then (s.setFloe floe (f.answer m fetch deny handler)).unwait floe seq m handler else s
    | none => s
  | .queue core q => s.answerQueue core q r.id deny
  | .record _ => if deny then (s.endCtx r.ctx).machineFault 7 (dieOf r.core) r.va.toNat else s

/-- FQRESP (R344): an answer frees the ID; one that no outstanding fault has sets BADRESP (DEDUCED, log 24). -/
def State.fqresp (s : State) (id : BitVec 16) (deny : Bool) : State :=
  match s.hub.faults.find? fun f => f.id == id with
  | none => s.setHub { s.hub with badresp := true }
  | some f =>
    let s := s.setHub { s.hub with faults := s.hub.faults.filter fun g => g.id != id }
    f.waiters.foldl (fun s w => s.answerWaiter deny f w) s

/-- FQRESP_RETRY (R344). -/
def execFqrespRetry (id : BitVec 16) (s : State) : Out := .next (s.fqresp id false)

/-- FQRESP_DENY (R344, R309). -/
def execFqrespDeny (id : BitVec 16) (s : State) : Out := .next (s.fqresp id true)

end Sys2Proof.Machine
end

