-- ==== Sys2Proof/Machine/Boot.lean ====
section
/-! DEFINITION. Module reset and what a write of BOOTCTL starts (R11, R394, R395), and the move of the interleaved region that comes
with a change of LINSEG (R347). -/

namespace Sys2Proof.Machine
open Sys2Proof

/-! ### The interleaved region (R347) -/

/-- Lines in a unit of LINSEG. -/
def linsegLines : Nat := 0x400000

/-- Device memory after LINSEG has changed: every line below either LINBASE is somewhere else, not fixed where (R347;
DESIGN CHOICE, log 26). -/
def State.remap (s : State) (old : BitVec 11) : State :=
  let new := s.hub.linseg
  let top := max old.toNat new.toNat * linsegLines
  let goal (n : Nat) : Nat := if n < top then Config.moved old.toNat new.toNat n % top else n
  if old = new then s
  else
    { s with
      mem := List.foldl (fun t e => t.set 0 (128 * goal (e.1 / 128) + e.1 % 128) e.2) [] s.mem
      tags := List.foldl (fun t e => t.set 0 (goal e.1) e.2) [] s.tags
      poison := List.foldl (fun t e => t.set false (goal e.1) e.2) [] s.poison }

/-! ### Module reset and bring-up (R11, R394, R395) -/

/-- The module at reset: every register at its reset value, no floe resident. Device and host memory keep their bytes (DESIGN
CHOICE, log 33); the model's schedule and what the host has observed go on. -/
def State.resetRegs (s : State) : State :=
  { State.reset with
    mem := s.mem, tags := s.tags, poison := s.poison, agenda := s.agenda, upsets := s.upsets, fresh := s.fresh
    hub := { Hub.reset with vectors := s.hub.vectors, hostReads := s.hub.hostReads } }

/-- The same with the reset value of LINSEG in force (R347; DESIGN CHOICE, log 33). -/
def State.moduleReset (s : State) : State := s.resetRegs.remap s.hub.linseg

/-- One bit of the CRC-32 (PRESUMED, log 34). -/
def crcBit (c : BitVec 32) : BitVec 32 := if c.getLsbD 0 then (c >>> 1) ^^^ 0xEDB88320 else c >>> 1

/-- CRC-32 of bytes (R394; the polynomial is PRESUMED, log 34). -/
def crc32 (bs : List Byte) : BitVec 32 :=
  ~~~(bs.foldl (fun c b => (List.range 8).foldl (fun c _ => crcBit c) (c ^^^ b.setWidth 32)) 0xFFFFFFFF)

/-- Whether a boot manifest is valid (R394; PRESUMED, log 34). -/
def manifestOk (bs : List Byte) : Bool :=
  let f := fieldAt bs
  f 0 4 == 0x4D4E4654 && f 4 2 == 1 && f 0x17 37 == 0 && f 0x3C 4 == (crc32 (bs.take 0x3C)).toNat

/-- The largest LINSEG (R347), and SKEWMAX in its range (R257, R258). -/
def linsegMax : Nat := 1920
def clampTo (lo hi n : Nat) : Nat := max lo (min hi n)

/-- A module left in phase FAILED (R394, R395). -/
def State.bootFail (s : State) (err : Byte) : State := s.setHub { s.hub with bootPhase := 4, bootErr := err }

/-- A write of BOOTCTL (R394): module reset, then phase MANIFEST until the bring-up reads the manifest. `trained` and `imageOk` are
what the bring-up finds of the links and of the firmware image (DESIGN CHOICE, log 26). -/
def State.bootStart (s : State) (v : Word) (trained : Byte) (imageOk : Bool) : State :=
  let t := s.moduleReset
  t.setHub { t.hub with bootPhase := 1, booting := some (v, trained, imageOk) }

/-- What a bring-up finds out (R394, R395): an error, or reduced service on the lowest die of DIEMASK whose link has trained, with
the training of the stacks under way (DESIGN CHOICE, log 26). -/
def State.bootRead (s : State) (v : Word) (trained : Byte) (imageOk : Bool) : State :=
  let addr := bitsAt v.toNat 6 46 * 64
  let bs := s.bytes addr 64
  let f := fieldAt bs
  if kindOf addr ≠ 1 ∨ !manifestOk bs then s.bootFail 1
  else if !imageOk then s.bootFail 2
  else
    let dies : Byte := BitVec.ofNat 8 (f 6 1) &&& trained
    match (List.range 8).find? fun d => dies.getLsbD d with
    | none => s.bootFail 3
    | some low =>
      let old := s.hub.linseg
      let s := (List.range 8).foldl (fun s d =>
        s.setDie d { s.die d with inService := d == low, boost := (f 7 1).testBit 1 }) s
      let s := (List.range 16).foldl (fun s k =>
        s.setStack k { s.stack k with trainedAt := some (s.hub.firn.toNat + Config.pick 18 (s.fresh + k)) }) s
      ((s.setHub { s.hub with
        bootPhase := 2, diemask := dies, linseg := BitVec.ofNat 11 (min linsegMax (f 0x14 2))
        skewmax := BitVec.ofNat 7 (clampTo 4 64 (f 0x16 1)), lock := (f 7 1).testBit 0 }).remap old).bump

/-- A bring-up that is in phase MANIFEST goes on as time passes (R395; DESIGN CHOICE, log 26). -/
def State.bringUp (s : State) : State :=
  match s.hub.booting with
  | none => s
  | some (v, trained, ok) => (s.setHub { s.hub with booting := none }).bootRead v trained ok

end Sys2Proof.Machine
end

