-- ==== Sys2Proof/Machine/Outside.lean ====
section
/-! DEFINITION. Requests of agents outside the package to its memory as they are performed, in the order in which they arrive (R253,
R261, R264, R371, R375, R379): stores, atomics of other packages, arrivals at pod barriers. -/

namespace Sys2Proof.Machine
open Sys2Proof

/-- A store of an outside agent at a physical address: bound 0x0000, merged into device memory's tags (R371; DESIGN CHOICE, log
6). -/
def State.outsideStore (s : State) (writer addr : Nat) (data : List Byte) : State :=
  s.physStore 0 writer .far (kindOf addr == 0) (data.zipIdx.map fun e => (addr + e.2, e.1, (0 : Bound)))

/-- An atomic of another package at its home: one read-modify-write, discarded where the line reads as poison (R354, R375;
DEDUCED, log 29). -/
def State.outsideAtomic (s : State) (writer addr : Nat) (f : AFun) (ty : ATy) (dnan : Bool) (x y : Word) : State :=
  if s.poisoned addr then s
  else
    match atomApply f ty dnan (leNat (s.pbytes addr (atBytes ty))) 0 x y 0 0 with
    | none => s
    | some (v, _) => s.outsideStore writer addr (natLe (atBytes ty) v)

/-! ### Pod barriers (R378, R379) -/

/-- The fields whose participants have all arrived at a pod barrier. -/
def State.podReady (s : State) (index : Nat) : List Field :=
  s.hub.fields.filter fun f => s.sbarFull f (f.bar .pod 0 index)

/-- Whether this package has an arrival at a pod barrier to make (R379). -/
def State.podDue (s : State) (index : Nat) : Bool :=
  !(s.podReady index).isEmpty && !(s.hub.podArrived.any fun e => e.1 == index)

/-- The address of a pod barrier's record at home (R378; DEDUCED, log 29). -/
def Hub.podRecord (h : Hub) (index : Nat) : Nat := 512 * h.podBase.toNat + 16 * index

/-- A completion ends the waits of the fields that the package has arrived for, and opens the next generation (R198, R379). -/
def State.podComplete (s : State) (index : Nat) : State :=
  let came (f : Field) : Bool := s.hub.podArrived.any fun e => e.1 == index && e.2.2.contains (f.inst, f.node)
  let s := ((s.podReady index).filter came).foldl (fun s f =>
    let b := f.bar .pod 0 index
    (s.putField (f.putBar { b with gen := b.gen + 1, arrived := [], members := [] })).sbarRelease f b) s
  s.setHub { s.hub with podArrived := s.hub.podArrived.filter fun e => e.1 != index }

/-- A package's arrival at a barrier whose record is here: one update of the record (R379; DEDUCED, log 29). -/
def State.podUpdate (s : State) (index : Nat) : State :=
  let a := s.hub.podRecord index
  let n := leNat (s.pbytes a 8)
  let arr := (bitsAt n 16 16 + 1) % 65536
  let full := arr == bitsAt n 0 16
  let gen := BitVec.ofNat 32 (bitsAt n 32 32)
  let new := bitsAt n 0 16 + 2 ^ 16 * (if full then 0 else arr) + 2 ^ 32 * (if full then gen + 1 else gen).toNat
  let s := s.physStore 0 hubWriter .far false ((natLe 8 new).zipIdx.map fun e => (a + e.2, e.1, (0 : Bound)))
  let s := s.setHub { s.hub with podArrived := s.hub.podArrived.map fun e => if e.1 = index && e.2.1.isNone then (index, some gen, e.2.2) else e }
  if full then (s.setHub { s.hub with podGen := s.hub.podGen.put index (gen + 1) }).podComplete index else s

/-! ### In the order of arrival -/

/-- The bytes that a request writes. -/
def OutAct.bytes (h : Hub) : OutAct → List Nat
  | .write _ addr data => addrsFrom addr data.length
  | .atomic _ addr _ ty _ _ _ => addrsFrom addr (atBytes ty)
  | .arrive index => addrsFrom (h.podRecord index) 8

/-- Where the agent of a request stands (R246). -/
def OutAct.place : OutAct → Place
  | .write writer .. => if writer = hostWriter then .host else .pod
  | .atomic .. => .pod
  | .arrive _ => .package

/-- What a request does when it is performed. -/
def State.outsideAct (s : State) : OutAct → State
  | .write writer addr data => s.outsideStore writer addr data
  | .atomic writer addr f ty dnan x y => s.outsideAtomic writer addr f ty dnan x y
  | .arrive index => s.podUpdate index

/-- A request that has arrived is performed when no lease, no earlier write and no access that was accepted before holds its
lines; else it waits there (R253, R261, R264, R267; DESIGN CHOICE, log 19; DESIGN CHOICE, log 6). -/
def State.outsideServe (s : State) (x : Outside) : State :=
  let as := x.act.bytes s.hub
  let w := Writer.unit x.id 0
  let behind := s.outside.any fun y => decide (y.id < x.id) && (linesOf (y.act.bytes s.hub)).any (linesOf as).contains
  if behind || s.lineHeld x.id x.born x.act.place true (linesOf as) then s
  else if !s.mayWrite (some w) as then s.waitWrites w as
  else
    let s := (s.unqueue w).outsideAct x.act
    { s with outside := s.outside.filter fun y => y.id != x.id }

/-- The same, if no row step holds the request at its bank (R358). -/
def State.outsideTry (s : State) (x : Outside) : State :=
  if s.bankHeld 0 .far (x.act.bytes s.hub) then s else s.outsideServe x

/-- Every request that waits, in the order of arrival. -/
def State.outsideAll (s : State) : State := s.outside.foldl State.outsideTry s

/-- The dies that serve device memory at bytes are awake (R392; DEDUCED, log 25). -/
def State.wakeFor (s : State) (as : List Nat) : State :=
  (linesOf as).foldl (fun s n => if kindOf (128 * n) = 0 then s.wakeDie (dieOfStack (s.hub.hbmLoc (128 * n)).1) else s) s

/-- A request arrives. -/
def State.outsideArrive (s : State) (act : OutAct) : State :=
  let x : Outside := ⟨s.fresh, s.hub.firn.toNat, act⟩
  let s := s.wakeFor (act.bytes s.hub)
  (({ s with outside := s.outside ++ [x] } : State).bump).outsideTry x

end Sys2Proof.Machine
end

