-- ==== Sys2Proof/Machine/Time.lean ====
section
/-! DEFINITION. Firn (spec 12): the passing of time, beats, skew, pod time (R254 to R259, R377), deadlines (R131, R234), and the
ends of L1 leases, lease horizons and translation leases (R260 to R262, R266), recalls (R327) and walks (R338). -/

namespace Sys2Proof.Machine
open Sys2Proof

/-! ### The master and its replicas (R254, R255) -/

/-- A replica after a tick of its own, of 0 to 2 of the master's, within the allowed skew of the master: it never decreases (R254,
R255; DEDUCED, log 28). -/
def follow (old : Word) (master skew free : Nat) : Word :=
  BitVec.ofNat 64 (max old.toNat (min (master + skew) (max (master - skew) (old.toNat + free % 3))))

/-- A replica that holds its value until the master reaches it, and counts again from then on (R254; DEDUCED, log 28). -/
def Die.count (d : Die) (master skew free : Nat) : Die :=
  if d.hold && decide (master < d.firn.toNat) then d else { d with hold := false, firn := follow d.firn master skew free }

/-- Every replica counts. -/
def State.followAll (s : State) : State :=
  let m := s.hub.firn.toNat
  let k := s.hub.skewmax.toNat
  ((List.range 8).foldl (fun s d => s.setDie d ((s.die d).count m k (Config.pick 10 (s.fresh + d)))) s).bump

/-- Whether a die is within SKEWMAX of the master (R255). -/
def State.inSkew (s : State) (die : Nat) : Bool :=
  let r := (s.die die).firn.toNat
  let m := s.hub.firn.toNat
  let k := s.hub.skewmax.toNat
  decide (r ≤ m + k) && decide (m ≤ r + k)

/-- FIRN_SKEW on a die (R256): its leases and translations go, no write waits on it, and it resynchronises, awake (R392);
reported as KIND 1. -/
def State.firnSkew (s : State) (die : Nat) : State :=
  let off (e : Nat × Core) : Nat × Core := if dieOf e.1 = die then (e.1, { e.2 with l1 := [], tlb := [], ahead := [] }) else e
  let s := { s with cores := s.cores.map off }.wakeDie die
  let d := s.die die
  let clear (e : Nat × L2Line) : Nat × L2Line := (e.1, { e.2 with horizon := 0, grants := 0, leases := [] })
  let l2 := (d.l2.map clear).filter fun e => e.2 != L2Line.none
  let s := s.setDie die { d with l2 := l2, walks := [], agree := 0 }
  let h := s.hub
  (s.setHub { h with skew := h.skew ||| (1#8 <<< die), resync := h.resync ||| (1#8 <<< die) }).machineFault 1 die 0

/-- The ticks of the master between beats (R254). -/
def beatTicks : Nat := 256

/-- The beats of the master since the latest one that reached a die (DEDUCED, log 28). -/
def State.beatsSince (s : State) (die : Nat) : Nat := s.hub.firn.toNat / beatTicks - (s.die die).beatAt / beatTicks

/-- A die that has missed two consecutive beats raises FIRN_SKEW (R256; DEDUCED, log 28). -/
def State.missedBeats (s : State) (die : Nat) : State :=
  let d := s.die die
  if !d.inService || d.power == .a3 || s.hub.resync.getLsbD die || s.beatsSince die < 3 then s else s.firnSkew die

/-- One tick passes: the master counts, or holds its value while it is ahead of the pod master; outside requests that may be are
performed, and a bring-up goes on (R254, R264, R377, R395; DESIGN CHOICE, log 51; DESIGN CHOICE, log 1). -/
def State.tick (s : State) : State :=
  let h := s.hub
  let h := if 0 < h.podHold then { h with podHold := h.podHold - 1 } else { h with firn := h.firn + 1 }
  ((List.range 8).foldl State.missedBeats (s.setHub h).followAll).outsideAll.bringUp

/-- Ticks pass (DESIGN CHOICE, log 51). -/
def State.ticks (s : State) : Nat → State
  | 0 => s
  | n + 1 => s.tick.ticks n

/-- FIRN_SKEW (R256): a die cannot establish R255. -/
def execFirnSkew (die : Nat) (s : State) : Out := if 8 ≤ die then .fault .noObject else .next (s.firnSkew die)

/-- FIRN_SYNC_BEAT (R254, R256): a beat reaches a die whose replica has run ahead by `drift` since the last one. One behind steps
forward to the master, one ahead holds; one beyond SKEWMAX raises FIRN_SKEW; the second in a row that agrees ends the
resynchronisation. -/
def execFirnSyncBeat (die : Nat) (drift : Int) (s : State) : Out :=
  let h := s.hub
  let d := s.die die
  if 8 ≤ die then .fault .noObject
  else if s.beatsSince die = 0 || d.power == .a3 then .fault .notDue
  else
    let r := d.firn.toNat + drift.toNat
    let m := h.firn.toNat
    let agrees := decide (r ≤ m + h.skewmax.toNat) && decide (m ≤ r + h.skewmax.toNat)
    let n := if !agrees then 0 else if s.beatsSince die = 1 then d.agree + 1 else 1
    let s := s.setDie die { d with firn := BitVec.ofNat 64 (max r m), hold := decide (m < r), beatAt := m, agree := n }
    if h.resync.getLsbD die then
      .next (if 2 ≤ n then s.setHub { h with resync := h.resync &&& ~~~(1#8 <<< die) } else s)
    else .next (if agrees then s else s.firnSkew die)

/-- Discarded samples in a row after which the package resynchronises to the pod master (R377). -/
def podMisses : Nat := 3

/-- Ticks between samples of the pod master (R377). -/
def podSampleTicks : Nat := 4000

/-- Whether an enabled peer window reaches the pod master (R373, R377). -/
def Hub.reachesMaster (h : Hub) : Bool :=
  h.cxlwin.toList.any fun w => winEn w && bitsAt w.toNat 61 2 == 1 && bitsAt w.toNat 55 4 == h.master.toNat

/-- POD_FIRN_SAMPLE (R377): the pod master's time, with the round trip of the request, every 4 microseconds over a peer window
(DEDUCED, log 29). -/
def execPodFirnSample (time : BitVec 64) (trip : Nat) (s : State) : Out :=
  let h := s.hub
  let now := h.firn.toNat
  if !h.podEn || h.self == h.master || !h.reachesMaster || now < h.podSampled + podSampleTicks then .fault .notDue
  else
    let h := { h with podSampled := now }
    if h.podskew.toNat < trip then
      let n := h.podDiscards + 1
      if n = podMisses then
        .next ((s.setHub { h with podDiscards := n, pod := true, podrs := true }).machineFault 2 15 0)
      else .next (s.setHub { h with podDiscards := n })
    else
      let target := time.toNat + trip / 2
      .next (s.setHub
        { h with podDiscards := 0, podrs := false, firn := BitVec.ofNat 64 (max now target), podHold := now - target }).followAll

/-! ### Deadlines (R131, R234) -/

/-- Ends the waits of a floe for its deadline that meet a test (DEDUCED, log 39). -/
def State.deadline (s : State) (floe : Nat) (w : Wait) : Out :=
  match s.floes.find? floe with
  | none => .fault .noObject
  | some f =>
    let waits := (f.frontier ++ f.intFrontier).any fun e => e.flags &&& flagBlocked != 0 && e.wait == w
    if !waits || (s.firn (coreOf floe)).toNat < f.deadline.toNat then .fault .notDue
    else .next (s.setFloe floe (f.wake fun x => x == w))

/-- An entry that sleeps already holds the PC of the next word (R131). -/
def wakeSleep (fr : List Entry) : List Entry :=
  fr.map fun e => if e.flags &&& flagBlocked != 0 && e.wait == .sleep then { e with flags := e.flags &&& ~~~flagBlocked, wait := .none } else e

/-- SLEEP_DEADLINE (R131; DEDUCED, log 39). -/
def execSleepDeadline (floe : Nat) (s : State) : Out :=
  match s.floes.find? floe with
  | none => .fault .noObject
  | some f =>
    let waits := (f.frontier ++ f.intFrontier).any fun e => e.flags &&& flagBlocked != 0 && e.wait == .sleep
    if !waits || (s.firn (coreOf floe)).toNat < f.deadline.toNat then .fault .notDue
    else .next (s.setFloe floe { f with frontier := wakeSleep f.frontier, intFrontier := wakeSleep f.intFrontier })

/-- LWAIT_DEADLINE (R234): not while the die resynchronises (DEDUCED, log 39). -/
def execLwaitDeadline (floe : Nat) (s : State) : Out :=
  if s.hub.resync.getLsbD (dieOf (coreOf floe)) then .fault .notDue else s.deadline floe .lwait

/-! ### Leases (R260 to R262, R266) -/

/-- L1_LEASE_EXPIRY (R260, R262): a lease of a core on a line has run out; the line leaves L1 unless a later lease holds it, and
the predictor follows. -/
def execL1LeaseExpiry (core line : Nat) (s : State) : Out :=
  let c := s.core core
  let d := s.die (dieOf core)
  let l := d.line line
  let now := d.firn.toNat
  let gone := (c.l1.find? line).any fun x => decide (x.expiry ≤ now)
  match l.leases.find? fun x => x.core == core && decide (x.expiry ≤ now) with
  | none =>
    if gone then .next (s.setCore core { c with l1 := c.l1.del line })
    else if (c.l1.find? line).isSome || l.leases.any (·.core == core) then .fault .notDue
    else .fault .noObject
  | some x =>
    let s := s.setDie (dieOf core) (d.setLine line (l.close x))
    .next (if gone then s.setCore core { c with l1 := c.l1.del line } else s)

/-- LEASE_HORIZON_REACHED (R261): Firn has passed the latest expiry granted on a line. -/
def execLeaseHorizonReached (die line : Nat) (s : State) : Out :=
  let d := s.die die
  let l := d.line line
  if l.horizon = 0 ∨ d.firn.toNat < l.horizon then .fault .notDue
  else .next (s.setDie die (d.setLine line { l with horizon := 0, grants := 0 }))

/-- DIRECTORY_RECALL (R327, R371): an entry that is replaced recalls its line from every sharer, the host too, once their lease
horizons have passed. -/
def execDirectoryRecall (line : Nat) (s : State) : Out :=
  if (s.hub.dir.find? line).isNone then .fault .noObject
  else if !s.horizonPassed (line * 128) then .fault .notDue
  else .next (s.recallAll line)

/-- TRANSLATION_LEASE_EXPIRY (R266): a cached translation of a core, of its words or of its Latch engine, has run out. -/
def execTranslationLeaseExpiry (core : Nat) (ctx : BitVec 8) (page : Nat) (s : State) : Out :=
  let c := s.core core
  let now := (s.firn core).toNat
  let here (e : Tlb) : Bool := e.ctx == ctx && e.page == page
  let over_ (e : Tlb) : Bool := here e && decide (e.expiry ≤ now)
  if !(c.tlb ++ c.ahead).any here then .fault .noObject
  else if !(c.tlb ++ c.ahead).any over_ then .fault .notDue
  else .next (s.setCore core { c with tlb := c.tlb.filter (!over_ ·), ahead := c.ahead.filter (!over_ ·) })

end Sys2Proof.Machine
end

