-- ==== Sys2Proof/Machine/Hbm.lean ====
section
/-! DEFINITION. HBM channels and eyes (R351, R352), remap errors (R353, R354), Hinge links (R369), module reset and bring-up (R11,
R394, R395), and hardware errors as they come about (R397). -/

namespace Sys2Proof.Machine
open Sys2Proof

/-! ### Channels and eyes (R351, R352) -/

/-- Puts a channel at half or full width (R351). -/
def Stack.width (k : Stack) (chan : Nat) (half : Bool) : Stack :=
  { k with half := if half then k.half ||| (1#32 <<< chan) else k.half &&& ~~~(1#32 <<< chan) }

/-- Sets the width of a stack's channel. -/
def State.channelWidth (s : State) (stack chan : Nat) (half : Bool) : State := s.setStack stack ((s.stack stack).width chan half)

/-- Whether a stack and a channel exist. -/
def isChan (stack chan : Nat) : Bool := decide (stack < 16) && decide (chan < 32)

/-- CHANNEL_WIDTH_CHANGE (R351): a lane fault that repair does not cover, or a thermal limit, which is a machine fault of KIND
6. -/
def execChannelWidthChange (stack chan : Nat) (half thermal : Bool) (s : State) : Out :=
  if !isChan stack chan then .fault .noObject
  else
    let t := s.channelWidth stack chan half
    .next (if thermal && half then t.machineFault 6 (dieOfStack stack) 0 else t)

/-- The place of lane n of pseudo-channel pc among the eyes of a stack. -/
def eyeKey (pc n : Nat) : Nat := 64 * pc + n % 32

/-- The monitor of a lane of a pseudo-channel sees an eye: a width below the threshold sets the pseudo-channel's bit (R352). -/
def State.setEye (s : State) (stack pc lane : Nat) (height width : Byte) : State :=
  let k := s.stack stack
  let k := { k with eyes := k.eyes.put (eyeKey pc lane) (height, width) }
  if k.thresh.toNat ≤ width.toNat then s.setStack stack k
  else
    let s := s.setStack stack { k with eyestat := k.eyestat ||| (1 <<< pc) }
    if !k.eyestat.getLsbD pc && k.ien then s.interrupt 20 else s

/-- EYE_MARGIN_LOW (R352): the monitor of a data lane, of 32 for each pseudo-channel, finds an eye; a width below the threshold
sets the pseudo-channel's bit (DESIGN CHOICE, log 26). -/
def execEyeMarginLow (stack lane : Nat) (eye : Eye) (s : State) : Out :=
  if 16 ≤ stack ∨ 2048 ≤ lane then .fault .noObject
  else
    .next (s.setEye stack (lane / 32) lane eye.height eye.width)

/-- PERIODIC_RETRAIN (R352): a channel is drained and retrained; accesses wait, and nothing else changes. -/
def execPeriodicRetrain (stack : Nat) (s : State) : Out :=
  if 16 ≤ stack then .fault .noObject
  else if (s.stack stack).rtint = 0 then .fault .notDue
  else .next s

/-- EYEACT with ACTION 1 (R352): the channel is retrained; accesses wait, and nothing else changes. -/
def execEyeactRetrain (stack chan : Nat) (s : State) : Out := if !isChan stack chan then .fault .noObject else .next s

/-- Lane repair (R352): a spare takes the place of a lane of a channel, with an eye of its own, when one remains; else the
channel goes to half width (R345). How many spares a channel has is not fixed (DESIGN CHOICE, log 26). -/
def State.repairLane (s : State) (stack chan lane : Nat) : State :=
  let k := s.stack stack
  let pc := 32 * (lane / 32 % 2) + chan
  let at_ := eyeKey pc lane
  (if Config.pick 13 s.fresh % 2 = 1 then
     (s.setStack stack { k with spares := k.spares.put at_ (k.spares.getD at_ 0 + 1) }).setEye stack pc lane
       (BitVec.ofNat 8 (Config.pick 12 s.fresh)) (BitVec.ofNat 8 (Config.pick 12 (s.fresh + 1)))
   else s.channelWidth stack chan true).bump.bump

/-- EYEACT with ACTION 2 (R352). -/
def execEyeactRepair (stack chan lane : Nat) (s : State) : Out :=
  if !isChan stack chan || decide (64 ≤ lane) then .fault .noObject else .next (s.repairLane stack chan lane)

/-- EYEACT with ACTION 3 (R351). -/
def execEyeactHalfWidth (stack chan : Nat) (s : State) : Out :=
  if !isChan stack chan then .fault .noObject else .next (s.channelWidth stack chan true)

/-- EYEACT with ACTION 4 (R351, R352): a channel whose lanes cannot support it stays at half width. -/
def execEyeactFullWidth (stack chan : Nat) (able : Bool) (s : State) : Out :=
  if !isChan stack chan then .fault .noObject else .next (if able then s.channelWidth stack chan false else s)

/-- A write of EYEACT (R352; DESIGN CHOICE, log 26). -/
def State.eyeact (s : State) (stack : Nat) (v : Word) : State :=
  let chan := bitsAt v.toNat 8 5
  match bitsAt v.toNat 16 3 with
  | 2 => s.repairLane stack chan (bitsAt v.toNat 0 6)
  | 3 => s.channelWidth stack chan true
  | 4 => (if Config.pick 14 s.fresh % 2 = 1 then s.channelWidth stack chan false else s).bump
  | _ => s

/-- HBM_REFRESH (R358): a refresh burst starts between two steps of the bank; nothing else changes. -/
def execHbmRefresh (stack _bank : Nat) (s : State) : Out := if 16 ≤ stack then .fault .noObject else .next s

/-! ### Errors as they come about (R353, R354, R397) -/

/-- Adds one to a 32-bit counter that saturates. -/
def satInc (n : BitVec 32) : BitVec 32 := if n = 0xFFFFFFFF then n else n + 1

/-- A pseudo-channel is fenced (R354): its lines read as poison, but those of which the Neve or a die L2 has a valid copy keep
serving. -/
def State.fence (s : State) (stack pc : Nat) : State :=
  let k := s.stack stack
  (s.setStack stack { k with fenced := k.fenced ||| (1 <<< pc) }).machineFault 3 (dieOfStack stack) (64 * stack + pc)

/-- The machine fault of an uncorrectable error in data that has no physical address: its DETAIL is not stated, a free value
(R397, R398; DESIGN CHOICE, log 46). -/
def State.sramFault (s : State) (die : Nat) : State := (s.machineFault 5 die (Config.pick 9 s.fresh)).bump

/-- A hardware error that memory meets comes about (DESIGN CHOICE, log 46). -/
def State.upset (s : State) : Upset → State
  | .residue _ _ _ _ | .register _ _ => s
  | .corrected die => s.setDie die { s.die die with corr := satInc (s.die die).corr }
  | .sram core cell =>
    (s.setCore core { s.core core with bad := cell :: (s.core core).bad.filter (· != cell) }).sramFault (dieOf core)
  | .clean die line => ((s.dropL2 die line).dropL1 die line).machineFault 5 die (128 * line)
  | .data die line => (s.setPoison line true).machineFault 5 die (128 * line)
  | .neve line => (s.setHub { s.hub with neve := s.hub.neve.del line }).machineFault 5 15 (128 * line)
  | .sched w => (s.setHub { s.hub with schedBad := w :: s.hub.schedBad.filter (· != w) }).machineFault 5 15 (mmioBase + schedBase + 8 * w)
  | .remapCorrected stack => s.setStack stack { s.stack stack with corr := satInc (s.stack stack).corr }
  | .remap stack pc => if (s.stack stack).fenced.getLsbD pc then s else s.fence stack pc

/-- Whether an error is met by a word and not by memory (R396, R397). -/
def Upset.isResidue : Upset → Bool
  | .residue _ _ _ _ | .register _ _ => true
  | _ => false

/-- The errors that a memory response meets come about (DESIGN CHOICE, log 46). -/
def State.takeUpsets (s : State) : State :=
  let now := s.upsets.filter fun u => !u.isResidue
  now.foldl State.upset { s with upsets := s.upsets.filter Upset.isResidue }

/-! ### Dies in service (R369) -/

/-- HINGE_LINK_FAIL (R369): a link that does not retrain takes its die out of service, also out of those that are to enter it; a
machine fault of KIND 4. -/
def execHingeLinkFail (die : Nat) (s : State) : Out :=
  if 8 ≤ die then .fault .noObject
  else
    let h := s.hub
    .next (((s.setDie die { s.die die with inService := false }).setHub
      { h with diemask := h.diemask &&& ~~~(1#8 <<< die) }).machineFault 4 die 0)

/-! ### Module reset and bring-up (R11, R394, R395) -/

/-- MODULE_RESET (R11; DESIGN CHOICE, log 33). -/
def execModuleReset (s : State) : Out := .next s.moduleReset

/-- BOOTCTL_WRITE (R394). -/
def execBootctlWrite (value : BitVec 64) (trained : BitVec 8) (imageOk : Bool) (s : State) : Out := .next (s.bootStart value trained imageOk)

/-- Whether a stack is ready for full service: it has trained, or every pseudo-channel of it is fenced (R354, R395). -/
def State.stackReady (s : State) (stack : Nat) : Bool :=
  let k := s.stack stack
  k.trainedAt.any (fun t => decide (t ≤ s.hub.firn.toNat)) || k.fenced == BitVec.allOnes 64

/-- BOOT_FULL (R395): every stack of the dies in DIEMASK has trained or is fenced; those dies enter service. The lines below 4 GiB
that REDUCED service has written are still in the Neve (DESIGN CHOICE, log 26). -/
def execBootFull (s : State) : Out :=
  let dies := (List.range 8).filter fun d => s.hub.diemask.getLsbD d
  if s.hub.bootPhase ≠ 2 || !dies.all (fun d => s.stackReady (2 * d) && s.stackReady (2 * d + 1)) then .fault .notDue
  else
    let enter (s : State) (d : Nat) : State :=
      let x := s.die d
      if s.hub.diemask.getLsbD d then s.setDie d { x with inService := true, beatAt := if x.inService then x.beatAt else s.hub.firn.toNat }
      else s.setDie d { x with inService := false }
    let s := (List.range 8).foldl enter s
    let here (n : Nat) : Bool := decide (128 * n < reducedTop)
    let lines := s.mem.map fun e => lineOf e.1
    let neve := (lines.filter here).foldl (fun t n => t.put n true) s.hub.neve
    .next (s.setHub { s.hub with bootPhase := 3, neve := neve })

end Sys2Proof.Machine
end

