-- ==== Sys2Proof/Machine/Mmio.lean ====
section
/-! DEFINITION. Writes of the hub MMIO window (R9, R10, R380): every register's writable fields, clamps and actions, and scheduler
memory; the events in which the host writes a register. Reads are in Regs. -/

namespace Sys2Proof.Machine
open Sys2Proof

/-- A write of the bits of a mask of an 8-byte register that now reads as `cur`: what its RW fields become, and the bits written,
for W1C and WO fields (R9; log 35). -/
structure RegW where
  rw : Nat
  w1 : Word
  deriving DecidableEq, Repr

/-- Bit i of the bits written. -/
def RegW.hit (w : RegW) (i : Nat) : Bool := w.w1.getLsbD i
/-- Field of n bits from bit i of what the RW fields become. -/
def RegW.f (w : RegW) (i n : Nat) : BitVec n := BitVec.ofNat n (bitsAt w.rw i n)

/-! ### Front end (R381, R386 to R389, R394, R398) -/

/-- A queue register (R387). -/
def Hub.writeQueue (h : Hub) (o : Nat) (w : RegW) : Hub :=
  let i := (o - 0x100) / 16
  let q := h.queues.toList.getD i Queue.reset
  let q := if o % 16 = 0 then { q with en := w.rw.testBit 63, ltol := w.f 0 20 } else { q with ovf := q.ovf && !w.hit 8 }
  { h with queues := h.queues.setIfInBounds i q }

/-- What a bring-up that a write of BOOTCTL starts finds of the links and of the image. -/
def State.bootAny (s : State) (v : Word) : State :=
  (s.bootStart v (BitVec.ofNat 8 (Config.pick 11 s.fresh)) (Config.pick 11 (s.fresh + 1) % 2 == 1)).bump.bump

/-- The front-end block. -/
def State.writeFront (s : State) (o : Nat) (w : RegW) : State :=
  let h := s.hub
  if 0x100 ≤ o ∧ o < 0x200 then s.setHub (h.writeQueue o w)
  else
    match o with
    | 0x000 => s.trigger w.w1
    | 0x010 => s.ctxctl w.w1
    | 0x018 => s.setHub { h with haltlog := if w.hit 63 then 0 else h.haltlog }
    | 0x028 => s.setHub { h with ctxbase := w.f 12 40 }
    | 0x210 => s.setHub { h with mflog := if w.hit 63 then 0 else h.mflog }
    | 0x218 => s.bootAny w.w1
    | _ => s

/-! ### Firn (R257, R258) -/

/-- The Firn block: a die that the new bound leaves out of step raises FIRN_SKEW (R256; DEDUCED, log 28). -/
def State.writeFirn (s : State) (o : Nat) (w : RegW) : State :=
  let h := s.hub
  match o with
  | 0x08 =>
    let s := s.setHub { h with
      podskew := BitVec.ofNat 10 (clampTo 50 1000 (bitsAt w.rw 16 10)), skewmax := BitVec.ofNat 7 (clampTo 4 64 (bitsAt w.rw 0 7)) }
    (List.range 8).foldl (fun s d => if s.inSkew d || s.hub.resync.getLsbD d then s else s.firnSkew d) s
  | 0x10 => s.setHub { h with pod := h.pod && !w.hit 8, skew := h.skew &&& ~~~(w.w1.setWidth 8) }
  | 0x18 => s.setHub { h with xcap := w.f 8 4, lcap := w.f 0 2 }
  | _ => s

/-! ### Moraine (R273) -/

/-- Whether EN may be set with the fields as they stand. -/
def Hub.regionOk (h : Hub) : Bool :=
  let n := h.nframes.toNat
  let d := h.mdataBase
  let r := h.mrecBase
  let de := d + n * 65536
  let re := r + n * 131072
  n != 0 && decide (de ≤ hbmTop) && decide (re ≤ hbmTop) && (decide (de ≤ r) || decide (re ≤ d))

/-- A write of MPOLICY (R273; DEDUCED, log 28). -/
def Hub.writeMpolicy (h : Hub) (w : RegW) : Hub :=
  let op : BitVec 4 := w.f 4 4
  if 9 ≤ op.toNat then h
  else
    let g := { h with fold := w.rw.testBit 8, defop := op, nframes := if h.men then h.nframes else w.f 16 16 }
    { g with men := w.rw.testBit 0 && (h.men || g.regionOk) }

/-- The Moraine block. -/
def Hub.writeMoraine (h : Hub) (o : Nat) (w : RegW) : Hub :=
  match o with
  | 0x00 => if h.men then h else { h with mdata := w.f 16 36 }
  | 0x08 => if h.men then h else { h with mrec := w.f 17 35 }
  | 0x10 => h.writeMpolicy w
  | _ => h

/-! ### Fault queue (R342, R344) -/

/-- The fault-queue block. -/
def State.writeFault (s : State) (o : Nat) (w : RegW) : State :=
  let h := s.hub
  match o with
  | 0x00 => s.setHub { h with fqbase := w.f 12 40 }
  | 0x08 =>
    s.setHub { h with
      fqien := w.rw.testBit 32, fqen := w.rw.testBit 31, fqlog2 := BitVec.ofNat 5 (clampTo 4 16 (bitsAt w.rw 0 5)) }
  | 0x18 => s.setHub { h with fqhead := w.f 0 32 }
  | 0x20 =>
    let id := w.w1.setWidth 16
    match bitsAt w.w1.toNat 16 2 with
    | 1 => s.fqresp id false
    | 2 => s.fqresp id true
    | _ => s
  | 0x28 => s.setHub { h with badresp := h.badresp && !w.hit 1, fqfull := h.fqfull && !w.hit 0 }
  | _ => s

/-! ### HBM map and CXL (R347, R373 to R378) -/

/-- A write of HBMMAP (R347). -/
def Hub.writeMap (h : Hub) (w : RegW) : Hub :=
  if h.lock then h
  else { h with linseg := BitVec.ofNat 11 (min linsegMax (bitsAt w.rw 0 11)), lock := w.rw.testBit 32 }

/-- The fields of a window as they are stored (R373). -/
def winStored (v : Nat) : Word :=
  BitVec.ofNat 64 (bitsAt v 55 8 * 2 ^ 55 + bitsAt v 30 22 * 2 ^ 30 + min 15 (bitsAt v 24 6) * 2 ^ 24)

/-- The range of windows (R337, R373). -/
def Hub.winOk (h : Hub) (n : Nat) (w : Word) : Bool :=
  let b := winBase w
  let e := b + winSize w
  let clash := h.cxlwin.toList.zipIdx.any fun x =>
    x.2 != n && winEn x.1 && decide (b < winBase x.1 + winSize x.1) && decide (winBase x.1 < e)
  decide (poolBase ≤ b) && decide (e ≤ mmioBase) && b % winSize w == 0 && !clash && decide (bitsAt w.toNat 61 2 ≤ 1) &&
    bitsAt w.toNat 59 2 != 0

/-- A write of CXLWINn (R373). -/
def Hub.writeWindow (h : Hub) (n : Nat) (w : RegW) : Hub :=
  let old := h.cxlwin.toList.getD n 0
  let en := w.rw.testBit 63
  let put (x : Word) : Hub := { h with cxlwin := h.cxlwin.setIfInBounds n x }
  if winEn old then (if en then h else put (old &&& ~~~(0x8000000000000000 : Word)))
  else
    let x := winStored w.rw
    if !en then put x else if h.winOk n x then put (x ||| 0x8000000000000000) else h

/-- The CXL block. -/
def Hub.writeCxl (h : Hub) (o : Nat) (w : RegW) : Hub :=
  if o < 0x40 then h.writeWindow (o / 8) w
  else
    match o with
    | 0x40 => { h with podEn := w.rw.testBit 32, self := w.f 28 4, master := w.f 24 4, podSize := w.f 16 4 }
    | 0x48 => { h with podHome := w.f 60 4, podBase := w.f 9 43 }
    | 0x50 => { h with uncl := h.uncl && !w.hit 0 }
    | _ => h

/-! ### Die and stack blocks (R301, R322, R358, R368, R393, R352) -/

/-- A field in which 0 is stored as 1. -/
def atLeast1 {n : Nat} (x : BitVec n) : BitVec n := if x = 0 then 1 else x

/-- A die block. -/
def Die.write (x : Die) (o : Nat) (w : RegW) : Die :=
  match o with
  | 0x00 => { x with wdIen := w.rw.testBit 32, wdLimit := atLeast1 (w.f 0 20) }
  | 0x08 => { x with wdlog := if w.hit 63 then 0 else x.wdlog }
  | 0x10 => { x with gain := atLeast1 (w.f 16 12), fresv := w.f 8 4, lmin := atLeast1 (w.f 4 4), auto := w.rw.testBit 0 }
  | 0x18 => { x with win := w.f 0 16 }
  | 0x20 => { x with jfull := x.jfull && !w.hit 17, tfull := x.tfull && !w.hit 16 }
  | 0x28 => { x with fmax := BitVec.ofNat 8 (clampTo 20 24 (bitsAt w.rw 1 8)), boost := w.rw.testBit 0 }
  | _ => x

/-- A stack block. -/
def State.writeStack (s : State) (n o : Nat) (w : RegW) : State :=
  let k := s.stack n
  match o with
  | 0x00 => s.setStack n { k with rtint := w.f 32 16, ien := w.rw.testBit 16, thresh := w.f 0 8 }
  | 0x08 => s.setStack n { k with selPc := w.f 8 6, selLane := w.f 0 6 }
  | 0x18 => s.setStack n { k with eyestat := k.eyestat &&& ~~~w.w1 }
  | 0x30 => s.eyeact n w.w1
  | _ => s

/-! ### The window -/

/-- Writes the bits of a mask of the 8-byte register at an aligned offset (R380); an offset that is not listed ignores it. -/
def State.writeReg (s : State) (o : Nat) (v m : Word) : State :=
  let w : RegW := ⟨((s.reg o &&& ~~~m) ||| (v &&& m)).toNat, v &&& m⟩
  if o < 0x1000 then s.writeFront o w
  else if o < 0x2000 then s.writeFirn (o - 0x1000) w
  else if o < 0x3000 then s.setHub (s.hub.writeMoraine (o - 0x2000) w)
  else if o < 0x4000 then s.writeFault (o - 0x3000) w
  else if o < 0x5000 then (if o = 0x4000 then (s.setHub (s.hub.writeMap w)).remap s.hub.linseg else s)
  else if o < 0x6000 then s.setHub (s.hub.writeCxl (o - 0x5000) w)
  else if 0x10000 ≤ o ∧ o < 0x18000 then
    let d := (o - 0x10000) / 0x1000
    s.setDie d ((s.die d).write (o % 0x1000) w)
  else if 0x20000 ≤ o ∧ o < 0x30000 then s.writeStack ((o - 0x20000) / 0x1000) (o % 0x1000) w
  else s

/-- Writes n bytes of scheduler memory (R380): a word written whole is no longer poisoned (R397; DESIGN CHOICE, log 46). -/
def Hub.writeSched (h : Hub) (o n : Nat) (v : Word) : Hub :=
  { h with
    sched := (natLe n v.toNat).zipIdx.foldl (fun t e => t.set 0 (o + e.2) e.1) h.sched
    schedBad := if n = 8 then h.schedBad.filter (· != o / 8) else h.schedBad }

/-- A write of 4 or 8 aligned bytes of the window (R175, R380; DEDUCED, log 28; DEDUCED, log 35). -/
def State.regWrite (s : State) (o n : Nat) (v : Word) : State :=
  if schedBase ≤ o then s.setHub (s.hub.writeSched (o - schedBase) n v)
  else
    let sh := 8 * (o % 8)
    let m : Word := if n = 8 then BitVec.allOnes 64 else 0xFFFFFFFF
    s.writeReg (o / 8 * 8) (v <<< sh) (m <<< sh)

/-- A store to a physical address of KIND 3 (R253, R380). -/
def State.mmioStore (s : State) (pa : Nat) (bs : List Byte) : State :=
  let o := pa - mmioBase
  if o < windowSize then s.regWrite o bs.length (BitVec.ofNat 64 (leNat bs)) else s

/-- Whether a write of n bytes at an offset is one that the window takes (R175). -/
def regAt (o n : Nat) : Bool := (n == 4 || n == 8) && o % n == 0 && decide (o < windowSize)

/-- MMIO_REGISTER_WRITE (R9, R380): the host writes a register through BAR0. -/
def execMmioRegisterWrite (offset size : Nat) (value : BitVec 64) (s : State) : Out :=
  if !regAt offset size then .fault .noObject else .next (s.regWrite offset size value)

/-- MPOLICY_WRITE (R273). -/
def execMpolicyWrite (value : BitVec 64) (s : State) : Out := .next (s.regWrite 0x2010 8 value)

/-- HBMMAP_WRITE (R347). -/
def execHbmmapWrite (value : BitVec 64) (s : State) : Out := .next (s.regWrite 0x4000 8 value)

/-- CXLWIN_WRITE (R373). -/
def execCxlwinWrite (window : Nat) (value : BitVec 64) (s : State) : Out :=
  if 8 ≤ window then .fault .noObject else .next (s.regWrite (0x5000 + 8 * window) 8 value)

end Sys2Proof.Machine
end

