-- ==== Sys2Proof/Machine/Host.lean ====
section
/-! DEFINITION. What other agents do to the package (spec 20, R253): the host's writes, reads and snoops, pools, peer packages, pod
barriers (R376 to R379), and the training of CXL ports (R370). -/

namespace Sys2Proof.Machine
open Sys2Proof

/-- Whether n bytes from an address lie in one kind of memory. -/
def spanIn (kinds : List Nat) (addr n : Nat) : Bool :=
  kinds.contains (kindOf addr) && kindOf (addr + n - 1) == kindOf addr && n != 0

/-- HOST_CXL_MEM_WRITE (R253, R371): the host's write to device memory, or to its own (DESIGN CHOICE, log 6). -/
def execHostCxlMemWrite (addr : Nat) (data : List (BitVec 8)) (s : State) : Out :=
  if !spanIn [0, 1] addr data.length then .fault .noObject else .next (s.outsideArrive (.write hostWriter addr data))

/-- A read of device memory by an agent outside, at its home: dies keep shared copies, and the bytes, none where some line reads
as poison (R253, R354, R371, R375). -/
def State.outsideRead (s : State) (addr n : Nat) : State × List Byte :=
  let pas := addrsFrom addr n
  let s := s.wakeFor pas
  let got := if (linesOf pas).any fun ln => s.poisoned (ln * 128) then [] else s.pbytes addr n
  ((blocksOf pas).foldl (fun s a => s.cacheLoad 0 a .far) s, got)

/-- HOST_CXL_MEM_READ (R253, R371): the host reads device memory, and the halves it reads are held by it where the directory can
give their line an entry (R327; DESIGN CHOICE, log 9); what it has read is kept (DESIGN CHOICE, log 6). -/
def execHostCxlMemRead (addr size : Nat) (s : State) : Out :=
  let pas := addrsFrom addr size
  if !spanIn [0] addr size then .fault .noObject
  else if s.bankHeld 0 .far pas || s.lineHeld s.fresh s.hub.firn.toNat .host false (linesOf pas) then .fault .notDue
  else
    let (s, got) := s.outsideRead addr size
    let keep (s : State) (n : Nat) : State :=
      let s := s.dirRoom n
      let halves := (pas.filter fun a => lineOf a == n).foldl (fun t a => t.set false (a / 64) true) s.hub.hostHalves
      if s.dirFits n then (s.setHub { s.hub with hostHalves := halves }).syncDir n else s
    .next ((linesOf pas).foldl keep (s.setHub { s.hub with hostReads := s.hub.hostReads ++ [(addr, got)] }))

/-- HOST_SNOOP (R372): the host takes a half of host memory from every die, or leaves it Shared. -/
def execHostSnoop (half : Nat) (invalidate : Bool) (s : State) : Out :=
  let a := 64 * half
  if kindOf a ≠ 1 then .fault .noObject
  else
    .next ((List.range 8).foldl (fun s d =>
      if ((s.die d).line (lineOf a)).half a == .i then s else s.setHalf d a (if invalidate then .i else .s)) s)

/-- POOL_BACK_INVALIDATE (R248, R375): a pool device takes a line from every die, for the write of bytes by another package if
it brings any (DEDUCED, log 29; DESIGN CHOICE, log 6). -/
def execPoolBackInvalidate (write : PoolWrite) (s : State) : Out :=
  let a := 128 * write.line
  if !(kindOf a == 2 && s.cacheable a) || 128 < write.off + write.data.length then .fault .noObject
  else
    let s := s.recall write.line 8 false
    .next (if write.data.isEmpty then s else s.outsideArrive (.write hubWriter (a + write.off) write.data))

/-- The writer id of another package's stores (R375; DESIGN CHOICE, log 32). -/
def peerWriter (peer : BitVec 4) : Nat := 0xF00 + peer.toNat

/-- Whether n bytes from an address lie in one window on the memory of a peer (R373). -/
def State.inPeer (s : State) (addr n : Nat) : Bool :=
  spanIn [2] addr n && match s.hub.window addr with
    | some w => bitsAt w.toNat 61 2 == 1 && s.hub.window (addr + n - 1) == some w
    | none => false

/-- PEER_ACCESS (R247, R375): another package of the pod reads, writes or updates this one's device memory at its home, or writes or
updates the device memory of a package, itself or a third, that a window of this one reaches (DESIGN CHOICE, log 6;
DEDUCED, log 29). -/
def execPeerAccess (peer : BitVec 4) (addr : Nat) (op : PeerOp) (s : State) : Out :=
  let ours := s.hub.podEn && peer != s.hub.self
  match op with
  | .read n =>
    if !ours || !spanIn [0] addr n then .fault .noObject
    else if s.bankHeld 0 .far (addrsFrom addr n) || s.lineHeld s.fresh s.hub.firn.toNat .pod false (linesOf (addrsFrom addr n)) then
      .fault .notDue
    else .next (s.outsideRead addr n).1
  | .write data =>
    if !ours || !(spanIn [0] addr data.length || s.inPeer addr data.length) then .fault .noObject
    else .next (s.outsideArrive (.write (peerWriter peer) addr data))
  | .atomic f ty dnan x y =>
    if !ours || !(spanIn [0] addr (atBytes ty) || s.inPeer addr (atBytes ty)) || addr % atBytes ty != 0 then .fault .noObject
    else .next (s.outsideArrive (.atomic (peerWriter peer) addr f ty dnan x y))

/-! ### Pod barriers (R378, R379) -/

/-- POD_BARRIER_ARRIVAL (R379): this package arrives, or, at the home, another one does. The generation in which a package
arrives at another home is the one that its latest completion named (DEDUCED, log 29). -/
def execPodBarrierArrival (index : Nat) (s : State) : Out :=
  let h := s.hub
  let mine := s.podDue index
  let home := h.podHome == h.self
  if !h.podEn || 32 ≤ index || (!mine && !home) then .fault .notDue
  else
    let gen : Option (BitVec 32) := if home then none else some (h.podGen.getD index 0)
    let s := if mine then s.setHub { h with podArrived := h.podArrived ++ [(index, gen, (s.podReady index).map fun f => (f.inst, f.node))] } else s
    .next (if home then s.outsideArrive (.arrive index) else s)

/-- POD_BARRIER_COMPLETION (R379): the home, another package, reports a generation complete; it ends this package's wait when
that is the one in which it arrived (DEDUCED, log 29). -/
def execPodBarrierCompletion (index : Nat) (gen : BitVec 32) (s : State) : Out :=
  let h := s.hub
  if !h.podEn || 32 ≤ index || h.podHome == h.self then .fault .notDue
  else
    let s := s.setHub { h with podGen := h.podGen.put index gen }
    match h.podArrived.find? fun e => e.1 == index with
    | some (_, some g, _) => .next (if gen = g + 1 then s.podComplete index else s)
    | _ => .next s

/-- CXL_PORT_TRAINING (R370, R374). -/
def execCxlPortTraining (port : Nat) (up : Bool) (s : State) : Out :=
  if 4 ≤ port then .fault .noObject
  else
    let h := s.hub
    .next (s.setHub { h with cxlUp := if up then h.cxlUp ||| (1#4 <<< port) else h.cxlUp &&& ~~~(1#4 <<< port) })

end Sys2Proof.Machine
end

