-- ==== Sys2Proof/Machine/Mma.lean ====
section
/-! DEFINITION. MMA: its checks and signature (R208, R209), the sum of R65 with the bounds of R91 and the choice and check of
R92, and the events in which a signed generation fires and completes. -/

namespace Sys2Proof.Machine
open Sys2Proof

/-! ### Shapes (R208) -/

/-- The dimensions of an MMA: rows of A, rows of B, elements along K, row bytes, formats, and the scale tiles of MX operands. -/
structure MmaDim where
  m : Nat
  n : Nat
  k : Nat
  rowb : Nat
  fa : Nat
  fb : Nat
  sa : Nat
  sb : Nat
  deriving DecidableEq, Repr

/-- Whether K is one that R208 allows for a format. -/
def kOk (fmt k : Nat) : Bool :=
  match fmt with
  | 0 | 1 => k % 16 == 0 && 16 ≤ k && k ≤ 64
  | 2 | 3 | 9 => k % 16 == 0 && 16 ≤ k && k ≤ 128
  | 4 | 5 => k % 32 == 0 && 32 ≤ k && k ≤ 128
  | 6 | 7 => k % 32 == 0 && 32 ≤ k && k ≤ 160
  | 8 => k % 32 == 0 && 32 ≤ k && k ≤ 256
  | _ => false

/-- Whether two formats may meet: each pairs with its own kind (R208). -/
def fmtPair (a b : Nat) : Bool :=
  let kind (f : Nat) : Nat := if f = 3 then 2 else if f = 5 then 4 else if f = 7 then 6 else f
  kind a == kind b

/-- The dimensions that two tiles give, or none for ILLEGAL_SHAPE; `shape` reads TSHAPE. -/
def mmaDim (shape : Nat → Word) (a b : TReg) : Option MmaDim :=
  let x := shape a.toNat
  let y := shape b.toNat
  let fa := shFmt x
  let fb := shFmt y
  let k := shBytes x * 8 / tileBits fa
  let m := shRows x
  let n := shRows y
  let mx := decide (4 ≤ fa) && decide (fa ≤ 8)
  let scaleOk (w : Word) : Bool :=
    let z := shape (shScale w)
    shV z && shFmt z == 10 && shRows z == shRows w && decide (k / 32 ≤ shBytes z)
  let mn := (m == 16 && (n == 16 || n == 32 || n == 64)) || (m == 32 && (n == 16 || n == 32))
  if shV x && shV y && shBytes x == shBytes y && fmtPair fa fb && kOk fa k && mn && (!mx || (scaleOk x && scaleOk y)) then
    some ⟨m, n, k, shBytes x, fa, fb, shScale x, shScale y⟩
  else none

/-! ### Operands and sums (R65) -/

/-- Cuts a list into pieces of n. -/
def chunks {α : Type} (n : Nat) : Nat → List α → List (List α)
  | 0, _ => []
  | f + 1, l => if l.isEmpty then [] else l.take n :: chunks n f (l.drop n)

/-- The elements of a row of tile bytes. -/
def tileElems (fmt : Nat) (bs : List Byte) : List Nat :=
  let b := tileBits fmt
  (List.range (bs.length * 8 / b)).map fun i =>
    let o := i * b / 8
    bitsAt (leNat ((bs.drop o).take 3)) (i * b % 8) b

/-- The format of a tile's floating-point elements (R39). -/
def tileFmt (fmt : Nat) : FFmt :=
  match fmt with
  | 0 => FFmt.bf16
  | 1 => FFmt.f16
  | 2 => FFmt.e4m3
  | 3 => FFmt.e5m2
  | f => mxTileFmt f

/-- An operand row: groups of elements, each with its scale code (127 where there is none), and its bound. -/
structure MRow where
  groups : List (Nat × List FVal)
  bnd : Bound
  deriving DecidableEq, Repr

/-- NaN as MMA has it. -/
def mNan : FVal := .nan false false 0

/-- A product of R65. -/
def mulF (a b : FVal) : FVal :=
  if a.isNan || b.isNan || (a.isInf && b.isZero) || (b.isInf && a.isZero) then mNan
  else if a.isInf || b.isInf then .inf (a.neg != b.neg)
  else
    let x := a.dy.mul b.dy
    .fin (a.neg != b.neg) x.m.natAbs x.e

/-- An exact sum under IEEE 754: NaN for a NaN or opposite infinities, the zero sign of R47. -/
def sumF (xs : List FVal) : FVal :=
  let pos := xs.any fun x => x.isInf && !x.neg
  let neg := xs.any fun x => x.isInf && x.neg
  if xs.any (·.isNan) || (pos && neg) then mNan
  else if pos then .inf false
  else if neg then .inf true
  else
    let s := Dy.sum (xs.map (·.dy))
    if s.m = 0 then .fin (zeroSign false (xs.map fun x => (x.neg, x.dy))) 0 0 else .fin (decide (s.m < 0)) s.m.natAbs s.e

/-- A value times a power of two. -/
def FVal.scaleBy (k : Int) : FVal → FVal
  | .fin n m e => .fin n m (e + k)
  | x => x

/-- The exact sum of one group, scaled (R65 steps 1 to 3; DEDUCED, log 22). -/
def groupSum (a b : Nat × List FVal) : FVal :=
  if a.1 = 255 ∨ b.1 = 255 then mNan
  else (sumF (List.zipWith mulF a.2 b.2)).scaleBy ((a.1 : Int) + (b.1 : Int) - 254)

/-- One rounding into FP32 at Pacc, as a code (R65 step 4). -/
def roundAcc (P : Nat) (v : FVal) : Nat :=
  let F := FFmt.f32
  match v with
  | .nan .. => F.defaultNan
  | .inf n => F.signOf n + F.infCode
  | .fin n m e =>
    if m = 0 then F.encode n 0 0
    else
      let x := (⟨m, e⟩ : Dy).frac
      F.deliver .rn (F.roundAt .rn P n x x)

/-- The accumulator element after every group, and the elements after each rounding (R65). -/
def dotAcc (P : Nat) (acc : Nat) (sums : List FVal) : Nat × List Nat :=
  sums.foldl (fun (st : Nat × List Nat) s =>
    let c := roundAcc P (sumF [FFmt.f32.decode st.1, s])
    (c, st.2 ++ [c])) (acc, [])

/-- Pacc of a tier (R65). -/
def accP : Tier → Nat
  | .half => 16
  | .quart => 10
  | _ => 24

/-- The sum of the magnitudes of a row's dequantised elements (R91). -/
def MRow.mag (r : MRow) : Dy :=
  Dy.sum (r.groups.map fun g => (Dy.sum (g.2.map fun x => x.dy.abs)).scale ((g.1 : Int) - 127))

/-- Whether every element of a row is a number. -/
def MRow.finite (r : MRow) : Bool := r.groups.all fun g => g.1 != 255 && g.2.all (·.isFin)

/-- The bound terms of R91 before Rnd, for row i against row j of B. -/
def crossBound (k : Nat) (eAcc : Bound) (a b : MRow) (sa sb : Dy) : Bd :=
  bdSum [dec eAcc, bdMul (some sa) (dec b.bnd), bdMul (some sb) (dec a.bnd), bdMul (some (Dy.ofInt k)) (bdMul (dec a.bnd) (dec b.bnd))]

/-- One row of the result at a tier: its elements, and its bound under R91. -/
def mmaRow (P k : Nat) (acc : List Nat) (eAcc : Bound) (a : MRow) (bs : List MRow) : List Nat × Bound :=
  let sa := a.mag
  let cells := (List.zipWith (fun x b => (dotAcc P x (List.zipWith groupSum a.groups b.groups), b)) acc bs)
  let bnd := boundMaxL (cells.map fun c =>
    let rnd := Dy.sum (c.1.2.map fun g => roundCharge .rn (FFmt.f32.decode g).dy P (-126))
    enc (bdAdd (crossBound k eAcc a c.2 sa c.2.mag) (some rnd)))
  let bad := isU eAcc || isU a.bnd || bs.any (fun b => isU b.bnd) || cells.any fun c => !(FFmt.f32.decode c.1.1).isFin
  (cells.map (·.1.1), if bad then 0x8000 else bnd)

/-- The prediction of R92 for a row at Pacc: unbounded when an operand is not a number (DEDUCED, log 13). -/
def mmaPredict (P k : Nat) (acc : List Nat) (eAcc : Bound) (a : MRow) (bs : List MRow) : Bound :=
  if !a.finite || bs.any (fun b => !b.finite) || acc.any (fun x => !(FFmt.f32.decode x).isFin) then 0x8000
  else
    let sa := a.mag
    boundMaxL (List.zipWith (fun x b =>
      let prods := List.zipWith (fun (g h : Nat × List FVal) =>
        (Dy.sum (List.zipWith (fun p q => (p.dy.mul q.dy).abs) g.2 h.2)).scale ((g.1 : Int) + (h.1 : Int) - 254)) a.groups b.groups
      let mag := (FFmt.f32.decode x).dy.abs.add (Dy.sum prods)
      let u : Int := if mag.m = 0 then -126 - P + 1 else ulpExp mag.frac P (-126)
      enc (bdAdd (crossBound k eAcc a b sa b.mag) (some ((Dy.ofInt a.groups.length).mul (Dy.pow2 u))))) acc bs)

/-- The smallest magnitude among the finite elements of a row, 0 when there is none (R92; DEDUCED, log 13). -/
def minMag (xs : List Nat) : Dy :=
  match (xs.map FFmt.f32.decode).filter (·.isFin) with
  | [] => Dy.zero
  | x :: t => t.foldl (fun m y => m.min y.dy.abs) x.dy.abs

/-- The operands of a fire: accumulator rows with bounds, rows of A, rows of B. -/
structure MmaIn where
  dim : MmaDim
  acc : List (List Nat)
  eAcc : List Bound
  a : List MRow
  b : List MRow
  deriving DecidableEq, Repr

/-- Every row of the result at a tier. -/
def MmaIn.run (x : MmaIn) (t : Tier) : List (List Nat × Bound) :=
  (List.zip (List.zip x.acc x.eAcc) x.a).map fun e => mmaRow (accP t) x.dim.k e.1.1 e.1.2 e.2 x.b

/-- Whether every row passes at a tier (R92); `full` are the FULL results. -/
def MmaIn.passes (x : MmaIn) (v : FpEnv) (full : List (List Nat × Bound)) (t : Tier) : Bool :=
  (List.zip (List.zip (List.zip x.acc x.eAcc) x.a) full).all fun e =>
    v.passes (mmaPredict (accP t) x.dim.k e.1.1.1 e.1.1.2 e.1.2 x.b) (some (minMag e.2.1)) (-126)

/-- INT8 rows (R65, R91): sums modulo 2^32 and the bound of each row. -/
def MmaIn.ints (x : MmaIn) (a b : List (List Nat)) : List (List Nat × Bound) :=
  let clean := (x.a ++ x.b).all fun r => r.bnd == 0
  (List.zip (List.zip x.acc x.eAcc) a).map fun e =>
    (List.zipWith (fun (acc : Nat) (bj : List Nat) =>
        intBits 32 ((acc : Int) + (List.zipWith (fun p q => intVal 8 true p * intVal 8 true q) e.2 bj).sum)) e.1.1 b,
      if clean && e.1.2 == 0 then 0 else 0x8000)

/-! ### Fire and completion (R209) -/

/-- Elements and row bounds of an operand tile. -/
def tileIn (core : Core) (phys rows rowb : Nat) : List (List Byte × Bound) :=
  (List.range rows).map fun r => (core.tile phys).row r rowb

/-- An operand tile as rows of groups. -/
def operandRows (core : Core) (p : Pack) (t scale fmt rows rowb k : Nat) : List MRow :=
  let g := if 4 ≤ fmt ∧ fmt ≤ 8 then 32 else 16
  let zt := core.tile (p.tiles.getD scale 0)
  let zb := shBytes (p.tshape.toList.getD scale 0)
  (tileIn core (p.tiles.getD t 0) rows rowb).zipIdx.map fun r =>
    let vs := (tileElems fmt r.1.1).map (tileFmt fmt).decode
    let sc (i : Nat) : Nat := if g = 32 then (zt.bytes.getD (r.2 * zb + i) 0).toNat else 127
    ⟨((chunks g (k / g + 1) vs).zipIdx.map fun c => (sc c.2, c.1)), r.1.2⟩

/-- The tier of a record's MOD (R208). -/
def recTier (r : SignRec) : Tier :=
  match bitsAt r.mod.toNat 4 2 with
  | 1 => .full
  | 2 => .half
  | 3 => .quart
  | _ => .auto

/-- The registers of a record as an environment; in handler mode nothing is predicted or checked (R306;
DEDUCED, log 22). -/
def recEnv (s : State) (r : SignRec) (handler : Bool) : FpEnv :=
  { dnan := true, rdef := .rn, bud := r.ebud, chk := if handler then 0 else r.bmode.setWidth 2, trap := r.bmode.getLsbD 2,
    auto := r.bmode.getLsbD 3, g := r.bguard, mayPredict := !handler && !s.reduced }

/-- NCODE of N columns (R40). -/
def ncodeOf (n : Nat) : BitVec 2 := if n = 64 then 2 else if n = 32 then 1 else 0

/-- A fire whose recheck failed (R209). -/
def MmaRes.failed : MmaRes := ⟨[], [], .full, false, false, 0, 0, true, false, 0⟩

/-- Fire: the result that a signed generation will write (R209, R91, R92; DEDUCED, log 22). -/
def fireMma (s : State) (core : Core) (p : Pack) (m : Mma) : MmaRes :=
  let r := m.record
  match (mmaDim (fun t => p.tshape.toList.getD t 0) r.a r.b).filter fun d => !(d.fa == 9 && (recTier r == .half || recTier r == .quart)) with
  | none => MmaRes.failed
  | some d =>
    let acc := core.acc (p.accs.getD r.d.toNat 0)
    let m32 := d.m == 32
    let nc := ncodeOf d.n
    let same := acc.m32 == m32 && acc.ncode == nc
    let all := boundMaxL ((List.range 32).map fun i => acc.bnd.getD i 0)
    let x : MmaIn :=
      { dim := d
        acc := (List.range d.m).map fun i => (List.range d.n).map fun j => (acc.data.getD (i * d.n + j) 0).toNat
        eAcc := (List.range d.m).map fun i => if same then acc.bnd.getD i 0 else all
        a := operandRows core p r.a.toNat d.sa d.fa d.m d.rowb d.k
        b := operandRows core p r.b.toNat d.sb d.fb d.n d.rowb d.k }
    let v := recEnv s r (m.signers.any (·.handler))
    let int := d.fa == 9
    let auto := recTier r == .auto
    let predicts := auto && !int && v.auto && v.mayPredict && v.chk != 0
    let full := if predicts then x.run .full else []
    let tier : Tier :=
      if int then .full
      else if !auto then recTier r
      else if !predicts then .full
      else if x.passes v full .quart then .quart
      else if x.passes v full .half then .half
      else .full
    let rows :=
      if int then
        x.ints ((tileIn core (p.tiles.getD r.a.toNat 0) d.m d.rowb).map fun e => tileElems 9 e.1)
          ((tileIn core (p.tiles.getD r.b.toNat 0) d.n d.rowb).map fun e => tileElems 9 e.1)
      else x.run tier
    let anyB := x.b.any fun b => isU b.bnd
    let unb := (List.zip (List.zip rows x.eAcc) x.a).any fun e =>
      isU e.1.1.2 && !(isU e.1.2 || isU e.2.bnd || anyB || (int && x.a.any fun a => isU a.bnd))
    let beyond (e : List Nat × Bound) : Bool :=
      if int then v.exceeds e.2 (some ((e.1.map fun c => (Dy.ofInt (intVal 32 true c)).abs).foldl Dy.min (Dy.ofInt 4294967296))) 0
      else v.exceeds e.2 (some (minMag e.1)) (-126)
    let bad := if v.chk = 0 || r.mod.getLsbD 0 then [] else rows.zipIdx.filter fun e => beyond e.1
    { data := rows.flatMap fun e => e.1.map (BitVec.ofNat 32), bnd := rows.map (·.2), tier := tier,
      tierUp := predicts && tier == .full, unb := unb, breach := maskWhere fun i => bad.any fun e => e.2 == i,
      first := (bad.head?.map (·.1.2)).getD 0, fail := false, m32 := m32, ncode := nc }

/-- MMA (R208, R209): checks, then the signature of ACTIVE. A mismatch is precise at the word (R202). -/
def execMma (h : Hdr) (tier : Tier) (q : Bool) (d : AReg) (a b : TReg) (j : JReg) (s : State) : Out :=
  onWord (.mma h tier q d a b j) h s fun c =>
    match c.pack? with
    | none => retire c
    | some p =>
      let int (t : TReg) : Bool := shFmt (p.shape c.num t.toNat) == 9
      if int a && int b && (tier == .half || tier == .quart) then illegalOperand c
      else
        match mmaDim (p.shape c.num) a b with
        | none => illegalShape c
        | some _ =>
          c.ownAcc d fun _ _ =>
            let code := match tier with
              | .auto => 0
              | .full => 1
              | .half => 2
              | .quart => 3
            let y := c.f.sys
            let r : SignRec := ⟨true, BitVec.ofNat 8 (16 * code + if q then 1 else 0), d, a, b, y.ebud, y.bmode, y.bguard⟩
            let s1 := { c.s with floes := c.s.floes.put c.key { c.f with run := some c.r } }
            match s1.sign c.f.pack j c.key (popc c.act) r c.act c.pc c.word with
            | (some s2, _) => retire (c.via fun _ => s2)
            | (none, k) => trapAt (c.via fun s => s.joinFail c.f.pack j c.key) 0x31 c.act 0 (joinInfo k j)

/-- A generation of a join that has reached its count and has no result yet (R201). -/
def Pack.toFire (p : Pack) (j : JReg) : Option Mma := p.mmas.find? fun m => m.join == j && p.isFired m && m.res.isNone

/-- Whether an MMA that fired earlier has still to write the same accumulator (R209). -/
def Pack.accBusy (p : Pack) (m : Mma) : Bool :=
  (p.mmas.takeWhile fun x => !(x.join == m.join && x.gen == m.gen)).any fun x => p.isFired x && x.record.d == m.record.d

/-- Whether a write of a tile or an accumulator that a floe of the pack issued is not done (R209). -/
def State.packWrites (s : State) (pack : Nat) : Bool :=
  s.pend.any fun e =>
    (match s.floes.find? e.2.floe with
     | some f => f.pack == pack && f.seq == e.2.seq
     | none => false) &&
      (match e.2.dest with
       | .tile .. | .keyed .. | .acc .. | .fill .. => true
       | _ => false)

/-- MMA_FIRE (R209; DEDUCED, log 22). -/
def execMmaFire (pack join : Nat) (s : State) : Out :=
  match s.packs.find? pack with
  | none => .fault .noObject
  | some p =>
    match p.toFire (BitVec.ofNat 3 join) with
    | none => .fault .notDue
    | some m =>
      if s.packWrites pack || p.accBusy m then .fault .notDue
      else
        let res := fireMma s (s.core (coreOf pack)) p m
        .next (s.setPack pack { p with mmas := p.mmas.map fun x =>
          if x.join == m.join && x.gen == m.gen then { x with res := some res } else x })

/-- LASTTIER and BSTICKY of a signer of a completed MMA (R209, R82, R92). -/
def signerSys (m : Mma) (res : MmaRes) (g : Signer) (y : SysRegs) : SysRegs :=
  let trapped := res.breach ≠ 0 && m.record.bmode.getLsbD 2
  let y := if recTier m.record = .auto && !res.fail && !g.handler then { y with lasttier := tierCode res.tier } else y
  let bits : BitVec 5 :=
    (if res.tierUp then stickyTIERUP else 0) ||| (if res.unb then stickyUNB else 0) ||| (if res.breach ≠ 0 then stickyBR else 0)
  if !res.fail && !trapped && !g.handler then { y with bsticky := y.bsticky ||| bits } else y

/-- The cause that a completed MMA raises in one of its signers (R209, R92). -/
def signerTrap (m : Mma) (res : MmaRes) (g : Signer) (f : Floe) : Floe :=
  let trapped := res.breach ≠ 0 && m.record.bmode.getLsbD 2
  let raise (t : Trap) : Floe := { f with traps := f.traps ++ [⟨t, .jwait m.join, false, false, true⟩] }
  if res.fail then raise ⟨0x03, g.pc, g.lanes, 0, g.word, false⟩
  else if trapped then
    raise ⟨0x10, g.pc, res.breach, 0, res.first.setWidth 64 ||| ((tierCode res.tier).setWidth 64 <<< 16), false⟩
  else f

/-- What a completed MMA does to one of its signers, whose run is over: in the floe, and in the floe as its pending accesses would
restore it (R304). -/
def State.signerDone (s : State) (pack : Nat) (m : Mma) (res : MmaRes) (g : Signer) : State :=
  let signed (f : Floe) : Bool := f.pack == pack && f.findex == g.findex
  let back (e : Nat × Acc) : Nat × Acc :=
    if (s.floes.find? e.2.floe).any fun f => signed f && f.seq == e.2.seq then
      (e.1, { e.2 with snap := e.2.snap.map fun f => f.lateSys none (signerSys m res g) })
    else e
  let told (e : Nat × Floe) : Nat × Floe :=
    if signed e.2 then (e.1, signerTrap m res g (e.2.lateSys none (signerSys m res g))) else e
  { s with pend := s.pend.map back, floes := s.floes.map told }

/-- The accumulator that a completed MMA writes (R209, R91). -/
def Accum.mmaWrite (a : Accum) (res : MmaRes) (ctx : BitVec 8) : Accum :=
  { data := res.data.zipIdx.foldl (fun t e => t.set 0 e.2 e.1) a.data
    bnd := res.bnd.zipIdx.foldl (fun t e => Tbl.set 0 t e.2 e.1) ([] : Tbl Bound)
    live := true, owner := ctx, m32 := res.m32, ncode := res.ncode
    spill := if a.live && a.owner == ctx then a.spill else 0
    old := none }

/-- MMA_COMPLETE (R209): generations of one join complete in order; each signer learns the outcome, and waits on the
generation end, in a floe that traps when the trap is taken (DEDUCED, log 22). -/
def execMmaComplete (pack join : Nat) (s : State) : Out :=
  match s.packs.find? pack with
  | none => .fault .noObject
  | some p =>
    let j : JReg := BitVec.ofNat 3 join
    match p.mmas.find? fun m => m.join == j && m.gen != (p.join j).gen with
    | none => .fault .notDue
    | some m =>
      match m.res with
      | none => .fault .notDue
      | some res =>
        let core := s.core (coreOf pack)
        let phys := p.accs.getD m.record.d.toNat 0
        let keep := res.fail || (res.breach ≠ 0 && m.record.bmode.getLsbD 2)
        let s := if keep then s else s.setCore (coreOf pack) (core.setAcc phys ((core.acc phys).mmaWrite res p.ctx))
        let p := { p with mmas := p.mmas.filter fun x => !(x.join == m.join && x.gen == m.gen) }
        let s := s.setPack pack (p.putJoin j (p.join j))
        let once := m.signers.foldl (fun (acc : List Signer) g =>
          if acc.any fun x => x.findex == g.findex then
            acc.map fun x => if x.findex == g.findex then { x with lanes := x.lanes ||| g.lanes } else x
          else acc ++ [g]) []
        let s := once.foldl (fun s g => s.signerDone pack m res g) s
        if keep then .next s else .next (s.joinWake pack j)

end Sys2Proof.Machine
end

