-- ==== Sys2Proof/Machine/Serac.lean ====
section
/-! DEFINITION. Serac: the row instructions with their checks (R226 to R229) and the events of an operation: its fork with the
coherence duties of the hub, its row steps, its join (R355 to R359, R94). -/

namespace Sys2Proof.Machine
open Sys2Proof

/-! ### Checks (R227) -/

/-- Bytes of a Serac row (R226). -/
def rowLen : Nat := 1024

/-- The ranges of an operation: first address, rows, and whether it is the destination. -/
structure RowRange where
  base : Word
  rows : Nat
  dst : Bool
  deriving DecidableEq, Repr

/-- Whether two ranges share a byte. -/
def RowRange.meets (x y : RowRange) : Bool :=
  decide (x.base.toNat < y.base.toNat + y.rows * rowLen) && decide (y.base.toNat < x.base.toNat + x.rows * rowLen)

/-- SER_ALIGN: failing address and subcode (R227). -/
def serAlign (op : RowOp) (d : RowRange) (srcs : List RowRange) : Option (Word × Nat) :=
  match (d :: srcs).find? fun r => r.base.toNat % rowLen != 0 with
  | some r => some (r.base, 1)
  | none =>
    if op = .rdx then (if srcs.any d.meets then some (d.base, 3) else none)
    else if srcs.any fun r => d.meets r && r.base != d.base then some (d.base, 2)
    else none

/-- The physical address of each row that checked pages hold, with whether its memory is tagged. -/
def rowsOf (ck : LaneCheck) : List (Nat × Bool) :=
  ck.pieces.flatMap fun p => (List.range (p.n / rowLen)).map fun i => (p.pa + i * rowLen, leafTagged p.leaf)

/-- The checks of R227 on the pages of the ranges (steps 4 to 6), then what the operation does with the physical rows of each
range. -/
def Ctx.onRows (c : Ctx) (p : Pack) (rs : List RowRange) (k : Ctx → List LaneCheck → List (List (Nat × Bool)) → State) : State :=
  let root := c.s.rootOf p
  let (s, cks) := rs.foldl (fun (acc : State × List (RowRange × LaneCheck)) r =>
    let (s, ck) := checkLane c.core c.f.ctx root c.f.handler ⟨r.dst, 1, none, false⟩ (r.rows * rowLen) acc.1 (64, r.base) .words true
    (s, acc.2 ++ [(r, ck)])) (c.s, [])
  let c := { c with s := s }
  let parts := cks.flatMap fun e => (pageParts (e.1.rows * rowLen / 65536 + 2) 0 e.1.base (e.1.rows * rowLen)).map fun q => (e, q)
  let leafAt (e : RowRange × LaneCheck) (va : Word) : Option Piece := e.2.pieces.find? fun q => q.va == va
  let denies := parts.find? fun x =>
    !canonical x.2.2.1 ||
      match leafAt x.1 x.2.2.1 with
      | some q => leafDenied c.s c.f.handler ⟨x.1.1.dst, 1, none, false⟩ q.leaf q.pa
      | none => false
  let plain := parts.find? fun x =>
    match leafAt x.1 x.2.2.1 with
    | some q => !pteSer q.leaf
    | none => false
  let den := c.r.denied &&& c.act
  if den ≠ 0 then
    let va := (cks.find? fun e => !e.2.miss.isEmpty).bind fun e => e.2.miss.head?.map (·.1)
    trapWord c 0x21 c.act (va.getD ((rs.head?.map (·.base)).getD 0))
      c.word true
  else
    match denies, plain with
    | some x, _ => trapAt c 0x21 c.act x.2.2.1 c.word
    | none, some x => trapAt c 0x24 c.act x.2.2.1 c.word
    | none, none =>
      if cks.all fun e => e.2.miss.isEmpty then k c (cks.map (·.2)) (cks.map fun e => rowsOf e.2)
      else
        let w := (cks.filter (·.1.dst)).flatMap (·.2.miss)
        let r := (cks.filter fun e => !e.1.dst).flatMap (·.2.miss)
        let also := if w.isEmpty then [] else r
        let c := { c with s := also.foldl (fun (s : State) (x : Word × Nat × Bool) =>
          s.pageFault c.f.ctx x.1 (faultInfo false false false x.2.1 x.2.2) c.core (BitVec.ofNat 8 (c.key % 64))
            (.lanes c.key c.f.seq c.act false c.f.handler)) c.s }
        retire (if w.isEmpty then c.park c.act false false r else c.park c.act true false w)

/-- A row instruction: checks, then one engine operation (R227, R228); ILLEGAL_SHAPE is judged with ACTIVE empty too, and its
XMASK is ACTIVE (R106, R227; DEDUCED, log 43). `srcs` are the sources' registers in the order A, B, E. -/
def rowWord (c : Ctx) (op : RowOp) (d : Word) (pattern : Word) (srcs : List Word) (ctl : Word) : State :=
  let n := bitsAt ctl.toNat 0 12
  let bar := bitsAt ctl.toNat 16 24
  if bitsAt ctl.toNat 40 24 ≠ 0 ∨ bitsAt ctl.toNat 12 4 ≠ 0 ∨ n = 0 then trapAt c 0x03 c.act 0 c.word
  else if c.act = 0 then retire c
  else
    let dr : RowRange := ⟨d, if op = .rdx then 1 else n, true⟩
    let sr := srcs.map fun a => (⟨a, n, false⟩ : RowRange)
    match serAlign op dr sr with
    | some (a, sub) => trapAt c 0x23 c.act a (BitVec.ofNat 64 sub)
    | none =>
      c.onObj (BitVec.ofNat 64 bar) false fun p _ b =>
        if b.scope < 3 then trapAt c 0x32 c.act (BitVec.ofNat 64 bar) 7
        else
          c.onRows p (dr :: sr) fun c cks rows =>
            let at_ (i : Nat) : List Nat := (rows.getD i []).map (·.1)
            let tag (i : Nat) : List Bool := (rows.getD i []).map (·.2)
            let x : Serac :=
              { id := c.s.fresh, born := c.s.hub.firn.toNat, exp := minExp cks, floe := c.key, findex := c.f.findex, pack := p.id, ctx := c.f.ctx, op := op, n := n,
                pattern := pattern, dRows := at_ 0, aRows := at_ 1, bRows := at_ 2, eRows := at_ 3, dTagged := tag 0,
                aTagged := tag 1, bar := bar, forked := false, todo := List.range (if op = .rdx then n + 1 else n),
                accum := [], accPoison := 0, paths := Vector.replicate 4 0, fork := ⟨c.key, c.f.seq, c.num, c.act⟩ }
            retire { c with s := { c.s with seracs := c.s.seracs ++ [x], fresh := c.s.fresh + 1 } }

/-- ROWCPY (R226). -/
def execRowcpy (h : Hdr) (d a ctl : SReg) (s : State) : Out :=
  onWord (.rowcpy h d a ctl) h s fun c => rowWord c .cpy (c.sr .d d) 0 [c.sr .a a] (c.sr .c ctl)
/-- ROWFIL (R226). -/
def execRowfil (h : Hdr) (d a ctl : SReg) (s : State) : Out :=
  onWord (.rowfil h d a ctl) h s fun c => rowWord c .fil (c.sr .d d) (c.sr .a a) [] (c.sr .c ctl)
/-- ROWAND (R226). -/
def execRowand (h : Hdr) (d a b ctl : SReg) (s : State) : Out :=
  onWord (.rowand h d a b ctl) h s fun c => rowWord c .and (c.sr .d d) 0 [c.sr .a a, c.sr .b b] (c.sr .c ctl)
/-- ROWOR (R226). -/
def execRowor (h : Hdr) (d a b ctl : SReg) (s : State) : Out :=
  onWord (.rowor h d a b ctl) h s fun c => rowWord c .or (c.sr .d d) 0 [c.sr .a a, c.sr .b b] (c.sr .c ctl)
/-- ROWXOR (R226). -/
def execRowxor (h : Hdr) (d a b ctl : SReg) (s : State) : Out :=
  onWord (.rowxor h d a b ctl) h s fun c => rowWord c .xor (c.sr .d d) 0 [c.sr .a a, c.sr .b b] (c.sr .c ctl)
/-- ROWNOT (R226). -/
def execRownot (h : Hdr) (d a ctl : SReg) (s : State) : Out :=
  onWord (.rownot h d a ctl) h s fun c => rowWord c .not (c.sr .d d) 0 [c.sr .a a] (c.sr .c ctl)
/-- ROWMAJ (R226): the third source's address is in the register above C. -/
def execRowmaj (h : Hdr) (d a b ctl : SReg) (s : State) : Out :=
  onWord (.rowmaj h d a b ctl) h s fun c =>
    rowWord c .maj (c.sr .d d) 0 [c.sr .a a, c.sr .b b, c.srAt .c ctl 1] (c.sr .c ctl)
/-- ROWRDX (R226). -/
def execRowrdx (h : Hdr) (d a ctl : SReg) (s : State) : Out :=
  onWord (.rowrdx h d a ctl) h s fun c => rowWord c .rdx (c.sr .d d) 0 [c.sr .a a] (c.sr .c ctl)

/-- ROWSTAT (R229). -/
def execRowstat (h : Hdr) (d a : SReg) (s : State) : Out :=
  onWord (.rowstat h d a) h s fun c =>
    let v := c.sr .a a
    if v &&& ~~~(0x103 : Word) ≠ 0 then illegalShape c
    else
      retire (c.once fun c =>
        let i : Fin 4 := ⟨v.toNat % 4, Nat.mod_lt _ (by decide)⟩
        let x := c.f.rowstat[i]
        let c := c.setS d x
        let f := if v.getLsbD 8 then { c.f with rowstat := c.f.rowstat.set i 0 } else c.f
        { c with f := f })

/-! ### Events -/

namespace Serac
/-- Every row of the ranges. -/
def sources (x : Serac) : List Nat := x.aRows ++ x.bRows ++ x.eRows

/-- The source rows that a step reads. -/
def reads (x : Serac) (i : Nat) : List Nat :=
  match x.op with
  | .fil => []
  | .rdx => if i < x.n then [x.aRows.getD i 0] else []
  | .cpy | .not => [x.aRows.getD i 0]
  | .maj => [x.aRows.getD i 0, x.bRows.getD i 0, x.eRows.getD i 0]
  | .and | .or | .xor => [x.aRows.getD i 0, x.bRows.getD i 0]

/-- Whether a step writes its destination row. -/
def writes (x : Serac) (i : Nat) : Bool := x.op != .rdx || i == x.n

/-- The path of a step as ROWSTAT numbers it (R355). -/
def path (x : Serac) (h : Hub) (i : Nat) : Fin 4 :=
  let d := x.dRow i
  let rs := x.reads i
  if rs.all fun r => h.group r == h.group d then 0
  else if rs.all fun r => (h.hbmLoc r).1 == (h.hbmLoc d).1 then 1
  else 2

/-- The bytes that a step makes from source rows (R226). -/
def bytesOf (x : Serac) (i : Nat) (rows : List (List Byte)) : List Byte :=
  let r (k : Nat) : List Byte := rows.getD k []
  match x.op with
  | .cpy => r 0
  | .fil => (List.range rowLen).map fun k => BitVec.ofNat 8 (x.pattern.toNat / 256 ^ (k % 8))
  | .and => List.zipWith (· &&& ·) (r 0) (r 1)
  | .or => List.zipWith (· ||| ·) (r 0) (r 1)
  | .xor => List.zipWith (· ^^^ ·) (r 0) (r 1)
  | .not => (r 0).map (~~~ ·)
  | .maj => List.zipWith (fun (p : Byte × Byte) e => (p.1 &&& p.2) ||| (p.1 &&& e) ||| (p.2 &&& e)) ((r 0).zip (r 1)) (r 2)
  | .rdx => if i = 0 then r 0 else if i < x.n then List.zipWith (· ^^^ ·) x.accum (r 0) else x.accum
end Serac

/-- The lines of a row. -/
def rowLines (row : Nat) : List Nat := (List.range 8).map fun k => row + 128 * k

/-- SERAC_FORK (R357): once every earlier access of the issuing lanes has been performed and every lease on the destination has
run out, dirty copies of source lines go home, copies of destination lines go, those of the Neve and the host too, and the
ranges are busy. -/
def execSeracFork (op : Nat) (s : State) : Out :=
  match s.seracs.find? fun x => x.id == op with
  | none => .fault .noObject
  | some x =>
    let dst := x.dRows.flatMap rowLines
    let w := Writer.unit x.id 0
    if x.forked || s.forkHeld x.fork || s.lineHeld x.id x.born .package true (linesOf (dst ++ x.sources.flatMap rowLines)) then .fault .notDue
    else
      if !s.mayWrite (some w) dst then .next (s.waitWrites w dst)
      else
        let s := s.unqueue w
        let s := (x.sources.flatMap rowLines).foldl (fun s a =>
          (List.range 8).foldl (fun s d => if ((s.die d).line (lineOf a)).st = .m then s.setL2 d (lineOf a) .s else s) s) s
        let s := dst.foldl (fun s a =>
          let s := (s.recall (lineOf a) 8 false).backInvalidate [a, a + 64]
          let s := (List.range 8).foldl (fun s d => s.dropL1 d (lineOf a)) s
          s.setHub { s.hub with neve := s.hub.neve.del (lineOf a) }) s
        .next { s with seracs := s.seracs.map fun y => if y.id = op then { y with forked := true } else y }

/-- Writes the destination row of a step: each line as one event with its tag (R228, R94); lines made from poison are poisoned,
and a row whose pseudo-channel is fenced stays (R359; DEDUCED, log 31; DEDUCED, log 42). -/
def State.writeRow (s : State) (x : Serac) (i : Nat) (bs : List Byte) (bad : Nat → Bool) : State :=
  let d := x.dRow i
  if s.discards d then s
  else
    let s := s.setBytes d bs
    (List.range 8).foldl (fun s k =>
      let a := d + 128 * k
      let tag : Word := match x.op with
        | .cpy => if x.aTagged.getD i false then s.tag ((x.reads i).headD 0 + 128 * k) else 0
        | .fil => 0
        | _ => tagOf 0x8000 0x8000 0x8000 0x8000
      let s := if x.dTagged.getD (if x.op = .rdx then 0 else i) false then s.setTag a tag else s
      ((s.setPoison (lineOf a) (bad k)).backInvalidate [a, a + 64]).strike [a, a + 32, a + 64, a + 96]) s

/-- The bytes that an operation subtracts (R228). -/
def Serac.total (x : Serac) : Nat := x.dRows.length * rowLen

/-- SERAC_JOIN (R228, R229): the floe's counters increase and the destination bytes are subtracted in one event; the ranges are
no longer busy. -/
def execSeracJoin (op : Nat) (s : State) : Out :=
  match s.seracs.find? fun x => x.id == op with
  | none => .fault .noObject
  | some x =>
    if !x.forked || !x.todo.isEmpty then .fault .notDue
    else
      let left := s.seracs.filter fun y => y.id != op
      .next (s.orWaits (({ s with seracs := left } : State).aim x.pack (.sub x.bar x.total)) fun s =>
        let count (f : Floe) : Floe := { f with rowstat := Vector.ofFn fun k => f.rowstat[k] + x.paths[k] }
        match s.packOf x.pack with
        | some (key, _) => s.eachFloe key fun f => if f.findex = x.findex then count f else f
        | none => s)

end Sys2Proof.Machine
end

