-- ==== Sys2Proof/Machine/Perform.lean ====
section
/-! DEFINITION. The moments of memory accesses (spec 11): which unit may be performed (R244, R245, R253, R261, R267), what it does
(R242, R177 to R189, R253, R281), and how an access whose units are all done takes effect in its floe, or traps (R304). -/

namespace Sys2Proof.Machine
open Sys2Proof

/-! ### What units touch -/

/-- Whether a unit writes. -/
def Work.isWrite : Work → Bool
  | .load _ => false
  | .ldv _ => false
  | _ => true

/-- The lanes of units of an access; one of every lane stands for all of its lanes (R238). -/
def Acc.lanesIn (a : Acc) (us : List Work) : Mask :=
  let ls := us.flatMap fun u => u.touches.map (·.1)
  if ls.contains 64 then a.lanes else maskWhere fun l => ls.contains l

/-- Whether two touches share a lane, which 64 does with every lane, and a byte. -/
def touchMeet (x y : Nat × Nat × Nat) : Bool :=
  (x.1 == y.1 || x.1 == 64 || y.1 == 64) && decide (x.2.1 < y.2.1 + y.2.2) && decide (y.2.1 < x.2.1 + x.2.2)

/-- Whether two units of a lane share a byte. -/
def Work.meets (u v : Work) : Bool := u.touches.any fun x => v.touches.any fun y => touchMeet x y

/-- Whether a load takes a lane's own pending store as it stands (R242): both plain, and of one lane
(DESIGN CHOICE, log 19). -/
def Work.forwards (a b : Acc) : Work → Work → Bool
  | .load xs, .store ys =>
    !a.mmio && !b.mmio &&
      xs.all fun x => x.lane != 64 && ys.all fun y => y.src.lane != 64 && !y.also.contains x.lane
  | _, _ => false

/-! ### Preserved order (R244, R245) -/

/-- Whether the later accesses of a lane wait for one of an order, and whether one of an order waits for the earlier ones
(R176, R244). -/
def ordersLater (o : Ord3) (reads : Bool) : Bool := o == .sc || (o != .rlx && reads)
def ordersEarlier (o : Ord3) (writes : Bool) : Bool := o == .sc || (o != .rlx && writes)

/-- The same of accesses. -/
def Acc.first (b : Acc) : Bool := ordersLater b.order b.reads
def Acc.last (a : Acc) : Bool := ordersEarlier a.order a.writes

/-- The scopes, by their codes, in which a unit of a follows an earlier access b of common lanes m by the orders of the two and
the fences between them (R244, R245); MMIO keeps each lane's order at every agent (R253; DEDUCED, log 5). -/
def State.orders (s : State) (a b : Acc) (m : Mask) : List Nat :=
  let fence (f : FenceRec) : Bool :=
    f.floe == a.floe && f.seq == a.seq && decide (b.number < f.number) && decide (f.number < a.number) && f.lanes &&& m != 0 &&
      (f.sc || b.reads || a.writes)
  if m = 0 then []
  else
    (if b.first then [scopeCode b.scope] else []) ++ (if a.last then [scopeCode a.scope] else []) ++
      (s.fences.filter fence).map (fun f => scopeCode f.scope) ++ if a.mmio && b.mmio then [5] else []

/-- The scope that every agent stands in (R17). -/
def wideScope : Nat := 5

/-- How a unit of a follows an earlier access b of its floe, by the widest scope in which it does (R244, R246): where they share
bytes, for every agent; none where they may be performed in either order (DEDUCED, log 5; DESIGN CHOICE, log 19). -/
def State.tie (s : State) (a b : Acc) (u : Work) : Option Nat :=
  let shared := b.todo.any fun v => u.meets v && !(Work.forwards a b u v && !s.hub.versioned (v.bytes.headD 0))
  if shared then some wideScope
  else
    match s.orders a b (a.lanesIn [u] &&& b.lanesIn b.todo) with
    | [] => none
    | n :: ns => some (ns.foldl max n)

/-- The earlier accesses of its floe that a unit follows, each with the scope (DEDUCED, log 5). -/
def State.ties (s : State) (a : Acc) (u : Work) : List (Nat × Nat) :=
  s.pend.filterMap fun e =>
    if e.2.floe == a.floe && e.2.seq == a.seq && decide (e.1 < a.number) then (s.tie a e.2 u).map fun n => (e.1, n) else none

/-- Whether a unit may be performed ahead of an earlier access that it follows in a narrow scope only (R246): agents inside the
scope will not meet its lines before that is performed, so none that issued before that, and no write that has arrived, does
(DEDUCED, log 5). -/
def State.mayBeEarly (s : State) (a : Acc) (u : Work) (tie : Nat × Nat) : Bool :=
  decide (tie.2 < wideScope) &&
    (!s.claims.any fun y => decide (y.id < tie.1) && y.lines.any u.lines.contains) &&
    u.lines.all fun ln => (s.queueAt ln).all fun w => match w with
      | .unit id _ => id == a.number
      | _ => false

/-- Whether an earlier access of its run may still trap: until then an access writes nothing (R304). -/
def State.unsure (s : State) (a : Acc) : Bool :=
  s.pend.any fun e => e.2.floe == a.floe && e.2.seq == a.seq && e.2.run == a.run && decide (e.1 < a.number) && e.2.snap.isSome

/-- Whether a unit must wait: for earlier accesses of its floe by the preserved order (R244 to R246) or by their checks (R304), or
at its lines (R267; DESIGN CHOICE, log 19). -/
def State.held (s : State) (a : Acc) (u : Work) : Bool :=
  (u.isWrite && s.unsure a) || (s.ties a u).any (fun t => !s.mayBeEarly a u t) || s.lineHeld a.number a.born (.core (coreOf a.floe)) u.isWrite u.lines

/-- Records that a unit is performed ahead of the earlier accesses that it follows; records of accesses that are performed go
(DEDUCED, log 5). -/
def State.noteEarly (s : State) (a : Acc) (u : Work) : State :=
  let new : List Early := (s.ties a u).map fun t => ⟨coreOf a.floe, t.2, t.1, u.isWrite, u.lines⟩
  if new.isEmpty && s.early.isEmpty then s
  else { s with early := (s.early ++ new).filter fun e => (s.pend.find? e.before).isSome }

/-! ### What a load sees (R242) -/

/-- The bytes that a lane's own pending plain stores hold for addresses of a span, oldest store first. -/
def State.ownBytes (s : State) (a : Acc) (x : Span) : List (Nat × Byte × Bound) :=
  if x.lane = 64 ∨ a.mmio then [] else
  s.pend.flatMap fun e =>
    let b := e.2
    if b.floe == a.floe && b.seq == a.seq && decide (b.number < a.number) && !b.mmio then
      b.todo.flatMap fun v => match v with
        | .store ys => (ys.filter fun y => y.src.lane == x.lane).flatMap fun y =>
            y.bytes.filter fun w => decide (x.pa ≤ w.1) && decide (w.1 < x.pa + x.n) && !s.hub.versioned w.1
        | _ => []
    else []

/-- The tagged bytes that a unit stores, with their bounds (R87). -/
def Work.tagged : Work → List (Nat × Bound)
  | .store ys => (ys.filter (·.src.tagged)).flatMap fun y => y.bytes.map fun e => (e.1, e.2.2)
  | _ => []

/-- Whether a unit stores bytes of a lane in a span. -/
def Work.feeds (x : Span) : Work → Bool
  | .store ys => ys.any fun y => y.src.lane == x.lane && y.bytes.any fun w => decide (x.pa ≤ w.1) && decide (w.1 < x.pa + x.n)
  | _ => false

/-- The bound tags as they will stand once the pending stores that a load of a span takes bytes from are performed, each unit
whole and in turn (R87, R242; DESIGN CHOICE, log 19). -/
def State.tagsAfter (s : State) (a : Acc) (x : Span) : State :=
  let mine := List.filter (fun e => e.2.floe == a.floe && e.2.seq == a.seq && decide (e.1 < a.number) && !e.2.mmio) s.pend
  mine.foldl (fun s e =>
    (e.2.todo.foldl (fun (t : State × List (Nat × Bound)) u =>
      if u.feeds x then (t.1.mergeTags u.tagged t.2, t.2 ++ u.tagged) else t) (s, e.2.wrote)).1) s

/-- The bytes of plain memory that a load of a span returns: those that the lane's own pending stores hold, with the bounds that
these leave, and the others as they stand (R242; DESIGN CHOICE, log 19). -/
def State.viewOf (s : State) (a : Acc) (x : Span) : List (Byte × Bound) :=
  let w := s.ownBytes a x
  let now := s.physLoad x.pa x.n x.tagged
  if w.isEmpty then now
  else
    let t := s.tagsAfter a x
    now.zipIdx.map fun e =>
      match (w.filter fun y => y.1 == x.pa + e.2).getLast? with
      | some y => (y.2.1, if x.tagged then t.byteBound y.1 else 0)
      | none => e.1

/-- What a load of a span returns, none where its line reads as poison (R177, R253, R354). -/
def State.loadSpan (s : State) (a : Acc) (x : Span) : Option (List (Byte × Bound)) :=
  if kindOf x.pa = 3 then some ((s.mmioBytes x.pa x.n).map fun b => (b, 0))
  else if (if x.level == .near || x.level == .mid then s.poisonedAt (dieOf (coreOf a.floe)) x.pa else s.poisoned x.pa) then none
  else some (s.viewOf a x)

/-! ### Performing units -/

/-- The line of a virtual address. -/
def lineVa (va : Word) : Word := va &&& ~~~(0x7F : Word)

/-- An access of a floe has dropped a bound: the floe's BSTICKY has LOST, also where the access, of which lanes are performed
(R252), or a later one would restore the floe (R85, R88, R304). -/
def State.loseBound (s : State) (a : Acc) : State :=
  s.lateSys a.floe a.seq a.number (some a.run) fun y => { y with bsticky := y.bsticky ||| stickyLOST }

/-- A lane of an atomic at its moment (R184, R88, R374): what it returns, none for poison, and the state it leaves. -/
def State.atomicLane (s : State) (a : Acc) (f : AFun) (ty : ATy) (dnan : Bool) (x : AtLane) :
    State × Option (List (Byte × Bound)) :=
  let n := atBytes ty
  let s := s.noteUnclaimed x.pa
  if s.poisoned x.pa then (s, none)
  else
    let bs := s.physLoad x.pa n x.tagged
    let old := leNat (bs.map (·.1))
    let oldB := if x.tagged then s.tagBound x.pa n else 0
    match atomApply f ty dnan old oldB x.x x.y x.xb x.yb with
    | none => (s, some bs)
    | some (v, b) =>
      let core := coreOf a.floe
      let s := s.physStore core core .far x.tagged ((natLe n v).zipIdx.map fun e => (x.pa + e.2, e.1, b))
      let lost := a.sticky && !x.tagged && b != 0
      (if lost then s.loseBound a else s, some bs)

/-- The group that LDV and RECON write: value, count with the generation, epoch (R186, R188). -/
def groupBytes (v : Word) (count gen epoch : Nat) : List (Byte × Bound) :=
  (natLe 8 v.toNat ++ natLe 4 (count + 256 * gen) ++ natLe 4 epoch).map fun b => (b, 0)

/-- The stores of an STV at one line, in lane order (R187). -/
def stvStores (core : Nat) (ls : List CellLane) : List CellStore :=
  ls.map fun l => ⟨l.pa / 8 % 16, (natLe 8 l.value.toNat).zipIdx.map fun e => (e.2, e.1), core, l.gen.toNat, l.epoch.toNat⟩

/-- The cell stores of a unit, each with the address of its line and its cell's virtual address. -/
def Work.cellStores (h : Hub) (core : Nat) : Work → List (Nat × CellStore × Word)
  | .store ys =>
    ys.flatMap fun y =>
      let w := y.bytes.filter fun e => h.versioned e.1
      ((w.map fun e => e.1 / 8).eraseDups).map fun c =>
        (8 * c / 128 * 128,
          ⟨c % 16, (w.filter fun e => e.1 / 8 == c).map fun e => (e.1 % 8, e.2.1), core, 0, 0⟩,
          (y.src.va + BitVec.ofNat 64 (8 * c) - BitVec.ofNat 64 y.src.pa) &&& ~~~(7 : Word))
  | .stv ls => (stvStores core ls).zip ls |>.map fun e => (e.2.pa / 128 * 128, e.1, e.2.va)
  | _ => []

/-- The cell stores of a unit, lane by lane, as one event of each line (R189, R277, R281). -/
def State.storeCells (s : State) (core : Nat) (u : Work) : State :=
  let xs := (u.cellStores s.hub core).filter fun e => !s.discards e.1
  ((xs.map (·.1)).eraseDups).foldl (fun s ln => s.mstore ln ((xs.filter fun e => e.1 == ln).map (·.2.1))) s

/-- One RECON at a line, lane by lane (R188). -/
def State.reconLanes (s : State) (core : Nat) (op : ReconOp) (dnan : Bool) (ls : List CellLane) :
    State × List (Nat × List (Byte × Bound)) :=
  match ls with
  | [] => (s, [])
  | l :: _ =>
    let m0 := readMLine s l.pa
    let r := ls.foldl (fun (acc : MLine × List (Nat × List (Byte × Bound))) x =>
      let (m, v) := acc.1.recon op dnan (x.pa / 8 % 16) core
      (m, acc.2 ++ [(x.lane, groupBytes v 1 m.gen m.epoch)])) (m0, [])
    (s.putMLine l.pa r.1, r.2)

/-- Performs one unit (R239): the state, what it returns by lane and offset, and the lanes that met poison with their line's
address. -/
def State.perform (s : State) (a : Acc) : Work → State × List (Nat × Nat × List (Byte × Bound)) × List (Nat × Word)
  | .load xs =>
    let core := coreOf a.floe
    let got := xs.map fun x => (x, s.loadSpan a x)
    let s := xs.foldl (fun s x => (s.noteUnclaimed x.pa).cacheLoads core x.level [x.pa]) s
    (s, got.filterMap (fun e => e.2.map fun bs => (e.1.lane, e.1.k, bs)),
      got.filterMap fun e => if e.2.isNone then some (e.1.lane, lineVa e.1.va) else none)
  | .store ys =>
    let core := coreOf a.floe
    match ys with
    | [] => (s, [], [])
    | y :: _ =>
      if kindOf y.src.pa = 3 then
        (ys.foldl (fun s z => if z.bytes.isEmpty then s else s.mmioStore z.src.pa (z.bytes.map (·.2.1))) s, [], [])
      else if s.hub.versioned y.src.pa then ((s.storeCells core (.store ys)).wroteAt core .far ((ys.flatMap (·.bytes)).map (·.1)), [], [])
      else (s.physStore core core y.src.level y.src.tagged (ys.flatMap (·.bytes)) a.wrote, [], [])
  | .atomic f ty dnan ls =>
    ls.foldl (fun (acc : State × List (Nat × Nat × List (Byte × Bound)) × List (Nat × Word)) x =>
      match acc.1.atomicLane a f ty dnan x with
      | (s, some bs) => (s, acc.2.1 ++ [(x.lane, 0, bs)], acc.2.2)
      | (s, none) => (s, acc.2.1, acc.2.2 ++ [(x.lane, lineVa x.va)])) (s, [], [])
  | .ldv l =>
    if s.badLine l.pa then (s, [], [(l.lane, lineVa l.va)])
    else
      let (v, c, g, e) := s.mread l.pa l.index.toNat
      (s, [(l.lane, 0, groupBytes v c g e)], [])
  | .stv ls =>
    match ls with
    | [] => (s, [], [])
    | l :: _ => ((s.mstore l.pa (stvStores (coreOf a.floe) ls)).wroteAt (coreOf a.floe) .far [l.pa], [], [])
  | .recon op dnan ls =>
    match ls with
    | [] => (s, [], [])
    | l :: _ =>
      if s.badLine l.pa then (s, [], ls.map fun x => (x.lane, lineVa x.va))
      else
        let (s, got) := s.reconLanes (coreOf a.floe) op dnan ls
        (s.wroteAt (coreOf a.floe) .far [l.pa], got.map fun e => (e.1, 0, e.2), [])

/-! ### Overflow of sibling limits (R281) -/

/-- With FOLD = 0, the first cell store of an access that may trap that would exceed a limit: the cell's address and the limit
code (R281; DESIGN CHOICE, log 19). -/
def State.overflow (s : State) (a : Acc) : Option (Word × Nat) :=
  if s.hub.fold || a.snap.isNone then none
  else
    let xs := a.todo.flatMap (Work.cellStores s.hub (coreOf a.floe))
    let lines := (xs.map (·.1)).eraseDups
    lines.findSome? fun ln =>
      let mine := xs.filter fun e => e.1 == ln
      match (readMLine s ln).firstOver (reconOf s.hub.defop) (mine.map (·.2.1)) with
      | some (c, k) => (mine.find? fun e => e.2.1 == c).map fun e => (e.2.2, k)
      | none => none

/-! ### Taking effect in the floe (R28, R304) -/

/-- The bytes that a lane has loaded, from offset 0. -/
def Acc.datum (a : Acc) (lane : Nat) : List (Byte × Bound) :=
  let t := (a.got.filter fun e => e.1 == lane).foldl (fun (t : Tbl (Byte × Bound)) e =>
    e.2.2.zipIdx.foldl (fun t b => Tbl.put t (e.2.1 + b.2) b.1) t) []
  let n := t.foldl (fun m e => max m (e.1 + 1)) 0
  (List.range n).map fun k => t.getD k (0, 0)

/-- The registers that a completed access writes. -/
def Acc.deliver (a : Acc) (f : Floe) (r : Run) : Floe × Run :=
  match a.dest with
  | .vec sz d =>
    let m := maskWhere fun l => a.got.any fun e => e.1 == l
    putLoad (f, r) a.number sz d m a.datum
  | .uni sz d => writeS f r a.number d.toNat (uniWord sz (a.datum 64))
  | .frload => loadRec f r a.number ((a.datum 64).map (·.1))
  | _ => (f, r)

/-- The same for a floe whose run is still the access's. -/
def Acc.deliverTo (a : Acc) (f : Floe) : Floe :=
  match f.run with
  | some r =>
    let (f, r) := a.deliver f r
    { f with run := some r }
  | none => f

/-- The tiles and accumulators that a completed access writes (R206, R212, R213, R216). -/
def Acc.deliverCore (a : Acc) (ctx : BitVec 8) (c : Core) : Core :=
  match a.dest with
  | .tile phys n rows => c.loadTile phys a.run n (cutRows n rows (a.datum 64))
  | .keyed phys key coords =>
    let k := keyOf key
    let t := (a.got : List (Nat × Nat × List (Byte × Bound))).foldl (fun (t : Tbl (Byte × Bound)) e =>
      e.2.2.zipIdx.foldl (fun t b => Tbl.put t (e.2.1 + b.2) b.1) t) []
    let rows := k.tileRows coords fun va => t.getD va.toNat (0, 0)
    c.loadTile phys a.run ((rows.headD ([], 0)).1.length) rows
  | .acc phys _ _ => c.loadAcc phys a.run ctx (a.datum 64)
  | .fill phys m32 ncode => c.fillAcc phys a.run m32 ncode ((a.datum 64).map (·.1))
  | _ => c

/-- A completed access takes effect: in the core and the floe, and in the floe as later pending accesses would restore it
(DESIGN CHOICE, log 19). -/
def State.commit (s : State) (a : Acc) : State :=
  let s := { s with pend := s.pend.del a.number }
  match s.floes.find? a.floe with
  | none => s
  | some f =>
    if f.seq ≠ a.seq then s
    else
      let core := coreOf a.floe
      let s := (s.setCore core (a.deliverCore f.ctx (s.core core))).setFloe a.floe (a.deliverTo f)
      let later (e : Nat × Acc) : Nat × Acc :=
        if e.2.floe = a.floe ∧ e.2.seq = a.seq then (e.1, { e.2 with snap := e.2.snap.map a.deliverTo }) else e
      { s with pend := s.pend.map later }

/-- The checkpoint of an access that has performed lanes and traps (R252): a replay does not perform these again
(DESIGN CHOICE, log 19). -/
def Acc.ckpt (a : Acc) : List Ckpt :=
  if a.writes && !a.got.isEmpty then [⟨a.pc, maskWhere fun l => a.got.any fun e => e.1 == l, a.got⟩] else []

/-- A word cause found at an access's performance (R304): the floe is as before the access issued, its later accesses in the run
and the entries that later words parked are gone, and the run ends with the trap (DESIGN CHOICE, log 19). -/
def State.rollback (s : State) (a : Acc) (t : Trap) : State :=
  let gone (e : Nat × Acc) : Bool :=
    e.2.floe == a.floe && e.2.seq == a.seq && e.2.run == a.run && decide (a.number ≤ e.1)
  let s := { s with
    pend := List.filter (fun e => !gone e) s.pend
    fences := s.fences.filter fun x => !(x.floe == a.floe && x.seq == a.seq && decide (a.number < x.number)) }
  match s.floes.find? a.floe, a.snap with
  | some f, some p =>
    match f.run, p.run with
    | some now, some r =>
      let parked := r.mask &&& ~~~now.mask
      let g := { f with
        v := p.v, s := p.s, p := p.p, sys := p.sys, sysPend := p.sysPend, xpc := p.xpc, xcause := p.xcause, xmask := p.xmask,
        xaddr := p.xaddr, xinfo := p.xinfo, deadline := p.deadline, ckpts := p.ckpts ++ a.ckpt, frontier := removeLanes f.frontier parked, run := some { r with ended := true, trap := some t } }
      (s.setFloe a.floe g).unwait a.floe a.seq parked f.handler
    | _, _ => s
  | _, _ => s

/-- The trap of an access that has met poison (R302), or whose record does not pass its check (R237). -/
def Acc.trap (a : Acc) (valloc : Nat) : Option Trap :=
  match a.poison with
  | [] =>
    if a.dest == .frload && !recOk valloc ((a.datum 64).map (·.1)) then some ⟨0x03, a.pc, a.lanes, 0, a.word, false⟩ else none
  | p :: ps =>
    let all := p :: ps
    let m := if all.any fun e => e.1 == 64 then a.lanes else maskWhere fun l => all.any fun e => e.1 == l
    let low := ps.foldl (fun x y => if y.1 < x.1 then y else x) p
    some ⟨0x51, a.pc, m, low.2, a.word, false⟩

/-- Takes effect of the accesses of a floe that are all performed, oldest first; those that may still trap wait for each other. -/
def State.commits (s : State) : Bool → List Nat → State
  | _, [] => s
  | open_, n :: t =>
    match s.pend.find? n with
    | none => s.commits open_ t
    | some a =>
      if a.snap.isNone then (if a.todo.isEmpty then ({ s with pend := s.pend.del n } : State).commits open_ t else s.commits open_ t)
      else if !open_ || !a.todo.isEmpty then s.commits false t
      else
        match a.trap ((s.floes.find? a.floe).elim 0 (·.valloc)) with
        | none => (s.commit a).commits true t
        | some tr => (s.rollback a tr).commits true t

/-- Fences that no pending access precedes order nothing any more. -/
def State.trimFences (s : State) : State :=
  { s with fences := s.fences.filter fun f =>
    s.pend.any fun e => e.2.floe == f.floe && e.2.seq == f.seq && decide (e.1 < f.number) }

/-- Settles the accesses of a floe. -/
def State.settleFloe (s : State) (floe seq : Nat) : State :=
  let ks := (List.filter (fun e => e.2.floe == floe && e.2.seq == seq) s.pend).map (·.1)
  (s.commits true ks).trimFences

/-! ### The events -/

/-- Whether an access returns something to its floe. -/
def Acc.returns (a : Acc) : Bool := a.dest != .none

/-- The lanes of a returning access that writes whose line reads as poison, with the address: it performs no further unit then
(R302, R304; DESIGN CHOICE, log 19). -/
def State.poisonAhead (s : State) (a : Acc) : List (Nat × Word × Nat) :=
  if !a.writes || !a.returns then []
  else
    a.todo.flatMap fun u => match u with
      | .atomic _ _ _ ls => (ls.filter fun x => s.poisoned x.pa).map fun x => (x.lane, lineVa x.va, x.pa)
      | .recon _ _ ls => (ls.filter fun x => s.badLine x.pa).map fun x => (x.lane, lineVa x.va, x.pa)
      | _ => []

/-- Performs units of an access in turn (DEDUCED, log 36). -/
def State.performAll (s : State) (a : Acc) : List Work → State × Acc
  | [] => (s, a)
  | u :: t =>
    let (s, got, bad) := (s.noteEarly a u).perform a u
    s.performAll { a with got := a.got ++ got, wrote := a.wrote ++ u.tagged, poison := a.poison ++ bad } t

/-- Whether an access is checked and performed whole: a store that may trap, since it stores to cells that may not fold (R281;
DESIGN CHOICE, log 19). -/
def Acc.whole (a : Acc) : Bool := a.snap.isSome && !a.returns

/-- The units that one event of unit u performs. -/
def Acc.unitsNow (a : Acc) (u : Work) : List Work := if a.whole then a.todo else [u]

/-- Unit i, or all units, of an access are performed, and what is settled by that settles (DESIGN CHOICE, log 19). -/
def State.performUnit (s : State) (a : Acc) (i : Nat) (u : Work) : State :=
  let put (s : State) (a : Acc) : State := ({ s with pend := s.pend.put a.number a } : State).settleFloe a.floe a.seq
  let ahead := s.poisonAhead a
  if !ahead.isEmpty then
    put (ahead.foldl (fun s e => s.noteUnclaimed e.2.2) s) { a with todo := [], poison := a.poison ++ ahead.map fun e => (e.1, e.2.1) }
  else
    match s.overflow a with
    | some (va, k) => (s.rollback a ⟨0x25, a.pc, a.lanes, va, BitVec.ofNat 64 k, false⟩).settleFloe a.floe a.seq
    | none =>
      let rest := if a.whole then [] else a.todo.eraseIdx i
      let (s, a) := s.performAll a (a.unitsNow u)
      put s { a with todo := rest, snap := (s.pend.find? a.number).bind (·.snap) }

/-- A unit, or with it all of its access, is performed, or waits for leases (R239, R261). -/
def State.serveUnit (s : State) (a : Acc) (unit : Nat) (u : Work) : State :=
  let ws := ((a.unitsNow u).filter Work.isWrite).flatMap Work.bytes
  let w := Writer.unit a.number (ws.headD 0)
  if !s.mayWrite (some w) ws then s.waitWrites w ws else (s.unqueue w).performUnit a unit u

/-- Whether an access that a unit belongs to returns data as an event says, and no order holds it (R244 to R246, R267), nor does it
wait for a request that the core cannot hold yet (R331; DESIGN CHOICE, log 18). -/
def State.unitMay (s : State) (ret : Bool) (a : Acc) (unit : Nat) (u : Work) : Bool :=
  a.returns == ret && decide (unit < requestLimit) && !(a.unitsNow u).any (s.held a)

/-- An event of a unit: held, also by a row step on its bank (R358), waiting for leases, or performed. -/
def unitEvent (ret : Bool) (acc unit : Nat) (s : State) : Out :=
  match s.pend.find? acc with
  | none => .fault .noObject
  | some a =>
    match a.todo[unit]? with
    | none => .fault .noObject
    | some u =>
      let waits := (a.unitsNow u).any fun v => s.bankHeld (coreOf a.floe) v.level v.bytes
      if !s.unitMay ret a unit u || waits then .fault .notDue
      else .next ((if ret then s.takeUpsets else s).serveUnit a unit u)

/-- LOAD_RESPONSE (R242): a unit of a load or of a returning atomic. -/
def execLoadResponse (acc unit : Nat) (s : State) : Out := unitEvent true acc unit s

/-- STORE_PERFORMED (R239): a unit of a store, or of an atomic that returns nothing. -/
def execStorePerformed (acc unit : Nat) (s : State) : Out := unitEvent false acc unit s

end Sys2Proof.Machine
end

