-- ==== Sys2Proof/Machine/Poison.lean ====
section
/-! DEFINITION. Poisoned data in a core's own SRAM (R397): registers, scratchpad quarters, tiles and accumulators that an
uncorrectable error has left poisoned, which words read them and so take POISON (R302), and which words replace them. -/

namespace Sys2Proof.Machine
open Sys2Proof

/-! ### What a word replaces -/

/-- The vector registers that a slot replaces. -/
def slotVput : Slot → List Nat
  | .vmov ty d _ => span (if ty.wide then 2 else 1) d
  | _ => []
/-- The uniform register that a slot replaces. -/
def slotSput : Slot → List Nat
  | .smov d _ => [d.toNat]
  | _ => []

/-- The vector registers whose lanes a word replaces without reading them (R397; DESIGN CHOICE, log 46). -/
def vputs : Instr → List Nat
  | .call _ _ d _ => span 2 d
  | .saddSlot _ _ _ other => slotVput other
  | .ssubSlot _ _ _ other => slotVput other
  | .sandSlot _ _ _ other => slotVput other
  | .sorSlot _ _ _ other => slotVput other
  | .sxorSlot _ _ _ other => slotVput other
  | .smovSlot _ _ _ other => slotVput other
  | .sshlSlot _ _ _ other => slotVput other
  | .sshrSlot _ _ _ other => slotVput other
  | .pandSlot _ _ _ other => slotVput other
  | .porSlot _ _ _ other => slotVput other
  | .pmovSlot _ _ _ other => slotVput other
  | .vadd _ m d _ _ => span (if m.ty.wide then 2 else 1) d
  | .vsub _ m d _ _ => span (if m.ty.wide then 2 else 1) d
  | .vmul _ m d _ _ => span (if m.ty.wide then 2 else 1) d
  | .vmulh _ m d _ _ => span (if m.ty.wide then 2 else 1) d
  | .vmad _ m d _ _ _ => span (if m.ty.wide then 2 else 1) d
  | .vabs _ m d _ => span (if m.ty.wide then 2 else 1) d
  | .vneg _ m d _ => span (if m.ty.wide then 2 else 1) d
  | .vmin _ m d _ _ => span (if m.ty.wide then 2 else 1) d
  | .vmax _ m d _ _ => span (if m.ty.wide then 2 else 1) d
  | .vand _ m d _ _ => span (if m.ty.wide then 2 else 1) d
  | .vor _ m d _ _ => span (if m.ty.wide then 2 else 1) d
  | .vxor _ m d _ _ => span (if m.ty.wide then 2 else 1) d
  | .vnot _ m d _ => span (if m.ty.wide then 2 else 1) d
  | .vshl _ m d _ _ => span (if m.ty.wide then 2 else 1) d
  | .vshr _ m d _ _ => span (if m.ty.wide then 2 else 1) d
  | .vsar _ m d _ _ => span (if m.ty.wide then 2 else 1) d
  | .vclz _ m d _ => span (if m.ty.wide then 2 else 1) d
  | .vpopc _ m d _ => span (if m.ty.wide then 2 else 1) d
  | .vbfe _ m d _ _ => span (if m.ty.wide then 2 else 1) d
  | .vbfi _ m d _ _ _ => span (if m.ty.wide then 2 else 1) d
  | .vsel _ ty d _ _ _ => span (if ty.wide then 2 else 1) d
  | .vmov _ m d _ => span (if m.ty.wide then 2 else 1) d
  | .vmovi _ d _ => span 1 d
  | .fmovi _ d _ => span 1 d
  | .vaddSlot _ _ _ _ other => slotVput other
  | .vsubSlot _ _ _ _ other => slotVput other
  | .vmulSlot _ _ _ _ other => slotVput other
  | .vandSlot _ _ _ _ other => slotVput other
  | .vorSlot _ _ _ _ other => slotVput other
  | .vxorSlot _ _ _ _ other => slotVput other
  | .vminSlot _ _ _ _ other => slotVput other
  | .vmaxSlot _ _ _ _ other => slotVput other
  | .vmovSlot _ ty d _ other => span (if ty.wide then 2 else 1) d ++ slotVput other
  | .vshlSlot _ _ _ _ other => slotVput other
  | .vshrSlot _ _ _ _ other => slotVput other
  | .fadd _ m d _ _ => span (if m.ty.wide then 2 else 1) d
  | .fsub _ m d _ _ => span (if m.ty.wide then 2 else 1) d
  | .fmul _ m d _ _ => span (if m.ty.wide then 2 else 1) d
  | .ffma _ m _ d _ _ _ => span (if m.ty.wide then 2 else 1) d
  | .fmin _ m d _ _ => span (if m.ty.wide then 2 else 1) d
  | .fmax _ m d _ _ => span (if m.ty.wide then 2 else 1) d
  | .fabs _ m d _ => span (if m.ty.wide then 2 else 1) d
  | .fneg _ m d _ => span (if m.ty.wide then 2 else 1) d
  | .fclass _ _ _ d _ => span 1 d
  | .fdiv _ m d _ _ => span (if m.ty.wide then 2 else 1) d
  | .fsqrt _ m d _ => span (if m.ty.wide then 2 else 1) d
  | .frcp _ m d _ => span (if m.ty.wide then 2 else 1) d
  | .frsq _ m d _ => span (if m.ty.wide then 2 else 1) d
  | .fexp2 _ m d _ => span (if m.ty.wide then 2 else 1) d
  | .flog2 _ m d _ => span (if m.ty.wide then 2 else 1) d
  | .fldexp _ m d _ _ => span (if m.ty.wide then 2 else 1) d
  | .frnd _ m d _ => span (if m.ty.wide then 2 else 1) d
  | .faddSlot _ _ _ _ _ other => slotVput other
  | .fsubSlot _ _ _ _ _ other => slotVput other
  | .fmulSlot _ _ _ _ _ other => slotVput other
  | .fminSlot _ _ _ _ _ other => slotVput other
  | .fmaxSlot _ _ _ _ _ other => slotVput other
  | .cvt _ _ dst _ d _ => span (if dst.wide then 2 else 1) d
  | .cvtpk _ _ dst src d _ => span (cvtpkNd dst src) d
  | .mxscale _ _ _ d _ => span 1 d
  | .mxq _ _ _ _ _ _ _ d _ _ => span 1 d
  | .mxdq _ _ _ _ _ d _ _ => span 1 d
  | .vbcst _ w d _ _ => span (if w then 2 else 1) d
  | .vshfl _ w _ d _ _ => span (if w then 2 else 1) d
  | .vrot _ w _ d _ _ => span (if w then 2 else 1) d
  | .vred _ ty _ _ d _ => span (if ty.wide then 2 else 1) d
  | .vscan _ ty _ _ d _ => span (if ty.wide then 2 else 1) d
  | .vlane _ _ d => span 1 d
  | .bget _ _ d _ => span 1 d
  | .bmaxr _ w d _ _ => span (if w then 2 else 1) d
  | .ld _ _ sz d => span (szSpan sz) d
  | .lds _ _ sz d => span (szSpan sz) d
  | .ldv _ _ d => span 4 d
  | .accmov _ d _ _ => span 1 d
  | .accbnd _ d _ => span 1 d
  | _ => []

/-- The uniform registers that a word replaces without reading them (R397; DESIGN CHOICE, log 46). -/
def sputs : Instr → List Nat
  | .sadd _ _ d _ _ => sspan 1 d
  | .ssub _ _ d _ _ => sspan 1 d
  | .smul _ _ d _ _ => sspan 1 d
  | .smulh _ _ d _ _ => sspan 1 d
  | .smad _ _ d _ _ _ => sspan 1 d
  | .sand _ _ d _ _ => sspan 1 d
  | .sor _ _ d _ _ => sspan 1 d
  | .sxor _ _ d _ _ => sspan 1 d
  | .snot _ _ d _ => sspan 1 d
  | .sshl _ _ d _ _ => sspan 1 d
  | .sshr _ _ d _ _ => sspan 1 d
  | .ssar _ _ d _ _ => sspan 1 d
  | .smin _ _ d _ _ => sspan 1 d
  | .smax _ _ d _ _ => sspan 1 d
  | .ssel _ _ d _ _ _ => sspan 1 d
  | .smov _ _ d _ => sspan 1 d
  | .sclz _ _ d _ => sspan 1 d
  | .spopc _ _ d _ => sspan 1 d
  | .sbfe _ _ d _ _ => sspan 1 d
  | .smovi _ d _ => sspan 1 d
  | .saddSlot _ _ _ other => slotSput other
  | .ssubSlot _ _ _ other => slotSput other
  | .sandSlot _ _ _ other => slotSput other
  | .sorSlot _ _ _ other => slotSput other
  | .sxorSlot _ _ _ other => slotSput other
  | .smovSlot _ d _ other => sspan 1 d ++ slotSput other
  | .sshlSlot _ _ _ other => slotSput other
  | .sshrSlot _ _ _ other => slotSput other
  | .pget _ d _ => sspan 1 d
  | .ppopc _ d _ => sspan 1 d
  | .pfirst _ d _ => sspan 1 d
  | .pandSlot _ _ _ other => slotSput other
  | .porSlot _ _ _ other => slotSput other
  | .pmovSlot _ _ _ other => slotSput other
  | .vaddSlot _ _ _ _ other => slotSput other
  | .vsubSlot _ _ _ _ other => slotSput other
  | .vmulSlot _ _ _ _ other => slotSput other
  | .vandSlot _ _ _ _ other => slotSput other
  | .vorSlot _ _ _ _ other => slotSput other
  | .vxorSlot _ _ _ _ other => slotSput other
  | .vminSlot _ _ _ _ other => slotSput other
  | .vmaxSlot _ _ _ _ other => slotSput other
  | .vmovSlot _ _ _ _ other => slotSput other
  | .vshlSlot _ _ _ _ other => slotSput other
  | .vshrSlot _ _ _ _ other => slotSput other
  | .faddSlot _ _ _ _ _ other => slotSput other
  | .fsubSlot _ _ _ _ _ other => slotSput other
  | .fmulSlot _ _ _ _ _ other => slotSput other
  | .fminSlot _ _ _ _ _ other => slotSput other
  | .fmaxSlot _ _ _ _ _ other => slotSput other
  | .vrfl _ _ d _ => sspan 1 d
  | .vrln _ _ d _ _ => sspan 1 d
  | .ldu _ _ _ d => sspan 1 d
  | .bartest _ d _ _ => sspan 1 d
  | .keycut _ d _ _ => sspan 1 d
  | .keyq _ d _ => sspan 1 d
  | .cpystat _ d _ => sspan 1 d
  | .rowstat _ d _ => sspan 1 d
  | .mfsr _ d _ => sspan 1 d
  | .firnrd _ d => sspan 1 d
  | _ => []

/-- A list with one occurrence less of each entry of another. -/
def lessOnce (xs ys : List Nat) : List Nat := ys.foldl (fun l y => l.erase y) xs

/-- Whether a word is FRSAVE, which reads the vector registers and predicates of its floe whole (R237, R313). -/
def isSave : Instr → Bool
  | .frsave _ _ => true
  | _ => false

/-- Whether what is wrong is the data of a uniform register. -/
def Resid.isS (x : Resid) : Bool := decide (1024 ≤ x.reg) && decide (x.reg < 1152)

/-- The vector registers of which a word reads the lanes: those it names, but for the ones it only replaces, and those of which it
writes a lane or the bounds alone. -/
def vgets (i : Instr) : List Nat :=
  match i with
  | .bset _ _ _ a => span 1 a
  | .vwln .. | .bclr .. | .bunb .. => []
  | _ => lessOnce (vregs i) (vputs i)

/-- The uniform registers that a word reads. -/
def sgets (i : Instr) : List Nat := lessOnce (sregs i) (sputs i)

/-- The predicates of a slot that it reads, lane by lane. -/
def slotPget : Slot → List Nat
  | .pand d a | .por d a => [d.toNat, a.toNat]
  | .pmov _ a => [a.toNat]
  | _ => []
/-- The predicates of which a word reads the lanes of ACTIVE, beside its guard. -/
def pgets : Instr → List Nat
  | .brc _ _ p _ | .vsel _ _ _ _ _ p => [p.toNat]
  | .pand _ _ a b | .por _ _ a b | .pxor _ _ a b | .pandn _ _ a b => [a.toNat, b.toNat]
  | .pnot _ _ a | .pmov _ _ a | .vvote _ _ _ a => [a.toNat]
  | .pandSlot _ d a y | .porSlot _ d a y => [d.toNat, a.toNat] ++ slotPget y
  | .pmovSlot _ _ a y => a.toNat :: slotPget y
  | .vaddSlot _ _ _ _ y | .vsubSlot _ _ _ _ y | .vmulSlot _ _ _ _ y | .vandSlot _ _ _ _ y | .vorSlot _ _ _ _ y
  | .vxorSlot _ _ _ _ y | .vminSlot _ _ _ _ y | .vmaxSlot _ _ _ _ y | .vmovSlot _ _ _ _ y | .vshlSlot _ _ _ _ y
  | .vshrSlot _ _ _ _ y => slotPget y
  | .faddSlot _ _ _ _ _ y | .fsubSlot _ _ _ _ _ y | .fmulSlot _ _ _ _ _ y | .fminSlot _ _ _ _ _ y
  | .fmaxSlot _ _ _ _ _ y => slotPget y
  | .saddSlot _ _ _ y | .ssubSlot _ _ _ y | .sandSlot _ _ _ y | .sorSlot _ _ _ y | .sxorSlot _ _ _ y | .smovSlot _ _ _ y
  | .sshlSlot _ _ _ y | .sshrSlot _ _ _ y => slotPget y
  | _ => []
/-- The predicates that a word reads whole. -/
def pwhole : Instr → List Nat
  | .pget _ _ a | .ppopc _ _ a | .pfirst _ _ a | .bararr _ a _ _ | .bardrop _ a _ _ | .sbar _ _ _ a | .jsign _ _ a => [a.toNat]
  | _ => []
/-- The predicate of which a word replaces the lanes of ACTIVE. -/
def pputs : Instr → List Nat
  | .scmp _ _ _ p _ _ | .scmpi _ _ p _ _ | .vcmp _ _ _ p _ _ | .fcmp _ _ _ _ p _ _ | .bchk _ _ _ p _ => [p.toNat]
  | .pand _ d _ _ | .por _ d _ _ | .pxor _ d _ _ | .pandn _ d _ _ => [d.toNat]
  | .pnot _ d _ | .pmov _ d _ | .pset _ d _ | .vvote _ _ d _ | .pmovSlot _ d _ _ => [d.toNat]
  | _ => []

/-- The tiles that a word reads (R206, R208). -/
def tgets (c : Ctx) (p : Pack) : Instr → List Nat
  | .tst _ _ d => [d.toNat]
  | .mma _ _ _ _ a b _ =>
    let scale (t : TReg) : List Nat :=
      let w := p.shape c.num t.toNat
      if 4 ≤ shFmt w ∧ shFmt w ≤ 8 then [shScale w] else []
    [a.toNat, b.toNat] ++ scale a ++ scale b
  | _ => []
/-- The tile that a word replaces. -/
def tputs : Instr → List Nat
  | .tzero _ d => [d.toNat]
  | .tld _ _ d => [d.toNat]
  | .tldk _ _ d => [d.toNat]
  | _ => []
/-- The accumulator that a word replaces. -/
def aputs : Instr → List Nat
  | .accz _ d => [d.toNat]
  | .accfill _ _ _ d _ => [d.toNat]
  | .accld _ _ d => [d.toNat]
  | _ => []
/-- The accumulators that a word reads. -/
def agets : Instr → List Nat
  | .mma _ _ _ d _ _ _ => [d.toNat]
  | .accmov _ _ a _ => [a.toNat]
  | .accbnd _ _ a => [a.toNat]
  | .accspill _ a _ => [a.toNat]
  | .accst _ _ d => [d.toNat]
  | .accstAdd _ _ d => [d.toNat]
  | _ => []

/-- What a word reads of its pack's scratchpad: lane, or 64 for every lane of ACTIVE, offset, alignment and bytes (R180, R194,
R205, R212, R215, R223). -/
def Ctx.padGets (c : Ctx) : Instr → List (Nat × Nat × Nat × Nat)
  | .lds _ m sz _ => lanes m (szBytes sz)
  | .atomsAdd _ m ty _ _ => lanes m (atBytes ty)
  | .atomsSub _ m ty _ _ => lanes m (atBytes ty)
  | .atomsMin _ m ty _ _ => lanes m (atBytes ty)
  | .atomsMax _ m ty _ _ => lanes m (atBytes ty)
  | .atomsAnd _ m ty _ _ => lanes m (atBytes ty)
  | .atomsOr _ m ty _ _ => lanes m (atBytes ty)
  | .atomsXor _ m ty _ _ => lanes m (atBytes ty)
  | .atomsXchg _ m ty _ _ => lanes m (atBytes ty)
  | .atomsCas _ m ty _ _ => lanes m (atBytes ty)
  | .tld _ m d =>
    let w := (c.pack?.map fun p => p.shape c.num d.toNat).getD 0
    if ctlSp (c.pairCtl m) && bitsAt (c.pairCtl m).toNat 48 15 == 0 && shV w then
      (tileRowsAt (c.pairBase m) (c.pairCtl m) (shRows w)).map fun a => (64, a.toNat, tileAlign w, shBytes w)
    else []
  | .accld _ m d => acc m d
  | .accstAdd _ m d => acc m d
  | .keycut _ _ sa off => all sa off 16 96
  | .bararr _ _ sa off => all sa off 16 16
  | .barexp _ _ sa off => all sa off 16 16
  | .barwait _ _ sa off => all sa off 16 16
  | .bartest _ _ sa off => all sa off 16 16
  | .bardrop _ _ sa off => all sa off 16 16
  | .cpykick _ _ _ d sa off => all sa off 64 (64 * (c.sr .d d).toNat)
  | _ => []
where
  lanes (m : MemOp) (n : Nat) : List (Nat × Nat × Nat × Nat) := (c.addrs m).map fun e => (e.1, e.2.toNat, n, n)
  all (sa : SReg) (off : BitVec 13) (align n : Nat) : List (Nat × Nat × Nat × Nat) := [(64, (c.addr1 sa off).toNat, align, n)]
  acc (m : MemOp) (d : AReg) : List (Nat × Nat × Nat × Nat) :=
    let n := 4 * (c.accAt d).2.m * (c.accAt d).2.n
    if ctlSp (c.pairCtl m) then [(64, (c.pairBase m).toNat, n, n)] else []

/-- A word's header (R95). -/
def wordHdr (w : Word) : Hdr :=
  match bitsAt w.toNat 61 2 with
  | 0 => (FWord.unpack w).hdr
  | 1 => slotHdr (bitAt w 63)
  | 2 => (IWord.unpack w).hdr
  | _ => (MWord.unpack w).hdr

/-- The lanes of a word that read poisoned data of the core's own SRAM, with the scratchpad line of the lowest where it is there:
of a word that passes its operand checks and whose scratchpad accesses are aligned and in range (R106, R302, R397;
DESIGN CHOICE, log 46). -/
def Ctx.poisoned (c : Ctx) (i : Instr) : Option (Mask × Word) :=
  match c.pack? with
  | none => none
  | some p =>
    let core := c.s.core c.core
    let regs := c.f.resids.filter (·.poison)
    let guard := maskWhere fun l => has c.r.mask l && regs.any fun x => x.lane == l && x.reg == 1152 + (wordHdr c.word).gp.toNat
    let mine := maskWhere fun l => has c.act l && regs.any fun x =>
      x.lane == l && ((vgets i).contains x.reg || (decide (1152 ≤ x.reg) && (pgets i).contains (x.reg - 1152)))
    let whole := regs.any (fun x => x.isS && (sgets i).contains (x.reg - 1024) ||
        decide (1152 ≤ x.reg) && (pwhole i).contains (x.reg - 1152) || isSave i && (decide (x.reg < c.f.valloc) || decide (1152 ≤ x.reg))) ||
      (tgets c p i).any (fun t => core.bad.contains (.tile (p.tiles.getD t 16))) ||
      (agets i).any fun a => core.bad.contains (.acc (p.accs.getD a 8))
    let pads := if core.bad.isEmpty then [] else c.padGets i
    let bad (x : Nat × Nat × Nat × Nat) : Bool :=
      (List.range x.2.2.2).any fun k => core.bad.contains (.quarter (padAddr p.banks (x.2.1 + k) / 32))
    let hits := if pads.all fun x => x.2.1 % x.2.2.1 == 0 && p.inPad x.2.1 x.2.2.2 then pads.filter bad else []
    if guard ≠ 0 then some (guard, 0)
    else if c.act = 0 || !operandsOk c.s c.f i then none
    else if whole then some (c.act, 0)
    else if mine ≠ 0 then some (mine, 0)
    else hits.head?.map fun x =>
      (if x.1 = 64 then c.act else maskWhere fun l => hits.any fun y => y.1 == l, BitVec.ofNat 64 (x.2.1 / 128 * 128))

/-- Poison ends where a word has replaced the data, in the lanes of ACTIVE that it has not parked (R397; DESIGN CHOICE, log 46). -/
def Ctx.replaced (c : Ctx) (act : Mask) (i : Instr) : State :=
  let gone (x : Resid) : Bool :=
    x.poison && ((has act x.lane && ((vputs i).contains x.reg || (decide (1152 ≤ x.reg) && (pputs i).contains (x.reg - 1152)))) ||
      (x.isS && (sputs i).contains (x.reg - 1024)))
  let s := c.s.modFloe c.key fun f => { f with resids := f.resids.filter fun x => !gone x }
  match c.pack? with
  | none => s
  | some p =>
    let core := s.core c.core
    if act = 0 then s
    else
      s.setCore c.core { core with bad := core.bad.filter fun x => match x with
        | .tile n => !(tputs i).any fun t => p.tiles.getD t 16 == n
        | .acc n => !(aputs i).any fun a => p.accs.getD a 8 == n
        | .quarter _ => true }

/-- Whether the word of a floe has failed a check of R106, which comes before its operands are read. -/
def Floe.failedCheck (f : Floe) : Bool :=
  (f.run.bind (·.trap)).any fun t => decide (1 ≤ t.cause.toNat) && decide (t.cause.toNat ≤ 5)

/-- What a word that leads from one state to another comes to where data of the core's own SRAM is poisoned: unless it fails a
check of R106, it takes POISON where it reads some (R302, R397); where it goes on, what it replaces is no longer poisoned. -/
def State.afterWord (s : State) (i : Instr) (t : State) : State :=
  match context s (wordHdr ((s.issuing.map (·.word)).getD 0)) with
  | .error _ => t
  | .ok c =>
    if c.f.resids.isEmpty && (s.core c.core).bad.isEmpty then t
    else
      match t.floes.find? c.key with
      | none => t
      | some f =>
        if f.failedCheck then t
        else
          match c.poisoned i with
          | some (m, a) => trapWord c 0x51 m a c.word false
          | none =>
            match f.run with
            | some r => if r.trap.isSome then t else ({ c with s := t } : Ctx).replaced (c.act &&& r.mask) i
            | none => t

end Sys2Proof.Machine
end

