-- ==== Sys2Proof/Machine/Issue.lean ====
section
/-! DEFINITION. What issues (R22, R27, R290 to R294): the pipe and occupancy of a word, the words that wait at issue (R207, R304,
R319, R331), the choice of a partition clock, and how a word is fetched and begins (R106, R309, R341, R396). -/

namespace Sys2Proof.Machine
open Sys2Proof

/-! ### Pipes (R290, R291) -/

/-- The pipes that a word may use: V; L before V for a tiered word of the F form at a reduced tier; X. -/
inductive PipeClass where
  | v | tiered | x
  deriving DecidableEq, Repr

/-- Whether a slot operates on vector registers (R99). -/
def slotIsVec (x : Slot) : Bool := x.file == 0

/-- The class of a word. -/
def pipeClass : Instr → PipeClass
  | .fadd .. | .fsub .. | .fmul .. | .ffma .. => .tiered
  | .vadd .. | .vsub .. | .vmul .. | .vmulh .. | .vmad .. | .vabs .. | .vneg .. | .vmin .. | .vmax .. | .vand .. | .vor ..
  | .vxor .. | .vnot .. | .vshl .. | .vshr .. | .vsar .. | .vclz .. | .vpopc .. | .vbfe .. | .vbfi .. | .vcmp .. | .vsel ..
  | .vmov .. | .vmovi .. | .vaddi .. | .vandi .. | .vori .. | .vshli .. | .vshri .. | .fmovi .. => .v
  | .fmin .. | .fmax .. | .fabs .. | .fneg .. | .fcmp .. | .fclass .. | .fdiv .. | .fsqrt .. | .frcp .. | .frsq .. | .fexp2 ..
  | .flog2 .. | .fldexp .. | .frnd .. | .cvt .. | .cvtpk .. | .mxscale .. | .mxq .. | .mxdq .. => .v
  | .vaddSlot .. | .vsubSlot .. | .vmulSlot .. | .vandSlot .. | .vorSlot .. | .vxorSlot .. | .vminSlot .. | .vmaxSlot ..
  | .vmovSlot .. | .vshlSlot .. | .vshrSlot .. | .faddSlot .. | .fsubSlot .. | .fmulSlot .. | .fminSlot .. | .fmaxSlot .. => .v
  | .saddSlot _ _ _ y | .ssubSlot _ _ _ y | .sandSlot _ _ _ y | .sorSlot _ _ _ y | .sxorSlot _ _ _ y | .smovSlot _ _ _ y
  | .sshlSlot _ _ _ y | .sshrSlot _ _ _ y | .pandSlot _ _ _ y | .porSlot _ _ _ y | .pmovSlot _ _ _ y =>
    if slotIsVec y then .v else .x
  | _ => .x

/-- The tier at which a tiered word executes, fixed before the pipe is chosen (R292). -/
def Ctx.tierNow (c : Ctx) (op : TOp) (m : FpMod) (a b : VS) (e : Option VReg) : Tier :=
  let w := m.ty.wide
  let A := c.lanes w .a a
  let B := c.lanes w .b b
  let E := match e with
    | some r => c.lanesV w .c r
    | none => bcast 0
  (c.resolveTier m.ty m.tier op m.rm
    (activeEls c.act fun l => ops3 m.ty (A.val w l) (B.val w l) (E.val w l) (A.bnd l) (B.bnd l) (E.bnd l))).1

/-- The tier of the word that is issuing, FULL where it has none (DEDUCED, log 14). -/
def State.wordTier (s : State) (i : Instr) : Tier :=
  let on (h : Hdr) (k : Ctx → Tier) : Tier := match context s h with
    | .ok c => k c
    | .error _ => .full
  match i with
  | .fadd h m _ a b => on h fun c => c.tierNow .add m a b none
  | .fsub h m _ a b => on h fun c => c.tierNow .sub m a b none
  | .fmul h m _ a b => on h fun c => c.tierNow .mul m a b none
  | .ffma h m nc _ a b e => on h fun c => c.tierNow (.fma nc) m (vreg a) (vreg b) (some e)
  | _ => .full

/-- Pipes of a partition: L, V0, V1, X, in the order in which a word takes the first that is free (R290). -/
def State.pipesOf (s : State) (i : Instr) : List Nat :=
  match pipeClass i with
  | .x => [3]
  | .v => [1, 2]
  | .tiered =>
    let t := s.wordTier i
    if t == .half || t == .quart then [0, 1, 2] else [1, 2]

/-- Occupancy of a slot in clocks (R291; DESIGN CHOICE, log 51). -/
def slotClocks : Slot → Nat
  | .vmul ty _ _ => if ty.wide then 8 else 1
  | .fadd ty _ _ _ | .fsub ty _ _ _ | .fmul ty _ _ _ | .fmin ty _ _ _ | .fmax ty _ _ _ => if ty.wide then 8 else 1
  | _ => 1

/-- The typical occupancy of a word in clocks (R291; DESIGN CHOICE, log 51). -/
def clocksOf : Instr → Nat
  | .vmul _ m _ _ _ => if m.ty.wide then 8 else 1
  | .vmulh _ m _ _ _ => if m.ty.wide then 8 else 1
  | .vmad _ m _ _ _ _ => if m.ty.wide then 8 else 1
  | .fadd _ m _ _ _ | .fsub _ m _ _ _ | .fmul _ m _ _ _ | .fmin _ m _ _ _ | .fmax _ m _ _ _ | .fldexp _ m _ _ _ =>
    if m.ty.wide then 8 else 1
  | .ffma _ m _ _ _ _ _ => if m.ty.wide then 8 else 1
  | .fabs _ m _ _ | .fneg _ m _ _ | .frnd _ m _ _ => if m.ty.wide then 8 else 1
  | .fcmp _ ty _ _ _ _ _ => if ty.wide then 8 else 1
  | .fclass _ ty _ _ _ => if ty.wide then 8 else 1
  | .fdiv _ m _ _ _ => if m.ty.wide then 8 else if m.ty == .f32 then 4 else 1
  | .fsqrt _ m _ _ => if m.ty.wide then 8 else if m.ty == .f32 then 4 else 1
  | .frcp _ m _ _ | .frsq _ m _ _ | .fexp2 _ m _ _ | .flog2 _ m _ _ => if m.ty.wide then 8 else if m.ty == .f32 then 2 else 1
  | .vmulSlot _ ty _ _ y => max (if ty.wide then 8 else 1) (slotClocks y)
  | .faddSlot _ ty _ _ _ y | .fsubSlot _ ty _ _ _ y | .fmulSlot _ ty _ _ _ y | .fminSlot _ ty _ _ _ y
  | .fmaxSlot _ ty _ _ _ y => max (if ty.wide then 8 else 1) (slotClocks y)
  | .vaddSlot _ _ _ _ y | .vsubSlot _ _ _ _ y | .vandSlot _ _ _ _ y | .vorSlot _ _ _ _ y | .vxorSlot _ _ _ _ y
  | .vminSlot _ _ _ _ y | .vmaxSlot _ _ _ _ y | .vmovSlot _ _ _ _ y | .vshlSlot _ _ _ _ y | .vshrSlot _ _ _ _ y => slotClocks y
  | .saddSlot _ _ _ y | .ssubSlot _ _ _ y | .sandSlot _ _ _ y | .sorSlot _ _ _ y | .sxorSlot _ _ _ y | .smovSlot _ _ _ y
  | .sshlSlot _ _ _ y | .sshrSlot _ _ _ y | .pandSlot _ _ _ y | .porSlot _ _ _ y | .pmovSlot _ _ _ y => slotClocks y
  | _ => 1

/-! ### Words that wait at issue -/

/-- How far a word reaches beyond its floe's registers: not at all; a load, which takes effect when it is complete; the pack's
scratchpad, at once; memory by an access that is held until the words before it have passed their checks (R304); anything else. -/
inductive Reach where
  | regs | load | pad | store | other
  deriving DecidableEq, Repr

/-- The reach of a word. -/
def reach : Instr → Reach
  | .ld .. | .ldu .. | .ldv .. | .tld .. | .tldk .. | .accld .. | .accfill .. | .frload .. => .load
  | .lds .. | .sts .. | .atomsAdd .. | .atomsSub .. | .atomsMin .. | .atomsMax .. | .atomsAnd .. | .atomsOr .. | .atomsXor ..
  | .atomsXchg .. | .atomsCas .. | .barinit .. | .bararr .. | .barexp .. | .barwait .. | .bartest .. | .bardrop ..
  | .cpykick .. | .ldsp .. => .pad
  | .st .. | .stu .. | .stv .. | .recon .. | .fence .. => .store
  | .atomAdd .. | .atomSub .. | .atomMin .. | .atomMax .. | .atomAnd .. | .atomOr .. | .atomXor .. | .atomXchg .. | .atomCas .. => .store
  | .nop .. | .prio .. | .yield .. | .sleep .. | .halt .. | .mfsr .. | .firnrd .. | .seed .. => .regs
  | .sadd .. | .ssub .. | .smul .. | .smulh .. | .smad .. | .sand .. | .sor .. | .sxor .. | .snot .. | .sshl .. | .sshr ..
  | .ssar .. | .smin .. | .smax .. | .scmp .. | .ssel .. | .smov .. | .sclz .. | .spopc .. | .sbfe .. | .smovi .. | .smovih ..
  | .saddi .. | .sandi .. | .sori .. | .sxori .. | .sshli .. | .sshri .. | .ssari .. | .smuli .. | .scmpi .. => .regs
  | .pand .. | .por .. | .pxor .. | .pandn .. | .pnot .. | .pmov .. | .pset .. | .pget .. | .ppopc .. | .pfirst .. => .regs
  | .vrfl .. | .vrln .. | .vwln .. | .vbcst .. | .vshfl .. | .vrot .. | .vred .. | .vscan .. | .vvote .. | .vlane .. => .regs
  | .bget .. | .bset .. | .bclr .. | .bunb .. | .bmaxr .. | .bchk .. | .bud .. | .budi .. => .regs
  | .saddSlot .. | .ssubSlot .. | .sandSlot .. | .sorSlot .. | .sxorSlot .. | .smovSlot .. | .sshlSlot .. | .sshrSlot ..
  | .pandSlot .. | .porSlot .. | .pmovSlot .. => .regs
  | i => if pipeClass i == .x then .other else .regs

/-- The tiles of a fired MMA, scale tiles included, and its accumulator (R207). -/
def Pack.mmaTiles (p : Pack) (m : Mma) : List Nat :=
  [m.record.a.toNat, m.record.b.toNat] ++ match mmaDim (fun t => p.tshape.toList.getD t 0) m.record.a m.record.b with
    | some d => if 4 ≤ d.fa ∧ d.fa ≤ 8 then [d.sa, d.sb] else []
    | none => []

/-- Whether a word writes tiles of, or names the accumulator of, an MMA that has fired and not completed (R207). -/
def Pack.interlock (p : Pack) (i : Instr) : Bool :=
  let writesTile : Bool := match i with
    | .tcfg .. | .tzero .. | .tld .. | .tldk .. => true
    | _ => false
  let isMma : Bool := match i with
    | .mma .. => true
    | _ => false
  p.mmas.any fun m => p.isFired m &&
    ((writesTile && (tregs i).any (p.mmaTiles m).contains) || (!isMma && (aregs i).contains m.record.d.toNat))

/-- Whether a word that leads to a state asks for more requests than its core can hold beside those that it holds already (R331;
DESIGN CHOICE, log 18). -/
def State.overfull (s t : State) (core : Nat) : Bool :=
  decide (requestLimit < t.requests core) && decide (s.requests core < t.requests core)

/-- Whether a tile or accumulator word of a run means the scratchpad, by bit 63 of the second register of its address pair (R205),
as any of the values that it may read says. -/
def padPair (f : Floe) (r : Run) (m : MemOp) : Bool :=
  let k := m.sa.toNat + 1
  (f.sreg k).getLsbD 63 || (r.sOld.find? k).any fun x => x.1.getLsbD 63 || x.2.getLsbD 63

/-- The access to its pack's scratchpad that a word makes as it issues: its order, whether it reads, and whether it writes
(R176, R180, R194, R205, R214, R223; DESIGN CHOICE, log 18). -/
def padAccess (f : Floe) (r : Run) : Instr → Option (Ord3 × Bool × Bool)
  | .lds _ m _ _ => some (m.order, true, false)
  | .sts _ m _ _ => some (m.order, false, true)
  | .atomsAdd _ m _ _ _ | .atomsSub _ m _ _ _ | .atomsMin _ m _ _ _ | .atomsMax _ m _ _ _ | .atomsAnd _ m _ _ _
  | .atomsOr _ m _ _ _ | .atomsXor _ m _ _ _ | .atomsXchg _ m _ _ _ | .atomsCas _ m _ _ _ => some (m.order, true, true)
  | .tld _ m _ | .accld _ m _ => if padPair f r m then some (m.order, true, false) else none
  | .tst _ m _ | .accst _ m _ => if padPair f r m then some (m.order, false, true) else none
  | .accstAdd _ m _ => if padPair f r m then some (m.order, true, true) else some (.rlx, true, false)
  | .barinit .. => some (.rlx, false, true)
  | .barexp .. => some (.rlx, true, true)
  | .bararr .. | .bardrop .. | .barwait .. | .bartest .. | .keycut .. | .cpykick .. | .ldsp .. | .rowcpy .. | .rowfil ..
  | .rowand .. | .rowor .. | .rowxor .. | .rownot .. | .rowmaj .. | .rowrdx .. => some (.rlx, true, false)
  | _ => none

/-- Whether an access of some lanes to the scratchpad, which is made at once, must follow a pending access of its floe that has a
lane of these: by the order of either, or by a fence of such a lane between them (R244, R245). -/
def State.padFollows (s : State) (m : Mask) (o : Ord3) (writes : Bool) (b : Acc) : Bool :=
  let both := b.lanesIn b.todo &&& m
  both != 0 &&
    (b.first || ordersEarlier o writes ||
      s.fences.any fun x => x.floe == b.floe && x.seq == b.seq && decide (b.number < x.number) && x.lanes &&& both != 0 &&
        (x.sc || b.reads || writes))

/-- Whether an access may still set BSTICKY.LOST: an atomic on untagged memory (R88, R232). -/
def Acc.mayLose (a : Acc) : Bool :=
  a.sticky && a.todo.any fun u => match u with
    | .atomic _ _ _ ls => ls.any fun x => !x.tagged
    | _ => false

/-- Whether a word reads or writes BSTICKY whole (DESIGN CHOICE, log 18). -/
def usesSticky : Instr → Bool
  | .mfsr _ _ x | .mtsr _ x _ | .mtsri _ x _ => x.toNat == ixBsticky
  | .frsave .. => true
  | _ => false

/-- Whether an arrival or signature whose membership is now complete must wait for accesses of the named lanes, which a release
follows, also those of later words of its run that have issued (R244, R249; DEDUCED, log 11). -/
def State.arrivalHeld (s : State) (key : Nat) (f : Floe) (r : Run) (act : Mask) (num : Nat) (i : Instr) : Bool :=
  let member := match i with
    | .bararr _ d _ _ => some (readP f r num .d d.toNat)
    | .sbar _ _ _ a | .jsign _ _ a => some (readP f r num .a a.toNat)
    | _ => none
  let done := ((f.syncs.find? fun x => x.addr == r.pc && x.handler == f.handler).elim 0 (·.done)) ||| act
  member.any fun m => m &&& ~~~done == 0 && s.lanesBusy key f.seq m

/-- Whether the word of an issue number must wait at issue (R88, R207, R244, R304, R319; DESIGN CHOICE, log 18). -/
def State.mustWait (s : State) (key : Nat) (f : Floe) (r : Run) (w : Word) (num : Nat) (i : Instr) : Bool :=
  match s.packs.find? f.pack with
  | none => false
  | some p =>
    let mine := List.filter (fun e => e.2.floe == key && e.2.seq == f.seq) s.pend
    let act := guarded f r num (wordHdr w)
    let far := reach i == .pad || reach i == .other
    (far && mine.any fun e => e.2.run == r.number && e.2.snap.isSome) ||
      (padAccess f r i).any (fun x =>
        mine.any (fun e => s.padFollows act x.1 x.2.2 e.2) || p.banks.any fun b => ((s.core (coreOf key)).bank b).waking) ||
      (usesSticky i && mine.any fun e => e.2.mayLose) || s.arrivalHeld key f r act num i || p.interlock i

/-! ### The entry and the run (R21, R22, R27) -/

/-- The eligible entry that issues: highest priority, then lowest PC (R22). -/
def pickEntry (fr : List Entry) : Option Entry :=
  (fr.filter (·.flags == 0)).foldl (fun m e => match m with
    | none => some e
    | some x =>
      if x.prio.toNat < e.prio.toNat ∨ (x.prio = e.prio ∧ e.pc.toNat < x.pc.toNat) then some e else some x) none

/-- A run as it starts. -/
def Run.start (e : Entry) (number : Nat) (sys : SysRegs) : Run :=
  { mask := e.mask, began := e.mask, prio := e.prio, pc := e.pc, count := 0, number := number, ended := false, held := false, slept := false,
    yielded := false, halt := none, sync := 0, sbar := 0, denied := e.denied, deniedFetch := e.deniedFetch, vOld := [], sOld := [], pOld := [], sysOld := sys, trap := none, late := none }

/-- Whether a floe may issue a word: in mid-run, or with an eligible entry and no PREEMPT to take first (R22, R298). -/
def State.mayIssue (s : State) (_key : Nat) (f : Floe) : Bool :=
  !f.halted && match f.run with
    | some r => !r.ended && !r.held
    | none => f.frontier.any (·.flags == 0) && !(f.preempt && !f.handler && !s.mmaFlying f)

/-- The floe in its run, which starts here when none is in progress. -/
def State.startRun (s : State) (f : Floe) : Option (Floe × Run × Bool) :=
  match f.run with
  | some r => some (f, r, false)
  | none =>
    let fr := mergeFrontier f.frontier
    (pickEntry fr).map fun e =>
      let r := Run.start e s.fresh f.sys
      ({ f with frontier := fr.erase e, run := some r }, r, true)

/-! ### Fetch (R309, R341) -/

/-- Whether a leaf lets a floe fetch. -/
def fetchOk (handler : Bool) (leaf : Word) : Bool := pteX leaf && (!pteK leaf || handler) && pteKind leaf != 3

/-- What a fetch finds. -/
inductive Fetch where
  | word (w : Word)
  | denied
  | protect (w : Word)
  | poison
  | miss (level : Nat) (bad : Bool)
  deriving DecidableEq, Repr

/-- Fetches the word at an address for a floe, keeping what the walk caches (DEDUCED, log 17). -/
def State.fetch (s : State) (key : Nat) (f : Floe) (r : Run) : State × Fetch :=
  if r.deniedFetch &&& r.mask ≠ 0 then (s, .denied)
  else
    match s.packs.find? f.pack with
    | none => (s, .denied)
    | some p =>
      let core := coreOf key
      let va : Word := r.pc.setWidth 64
      match s.lookup .words core f.ctx (s.rootOf p) va (fetchOk f.handler) with
      | (s, .miss level bad) => (s, .miss level bad)
      | (s, .ok pa leaf _) =>
        let bad := s.poisonedAt (dieOf core) pa
        let w : Word := if bad then BitVec.ofNat 64 (Config.pick 16 s.fresh) else wordOfBytes (s.pbytes pa 8)
        if !fetchOk f.handler leaf then (s, .protect w)
        else if bad then (s.noteUnclaimed pa, .poison)
        else (s, .word w)

/-- The cause of a word that is no instruction (R106). -/
def causeOf : DecodeError → BitVec 8
  | .illegalOpcode => 0x01
  | .runControl => 0x05
  | .pairBank => 0x04
  | .illegalOperand => 0x02

/-! ### Residues (R396) -/

/-- What an upset leaves wrong in a register of a floe (R33, R396, R397; DESIGN CHOICE, log 12; DESIGN CHOICE, log 46). -/
def Upset.resid : Upset → Option Resid
  | .residue again lane reg rime => some ⟨reg % 1024, lane % 64, rime, again, false⟩
  | .register lane reg => if reg % 1168 = 1024 ∨ reg % 1168 = 1152 then none else some ⟨reg % 1168, lane % 64, false, false, true⟩
  | _ => none

/-- A word of a floe meets the residues of its operands and results: the first upset that is to come about leaves one wrong, or
poisons data, a machine fault; a wrong one in a register that the word names, in a lane of the run, makes it replay, which is
counted where the replay matches, and where it does not the run ends with MACHINE_CHECK (R33, R396, R397; DESIGN CHOICE, logs 12, 18, 46). -/
def State.residue (s : State) (key : Nat) (pc : BitVec 48) (m : Mask) (i : Instr) : State :=
  let fresh := s.upsets.find? Upset.isResidue
  let here : List Resid := ((s.floes.find? key).elim [] (·.resids)) ++ (fresh.bind Upset.resid).toList
  let s := match fresh with
    | some u =>
      let s := { s with upsets := s.upsets.erase u }
      if (u.resid.map (·.poison)).getD false then s.sramFault (dieOf (coreOf key)) else s
    | none => s
  let named (x : Resid) : Bool := (vregs i).contains x.reg || (isSave i && ((s.floes.find? key).any fun f => decide (x.reg < f.valloc)))
  match here.find? fun x => !x.poison && named x && has m x.lane with
  | none => if fresh.isNone then s else s.modFloe key fun f => { f with resids := here }
  | some x =>
    let s := s.modFloe key fun f => { f with resids := here.erase x }
    if x.again then
      let info : Word := BitVec.ofNat 64 (x.reg + if x.rime then 1024 else 0)
      s.modFloe key fun f =>
        { f with traps := f.traps ++ [⟨⟨0x50, pc, maskWhere (· == x.lane), 0, info, false⟩, .run m, true, false, true⟩] }
    else
      let d := s.die (dieOf (coreOf key))
      s.setDie (dieOf (coreOf key)) { d with replay := satInc d.replay }

/-- The state that a word leads to: its floe waits as it was where its core cannot hold the word's memory requests (R331), and
poisoned data that the word reads traps (R302, R397). -/
def State.issued (s0 s : State) (key : Nat) (i : Instr) (t : State) : State :=
  if s0.overfull t (coreOf key) then s0 else s.afterWord i t

/-! ### A word begins -/

/-- A floe's next word: it is done with (it waits, parks or traps), or it executes. -/
inductive Issued where
  | done (s : State)
  | word (i : Instr) (s : State)
  deriving DecidableEq, Repr

/-- A word cause found before the word executes. -/
def State.earlyTrap (s : State) (cause : BitVec 8) (addr info : Word) (host : Bool) : State :=
  match context s (slotHdr false) with
  | .ok c => trapWord c cause c.r.mask addr info host
  | .error _ => s

/-- What a fetched word, or a failed fetch, comes to at a state in which it is issuing (R106, R309, R341;
DEDUCED, log 17). -/
def State.begin (s : State) (x : Fetch) : Issued :=
  match context s (slotHdr false) with
  | .error _ => .done s
  | .ok c =>
    let va : Word := c.pc.setWidth 64
    match x with
    | .word w =>
      match decode (c.r.behaves w) with
      | .ok i => .word i (s.residue c.key c.pc c.r.mask i)
      | .error e => .done (trapIssue c (causeOf e))
    | .denied =>
      .done (trapWord c 0x21 c.r.mask va (BitVec.ofNat 64 (Config.pick 16 c.num)) true)
    | .protect w => .done (trapWord c 0x21 c.r.mask va w false)
    | .poison => .done (trapWord c 0x51 c.r.mask (lineVa va) (BitVec.ofNat 64 (Config.pick 16 c.num)) false)
    | .miss level bad => .done (retire ({ c with mark := true, act := c.r.mask }.park c.r.mask false true [(va, level, bad)]))

/-- The floe's checkpoints as a word of a run issues: those of its lanes at other words are no replay of it (R252). -/
def Floe.keepCkpts (f : Floe) (r : Run) : Floe :=
  if f.handler || f.ckpts.isEmpty then f
  else
    { f with ckpts := (f.ckpts.map fun k => if k.pc = r.pc then k else { k with lanes := k.lanes &&& ~~~r.mask }).filter (·.lanes != 0) }

/-- The next word of a floe issues, unless it must wait. -/
def State.issueNext (s : State) (key : Nat) : Issued :=
  match s.floes.find? key with
  | none => .done s
  | some f0 =>
    if !s.mayIssue key f0 then .done s
    else
      match s.startRun f0 with
      | none => .done s
      | some (f, r, isNew) =>
        let (s1, x) := s.fetch key f r
        let w : Word := match x with
          | .word w => w
          | _ => 0
        let n := s.fresh + if isNew then 1 else 0
        let wait := match x with
          | .word w => (decode? (r.behaves w)).any (s.mustWait key f r w n)
          | _ => false
        if wait then .done s
        else
          let f := { f.keepCkpts r with readyFor := 0, reported := false, yielded := false, waitFrom := s.firn (coreOf key) }
          let s1 := { s1 with
            floes := s1.floes.put key f, issuing := some ⟨key, r.pc, w, n⟩, fresh := s1.fresh + if isNew then 2 else 1 }
          s1.begin x

/-! ### The clock of a partition (R293, R294) -/

/-- Whether a floe is ready (R293): it may issue, and in mid-run its next word can be fetched. -/
def State.ready (s : State) (key : Nat) (f : Floe) : Bool :=
  s.mayIssue key f && f.run.all fun r =>
    match (s.fetch key f r).2 with
    | .word _ => true
    | _ => false

/-- A floe is overdue when it has been ready for 32 clocks without issuing (R293). -/
def overdueAt : Nat := 32

/-- The lag of a floe: its arrivals behind the most of its pack's (R293). -/
def State.lag (s : State) (f : Floe) : Nat :=
  (s.floes : List (Nat × Floe)).foldl (fun m e => if e.2.pack = f.pack then max m e.2.arrivals else m) 0 - f.arrivals

/-- Whether one floe comes before another in the order of R294. -/
def State.before (s : State) (x y : Floe) : Bool :=
  let ox := decide (overdueAt ≤ x.readyFor)
  let oy := decide (overdueAt ≤ y.readyFor)
  if ox != oy then ox
  else if ox && x.readyFor != y.readyFor then decide (y.readyFor < x.readyFor)
  else if !ox && s.lag x != s.lag y then decide (s.lag y < s.lag x)
  else decide (x.seq < y.seq)

/-- Puts a floe into an ordered list. -/
def State.insertFloe (s : State) (e : Nat × Floe) : List (Nat × Floe) → List (Nat × Floe)
  | [] => [e]
  | x :: t => if s.before e.2 x.2 then e :: x :: t else x :: s.insertFloe e t

/-- The floes of a partition that are ready. -/
def State.readyFloes (s : State) (core part : Nat) : List (Nat × Floe) :=
  List.filter (fun e => coreOf e.1 == core && e.2.part == part && s.ready e.1 e.2) s.floes

/-- Whether a floe of a partition may issue, which takes a clock. -/
def State.wantsClock (s : State) (core part : Nat) : Bool :=
  List.any s.floes fun e => coreOf e.1 == core && e.2.part == part && s.mayIssue e.1 e.2

/-- The candidates of a clock in order: floes that yielded are passed over; where every ready floe did, all but the first in the
order are (R294, R130; DESIGN CHOICE, log 18). -/
def State.candidates (s : State) (core part : Nat) : List (Nat × Floe) :=
  let cand := (s.readyFloes core part).foldl (fun l e => s.insertFloe e l) []
  let others := cand.filter fun e => !e.2.yielded
  if others.isEmpty then cand.take 1 else others

/-- The pipes and occupancy that a floe's next word asks for, none while it must wait. -/
def State.asks (s : State) (key : Nat) (f : Floe) : Option (List Nat × Nat) :=
  match s.startRun f with
  | none => none
  | some (g, r, isNew) =>
    match s.fetch key g r with
    | (_, .word w) =>
      (match decode (r.behaves w) with
       | .ok i =>
         if s.mustWait key g r w (s.fresh + if isNew then 1 else 0) i then none
         else
           let s := { s with floes := s.floes.put key g, issuing := some ⟨key, r.pc, w, s.fresh⟩ }
           some (s.pipesOf i, clocksOf i)
       | .error _ => some ([3], 1))
    | _ => some ([3], 1)

/-- The choice of a clock: floes that issue, and until when each pipe is taken (DESIGN CHOICE, log 18). -/
def State.choose (s : State) (part now : Nat) : List (Nat × Floe) → List Nat × Tbl Nat → List Nat × Tbl Nat
  | [], acc => acc
  | e :: t, (done, pipes) =>
    if 3 ≤ done.length then (done, pipes)
    else
      match s.asks e.1 e.2 with
      | none => s.choose part now t (done, pipes)
      | some (allowed, n) =>
        match allowed.find? fun p => pipes.getD (4 * part + p) 0 ≤ now with
        | none => s.choose part now t (done, pipes)
        | some p => s.choose part now t (done ++ [e.1], pipes.put (4 * part + p) (now + n))

/-- ISSUE_CLOCK (R294): orders the ready floes of a partition and gives up to three words to free pipes; they issue next, and the
floes in mid-run whose next word cannot be fetched trap or park without one. A clock in which the model holds a word at issue
counts neither towards R293's 32 nor towards R300's 64 (DESIGN CHOICE, log 18). -/
def execIssueClock (core part : Nat) (s : State) : Out :=
  if 320 ≤ core ∨ 4 ≤ part then .fault .noObject
  else
    let c := s.core core
    let now := max (c.clock.getD part 0 + 1) (2 * (s.firn core).toNat)
    let ready := (s.readyFloes core part).map (·.1)
    let held := ((s.readyFloes core part).filter fun e => (s.asks e.1 e.2).isNone).map (·.1)
    let lost := (List.filter (fun e => coreOf e.1 == core && e.2.part == part && s.mayIssue e.1 e.2 && !s.ready e.1 e.2) s.floes).map (·.1)
    let (done, pipes) := s.choose part now (s.candidates core part) ([], c.pipes)
    let tick (e : Nat × Floe) : Nat × Floe :=
      if coreOf e.1 = core ∧ e.2.part = part then
        if ready.contains e.1 then
          (e.1, { e.2 with readyFor := e.2.readyFor + (if held.contains e.1 then 0 else 1), waitFrom := s.firn core, yielded := false })
        else (e.1, { e.2 with readyFor := 0 })
      else e
    let s := s.setCore core { c with pipes := pipes, clock := c.clock.put part now }
    .next { s with floes := s.floes.map tick, issue := s.issue ++ done ++ lost }

end Sys2Proof.Machine
end

