-- ==== Sys2Proof/Machine/Predicate.lean ====
section
/-! DEFINITION. Predicate instructions (spec 05, R138). -/

namespace Sys2Proof.Machine
open Sys2Proof

/-- PAND (R138). -/
def execPand (h : Hdr) (d a b : PReg) (s : State) : Out :=
  onRegs (.pand h d a b) h s fun c => c.setP d c.act (c.p .a a &&& c.p .b b)
/-- POR (R138). -/
def execPor (h : Hdr) (d a b : PReg) (s : State) : Out :=
  onRegs (.por h d a b) h s fun c => c.setP d c.act (c.p .a a ||| c.p .b b)
/-- PXOR (R138). -/
def execPxor (h : Hdr) (d a b : PReg) (s : State) : Out :=
  onRegs (.pxor h d a b) h s fun c => c.setP d c.act (c.p .a a ^^^ c.p .b b)
/-- PANDN (R138). -/
def execPandn (h : Hdr) (d a b : PReg) (s : State) : Out :=
  onRegs (.pandn h d a b) h s fun c => c.setP d c.act (c.p .a a &&& ~~~(c.p .b b))
/-- PNOT (R138). -/
def execPnot (h : Hdr) (d a : PReg) (s : State) : Out :=
  onRegs (.pnot h d a) h s fun c => c.setP d c.act (~~~(c.p .a a))
/-- PMOV (R138). -/
def execPmov (h : Hdr) (d a : PReg) (s : State) : Out :=
  onRegs (.pmov h d a) h s fun c => c.setP d c.act (c.p .a a)
/-- PSET (R138). -/
def execPset (h : Hdr) (d : PReg) (a : SReg) (s : State) : Out :=
  onRegs (.pset h d a) h s fun c => c.setP d c.act (c.sr .a a)
/-- PGET (R138): all 64 bits. -/
def execPget (h : Hdr) (d : SReg) (a : PReg) (s : State) : Out :=
  onRegs (.pget h d a) h s fun c => c.uni d (c.p .a a)
/-- PPOPC (R138). -/
def execPpopc (h : Hdr) (d : SReg) (a : PReg) (s : State) : Out :=
  onRegs (.ppopc h d a) h s fun c => c.uni d (BitVec.ofNat 64 (popc (c.p .a a &&& c.act)))
/-- PFIRST (R138): 64 if none. -/
def execPfirst (h : Hdr) (d : SReg) (a : PReg) (s : State) : Out :=
  onRegs (.pfirst h d a) h s fun c => c.uni d (BitVec.ofNat 64 (lowest (c.p .a a &&& c.act)))

end Sys2Proof.Machine
end

