-- ==== Sys2Proof/Machine/Schedule.lean ====
section
/-! DEFINITION. Slices and pre-emption in time (R296, R297), the watchdog (R300, R301), the carve-out (R317 to R321), power
states (R391, R392) and boost permits (R393). -/

namespace Sys2Proof.Machine
open Sys2Proof

/-! ### The next pack of a die -/

/-- The die's next pack: its priority, and the core on which it fits, if any; none while there is no such pack or its record
cannot be read (R285 to R288, R311; DEDUCED, log 24). -/
def State.nextPlace (s : State) (die : Nat) : Option (Nat × Option Nat) :=
  if !s.serves die then none
  else
    match s.nextField die with
    | none => none
    | some f =>
      let d := f.desc
      match s.nextSaved f die with
      | none => some (d.prio.toNat, s.bestCore die fun c => (s.fits c d d.nfloes none).isSome)
      | some v =>
        match s.recPlaces (40 * die) d.ctx f.troot (recordVa v.pbase d) d.accs false with
        | .error _ => none
        | .ok places =>
          some (d.prio.toNat, s.bestCore die (s.restoreFits d v (s.recBound d places) (s.recBanks places) (s.recCore places)))

/-! ### Slices (R296, R297) -/

/-- SLICE_EXPIRY (R296): a context's slice on a die has run out. With a pack waiting for which the context is the victim, it is
pre-empted; else the slice restarts. Every slice of the die that has run out by now counts as expired (R297). Packs that retire at
this moment have retired (R299; DEDUCED, log 24). -/
def execSliceExpiry (die : Nat) (ctx : BitVec 8) (s : State) : Out :=
  let s := s.reap
  let d := s.die die
  match d.slices.find? fun x => x.ctx == ctx with
  | none => .fault .noObject
  | some x =>
    if x.expired || d.firn.toNat < x.start + x.len then .fault .notDue
    else
      let put (y : Slice) : State := s.setDie die { d with slices := d.slices.map fun z => if z.ctx == ctx then y else z }
      let past := put { x with expired := true }
      let over_ (z : Slice) : Slice := { z with expired := z.expired || decide (z.start + z.len ≤ d.firn.toNat) }
      let all := s.setDie die { d with slices := d.slices.map over_ }
      let restarted := put { x with start := d.firn.toNat }
      match s.nextPlace die with
      | some (prio, none) =>
        match all.victim die prio with
        | some v => if v.ctx = ctx then .next (past.preemptCtx ctx (some die)) else .next restarted
        | none => .next restarted
      | _ => .next restarted

/-! ### Watchdog (R300, R301) -/

/-- Writes a report of a floe to its die's WDLOG and raises vector 18 where WDCTL.IEN is 1 (R301, R390). -/
def State.wdReport (s : State) (key kind : Nat) (f : Floe) : State :=
  let die := dieOf (coreOf key)
  let d := s.die die
  let log : Word :=
    if d.wdlog &&& logValid = 0 then
      BitVec.ofNat 64 (2 ^ 63 + 2 ^ 60 * kind + 2 ^ 40 * f.ctx.toNat + 2 ^ 31 * coreOf key + 2 ^ 25 * (key % 64) + 1)
    else
      let n := min 0xFFFF (d.wdlog.toNat % 65536 + 1)
      ((d.wdlog &&& ~~~(0xFFFF : Word)) ||| BitVec.ofNat 64 n) ||| 0x4000000000000000
  let s := (s.setDie die { d with wdlog := log }).setFloe key { f with reported := true }
  if d.wdIen then s.interrupt 18 else s

/-- WATCHDOG_ISSUE_REPORT (R300): a floe has been ready for more than 64 clocks without issuing (DESIGN CHOICE, log 38). -/
def execWatchdogIssueReport (floe : Nat) (s : State) : Out :=
  match s.floes.find? floe with
  | none => .fault .noObject
  | some f => if f.reported || f.halted || f.readyFor ≤ 64 then .fault .notDue else .next (s.wdReport floe 1 f)

/-- Whether a parked entry of a floe waits on a fault that is in the host's queue (R301). -/
def State.faultQueued (s : State) (key : Nat) (f : Floe) (m : Mask) : Bool :=
  s.hub.faults.any fun r => r.written && r.waiters.any fun w => match w with
    | .lanes k q n _ h => k == key && q == f.seq && n &&& m != 0 && h == f.handler
    | _ => false

/-- Whether an entry waits in the sense of R301: not eligible, not for a deadline to come, and not for the host. -/
def State.stalled (s : State) (key : Nat) (f : Floe) (e : Entry) : Bool :=
  let later := decide ((s.firn (coreOf key)).toNat < f.deadline.toNat)
  e.flags != 0 && !(later && (e.wait == .sleep || e.wait == .lwait)) &&
    !(e.flags &&& flagParked != 0 && s.faultQueued key f e.mask)

/-- WATCHDOG_STALL_REPORT (R301): every entry of the floe has been waiting for longer than LIMIT microseconds
(DESIGN CHOICE, log 38). -/
def execWatchdogStallReport (floe : Nat) (s : State) : Out :=
  match s.floes.find? floe with
  | none => .fault .noObject
  | some f =>
    let die := s.die (dieOf (coreOf floe))
    if f.reported || f.halted || f.run.isSome || !f.frontier.all (s.stalled floe f) ||
        die.firn.toNat ≤ f.waitFrom.toNat + 1000 * die.wdLimit.toNat then .fault .notDue
    else .next (s.wdReport floe 2 f)

/-! ### The carve-out (R317 to R321) -/

/-- Ticks of a sampling interval, and the time after which a FREE bank is gated (R319, R320; DESIGN CHOICE, log 38). -/
def intervalTicks : Nat := 1000
def gateTicks : Nat := 10000

/-- The decision at the end of an interval with AUTO = 1 (R320), by the SRAMCTL in force (R322). -/
def Core.decide (c : Core) (now : Word) : Core :=
  let x := c.sram
  let l1 := c.banksIn .l1
  let spare := c.banksIn .free ++ c.banksIn .gated
  if x.gain.toNat ≤ c.gained ∧ x.fresv.toNat < spare.length then
    let b := spare.headD 0
    c.setBank b ⟨.l1, (c.bank b).st == .gated, now⟩
  else if c.spare * 4 < x.gain.toNat ∧ x.lmin.toNat < l1.length then
    let b := l1.getLastD 0
    (c.setBank b ⟨.free, false, now⟩).dropBank b
  else c

/-- CARVE_OUT_INTERVAL (R320 to R322): a core's sampling interval ends, and SRAMCTL as written comes into force; a placement on
the core at the same tick comes first (DESIGN CHOICE, log 38). -/
def execCarveOutInterval (core : Nat) (s : State) : Out :=
  let die := dieOf core
  let d := s.die die
  let c := { s.core core with sram := d.sramctl }
  let placing := match s.nextPlace die with
    | some (_, some x) => x == core
    | _ => false
  if 320 ≤ core then .fault .noObject
  else if d.firn.toNat < c.lastInterval + intervalTicks || d.power == .a2 || d.power == .a3 || placing then .fault .notDue
  else
    let c := if c.sram.auto then c.decide d.firn else c
    .next (s.setCore core { c with gained := 0, spare := 0, lastInterval := d.firn.toNat / intervalTicks * intervalTicks })

/-- BANK_GATE (R319): a FREE bank that nothing has used for 10 microseconds. -/
def execBankGate (core bank : Nat) (s : State) : Out :=
  let c := s.core core
  let b := c.bank bank
  if b.st != .free || (s.firn core).toNat < b.used.toNat + gateTicks then .fault .notDue
  else .next (s.setCore core (c.setBank bank { b with st := .gated }))

/-- BANK_READY (R319): a bank that was waking or being zeroed is ready. -/
def execBankReady (core bank : Nat) (s : State) : Out :=
  let c := s.core core
  let b := c.bank bank
  if !b.waking then .fault .notDue else .next (s.setCore core (c.setBank bank { b with waking := false }))

/-! ### Power (R391, R392) -/

/-- Declared exit latencies in microseconds (R391). -/
def Power.exit : Power → Nat
  | .a0 => 0
  | .a1 => 2
  | .a2 => 50
  | .a3 => 5000

/-- The latency that the enabled queues tolerate (R392). -/
def Hub.tolerance (h : Hub) : Nat := (h.queues.toList.filter (·.en)).foldl (fun m q => min m q.ltol.toNat) 0xFFFFF

/-- Whether a Serac operation has steps in a stack of a die (R392). -/
def State.steps (s : State) (die : Nat) (x : Serac) : Bool :=
  x.dRows.any fun r => dieOfStack (s.hub.hbmLoc r).1 == die

/-- An idle die (R392). -/
def State.idle (s : State) (die : Nat) : Bool :=
  let here (k : Nat) : Bool := dieOf (coreOf k) == die
  !(s.floes.any fun e => here e.1) &&
    !(s.cores.any fun c => dieOf c.1 == die && (!c.2.kicks.isEmpty || c.2.queues.any fun q => !q.2.isEmpty)) &&
    !(s.copies.any fun x => here x.fork.floe) && !(s.drains.any fun x => here x.fork.floe) &&
    !(s.seracs.any fun x => here x.floe || s.steps die x) && !(s.pend.any fun e => here e.2.floe)

/-- The state that an idle die enters (R392). -/
def State.powerTarget (s : State) (die : Nat) : Power :=
  let t := s.hub.tolerance
  if !s.idle die then .a0
  else if Power.exit .a3 ≤ t && s.hub.insts.isEmpty && (List.range 8).all s.idle then .a3
  else if Power.exit .a2 ≤ t then .a2
  else if Power.exit .a1 ≤ t then .a1
  else .a0

/-- Cores lose their L1 and TLBs, and the die its walk caches (R391). -/
def State.gateCores (s : State) (die : Nat) : State :=
  let off (e : Nat × Core) : Nat × Core := if dieOf e.1 = die then (e.1, { e.2 with l1 := [], tlb := [], ahead := [] }) else e
  ({ s with cores := s.cores.map off } : State).setDie die { s.die die with walks := [] }

/-- Dirty lines of a die's L2 go to their homes, and the L2 loses its lines (R391). -/
def State.cleanDie (s : State) (die : Nat) : State :=
  ((s.die die).l2 : List (Nat × L2Line)).foldl (fun s e => s.dropL2 die e.1) s

/-- POWER_STATE_ENTRY (R391, R392): an idle die enters the deepest state that the queues tolerate; A3 is the whole package's
(DEDUCED, log 25). -/
def execPowerStateEntry (die : Nat) (s : State) : Out :=
  let t := s.powerTarget die
  let enter (p : Power) (s : State) (d : Nat) : State :=
    let s := if p == .a1 then s else s.gateCores d
    let s := if p == .a3 then s.cleanDie d else s
    s.setDie d { s.die d with power := p }
  if t.exit ≤ (s.die die).power.exit then .fault .notDue
  else if t = .a3 then .next ((List.range 8).foldl (enter .a3) s)
  else .next (enter t s die)

/-- DIE_WAKE (R392): an event that needs the die wakes it to A0 (DEDUCED, log 25). -/
def execDieWake (die : Nat) (s : State) : Out :=
  if (s.die die).power = .a0 then .fault .notDue else .next (s.wakeDie die)

/-! ### Boost permits (R393) -/

/-- Ticks of a boost interval, ticks of quiet that give a permit, and the most permits. -/
def boostTicks : Nat := 10000
def refillTicks : Nat := 40000
def permitLimit : Nat := 64

/-- Quads in ascending order from the one after the previous winner, wrapping (R393; DEDUCED, log 25). -/
def boostOrder (winner : Nat) : List Nat := (List.range 10).map fun i => (winner + 1 + i) % 10

/-- A boosted interval is over: no cluster runs above 2 GHz from its end on, until one claims a permit again (R393). -/
def Die.boostEnds (d : Die) : Die :=
  if (d.fast = 0 ∧ d.falling = 0) ∨ d.firn.toNat < d.boostAt + boostTicks then d
  else { d with fast := 0, falling := 0, quietFrom := d.boostAt + boostTicks }

/-- BOOST_INTERVAL (R393): at the start of a 10 microsecond interval the clusters that are to run above 2 GHz claim permits; one
that was above in the interval before and finds the pool empty runs at 2.2 GHz for this interval (DEDUCED, log 25). -/
def execBoostInterval (die : Nat) (claims : BitVec 10) (s : State) : Out :=
  let d := s.die die
  if d.firn.toNat < d.boostAt + boostTicks || d.power != .a0 || s.reduced then .fault .notDue
  else
    let claims := if d.boost then claims else 0
    let order := (boostOrder d.winner).filter fun q => claims.getLsbD q
    let won := order.take d.permits
    let bits (qs : List Nat) : BitVec 10 := BitVec.ofNat 10 (qs.map (2 ^ ·)).sum
    let start := d.firn.toNat / boostTicks * boostTicks
    let fast := bits won
    let falling := if start = d.boostAt + boostTicks then claims &&& d.fast &&& ~~~fast else 0
    .next (s.setDie die
      { d.boostEnds with
        permits := d.permits - won.length, winner := won.getLastD d.winner, fast := fast, falling := falling, boostAt := start })

/-- PERMIT_REFILL (R393): 40 microseconds have passed in which no cluster of the die ran above 2 GHz (DEDUCED, log 25). -/
def execPermitRefill (die : Nat) (s : State) : Out :=
  let d := (s.die die).boostEnds
  if d.fast ≠ 0 || d.falling ≠ 0 || d.firn.toNat < d.quietFrom + refillTicks then .fault .notDue
  else .next (s.setDie die { d with permits := min permitLimit (d.permits + 1), quietFrom := d.quietFrom + refillTicks })

end Sys2Proof.Machine
end

