-- ==== Sys2Proof/Machine/SeracStep.lean ====
section
/-! DEFINITION. The row steps of Serac operations (R355, R359) and the demand accesses that a step's end serves (R358). -/

namespace Sys2Proof.Machine
open Sys2Proof

/-- An event as a step's end lets it happen: not at all where it is not due. -/
def State.let_ (s : State) (e : State → Out) : State :=
  match e s with
  | .next t => t
  | .fault _ => s
  | .refused _ => s

/-- The units of an access that wait for a bank are performed, where nothing else holds them (R358; DEDUCED, log 42). -/
def State.serveAcc (s : State) (bank : Nat × Nat × Nat) (a : Acc) : State :=
  (List.range a.todo.length).reverse.foldl (fun s i =>
    match s.pend.find? a.number with
    | none => s
    | some b =>
      match b.todo[i]? with
      | none => s
      | some u =>
        if (s.banksOf (coreOf b.floe) u.level u.bytes).contains bank && s.unitMay b.returns b i u then
          (if b.returns then s.takeUpsets else s).serveUnit b i u
        else s) s

/-- The accesses of engines and of outside agents that wait for a bank, with when they reached it (R358). -/
def State.bankOthers (s : State) (bank : Nat × Nat × Nat) : List (Nat × (State → Out)) :=
  let at_ (core : Nat) (lv : Level) (as : List Nat) : Bool := (s.banksOf core lv as).contains bank
  (s.cores.flatMap fun c => c.2.queues.flatMap fun q => q.2.flatMap fun r =>
    (r.flying.filter fun f => !f.pad && at_ c.1 f.level (f.dst.map (·.1))).map fun f => (reachedAt f.id f.born, latchLand c.1 f.id)) ++
    (s.copies.flatMap fun x =>
      let here (q : Span) : Bool := at_ (coreOf x.fork.floe) q.level (addrsFrom q.pa q.n)
      (x.src.filter here).map fun _ => (reachedAt x.id x.born, copyLand x.id here)) ++
    ((s.drains.filter fun x => at_ (coreOf x.fork.floe) .far (addrsFrom x.pa (4 * x.data.length))).map fun x =>
      (reachedAt x.id x.born, drainApply x.id)) ++
    (s.outside.filter fun x => at_ 0 .far (x.act.bytes s.hub)).map fun x =>
      (reachedAt x.id x.born, fun (s : State) => .next (s.outsideServe x))

/-- The end of a step on a bank serves the demand accesses that have waited for it since a time or earlier (R358; DEDUCED, log
42). -/
def State.serveBank (s : State) (bank : Nat × Nat × Nat) (since : Nat) : State :=
  let s1 := (s.pend : List (Nat × Acc)).foldl (fun s e => if reachedAt e.1 e.2.born ≤ since then s.serveAcc bank e.2 else s) s
  (s.bankOthers bank).foldl (fun s e => if e.1 ≤ since then s.let_ e.2 else s) s1

/-- Whether serving a bank has performed something, beyond having it wait for leases. -/
def State.servedSince (s t : State) : Bool :=
  t.pend != s.pend || t.copies != s.copies || t.drains != s.drains || t.outside != s.outside || t.cores != s.cores

/-- SERAC_ROW_STEP (R355 to R359): one step, counted under its path. Its end serves the demand accesses that wait for its bank:
all, or, where the next step of the pseudo-channel lies on that bank too, those that have waited long enough, which suspends the
operation (DEDUCED, log 42). -/
def execSeracRowStep (op : Nat) (s : State) : Out :=
  match s.seracs.find? fun x => x.id == op with
  | none => .fault .noObject
  | some x =>
    let next := x.ready s.hub
    if !x.forked || next.isEmpty then .fault .notDue
    else
      let i := next.getD (Config.pick 4 s.fresh % next.length) 0
      let rows := (x.reads i).map fun r => s.bytes r rowLen
      let fenced := (x.reads i).any s.fenced
      let keep := x.op == .rdx && i != 0
      let bad (k : Nat) : Bool := fenced || (x.reads i).any (fun r => s.poisoned (r + 128 * k)) || (keep && x.accPoison.getLsbD k)
      let bs := x.bytesOf i rows
      let p := x.path s.hub i
      let loc := s.hub.hbmLoc (x.dRow i)
      let bank := s.hub.bankOf (x.dRow i)
      let left := x.todo.erase i
      let more := (left.find? fun j => s.hub.hbmLoc (x.dRow j) == loc).any fun j => s.hub.bankOf (x.dRow j) == bank
      let mask : Byte := BitVec.ofNat 8 (((List.range 8).map fun k => if bad k then 2 ^ k else 0).sum)
      let y : Serac := { x with
        todo := left, paths := x.paths.set p (x.paths[p] + 1), accum := if x.op = RowOp.rdx then bs else []
        accPoison := if x.op = RowOp.rdx then mask else 0 }
      let put (s : State) (y : Serac) : State := { s with seracs := s.seracs.map fun z => if z.id = op then y else z }
      let s := (put (if x.writes i then s.writeRow x i bs bad else s) y).bump
      let now := s.hub.firn.toNat
      let win := (s.die (dieOfStack loc.1)).win.toNat
      if !more then .next (s.serveBank bank now)
      else
        let t := if now < win then s else s.serveBank bank (now - win)
        .next (if s.servedSince t then put t { y with paths := y.paths.set 3 (y.paths[3] + 1) } else t)

end Sys2Proof.Machine
end

