-- ==== Sys2Proof/Machine/Slots.lean ====
section
/-! DEFINITION. P-form words (R99, R137, R139, R145, R155): both slots read their operands, then both write. -/

namespace Sys2Proof.Machine
open Sys2Proof

/-- What one slot will write: vector registers from D on with their lanes, a uniform register, a predicate; the lane
results of an FP slot; the tier of an AUTO slot, whether its prediction chose FULL, and BSTICKY bits. -/
structure SlotRes where
  vec : Option (VReg × Bool × List (Nat × Bound)) := none
  uni : Option (SReg × Word) := none
  pred : Option (PReg × Mask) := none
  fp : Option (VReg × Nat × Outs) := none
  auto : Option Tier := none
  tier : Tier := .full
  up : Bool := false
  bits : BitVec 5 := 0
  deriving DecidableEq, Repr

/-- An integer vector slot (R145): wraps, and follows the integer bound rule. -/
def vecSlot (c : Ctx) (op : IOp) (ty : ITy) (d a : VReg) : SlotRes :=
  let w := ty.wide
  let D := c.lanesV w .d d
  let A := c.lanesV w .a a
  let ins := fun (l : Fin 64) => [D.bnd l, A.bnd l]
  let out := fun l => intBound (ins l)
  { vec := some (d, w, (List.finRange 64).map fun l =>
      (putBits ty false (iop op ty false (D.val w l) (A.val w l) 0 (A.val w l)), out l)),
    bits := unbBit c.act out ins }

/-- The VMOV slot: value and bound of A (R145, R146). -/
def movSlot (c : Ctx) (ty : ITy) (d a : VReg) : SlotRes :=
  let A := c.lanesV ty.wide .a a
  { vec := some (d, ty.wide, (List.finRange 64).map fun l => (A.val ty.wide l, A.bnd l)) }

/-- A tiered FP slot (R155): rounds with RDEF, always checked. -/
def tieredSlot (c : Ctx) (op : TOp) (ty : FTy) (full : Bool) (d a : VReg) : SlotRes :=
  let w := ty.wide
  let D := c.lanesV w .d d
  let A := c.lanesV w .a a
  let v := c.env
  let els := fun (l : Fin 64) => ops3 ty (D.val w l) (A.val w l) 0 (D.bnd l) (A.bnd l) 0
  let (t, up) := if full then (Tier.full, false) else v.autoTier ty op v.rdef (activeEls c.act els)
  { fp := some (d, regsOf w, tieredOuts v true c.act ty op v.rdef t els fun l => [D.bnd l, A.bnd l]),
    auto := if full then none else some t, tier := t, up := up }

/-- FMIN and FMAX slots (R155): execute at FULL. -/
def minmaxSlot (c : Ctx) (isMax : Bool) (ty : FTy) (d a : VReg) : SlotRes :=
  let w := ty.wide
  let D := c.lanesV w .d d
  let A := c.lanesV w .a a
  let v := c.env
  { fp := some (d, regsOf w, outs c.act fun l =>
      laneOut v true ty
        ((ops3 ty (D.val w l) (A.val w l) 0 (D.bnd l) (A.bnd l) 0).map fun x =>
          fminmax (fmtOf ty) isMax v.dnan x.a x.b x.ea x.eb) [D.bnd l, A.bnd l]) }

/-- A uniform slot (R137): 64 bits, no type. -/
def uniSlot (c : Ctx) (f : Word → Word → Word) (d a : SReg) : SlotRes := { uni := some (d, f (c.sr .d d) (c.sr .a a)) }

/-- A predicate slot (R139). -/
def predSlot (c : Ctx) (f : Mask → Mask → Mask) (d a : PReg) : SlotRes := { pred := some (d, f (c.p .d d) (c.p .a a)) }

/-- A shift by an unsigned amount, 0 at 64 or more (R137). -/
def shlW (x k : Word) : Word := if 64 ≤ k.toNat then 0 else x <<< k.toNat
def shrW (x k : Word) : Word := if 64 ≤ k.toNat then 0 else x >>> k.toNat

/-- What a slot will write. -/
def slotRes (c : Ctx) : Slot → SlotRes
  | .vadd ty d a => vecSlot c .add ty d a
  | .vsub ty d a => vecSlot c .sub ty d a
  | .vmul ty d a => vecSlot c .mul ty d a
  | .vand ty d a => vecSlot c .and ty d a
  | .vor ty d a => vecSlot c .or ty d a
  | .vxor ty d a => vecSlot c .xor ty d a
  | .vmin ty d a => vecSlot c .min ty d a
  | .vmax ty d a => vecSlot c .max ty d a
  | .vmov ty d a => movSlot c ty d a
  | .vshl ty d a => vecSlot c .shl ty d a
  | .vshr ty d a => vecSlot c .shr ty d a
  | .fadd ty full d a => tieredSlot c .add ty full d a
  | .fsub ty full d a => tieredSlot c .sub ty full d a
  | .fmul ty full d a => tieredSlot c .mul ty full d a
  | .fmin ty _ d a => minmaxSlot c false ty d a
  | .fmax ty _ d a => minmaxSlot c true ty d a
  | .sadd d a => uniSlot c (· + ·) d a
  | .ssub d a => uniSlot c (· - ·) d a
  | .sand d a => uniSlot c (· &&& ·) d a
  | .sor d a => uniSlot c (· ||| ·) d a
  | .sxor d a => uniSlot c (· ^^^ ·) d a
  | .smov d a => uniSlot c (fun _ y => y) d a
  | .sshl d a => uniSlot c shlW d a
  | .sshr d a => uniSlot c shrW d a
  | .pand d a => predSlot c (· &&& ·) d a
  | .por d a => predSlot c (· ||| ·) d a
  | .pmov d a => predSlot c (fun _ y => y) d a

/-- The breaching lanes of a slot. -/
def SlotRes.breach (r : SlotRes) : Mask :=
  match r.fp with
  | some (_, _, o) => Outs.breach o
  | none => 0

/-- The bound of a slot's lowest breaching lane (DEDUCED, log 14). -/
def SlotRes.breachBound (r : SlotRes) : Bound :=
  match r.fp with
  | some (_, _, o) => Outs.breachBound o
  | none => 0

/-- Writes what a slot computed. -/
def Ctx.putSlot (c : Ctx) (r : SlotRes) : Ctx :=
  let c := match r.vec with
    | some (d, w, xs) => c.setLanes w d c.act (fun l => (xs.getD l.val (0, 0)).1) fun l => (xs.getD l.val (0, 0)).2
    | none => c
  let c := match r.uni with
    | some (d, x) => c.setS d x
    | none => c
  let c := match r.pred with
    | some (d, x) => c.setP d c.act x
    | none => c
  let c := match r.fp with
    | some (d, n, o) => c.finish d.toNat n o
    | none => c
  (c.stick r.bits).stick (if r.up then stickyTIERUP else 0)

/-- LASTTIER as a slot leaves it (R82, R155). -/
def Ctx.slotTier (c : Ctx) (r : SlotRes) : Ctx :=
  match r.auto with
  | some t => c.tierTo (tierCode t)
  | none => c

/-- A P word (R99, R155): neither slot writes when one breaches under BMODE.TRAP = 1. -/
def pairWord (c : Ctx) (x y : Slot) : State :=
  let a := slotRes c x
  let b := slotRes c y
  let c := (c.slotTier a).slotTier b
  let m := a.breach ||| b.breach
  if m ≠ 0 && c.env.trap then
    if a.breach ≠ 0 then breachTrap c m a.breachBound (tierCode a.tier)
    else breachTrap c m b.breachBound (tierCode b.tier)
  else retire ((c.putSlot a).putSlot b)

/-- SADD_SLOT (R137). -/
def execSaddSlot (m : Bool) (d a : SReg) (other : Slot) (s : State) : Out :=
  onWord (.saddSlot m d a other) (slotHdr m) s fun c => pairWord c (.sadd d a) other
/-- SSUB_SLOT (R137). -/
def execSsubSlot (m : Bool) (d a : SReg) (other : Slot) (s : State) : Out :=
  onWord (.ssubSlot m d a other) (slotHdr m) s fun c => pairWord c (.ssub d a) other
/-- SAND_SLOT (R137). -/
def execSandSlot (m : Bool) (d a : SReg) (other : Slot) (s : State) : Out :=
  onWord (.sandSlot m d a other) (slotHdr m) s fun c => pairWord c (.sand d a) other
/-- SOR_SLOT (R137). -/
def execSorSlot (m : Bool) (d a : SReg) (other : Slot) (s : State) : Out :=
  onWord (.sorSlot m d a other) (slotHdr m) s fun c => pairWord c (.sor d a) other
/-- SXOR_SLOT (R137). -/
def execSxorSlot (m : Bool) (d a : SReg) (other : Slot) (s : State) : Out :=
  onWord (.sxorSlot m d a other) (slotHdr m) s fun c => pairWord c (.sxor d a) other
/-- SMOV_SLOT (R137). -/
def execSmovSlot (m : Bool) (d a : SReg) (other : Slot) (s : State) : Out :=
  onWord (.smovSlot m d a other) (slotHdr m) s fun c => pairWord c (.smov d a) other
/-- SSHL_SLOT (R137). -/
def execSshlSlot (m : Bool) (d a : SReg) (other : Slot) (s : State) : Out :=
  onWord (.sshlSlot m d a other) (slotHdr m) s fun c => pairWord c (.sshl d a) other
/-- SSHR_SLOT (R137). -/
def execSshrSlot (m : Bool) (d a : SReg) (other : Slot) (s : State) : Out :=
  onWord (.sshrSlot m d a other) (slotHdr m) s fun c => pairWord c (.sshr d a) other
/-- PAND_SLOT (R139). -/
def execPandSlot (m : Bool) (d a : PReg) (other : Slot) (s : State) : Out :=
  onWord (.pandSlot m d a other) (slotHdr m) s fun c => pairWord c (.pand d a) other
/-- POR_SLOT (R139). -/
def execPorSlot (m : Bool) (d a : PReg) (other : Slot) (s : State) : Out :=
  onWord (.porSlot m d a other) (slotHdr m) s fun c => pairWord c (.por d a) other
/-- PMOV_SLOT (R139). -/
def execPmovSlot (m : Bool) (d a : PReg) (other : Slot) (s : State) : Out :=
  onWord (.pmovSlot m d a other) (slotHdr m) s fun c => pairWord c (.pmov d a) other
/-- VADD_SLOT (R145). -/
def execVaddSlot (m : Bool) (ty : ITy) (d a : VReg) (other : Slot) (s : State) : Out :=
  onWord (.vaddSlot m ty d a other) (slotHdr m) s fun c => pairWord c (.vadd ty d a) other
/-- VSUB_SLOT (R145). -/
def execVsubSlot (m : Bool) (ty : ITy) (d a : VReg) (other : Slot) (s : State) : Out :=
  onWord (.vsubSlot m ty d a other) (slotHdr m) s fun c => pairWord c (.vsub ty d a) other
/-- VMUL_SLOT (R145). -/
def execVmulSlot (m : Bool) (ty : ITy) (d a : VReg) (other : Slot) (s : State) : Out :=
  onWord (.vmulSlot m ty d a other) (slotHdr m) s fun c => pairWord c (.vmul ty d a) other
/-- VAND_SLOT (R145). -/
def execVandSlot (m : Bool) (ty : ITy) (d a : VReg) (other : Slot) (s : State) : Out :=
  onWord (.vandSlot m ty d a other) (slotHdr m) s fun c => pairWord c (.vand ty d a) other
/-- VOR_SLOT (R145). -/
def execVorSlot (m : Bool) (ty : ITy) (d a : VReg) (other : Slot) (s : State) : Out :=
  onWord (.vorSlot m ty d a other) (slotHdr m) s fun c => pairWord c (.vor ty d a) other
/-- VXOR_SLOT (R145). -/
def execVxorSlot (m : Bool) (ty : ITy) (d a : VReg) (other : Slot) (s : State) : Out :=
  onWord (.vxorSlot m ty d a other) (slotHdr m) s fun c => pairWord c (.vxor ty d a) other
/-- VMIN_SLOT (R145). -/
def execVminSlot (m : Bool) (ty : ITy) (d a : VReg) (other : Slot) (s : State) : Out :=
  onWord (.vminSlot m ty d a other) (slotHdr m) s fun c => pairWord c (.vmin ty d a) other
/-- VMAX_SLOT (R145). -/
def execVmaxSlot (m : Bool) (ty : ITy) (d a : VReg) (other : Slot) (s : State) : Out :=
  onWord (.vmaxSlot m ty d a other) (slotHdr m) s fun c => pairWord c (.vmax ty d a) other
/-- VMOV_SLOT (R145). -/
def execVmovSlot (m : Bool) (ty : ITy) (d a : VReg) (other : Slot) (s : State) : Out :=
  onWord (.vmovSlot m ty d a other) (slotHdr m) s fun c => pairWord c (.vmov ty d a) other
/-- VSHL_SLOT (R145). -/
def execVshlSlot (m : Bool) (ty : ITy) (d a : VReg) (other : Slot) (s : State) : Out :=
  onWord (.vshlSlot m ty d a other) (slotHdr m) s fun c => pairWord c (.vshl ty d a) other
/-- VSHR_SLOT (R145). -/
def execVshrSlot (m : Bool) (ty : ITy) (d a : VReg) (other : Slot) (s : State) : Out :=
  onWord (.vshrSlot m ty d a other) (slotHdr m) s fun c => pairWord c (.vshr ty d a) other
/-- FADD_SLOT (R155). -/
def execFaddSlot (m : Bool) (ty : FTy) (full : Bool) (d a : VReg) (other : Slot) (s : State) : Out :=
  onWord (.faddSlot m ty full d a other) (slotHdr m) s fun c => pairWord c (.fadd ty full d a) other
/-- FSUB_SLOT (R155). -/
def execFsubSlot (m : Bool) (ty : FTy) (full : Bool) (d a : VReg) (other : Slot) (s : State) : Out :=
  onWord (.fsubSlot m ty full d a other) (slotHdr m) s fun c => pairWord c (.fsub ty full d a) other
/-- FMUL_SLOT (R155). -/
def execFmulSlot (m : Bool) (ty : FTy) (full : Bool) (d a : VReg) (other : Slot) (s : State) : Out :=
  onWord (.fmulSlot m ty full d a other) (slotHdr m) s fun c => pairWord c (.fmul ty full d a) other
/-- FMIN_SLOT (R155). -/
def execFminSlot (m : Bool) (ty : FTy) (full : Bool) (d a : VReg) (other : Slot) (s : State) : Out :=
  onWord (.fminSlot m ty full d a other) (slotHdr m) s fun c => pairWord c (.fmin ty full d a) other
/-- FMAX_SLOT (R155). -/
def execFmaxSlot (m : Bool) (ty : FTy) (full : Bool) (d a : VReg) (other : Slot) (s : State) : Out :=
  onWord (.fmaxSlot m ty full d a other) (slotHdr m) s fun c => pairWord c (.fmax ty full d a) other

end Sys2Proof.Machine
end

