-- ==== Sys2Proof/Machine/Dispatch.lean ====
section
/-! DEFINITION. The dispatch: every operation of the table goes to its own meaning. -/

namespace Sys2Proof.Machine
open Sys2Proof

/-- The outcome of an operation at a state. -/
def exec (i : Instr) (s : State) : Host.Outcome State Fault Refusal :=
  match i with
  | .bra h prio imm => Sys2Proof.Machine.execBra h prio imm s
  | .brc h prio p imm => Sys2Proof.Machine.execBrc h prio p imm s
  | .call h prio d imm => Sys2Proof.Machine.execCall h prio d imm s
  | .brx h prio a => Sys2Proof.Machine.execBrx h prio a s
  | .ret h prio a => Sys2Proof.Machine.execRet h prio a s
  | .exit h => Sys2Proof.Machine.execExit h s
  | .nop h => Sys2Proof.Machine.execNop h s
  | .reconv h => Sys2Proof.Machine.execReconv h s
  | .prio h n => Sys2Proof.Machine.execPrio h n s
  | .yield h => Sys2Proof.Machine.execYield h s
  | .sleep h imm => Sys2Proof.Machine.execSleep h imm s
  | .sadd h m d a b => Sys2Proof.Machine.execSadd h m d a b s
  | .ssub h m d a b => Sys2Proof.Machine.execSsub h m d a b s
  | .smul h m d a b => Sys2Proof.Machine.execSmul h m d a b s
  | .smulh h m d a b => Sys2Proof.Machine.execSmulh h m d a b s
  | .smad h m d a b c => Sys2Proof.Machine.execSmad h m d a b c s
  | .sand h m d a b => Sys2Proof.Machine.execSand h m d a b s
  | .sor h m d a b => Sys2Proof.Machine.execSor h m d a b s
  | .sxor h m d a b => Sys2Proof.Machine.execSxor h m d a b s
  | .snot h m d a => Sys2Proof.Machine.execSnot h m d a s
  | .sshl h m d a b => Sys2Proof.Machine.execSshl h m d a b s
  | .sshr h m d a b => Sys2Proof.Machine.execSshr h m d a b s
  | .ssar h m d a b => Sys2Proof.Machine.execSsar h m d a b s
  | .smin h m d a b => Sys2Proof.Machine.execSmin h m d a b s
  | .smax h m d a b => Sys2Proof.Machine.execSmax h m d a b s
  | .scmp h ty cond p a b => Sys2Proof.Machine.execScmp h ty cond p a b s
  | .ssel h m d a b c => Sys2Proof.Machine.execSsel h m d a b c s
  | .smov h m d a => Sys2Proof.Machine.execSmov h m d a s
  | .sclz h m d a => Sys2Proof.Machine.execSclz h m d a s
  | .spopc h m d a => Sys2Proof.Machine.execSpopc h m d a s
  | .sbfe h m d a b => Sys2Proof.Machine.execSbfe h m d a b s
  | .smovi h d imm => Sys2Proof.Machine.execSmovi h d imm s
  | .smovih h d imm => Sys2Proof.Machine.execSmovih h d imm s
  | .saddi h d imm => Sys2Proof.Machine.execSaddi h d imm s
  | .sandi h d imm => Sys2Proof.Machine.execSandi h d imm s
  | .sori h d imm => Sys2Proof.Machine.execSori h d imm s
  | .sxori h d imm => Sys2Proof.Machine.execSxori h d imm s
  | .sshli h d imm => Sys2Proof.Machine.execSshli h d imm s
  | .sshri h d imm => Sys2Proof.Machine.execSshri h d imm s
  | .ssari h d imm => Sys2Proof.Machine.execSsari h d imm s
  | .smuli h d imm => Sys2Proof.Machine.execSmuli h d imm s
  | .scmpi h cond p a imm => Sys2Proof.Machine.execScmpi h cond p a imm s
  | .saddSlot m0 d a other => Sys2Proof.Machine.execSaddSlot m0 d a other s
  | .ssubSlot m0 d a other => Sys2Proof.Machine.execSsubSlot m0 d a other s
  | .sandSlot m0 d a other => Sys2Proof.Machine.execSandSlot m0 d a other s
  | .sorSlot m0 d a other => Sys2Proof.Machine.execSorSlot m0 d a other s
  | .sxorSlot m0 d a other => Sys2Proof.Machine.execSxorSlot m0 d a other s
  | .smovSlot m0 d a other => Sys2Proof.Machine.execSmovSlot m0 d a other s
  | .sshlSlot m0 d a other => Sys2Proof.Machine.execSshlSlot m0 d a other s
  | .sshrSlot m0 d a other => Sys2Proof.Machine.execSshrSlot m0 d a other s
  | .pand h d a b => Sys2Proof.Machine.execPand h d a b s
  | .por h d a b => Sys2Proof.Machine.execPor h d a b s
  | .pxor h d a b => Sys2Proof.Machine.execPxor h d a b s
  | .pandn h d a b => Sys2Proof.Machine.execPandn h d a b s
  | .pnot h d a => Sys2Proof.Machine.execPnot h d a s
  | .pmov h d a => Sys2Proof.Machine.execPmov h d a s
  | .pset h d a => Sys2Proof.Machine.execPset h d a s
  | .pget h d a => Sys2Proof.Machine.execPget h d a s
  | .ppopc h d a => Sys2Proof.Machine.execPpopc h d a s
  | .pfirst h d a => Sys2Proof.Machine.execPfirst h d a s
  | .pandSlot m0 d a other => Sys2Proof.Machine.execPandSlot m0 d a other s
  | .porSlot m0 d a other => Sys2Proof.Machine.execPorSlot m0 d a other s
  | .pmovSlot m0 d a other => Sys2Proof.Machine.execPmovSlot m0 d a other s
  | .vadd h m d a b => Sys2Proof.Machine.execVadd h m d a b s
  | .vsub h m d a b => Sys2Proof.Machine.execVsub h m d a b s
  | .vmul h m d a b => Sys2Proof.Machine.execVmul h m d a b s
  | .vmulh h m d a b => Sys2Proof.Machine.execVmulh h m d a b s
  | .vmad h m d a b c => Sys2Proof.Machine.execVmad h m d a b c s
  | .vabs h m d a => Sys2Proof.Machine.execVabs h m d a s
  | .vneg h m d a => Sys2Proof.Machine.execVneg h m d a s
  | .vmin h m d a b => Sys2Proof.Machine.execVmin h m d a b s
  | .vmax h m d a b => Sys2Proof.Machine.execVmax h m d a b s
  | .vand h m d a b => Sys2Proof.Machine.execVand h m d a b s
  | .vor h m d a b => Sys2Proof.Machine.execVor h m d a b s
  | .vxor h m d a b => Sys2Proof.Machine.execVxor h m d a b s
  | .vnot h m d a => Sys2Proof.Machine.execVnot h m d a s
  | .vshl h m d a b => Sys2Proof.Machine.execVshl h m d a b s
  | .vshr h m d a b => Sys2Proof.Machine.execVshr h m d a b s
  | .vsar h m d a b => Sys2Proof.Machine.execVsar h m d a b s
  | .vclz h m d a => Sys2Proof.Machine.execVclz h m d a s
  | .vpopc h m d a => Sys2Proof.Machine.execVpopc h m d a s
  | .vbfe h m d a b => Sys2Proof.Machine.execVbfe h m d a b s
  | .vbfi h m d a b c => Sys2Proof.Machine.execVbfi h m d a b c s
  | .vcmp h ty cond p a b => Sys2Proof.Machine.execVcmp h ty cond p a b s
  | .vsel h ty d a b p => Sys2Proof.Machine.execVsel h ty d a b p s
  | .vmov h m d a => Sys2Proof.Machine.execVmov h m d a s
  | .vmovi h d imm => Sys2Proof.Machine.execVmovi h d imm s
  | .vaddi h d imm => Sys2Proof.Machine.execVaddi h d imm s
  | .vandi h d imm => Sys2Proof.Machine.execVandi h d imm s
  | .vori h d imm => Sys2Proof.Machine.execVori h d imm s
  | .vshli h d imm => Sys2Proof.Machine.execVshli h d imm s
  | .vshri h d imm => Sys2Proof.Machine.execVshri h d imm s
  | .fmovi h d imm => Sys2Proof.Machine.execFmovi h d imm s
  | .vaddSlot m0 ty d a other => Sys2Proof.Machine.execVaddSlot m0 ty d a other s
  | .vsubSlot m0 ty d a other => Sys2Proof.Machine.execVsubSlot m0 ty d a other s
  | .vmulSlot m0 ty d a other => Sys2Proof.Machine.execVmulSlot m0 ty d a other s
  | .vandSlot m0 ty d a other => Sys2Proof.Machine.execVandSlot m0 ty d a other s
  | .vorSlot m0 ty d a other => Sys2Proof.Machine.execVorSlot m0 ty d a other s
  | .vxorSlot m0 ty d a other => Sys2Proof.Machine.execVxorSlot m0 ty d a other s
  | .vminSlot m0 ty d a other => Sys2Proof.Machine.execVminSlot m0 ty d a other s
  | .vmaxSlot m0 ty d a other => Sys2Proof.Machine.execVmaxSlot m0 ty d a other s
  | .vmovSlot m0 ty d a other => Sys2Proof.Machine.execVmovSlot m0 ty d a other s
  | .vshlSlot m0 ty d a other => Sys2Proof.Machine.execVshlSlot m0 ty d a other s
  | .vshrSlot m0 ty d a other => Sys2Proof.Machine.execVshrSlot m0 ty d a other s
  | .fadd h m d a b => Sys2Proof.Machine.execFadd h m d a b s
  | .fsub h m d a b => Sys2Proof.Machine.execFsub h m d a b s
  | .fmul h m d a b => Sys2Proof.Machine.execFmul h m d a b s
  | .ffma h m nc d a b c => Sys2Proof.Machine.execFfma h m nc d a b c s
  | .fmin h m d a b => Sys2Proof.Machine.execFmin h m d a b s
  | .fmax h m d a b => Sys2Proof.Machine.execFmax h m d a b s
  | .fabs h m d a => Sys2Proof.Machine.execFabs h m d a s
  | .fneg h m d a => Sys2Proof.Machine.execFneg h m d a s
  | .fcmp h ty full cond p a b => Sys2Proof.Machine.execFcmp h ty full cond p a b s
  | .fclass h ty full d a => Sys2Proof.Machine.execFclass h ty full d a s
  | .fdiv h m d a b => Sys2Proof.Machine.execFdiv h m d a b s
  | .fsqrt h m d a => Sys2Proof.Machine.execFsqrt h m d a s
  | .frcp h m d a => Sys2Proof.Machine.execFrcp h m d a s
  | .frsq h m d a => Sys2Proof.Machine.execFrsq h m d a s
  | .fexp2 h m d a => Sys2Proof.Machine.execFexp2 h m d a s
  | .flog2 h m d a => Sys2Proof.Machine.execFlog2 h m d a s
  | .fldexp h m d a b => Sys2Proof.Machine.execFldexp h m d a b s
  | .frnd h m d a => Sys2Proof.Machine.execFrnd h m d a s
  | .faddSlot m0 ty full d a other => Sys2Proof.Machine.execFaddSlot m0 ty full d a other s
  | .fsubSlot m0 ty full d a other => Sys2Proof.Machine.execFsubSlot m0 ty full d a other s
  | .fmulSlot m0 ty full d a other => Sys2Proof.Machine.execFmulSlot m0 ty full d a other s
  | .fminSlot m0 ty full d a other => Sys2Proof.Machine.execFminSlot m0 ty full d a other s
  | .fmaxSlot m0 ty full d a other => Sys2Proof.Machine.execFmaxSlot m0 ty full d a other s
  | .cvt h m dst src d a => Sys2Proof.Machine.execCvt h m dst src d a s
  | .cvtpk h m dst src d a => Sys2Proof.Machine.execCvtpk h m dst src d a s
  | .mxscale h full fmt d a => Sys2Proof.Machine.execMxscale h full fmt d a s
  | .mxq h sr sat full q pack fmt d a b => Sys2Proof.Machine.execMxq h sr sat full q pack fmt d a b s
  | .mxdq h full q pack fmt d a b => Sys2Proof.Machine.execMxdq h full q pack fmt d a b s
  | .vrfl h w d a => Sys2Proof.Machine.execVrfl h w d a s
  | .vrln h w d a b => Sys2Proof.Machine.execVrln h w d a b s
  | .vwln h w d a b => Sys2Proof.Machine.execVwln h w d a b s
  | .vbcst h w d a b => Sys2Proof.Machine.execVbcst h w d a b s
  | .vshfl h w xor d a b => Sys2Proof.Machine.execVshfl h w xor d a b s
  | .vrot h w g d a b => Sys2Proof.Machine.execVrot h w g d a b s
  | .vred h ty op q d a => Sys2Proof.Machine.execVred h ty op q d a s
  | .vscan h ty op q d a => Sys2Proof.Machine.execVscan h ty op q d a s
  | .vvote h mode d a => Sys2Proof.Machine.execVvote h mode d a s
  | .vlane h gid d => Sys2Proof.Machine.execVlane h gid d s
  | .bget h w d a => Sys2Proof.Machine.execBget h w d a s
  | .bset h w d a => Sys2Proof.Machine.execBset h w d a s
  | .bclr h w d => Sys2Proof.Machine.execBclr h w d s
  | .bunb h w d => Sys2Proof.Machine.execBunb h w d s
  | .bmaxr h w d a b => Sys2Proof.Machine.execBmaxr h w d a b s
  | .bchk h ty kind p a => Sys2Proof.Machine.execBchk h ty kind p a s
  | .bud h a => Sys2Proof.Machine.execBud h a s
  | .budi h imm => Sys2Proof.Machine.execBudi h imm s
  | .ld h m sz d => Sys2Proof.Machine.execLd h m sz d s
  | .st h m sz d => Sys2Proof.Machine.execSt h m sz d s
  | .ldu h m sz d => Sys2Proof.Machine.execLdu h m sz d s
  | .stu h m sz d => Sys2Proof.Machine.execStu h m sz d s
  | .lds h m sz d => Sys2Proof.Machine.execLds h m sz d s
  | .sts h m sz d => Sys2Proof.Machine.execSts h m sz d s
  | .pref h m => Sys2Proof.Machine.execPref h m s
  | .ldsp h m sz d => Sys2Proof.Machine.execLdsp h m sz d s
  | .atomAdd h m ty ret d => Sys2Proof.Machine.execAtomAdd h m ty ret d s
  | .atomSub h m ty ret d => Sys2Proof.Machine.execAtomSub h m ty ret d s
  | .atomMin h m ty ret d => Sys2Proof.Machine.execAtomMin h m ty ret d s
  | .atomMax h m ty ret d => Sys2Proof.Machine.execAtomMax h m ty ret d s
  | .atomAnd h m ty ret d => Sys2Proof.Machine.execAtomAnd h m ty ret d s
  | .atomOr h m ty ret d => Sys2Proof.Machine.execAtomOr h m ty ret d s
  | .atomXor h m ty ret d => Sys2Proof.Machine.execAtomXor h m ty ret d s
  | .atomXchg h m ty ret d => Sys2Proof.Machine.execAtomXchg h m ty ret d s
  | .atomCas h m ty ret d => Sys2Proof.Machine.execAtomCas h m ty ret d s
  | .atomsAdd h m ty ret d => Sys2Proof.Machine.execAtomsAdd h m ty ret d s
  | .atomsSub h m ty ret d => Sys2Proof.Machine.execAtomsSub h m ty ret d s
  | .atomsMin h m ty ret d => Sys2Proof.Machine.execAtomsMin h m ty ret d s
  | .atomsMax h m ty ret d => Sys2Proof.Machine.execAtomsMax h m ty ret d s
  | .atomsAnd h m ty ret d => Sys2Proof.Machine.execAtomsAnd h m ty ret d s
  | .atomsOr h m ty ret d => Sys2Proof.Machine.execAtomsOr h m ty ret d s
  | .atomsXor h m ty ret d => Sys2Proof.Machine.execAtomsXor h m ty ret d s
  | .atomsXchg h m ty ret d => Sys2Proof.Machine.execAtomsXchg h m ty ret d s
  | .atomsCas h m ty ret d => Sys2Proof.Machine.execAtomsCas h m ty ret d s
  | .ldv h m d => Sys2Proof.Machine.execLdv h m d s
  | .stv h m d => Sys2Proof.Machine.execStv h m d s
  | .recon h m op d => Sys2Proof.Machine.execRecon h m op d s
  | .fence h sc scope => Sys2Proof.Machine.execFence h sc scope s
  | .cacheDrop h a => Sys2Proof.Machine.execCacheDrop h a s
  | .cacheClean h a => Sys2Proof.Machine.execCacheClean h a s
  | .cacheInval h a => Sys2Proof.Machine.execCacheInval h a s
  | .barinit h scope d sa off => Sys2Proof.Machine.execBarinit h scope d sa off s
  | .bararr h d sa off => Sys2Proof.Machine.execBararr h d sa off s
  | .barexp h d sa off => Sys2Proof.Machine.execBarexp h d sa off s
  | .barwait h d sa off => Sys2Proof.Machine.execBarwait h d sa off s
  | .bartest h d sa off => Sys2Proof.Machine.execBartest h d sa off s
  | .bardrop h d sa off => Sys2Proof.Machine.execBardrop h d sa off s
  | .sbar h level b a => Sys2Proof.Machine.execSbar h level b a s
  | .jdecl h d a => Sys2Proof.Machine.execJdecl h d a s
  | .jsign h d a => Sys2Proof.Machine.execJsign h d a s
  | .jwait h d => Sys2Proof.Machine.execJwait h d s
  | .tcfg h d a => Sys2Proof.Machine.execTcfg h d a s
  | .tzero h d => Sys2Proof.Machine.execTzero h d s
  | .tld h m d => Sys2Proof.Machine.execTld h m d s
  | .tst h m d => Sys2Proof.Machine.execTst h m d s
  | .mma h tier q d a b j => Sys2Proof.Machine.execMma h tier q d a b j s
  | .accz h d => Sys2Proof.Machine.execAccz h d s
  | .accmov h d a b => Sys2Proof.Machine.execAccmov h d a b s
  | .accbnd h d a => Sys2Proof.Machine.execAccbnd h d a s
  | .accspill h a b => Sys2Proof.Machine.execAccspill h a b s
  | .accfill h mcode ncode d a => Sys2Proof.Machine.execAccfill h mcode ncode d a s
  | .accld h m d => Sys2Proof.Machine.execAccld h m d s
  | .accst h m d => Sys2Proof.Machine.execAccst h m d s
  | .accstAdd h m d => Sys2Proof.Machine.execAccstAdd h m d s
  | .keycut h d sa off => Sys2Proof.Machine.execKeycut h d sa off s
  | .tldk h m d => Sys2Proof.Machine.execTldk h m d s
  | .keydrop h a => Sys2Proof.Machine.execKeydrop h a s
  | .keyq h d a => Sys2Proof.Machine.execKeyq h d a s
  | .cpykick h queue scope d sa off => Sys2Proof.Machine.execCpykick h queue scope d sa off s
  | .cpystat h d a => Sys2Proof.Machine.execCpystat h d a s
  | .cpycan h a => Sys2Proof.Machine.execCpycan h a s
  | .rowcpy h d a c => Sys2Proof.Machine.execRowcpy h d a c s
  | .rowfil h d a c => Sys2Proof.Machine.execRowfil h d a c s
  | .rowand h d a b c => Sys2Proof.Machine.execRowand h d a b c s
  | .rowor h d a b c => Sys2Proof.Machine.execRowor h d a b c s
  | .rowxor h d a b c => Sys2Proof.Machine.execRowxor h d a b c s
  | .rownot h d a c => Sys2Proof.Machine.execRownot h d a c s
  | .rowmaj h d a b c => Sys2Proof.Machine.execRowmaj h d a b c s
  | .rowrdx h d a c => Sys2Proof.Machine.execRowrdx h d a c s
  | .rowstat h d a => Sys2Proof.Machine.execRowstat h d a s
  | .trap h imm => Sys2Proof.Machine.execTrap h imm s
  | .bkpt h n => Sys2Proof.Machine.execBkpt h n s
  | .rft h => Sys2Proof.Machine.execRft h s
  | .mfsr h d x => Sys2Proof.Machine.execMfsr h d x s
  | .mtsr h x a => Sys2Proof.Machine.execMtsr h x a s
  | .mtsri h x imm => Sys2Proof.Machine.execMtsri h x imm s
  | .firnrd h d => Sys2Proof.Machine.execFirnrd h d s
  | .lwait h a => Sys2Proof.Machine.execLwait h a s
  | .seed h a b => Sys2Proof.Machine.execSeed h a b s
  | .halt h => Sys2Proof.Machine.execHalt h s
  | .frsave h a => Sys2Proof.Machine.execFrsave h a s
  | .frload h a => Sys2Proof.Machine.execFrload h a s
  | .issueClock core part => Sys2Proof.Machine.execIssueClock core part s
  | .runBoundary floe => Sys2Proof.Machine.execRunBoundary floe s
  | .loadResponse acc unit => Sys2Proof.Machine.execLoadResponse acc unit s
  | .mmaFire pack join => Sys2Proof.Machine.execMmaFire pack join s
  | .mmaComplete pack join => Sys2Proof.Machine.execMmaComplete pack join s
  | .sleepDeadline floe => Sys2Proof.Machine.execSleepDeadline floe s
  | .lwaitDeadline floe => Sys2Proof.Machine.execLwaitDeadline floe s
  | .firnSyncBeat die drift => Sys2Proof.Machine.execFirnSyncBeat die drift s
  | .firnSkew die => Sys2Proof.Machine.execFirnSkew die s
  | .podFirnSample time trip => Sys2Proof.Machine.execPodFirnSample time trip s
  | .l1LeaseExpiry core line => Sys2Proof.Machine.execL1LeaseExpiry core line s
  | .leaseHorizonReached die line => Sys2Proof.Machine.execLeaseHorizonReached die line s
  | .directoryRecall line => Sys2Proof.Machine.execDirectoryRecall line s
  | .pageWalk core queue va => Sys2Proof.Machine.execPageWalk core queue va s
  | .translationLeaseExpiry core ctx page => Sys2Proof.Machine.execTranslationLeaseExpiry core ctx page s
  | .walkAheadRenewal core queue => Sys2Proof.Machine.execWalkAheadRenewal core queue s
  | .faultQueueEntryWrite => Sys2Proof.Machine.execFaultQueueEntryWrite s
  | .fqrespRetry id => Sys2Proof.Machine.execFqrespRetry id s
  | .fqrespDeny id => Sys2Proof.Machine.execFqrespDeny id s
  | .cpykickQueueEvent core queue => Sys2Proof.Machine.execCpykickQueueEvent core queue s
  | .latchRequestStart core queue => Sys2Proof.Machine.execLatchRequestStart core queue s
  | .latchPieceIssue core => Sys2Proof.Machine.execLatchPieceIssue core s
  | .latchPieceLand core piece => Sys2Proof.Machine.execLatchPieceLand core piece s
  | .ldspCopyLand copy => Sys2Proof.Machine.execLdspCopyLand copy s
  | .accstAddApply drain => Sys2Proof.Machine.execAccstAddApply drain s
  | .seracFork op => Sys2Proof.Machine.execSeracFork op s
  | .seracRowStep op => Sys2Proof.Machine.execSeracRowStep op s
  | .seracJoin op => Sys2Proof.Machine.execSeracJoin op s
  | .packSaveComplete pack => Sys2Proof.Machine.execPackSaveComplete pack s
  | .packPlacement die => Sys2Proof.Machine.execPackPlacement die s
  | .packRestorePlacement die => Sys2Proof.Machine.execPackRestorePlacement die s
  | .preempt floe => Sys2Proof.Machine.execPreempt floe s
  | .sliceExpiry die ctx => Sys2Proof.Machine.execSliceExpiry die ctx s
  | .nodeRelease inst node => Sys2Proof.Machine.execNodeRelease inst node s
  | .nodeComplete inst node => Sys2Proof.Machine.execNodeComplete inst node s
  | .watchdogIssueReport floe => Sys2Proof.Machine.execWatchdogIssueReport floe s
  | .watchdogStallReport floe => Sys2Proof.Machine.execWatchdogStallReport floe s
  | .carveOutInterval core => Sys2Proof.Machine.execCarveOutInterval core s
  | .bankGate core bank => Sys2Proof.Machine.execBankGate core bank s
  | .bankReady core bank => Sys2Proof.Machine.execBankReady core bank s
  | .powerStateEntry die => Sys2Proof.Machine.execPowerStateEntry die s
  | .dieWake die => Sys2Proof.Machine.execDieWake die s
  | .boostInterval die claims => Sys2Proof.Machine.execBoostInterval die claims s
  | .permitRefill die => Sys2Proof.Machine.execPermitRefill die s
  | .moduleReset => Sys2Proof.Machine.execModuleReset s
  | .bootctlWrite value trained imageOk => Sys2Proof.Machine.execBootctlWrite value trained imageOk s
  | .bootFull => Sys2Proof.Machine.execBootFull s
  | .eyeMarginLow stack lane eye => Sys2Proof.Machine.execEyeMarginLow stack lane eye s
  | .periodicRetrain stack => Sys2Proof.Machine.execPeriodicRetrain stack s
  | .channelWidthChange stack chan half thermal => Sys2Proof.Machine.execChannelWidthChange stack chan half thermal s
  | .hingeLinkFail die => Sys2Proof.Machine.execHingeLinkFail die s
  | .hostCxlMemWrite addr data => Sys2Proof.Machine.execHostCxlMemWrite addr data s
  | .hostCxlMemRead addr size => Sys2Proof.Machine.execHostCxlMemRead addr size s
  | .hostSnoop half invalidate => Sys2Proof.Machine.execHostSnoop half invalidate s
  | .poolBackInvalidate write => Sys2Proof.Machine.execPoolBackInvalidate write s
  | .peerAccess peer addr op => Sys2Proof.Machine.execPeerAccess peer addr op s
  | .podBarrierArrival index => Sys2Proof.Machine.execPodBarrierArrival index s
  | .podBarrierCompletion index gen => Sys2Proof.Machine.execPodBarrierCompletion index gen s
  | .trigger value => Sys2Proof.Machine.execTrigger value s
  | .ctxctlPreempt ctx => Sys2Proof.Machine.execCtxctlPreempt ctx s
  | .ctxctlEnd ctx => Sys2Proof.Machine.execCtxctlEnd ctx s
  | .contextEndRelease ctx => Sys2Proof.Machine.execContextEndRelease ctx s
  | .eyeactRetrain stack chan => Sys2Proof.Machine.execEyeactRetrain stack chan s
  | .eyeactRepair stack chan lane => Sys2Proof.Machine.execEyeactRepair stack chan lane s
  | .eyeactHalfWidth stack chan => Sys2Proof.Machine.execEyeactHalfWidth stack chan s
  | .eyeactFullWidth stack chan able => Sys2Proof.Machine.execEyeactFullWidth stack chan able s
  | .mpolicyWrite value => Sys2Proof.Machine.execMpolicyWrite value s
  | .cxlwinWrite window value => Sys2Proof.Machine.execCxlwinWrite window value s
  | .hbmmapWrite value => Sys2Proof.Machine.execHbmmapWrite value s
  | .mmioRegisterWrite offset size value => Sys2Proof.Machine.execMmioRegisterWrite offset size value s
  | .storePerformed acc unit => Sys2Proof.Machine.execStorePerformed acc unit s
  | .cxlPortTraining port up => Sys2Proof.Machine.execCxlPortTraining port up s
  | .hbmRefresh stack bank => Sys2Proof.Machine.execHbmRefresh stack bank s

end Sys2Proof.Machine
end

