-- ==== Sys2Proof/Machine/Due.lean ====
section
/-! DEFINITION. The device's own events, in the order in which the model lets them happen when nothing is scheduled (log 1): those of
memory and engines, of floes and packs, of the front end, of time, and the clocks of the partitions. The events that only the host
or the outside world brings about are not among them. Each stands as its meaning. -/

namespace Sys2Proof.Machine
open Sys2Proof

/-- Moments of pending accesses. -/
def State.accessEvents (s : State) : List (State → Out) :=
  s.pend.flatMap fun e => (List.range e.2.todo.length).map fun u =>
    if e.2.returns then execLoadResponse e.1 u else execStorePerformed e.1 u

/-- Moments of the engines. -/
def State.engineEvents (s : State) : List (State → Out) :=
  (s.cores.flatMap fun c =>
    ((c.2.kicks.map (·.queue)).eraseDups.map fun q => execCpykickQueueEvent c.1 q) ++
      (c.2.queues.flatMap fun q =>
        (q.2.flatMap fun r => r.flying.map fun x => execLatchPieceLand c.1 x.id) ++
          [execLatchRequestStart c.1 q.1] ++ (((c.2.head q.1).elim [] LReq.aheadVas).map fun e => execPageWalk c.1 q.1 e.1) ++
            [execWalkAheadRenewal c.1 q.1]) ++
      if c.2.queues.all fun q => q.2.isEmpty then [] else [execLatchPieceIssue c.1]) ++
    s.copies.map (fun x => execLdspCopyLand x.id) ++ s.drains.map (fun x => execAccstAddApply x.id) ++
    s.seracs.flatMap fun x => [execSeracFork x.id, execSeracRowStep x.id, execSeracJoin x.id]

/-- Moments of floes and packs. -/
def State.floeEvents (s : State) : List (State → Out) :=
  (s.floes.flatMap fun e =>
    [execRunBoundary e.1, execPreempt e.1, execSleepDeadline e.1, execLwaitDeadline e.1, execWatchdogIssueReport e.1,
      execWatchdogStallReport e.1]) ++
    s.packs.flatMap fun e =>
      ((List.range 8).flatMap fun j => [execMmaFire e.1 j, execMmaComplete e.1 j]) ++ [execPackSaveComplete e.1]

/-- Moments of the front end: the package's own arrivals at pod barriers (R379), nodes, contexts that end, placements, slices, faults. -/
def State.frontEvents (s : State) : List (State → Out) :=
  [execFaultQueueEntryWrite] ++ ((List.range 32).filter s.podDue).map (fun b => execPodBarrierArrival b) ++ s.hub.ending.map (fun c => execContextEndRelease c) ++
    s.hub.fields.map (fun f => execNodeComplete f.inst f.node) ++
    (s.hub.insts.flatMap fun i => (List.range i.nnodes).map fun n => execNodeRelease i.id n) ++
    (List.range 8).flatMap fun d =>
      (if s.hub.fields.isEmpty then [] else [execPackPlacement d, execPackRestorePlacement d]) ++
        (s.die d).slices.map fun x => execSliceExpiry d x.ctx

/-- Whether a die has a pack to take, which keeps it awake or wakes it (R392; DEDUCED, log 25). -/
def State.wanted (s : State) (die : Nat) : Bool := s.serves die && (s.nextField die).isSome

/-- Moments of time: beats, leases, intervals, power. -/
def State.timeEvents (s : State) : List (State → Out) :=
  (s.dies.flatMap fun e =>
    [execFirnSyncBeat e.1 0, if s.wanted e.1 then execDieWake e.1 else execPowerStateEntry e.1, execPermitRefill e.1] ++
    e.2.l2.flatMap fun l => (l.2.leases.map fun x => execL1LeaseExpiry x.core l.1) ++ [execLeaseHorizonReached e.1 l.1]) ++
    (s.cores.flatMap fun c =>
      (c.2.l1.map fun l => execL1LeaseExpiry c.1 l.1) ++
        ((c.2.tlb ++ c.2.ahead).map fun t => execTranslationLeaseExpiry c.1 t.ctx t.page) ++
        (c.2.banks.flatMap fun b => [execBankReady c.1 b.1, execBankGate c.1 b.1])) ++
    (if s.hub.bootPhase = 2 then [execBootFull] else []) ++ (List.range 320).map execCarveOutInterval

/-- The partitions with a floe that may issue and with a clock left in the present tick; a partition has two clocks in a tick. -/
def State.clockEvents (s : State) : List (State → Out) :=
  ((s.floes.map fun e => (coreOf e.1, e.2.part)).eraseDups.filter fun x =>
    s.wantsClock x.1 x.2 && (s.core x.1).clock.getD x.2 0 ≤ 2 * (s.firn x.1).toNat).map fun x => execIssueClock x.1 x.2

/-- The device's own events (DESIGN CHOICE, log 1). -/
def State.ownEvents (s : State) : List (State → Out) :=
  s.accessEvents ++ s.engineEvents ++ s.floeEvents ++ s.frontEvents ++ s.timeEvents ++ s.clockEvents

end Sys2Proof.Machine
end

