-- ==== Sys2Proof/Machine/Load.lean ====
section
/-! DEFINITION. Placing a word where the next step fetches it: in the memory of the floe that is to issue, or, where no floe is,
in the memory of a floe that is put on core 0 with a context, a launch descriptor and page tables (log 20). It stands for what
the host and the front end do before a program runs. -/

namespace Sys2Proof.Machine
open Sys2Proof

/-! ### The floe that is to issue -/

/-- Whether nothing keeps a floe's next word from issuing, whatever the word is. -/
def State.unhindered (s : State) (key : Nat) (f : Floe) : Bool :=
  s.mayIssue key f && s.pend.isEmpty && s.fences.isEmpty && !s.upsets.any Upset.isResidue &&
    f.resids.isEmpty && (s.core (coreOf key)).bad.isEmpty &&
    match s.packs.find? f.pack with
    | some p => p.mmas.isEmpty && !p.banks.any fun b => ((s.core (coreOf key)).bank b).waking
    | none => false

/-- Where the floe that issues next fetches its word, when it can. -/
def State.fetchSpot (s : State) : Option Nat :=
  match s.issue with
  | [] => none
  | key :: _ =>
    match s.floes.find? key with
    | none => none
    | some f =>
      if !s.unhindered key f then none
      else
        match s.startRun f, s.packs.find? f.pack with
        | some (f, r, _), some p =>
          if r.deniedFetch &&& r.mask ≠ 0 then none
          else
            match s.lookup .words (coreOf key) f.ctx (s.rootOf p) (r.pc.setWidth 64) (fetchOk f.handler) with
            | (s, .ok pa leaf _) => if s.poisonedAt (dieOf (coreOf key)) pa || !fetchOk f.handler leaf then none else some pa
            | (_, .miss _ _) => none
        | _, _ => none

/-! ### A floe put on core 0 -/

/-- The two tables and the first word of the loaded program: a root table, whose first entry names the second; its first entry
maps the first 512 MiB as one block, to write and to execute, tagged. -/
def loadRoot : Nat := 0x10000
def loadTable : Nat := 0x20000
def loadEntry : Nat := 0x30000

/-- The launch descriptor of the loaded program: one pack of one floe with every tile and accumulator, all registers that one floe
can have, and a scratchpad. -/
def loadDesc : Desc :=
  { entry := BitVec.ofNat 64 loadEntry, ctx := 0, prio := 0, nfloes := 1, tiles := 16, accs := 8, spmin := 1, spmax := 1, guard := 0,
    vregs := 1008, budget := 0, bmode := 0, fpctl := 0, barq := 32, bard := 32, barp := 32, barpod := 32, axis := 0, slice := 1000,
    nx := 1, ny := 1, nz := 1, bounds := [0, 1, 1, 1, 1, 1, 1, 1], seed := 0, step := 0, saveSlots := 1,
    xbase := BitVec.ofNat 64 loadEntry, saveBase := 0x1000000, pstride := 16, uargs := [] }

/-- The page tables of the loaded program. -/
def State.loadTables (s : State) : State :=
  let s := [loadRoot, loadTable, loadEntry].foldl (fun s a => s.setPoison (lineOf a) false) s
  (s.setBytes loadRoot (natLe 8 (loadTable + 1))).setBytes loadTable (natLe 8 0x817)

/-- The machine with the loaded program's floe about to issue its first word (DESIGN CHOICE, log 20). -/
def State.loadFloe (s : State) : State :=
  let h := s.hub
  let field : Field :=
    { inst := h.nextInst, node := 0, desc := loadDesc, troot := loadRoot, ranges := loadDesc.ranges, owners := List.range 8,
      placed := [1, 0, 0, 0, 0, 0, 0, 0], retired := 0, saved := [], slots := [0], bars := [], ended := false }
  let c := s.core 0
  let p : Pack :=
    { id := ⟨h.nextInst, 0, 0⟩, x := 0, y := 0, z := 0, ctx := 0, nfloes := 1, stats := [.resident], arrivals := [0],
      tiles := List.range 16, accs := List.range 8, tshape := Vector.replicate 16 0, shapeOld := [],
      joins := Vector.replicate 8 Join.idle, mmas := [], banks := [0], spmin := 1, spmax := 1, saveSlot := 0,
      pbase := loadDesc.saveBase, saving := false, ending := false, restores := [0], kept := [Kept.none],
      placedAt := s.fresh }
  let f := Floe.placed loadDesc 0 0 0 c.seqNext (s.firn 0) loadDesc.saveBase
  let c := { c with seqNext := c.seqNext + 1, tlb := [], bad := [], banks := c.banks.put 0 ⟨.pack, false, s.firn 0⟩ }
  let d := s.die 0
  let s := (s.setCore 0 c).setDie 0 { d with walks := [] }
  { s with
    floes := s.floes.put 0 f, packs := s.packs.put 0 p, issue := [0], issuing := none,
    pend := [], fences := [], upsets := [],
    hub := { h with fields := field :: h.fields, nextInst := h.nextInst + 1 } }

/-- The machine with a word stored where the next step fetches (DESIGN CHOICE, log 20). -/
def State.storeWord (s : State) (w : Word) : State :=
  match s.fetchSpot with
  | some pa => s.setBytes (s.hub.cell pa) (bytesOfWord w)
  | none => s.loadTables.loadFloe.setBytes loadEntry (bytesOfWord w)

end Sys2Proof.Machine
end

