-- ==== Sys2Proof/Machine/Step.lean ====
section
/-! DEFINITION. One step: the next word that the latest clock chose, or the next scheduled event, or the first event of the device's
own that changes anything, or, when there is none, the passing of one tick (log 1). -/

namespace Sys2Proof.Machine
open Sys2Proof

/-- What the first event of a list that changes the state makes of it. -/
def firstEvent (s : State) : List (State → Out) → Option State
  | [] => none
  | e :: t =>
    match e s with
    | .next s' => if s' = s then firstEvent s t else some s'
    | .fault _ => firstEvent s t
    | .refused _ => firstEvent s t

/-- A word of the floe at a key issues, unless it must wait. -/
def issueStep (s : State) (key : Nat) : Host.Outcome State Fault Refusal :=
  match s.issueNext key with
  | .done s' => .next s'
  | .word i s' =>
    match exec i s' with
    | .next t => .next (s.issued s' key i t)
    | .fault x => .fault x
    | .refused x => .refused x

/-- One step of the package. -/
def step (s : State) : Host.Outcome State Fault Refusal :=
  match s.issue with
  | key :: rest => issueStep { s with issue := rest } key
  | [] =>
    match s.agenda with
    | (n, e) :: rest => exec e (({ s with agenda := rest } : State).ticks n)
    | [] => .next ((firstEvent s s.ownEvents).getD s.tick)

/-- The state with an instruction word, in the numbering of the operation table, stored where step fetches its next instruction
(DESIGN CHOICE, log 20). -/
def State.withFetchWord (s : State) (nbits w : Nat) : State := s.storeWord (tableWord nbits w)

end Sys2Proof.Machine
end

