-- ==== Sys2Proof/Exact.lean ====
section
/-! DEFINITION. The real numbers by which a statement judges rounded results and their bounds: the helpers of R55 and R60, Enc of
R74, and the rows of R77 and R78 for the tiered operations, FDIV, FSQRT and CVT, written over the reals as the spec writes them.
No meaning of an instruction uses them. -/

namespace Sys2Proof.Machine
open Sys2Proof

/-! ### Numbers -/

/-- The number that m * 2^e is. -/
noncomputable def Dy.real (a : Dy) : ℝ := a.m * 2 ^ a.e

/-- The number that n / d is. -/
noncomputable def Frac.real (a : Frac) : ℝ := a.n / a.d

/-- The value of an element code that is finite (R44, R48). -/
noncomputable def FFmt.real (F : FFmt) (code : Nat) : ℝ := (F.decode code).dy.real

/-! ### Rounding (R55, R56, R60) -/

/-- Log2 of Ulp(x, P, Emin), x not zero. -/
noncomputable def ulpPow (x : ℝ) (P : Nat) (emin : Int) : Int := max ⌊Real.logb 2 |x|⌋ emin - P + 1

/-- The integer nearest to n; a tie goes to the even integer. -/
noncomputable def nearestEven (n : ℝ) : Int :=
  if Int.fract n < 1 / 2 then ⌊n⌋ else if 1 / 2 < Int.fract n then ⌊n⌋ + 1 else if ⌊n⌋ % 2 = 0 then ⌊n⌋ else ⌊n⌋ + 1

/-- RoundSR's integer for the quotient n on the grid 2^q, with the source grid 2^s and the drawn bits z. -/
noncomputable def drawnInt (n : ℝ) (q s : Int) (z : Nat) : Int :=
  let k : Nat := if q ≤ s then 0 else min 24 (q - s).toNat
  ⌊n⌋ + ⌊((⌊(n - ⌊n⌋) * 2 ^ k⌋ + (z % 2 ^ k : Nat) : ℝ)) / 2 ^ k⌋

/-- x rounded to a multiple of 2^q. -/
noncomputable def roundGrid (md : Rnd) (x : ℝ) (q : Int) : ℝ :=
  let n := |x| / 2 ^ q
  let m : Int := match md with
    | .rn => nearestEven n
    | .rz => ⌊n⌋
    | .ru => if 0 < x then ⌈n⌉ else ⌊n⌋
    | .rd => if 0 < x then ⌊n⌋ else ⌈n⌉
    | .sr z s => drawnInt n q s z
  (if x < 0 then -1 else 1) * m * 2 ^ q

/-- RoundToP(x, P, Emin, mode) and RoundSR(x, P, Emin, s, z). -/
noncomputable def roundP (md : Rnd) (x : ℝ) (P : Nat) (emin : Int) : ℝ := if x = 0 then 0 else roundGrid md x (ulpPow x P emin)

/-- The same as if the exponent range had no lower limit (R56). -/
noncomputable def roundFree (md : Rnd) (x : ℝ) (P : Nat) : ℝ := if x = 0 then 0 else roundGrid md x (ulpPow x P ⌊Real.logb 2 |x|⌋)

/-- R56, R58: what an element that rounds x to P bits of a format delivers where the exact result is `exact`: the rounded value, or on
overflow an infinity or the largest finite value; with its flags. -/
def Delivers (F : FFmt) (md : RMode) (P : Nat) (x exact : ℝ) (e : El) : Prop :=
  let r := roundP (rndOf md) x P F.emin
  let top := F.real F.maxCode
  let tiny := exact ≠ 0 ∧ (x = 0 ∨ |roundFree (rndOf md) x P| < 2 ^ F.emin)
  (|r| ≤ top → (F.decode e.code).isFin = true ∧ F.real e.code = r ∧ e.fl.nv = false ∧ e.fl.dz = false ∧ e.fl.of = false ∧
    (e.fl.nx = true ↔ r ≠ exact) ∧ (e.fl.uf = true ↔ tiny ∧ r ≠ exact)) ∧
  (top < |r| → e.fl = Flags.overflow ∧
    F.decode e.code = if md = .rn ∨ md = .ru ∧ 0 < x ∨ md = .rd ∧ x < 0 then .inf (decide (x < 0))
      else F.decode (F.signOf (decide (x < 0)) + F.maxCode))

/-! ### Bounds (R53, R74, R77, R78) -/

/-- Dec of a code that is not unbounded. -/
noncomputable def boundReal (c : Bound) : ℝ := (((dec c).getD Dy.zero)).real

/-- c is Enc(v): the smallest code whose bound is at least v, or 0x8000 above them all. -/
def Encodes (v : ℝ) (c : Bound) : Prop :=
  ((dec c).isSome = true ∧ v ≤ boundReal c ∧ ∀ k : Bound, (dec k).isSome = true → v ≤ boundReal k → c.toNat ≤ k.toNat) ∨
    (c = 0x8000 ∧ ∀ k : Bound, (dec k).isSome = true → boundReal k < v)

/-- c is the code of a formula over the bounds of `ins`: Enc of its value v where its domain condition holds and none of them is
unbounded, otherwise U. -/
def Charged (ins : List Bound) (domain : Prop) (v : ℝ) (c : Bound) : Prop :=
  ((∀ k ∈ ins, (dec k).isSome = true) → domain → Encodes v c) ∧ (¬((∀ k ∈ ins, (dec k).isSome = true) ∧ domain) → c = 0x8000)

/-! ### What the model's element functions owe to them -/

/-- R55, R60: rounding a magnitude. -/
def RoundsExactly : Prop :=
  ∀ (md : Rnd) (neg : Bool) (x : Frac) (P : Nat) (emin : Int), 0 < x.n → 0 < x.d →
    let sign : ℝ := if neg then -1 else 1
    let y := roundMag md neg x P emin
    sign * y.1 * 2 ^ y.2 = roundP md (sign * x.real) P emin

/-- R53, R74: Dec and Enc. -/
def EncodesExactly : Prop :=
  (∀ c : Bound, (dec c).isSome = decide (c.toNat < 0x7F80) ∧
    (c.toNat < 0x7F80 → boundReal c =
      if c.toNat < 128 then (c.toNat : ℝ) * 2 ^ (-133 : Int) else (128 + (c.toNat % 128 : Nat) : ℝ) * 2 ^ ((c.toNat / 128 : Nat) - 134 : Int))) ∧
  ∀ x : Frac, 0 ≤ x.n → 0 < x.d → Encodes x.real (encFrac x)

/-- R76, R77: the result of a tiered operation on finite operands and its bound. -/
def TieredExactly : Prop :=
  ∀ (ty : FTy) (t : Tier) (op : TOp) (md : RMode) (dnan : Bool) (ca cb cc : Nat) (ea eb ec : Bound),
    let F := fmtOf ty
    let P := tierP ty t
    let a := F.real ca
    let b := F.real cb
    let T (x : ℝ) : ℝ := roundP .rz x P F.emin
    let c : ℝ := match op with
      | .fma true => -F.real cc
      | _ => F.real cc
    let x : ℝ := match op with
      | .add => a + b
      | .sub => a - b
      | .mul => T a * T b
      | .fma _ => T a * T b + c
    let exact : ℝ := match op with
      | .add => a + b
      | .sub => a - b
      | .mul => a * b
      | .fma _ => a * b + c
    let z := roundP (rndOf md) x P F.emin
    let rho : ℝ := 2 ^ (ulpPow (if z = 0 then 2 ^ F.emin else z) P F.emin) * if md = .rn then 1 / 2 else 1
    let cross : ℝ := |a| * boundReal eb + |b| * boundReal ea + boundReal ea * boundReal eb + |a * b - T a * T b|
    let v : ℝ := match op with
      | .add | .sub => boundReal ea + boundReal eb + rho
      | .mul => cross + rho
      | .fma _ => cross + boundReal ec + rho
    let ins := match op with
      | .fma _ => [ea, eb, ec]
      | _ => [ea, eb]
    let e := tiered F op P md dnan ca cb cc ea eb ec
    (∀ k ∈ op.ops ca cb cc, (F.decode k).isFin = true) →
      Delivers F md P x exact e ∧ Charged ins (|z| ≤ F.real F.maxCode) v e.bnd

/-- R78: FDIV of finite operands, and FSQRT of a finite operand above zero. -/
def QuotientsAndRootsExactly : Prop :=
  ∀ (ty : FTy) (md : RMode) (dnan : Bool) (ca cb : Nat) (ea eb : Bound),
    let F := fmtOf ty
    let a := F.real ca
    let b := F.real cb
    let ex := boundReal ea
    let ey := boundReal eb
    let d := fdiv F md dnan ca cb ea eb
    let r := fsqrt F md dnan ca ea
    (F.decode ca).isFin = true →
      ((F.decode cb).isFin = true → b ≠ 0 → Delivers F md F.P (a / b) (a / b) d ∧
        Charged [ea, eb] (ey < |b| ∧ (F.decode d.code).isFin = true)
          ((|a| * ey + |b| * ex) / (|b| * (|b| - ey)) + |F.real d.code - a / b|) d.bnd) ∧
      (0 < a → Delivers F md F.P (Real.sqrt a) (Real.sqrt a) r ∧ Charged [ea] (ex ≤ a) (ex / Real.sqrt a + |F.real r.code - Real.sqrt a|) r.bnd)

/-- R60, R67, R68, R78: CVT from a format with a sign and an exponent, or from an integer, to such a format; and to an integer. -/
def ConversionsExactly : Prop :=
  ∀ (dst src : Fmt) (sat dnan : Bool) (draw : CvRnd) (code : Nat) (e : Bound) (x : ℝ) (s : Int),
    (match ffmtOf src, intFmtOf src with
      | some G, _ => (G.decode (code % 2 ^ G.width)).isFin = true ∧ x = G.real (code % 2 ^ G.width) ∧ (x ≠ 0 → s = ulpPow x G.P G.emin)
      | none, some (n, sg) => x = intVal n sg code ∧ s = 0
      | none, none => False) →
    let y := cvtEl dst src sat dnan draw code e
    (∀ F, ffmtOf dst = some F →
      let z := roundP (draw.rnd s) x F.P F.emin
      (|z| ≤ F.real F.maxCode → F.real y.code = z ∧ y.fl.nv = false ∧ y.fl.dz = false ∧ y.fl.of = false ∧ (y.fl.nx = true ↔ z ≠ x) ∧
        Charged [e] True (boundReal e + |z - x|) y.bnd) ∧
      (F.real F.maxCode < |z| → y.fl = Flags.overflow ∧ y.bnd = 0x8000)) ∧
    ∀ n sg G, intFmtOf dst = some (n, sg) → ffmtOf src = some G →
      let z := if x = 0 then 0 else roundGrid (draw.rnd s) x 0
      ((intMin n sg : ℝ) ≤ z → z ≤ intMax n sg →
        (∃ k : Int, z = k ∧ y.code = intBits n k) ∧ y.fl.nv = false ∧ (y.fl.nx = true ↔ z ≠ x) ∧
          Charged [e] True (boundReal e + |z - x|) y.bnd) ∧
      (z < intMin n sg ∨ (intMax n sg : ℝ) < z → y.fl = Flags.invalid ∧ y.bnd = 0x8000 ∧
        y.code = intBits n (if sat = true ∧ 0 < x then intMax n sg else intMin n sg))

end Sys2Proof.Machine
end

