-- ==== Sys2Proof/Safety.lean ====
section
/-! DEFINITION. What counts as a safe run, in the terms the statements use: the canonical form of the state's sparse memories, the
state in which the meaning of an instruction word runs, and the ways in which a word may leave it. -/

/-- Whether an operation is an instruction word: the other ones of the operation table are events of the device, which have no
encoding (spec 04). -/
def Sys2Proof.Instr.isWord : Sys2Proof.Instr → Bool
  | .issueClock .. | .runBoundary .. | .loadResponse .. | .mmaFire .. | .mmaComplete .. | .sleepDeadline ..
  | .lwaitDeadline .. | .firnSyncBeat .. | .firnSkew .. | .podFirnSample .. | .l1LeaseExpiry ..
  | .leaseHorizonReached .. | .directoryRecall .. | .pageWalk .. | .translationLeaseExpiry .. | .walkAheadRenewal ..
  | .faultQueueEntryWrite | .fqrespRetry .. | .fqrespDeny .. | .cpykickQueueEvent .. | .latchRequestStart ..
  | .latchPieceIssue .. | .latchPieceLand .. | .ldspCopyLand .. | .accstAddApply .. | .seracFork ..
  | .seracRowStep .. | .seracJoin .. | .packSaveComplete .. | .packPlacement .. | .packRestorePlacement ..
  | .preempt .. | .sliceExpiry .. | .nodeRelease .. | .nodeComplete .. | .watchdogIssueReport ..
  | .watchdogStallReport .. | .carveOutInterval .. | .bankGate .. | .bankReady .. | .powerStateEntry .. | .dieWake ..
  | .boostInterval .. | .permitRefill .. | .moduleReset | .bootctlWrite .. | .bootFull | .eyeMarginLow ..
  | .periodicRetrain .. | .channelWidthChange .. | .hingeLinkFail .. | .hostCxlMemWrite .. | .hostCxlMemRead ..
  | .hostSnoop .. | .poolBackInvalidate .. | .peerAccess .. | .podBarrierArrival .. | .podBarrierCompletion ..
  | .trigger .. | .ctxctlPreempt .. | .ctxctlEnd .. | .contextEndRelease .. | .eyeactRetrain .. | .eyeactRepair ..
  | .eyeactHalfWidth .. | .eyeactFullWidth .. | .mpolicyWrite .. | .cxlwinWrite .. | .hbmmapWrite ..
  | .mmioRegisterWrite .. | .storePerformed .. | .cxlPortTraining .. | .hbmRefresh .. => false
  | _ => true

namespace Sys2Proof.Machine
open Sys2Proof

/-! ### Well-formed states -/

/-- Memory, bound tags and poison marks are in their canonical forms: equal memories are equal data. -/
def State.wf (s : State) : Bool := Memory.wf s.mem && s.tags.canonical 0 && s.poison.canonical false

/-- Two states hold the same memory: bytes, bound tags and poison marks. -/
def SameMemory (s t : State) : Prop := t.mem = s.mem ∧ t.tags = s.tags ∧ t.poison = s.poison

/-! ### A word that issues -/

/-- Floe f at key w.floe issues the word w in its run r: the states in which step runs the meaning of a word. -/
structure Issues (s : State) (w : Issue) (f : Floe) (r : Run) : Prop where
  word : s.issuing = some w
  floe : s.floes.find? w.floe = some f
  run : f.run = some r

/-- What the word sees under a header, whose guard narrows the entry's mask to ACTIVE (R27, R38). -/
def ctxOf (s : State) (w : Issue) (f : Floe) (r : Run) (h : Hdr) : Ctx :=
  { s := s, key := w.floe, pc := w.pc, word := w.word, num := w.number, f := f, r := r, act := guarded f r w.number h, mark := h.s }

/-- ACTIVE of a word. -/
def activeOf (w : Issue) (f : Floe) (r : Run) (h : Hdr) : Mask := guarded f r w.number h

/-- The state after a word that changed nothing but its floe, which is now g. -/
def wordDone (s : State) (w : Issue) (g : Floe) : State := { s with floes := s.floes.put w.floe g, issuing := none }

/-- R27: the run is at its next word; it ends after a word with S = 1 or its 32nd word. The registers that it has written are kept
in its tables (R30). -/
def RunMoves (w : Issue) (r q : Run) (stop : Bool) : Prop :=
  q = { r with
    pc := w.pc + 8, count := r.count + 1, ended := r.ended || stop || r.count + 1 == 32
    vOld := q.vOld, sOld := q.sOld, pOld := q.pOld }

/-- A run after a word that has changed nothing in it (R27); `stop` where the word ends its run. -/
def nextRun (w : Issue) (r : Run) (stop : Bool) : Run :=
  { r with pc := w.pc + 8, count := r.count + 1, ended := r.ended || stop || r.count + 1 == 32 }

/-- BSTICKY as a word that sets bits leaves it: outside handler mode they are ORed in (R85, R306). -/
def stuck (f : Floe) (b : BitVec 5) : SysRegs := if f.handler then f.sys else { f.sys with bsticky := f.sys.bsticky ||| b }

/-! ### Operands as a word reads them (R30) -/

/-- A uniform operand as an unsigned number. -/
def Ctx.nat (c : Ctx) (pos : Pos) (r : SReg) : Nat := (c.sr pos r).toNat

/-- Lane l of a V* operand of 32 or 64 bits as an unsigned number, and its bound. -/
def Ctx.lane (c : Ctx) (wide : Bool) (pos : Pos) (x : VS) (l : Fin 64) : Nat := (c.lanes wide pos x).val wide l
def Ctx.laneB (c : Ctx) (wide : Bool) (pos : Pos) (x : VS) (l : Fin 64) : Bound := (c.lanes wide pos x).bnd l

/-! ### What a word may do to its floe -/

/-- A word whose only effect is on one uniform register (R32, R132): it completes; register d, when it is not s0 and ACTIVE
holds a lane, takes `val`, or, when an earlier word of the run has written it, keeps what that word wrote (R30); every other
register, and everything else of the state, stays. -/
def WritesUniformAt (i : Instr) (h : Hdr) (d : SReg) (val : Ctx → Word) (s : State) (w : Issue) (f : Floe) (r : Run) : Prop :=
  operandsOk s f i = true →
    ∃ x q, exec i s = .next (wordDone s w { f with s := x, run := some q }) ∧ RunMoves w r q h.s ∧ q.vOld = r.vOld ∧ q.pOld = r.pOld ∧
      ∀ k, let g := { f with s := x }
        (k ≠ d.toNat ∨ d = 0 ∨ activeOf w f r h = 0 → g.sreg k = f.sreg k) ∧
        (k = d.toNat ∧ d ≠ 0 ∧ activeOf w f r h ≠ 0 →
          g.sreg k = val (ctxOf s w f r h) ∨ (r.sOld.find? k).isSome ∧ g.sreg k = f.sreg k)

/-- The same wherever the word issues. -/
def WritesUniform (i : Instr) (h : Hdr) (d : SReg) (val : Ctx → Word) : Prop :=
  ∀ s w f r, Issues s w f r → WritesUniformAt i h d val s w f r

/-- A word whose only effect is on one predicate (R32, R138): the bits of ACTIVE of predicate d, when it is not p0, take those of
`val`; every other bit, and everything else of the state, stays. -/
def WritesPred (i : Instr) (h : Hdr) (d : PReg) (val : Ctx → Mask) : Prop :=
  ∀ s w f r, Issues s w f r → operandsOk s f i = true →
    ∃ x q, exec i s = .next (wordDone s w { f with p := x, run := some q }) ∧ RunMoves w r q h.s ∧ q.vOld = r.vOld ∧ q.sOld = r.sOld ∧
      ∀ k, let g := { f with p := x }
        let act := activeOf w f r h
        g.preg k = if k = d.toNat ∧ d ≠ 0 then (f.preg k &&& ~~~act) ||| (val (ctxOf s w f r h) &&& act) else f.preg k

/-- Whether an earlier word of the run has written lane l of vector register k. -/
def Run.wrote (r : Run) (k l : Nat) : Bool := (r.vOld.find? k).any fun x => has x.mask l

/-- Floe g has f's vector registers, but for those lanes of `act` of the n registers from d on, which hold `val` with `bnd`, or,
where an earlier word of the run has written them, may keep what that word wrote (R30, R32). -/
def LanesWritten (f g : Floe) (r : Run) (act : Mask) (d n : Nat) (val : Nat → Fin 64 → Lane) (bnd : Nat → Fin 64 → Bound) : Prop :=
  ∀ k (l : Fin 64),
    (has act l.val = false ∨ k < d ∨ d + n ≤ k →
      (g.vreg k).val[l] = (f.vreg k).val[l] ∧ (g.vreg k).bnd[l] = (f.vreg k).bnd[l]) ∧
    (has act l.val = true → d ≤ k → k < d + n →
      (g.vreg k).val[l] = val (k - d) l ∧ (g.vreg k).bnd[l] = bnd (k - d) l ∨
      r.wrote k l.val = true ∧ (g.vreg k).val[l] = (f.vreg k).val[l] ∧ (g.vreg k).bnd[l] = (f.vreg k).bnd[l])

/-- A word that writes lanes of a vector register or pair, and bits of BSTICKY (R34, R140): it completes, and everything else of
the state stays. -/
def WritesVecAt (i : Instr) (h : Hdr) (d : VReg) (n : Nat) (val : Ctx → Nat → Fin 64 → Lane) (bnd : Ctx → Fin 64 → Bound)
    (bits : Ctx → BitVec 5) (s : State) (w : Issue) (f : Floe) (r : Run) : Prop :=
  operandsOk s f i = true →
    let c := ctxOf s w f r h
    ∃ x q, exec i s = .next (wordDone s w { f with v := x, sys := stuck f (bits c), run := some q }) ∧ RunMoves w r q h.s ∧
      q.sOld = r.sOld ∧ q.pOld = r.pOld ∧
      LanesWritten f { f with v := x } r c.act d.toNat n (val c) fun _ => bnd c

/-- The same wherever the word issues. -/
def WritesVec (i : Instr) (h : Hdr) (d : VReg) (n : Nat) (val : Ctx → Nat → Fin 64 → Lane) (bnd : Ctx → Fin 64 → Bound)
    (bits : Ctx → BitVec 5) : Prop :=
  ∀ s w f r, Issues s w f r → WritesVecAt i h d n val bnd bits s w f r

/-- Word k of a lane value of 32 or 64 bits (R34). -/
def wordOf (x : Nat) (k : Nat) : Lane := BitVec.ofNat 32 (x / 4294967296 ^ k)

/-! ### Words that trap or touch more than their floe -/

/-- The state after a word cause (R302, R304): the run ends at the word with the trap to take, and nothing else changes. -/
def wordTraps (s : State) (w : Issue) (f : Floe) (r : Run) (t : Trap) : State :=
  wordDone s w { f with run := some { r with ended := true, trap := some t } }

/-- R106: an issue-time cause has the issuing entry's mask, no address, and the raw word. -/
def issueTrap (w : Issue) (r : Run) (cause : BitVec 8) : Trap := ⟨cause, w.pc, r.mask, 0, w.word, false⟩

/-- The word has issued and traps nothing: its floe's run is at the next word (R27). -/
def Advances (t : State) (w : Issue) (r : Run) : Prop :=
  t.issuing = none ∧
    ∃ g q, t.floes.find? w.floe = some g ∧ g.run = some q ∧ q.pc = w.pc + 8 ∧ q.count = r.count + 1 ∧ q.trap = r.trap

/-- The same, and memory is as it was. -/
def Completes (s t : State) (w : Issue) (r : Run) : Prop := Advances t w r ∧ SameMemory s t

/-- The word has issued; its floe is left as g, and memory is as it was. -/
def Retires (i : Instr) (s : State) (w : Issue) (g : Floe) (t : State) : Prop :=
  exec i s = .next t ∧ t.issuing = none ∧ t.floes = s.floes.put w.floe g ∧ SameMemory s t

/-- The floe of a word that leaves its registers alone. -/
def passed (w : Issue) (f : Floe) (r : Run) (h : Hdr) : Floe := { f with run := some (nextRun w r h.s) }

/-- Tile t of the pack is physical tile `phys` and configured with shape w (R39, R206). -/
def ShapedAs (c : Ctx) (t : TReg) (phys : Nat) (w : Word) : Prop :=
  ∃ p, c.pack? = some p ∧ p.tiles.getD t.toNat 0 = phys ∧ p.shape c.num t.toNat = w ∧ shV w = true

/-- Accumulator d of the pack is physical accumulator `phys` and holds a, which is free or the context's own (R210). -/
def Owns (c : Ctx) (d : AReg) (phys : Nat) (a : Accum) : Prop :=
  (∃ p, c.pack? = some p ∧ p.accs.getD d.toNat 0 = phys) ∧ (c.s.core c.core).acc phys = a ∧
    c.f.sysPend.find? (0x090 + d.toNat) = none ∧ (a.live = true → a.owner = c.f.ctx)

/-- Offset o is an aligned object of pack p that its pack may use, with value b (R192, R194). -/
def GoodObj (c : Ctx) (p : Pack) (o : Word) (b : BarObj) : Prop :=
  c.pack? = some p ∧ o.toNat % 16 = 0 ∧ p.inPad o.toNat 16 = true ∧ c.s.obj c.f.pack p o.toNat = b ∧ b.fault (c.f.pack % 64) = 0

/-- Every address of a list is aligned and n bytes from it lie in the pack's scratchpad (R174, R180). -/
def PadOk (p : Pack) (align n : Nat) (las : List Word) : Prop := ∀ a ∈ las, a.toNat % align = 0 ∧ p.inPad a.toNat n = true

/-- The core's scratchpad after bytes with bounds are stored at offsets of pack p (R89, R323). -/
def PadStored (s t : State) (core : Nat) (p : Pack) (x : List (Nat × Byte × Bound)) : Prop :=
  (t.core core).spad = (padWrite (s.core core) p x).spad ∧ (t.core core).spadB = (padWrite (s.core core) p x).spadB

/-- Every address of an access passes the checks of R174: aligned, mapped, allowed, of the right kind, and not denied. `s'` is
the state with what the page walks have cached, and `cks` what they have found: both follow from the state and the addresses. -/
structure Passes (c : Ctx) (rule : AccRule) (las : List ((Nat × Word) × Nat)) (p : Pack) (s' : State) (cks : List LaneCheck)
    (g : Agent := .words) : Prop where
  pack : c.pack? = some p
  checks : checkLanes c.core c.f.ctx (c.s.rootOf p) c.f.handler rule c.s las g = (s', cks)
  free : c.r.denied &&& c.act = 0
  good : ∀ k ∈ cks, k.mis = false ∧ k.prot = false ∧ k.cell = false ∧ k.miss = []

/-- The checks pass. -/
def Ctx.Reaches (c : Ctx) (rule : AccRule) (las : List ((Nat × Word) × Nat)) (g : Agent := .words) : Prop :=
  ∃ p s' cks, Passes c rule las p s' cks g

/-- The lanes of a request that a checkpoint of the floe holds as performed at the word, with what they have returned: of a
returning access that writes (R252). -/
def Ctx.again (c : Ctx) (x : Req) : Mask × List (Nat × Nat × List (Byte × Bound)) :=
  if x.writes && x.dest != .none then c.f.performed c.pc x.lanes else (0, [])

/-- A word that issues one access of global memory (R239): where the checks pass, it completes; the access stands among those to
be performed, with what it reads and writes, and memory and the floe's registers stay as they are until it is performed. Of
lanes that a checkpoint of the floe holds as performed at this word, it brings what they have returned, and performs nothing
again (R252). `keep` is what the word notes in its floe beside that, `g` whose translations it uses. -/
def IssuesAccessAs (g : Agent) (keep : Floe → Floe) (i : Instr) (h : Hdr) (rule : AccRule) (las : Ctx → List ((Nat × Word) × Nat))
    (req : Ctx → List LaneCheck → Req) (bits : Ctx → List LaneCheck → BitVec 5) (ok : Ctx → Prop) : Prop :=
  ∀ s w f r p s' cks, Issues s w f r → operandsOk s f i = true →
    let c := ctxOf s w f r h
    let x := req c cks
    let again := c.again x
    ok c → Passes c rule (las c) p s' cks g → x.todo ≠ [] →
    ∃ a q, exec i s = .next (wordDone { s' with pend := s'.pend.put w.number a } w
        { (if again.1 = 0 then keep f else (keep f).uncheck again.1) with sys := stuck f (bits c cks), run := some q }) ∧
      RunMoves w r q h.s ∧ q.vOld = r.vOld ∧ q.sOld = r.sOld ∧ q.pOld = r.pOld ∧ SameMemory s s' ∧ s'.floes = s.floes ∧ s'.pend = s.pend ∧
      a.floe = w.floe ∧ a.seq = f.seq ∧ a.number = w.number ∧ a.lanes = x.lanes ∧ a.order = x.order ∧ a.scope = x.scope ∧
      a.reads = x.reads ∧ a.writes = x.writes ∧ a.dest = x.dest ∧ a.exp = x.exp ∧ a.got = again.2 ∧ a.wrote = [] ∧ a.poison = [] ∧
      a.todo = if again.1 = 0 then x.todo else if (x.todo.filterMap (Work.without again.1)).isEmpty then [.load []] else x.todo.filterMap (Work.without again.1)

/-- A word that issues one access and notes nothing beside it. -/
def IssuesAccess (i : Instr) (h : Hdr) (rule : AccRule) (las : Ctx → List ((Nat × Word) × Nat)) (req : Ctx → List LaneCheck → Req)
    (bits : Ctx → List LaneCheck → BitVec 5) (ok : Ctx → Prop) : Prop :=
  IssuesAccessAs .words id i h rule las req bits ok

/-! ### Floating-point words -/

/-- The flag, sticky and tier registers after a word that ORs in FPFLAGS and BSTICKY bits and may write LASTTIER; in handler
mode they stay (R58, R82, R85, R306). -/
def sysAfter (f : Floe) (fl bits : BitVec 5) (tier : Option (BitVec 2)) : SysRegs :=
  if f.handler then f.sys
  else { f.sys with fpflags := f.sys.fpflags ||| fl, bsticky := f.sys.bsticky ||| bits, lasttier := tier.getD f.sys.lasttier }

/-- UNB where a lane gained U and BR where a lane breaches (R85). -/
def Outs.sticky (o : Outs) : BitVec 5 := (if Outs.unb o then stickyUNB else 0) ||| (if Outs.breach o = 0 then 0 else stickyBR)

/-- SDSTEP's draw (R61): the register, and a value that the run has yet to write, advance once. -/
def drawn (f : Floe) (sr : Bool) (y : SysRegs) : Floe :=
  if sr && !f.handler then
    { f with
      sys := { y with sdstep := y.sdstep + 1 }
      sysPend := match f.sysPend.find? ixSdstep with
        | some x => f.sysPend.put ixSdstep ((x.setWidth 32 + (1 : BitVec 32)).setWidth 64)
        | none => f.sysPend }
  else { f with sys := y }

/-- A word whose lanes deliver `o` to n registers from D on (R83, R84, R147). Unless a lane breaches while BMODE.TRAP is 1, it
completes: every result is written, with the flags, the sticky bits, the tier and the draw; otherwise it has no effect but
LASTTIER's and raises BREACH with the breaching lanes, the bound of the lowest, and the executed tier `code`. -/
def DeliversLanes (i : Instr) (h : Hdr) (d : VReg) (n : Nat) (o : Ctx → Outs) (code : Ctx → BitVec 2) (tier : Ctx → Option (BitVec 2))
    (bits : Ctx → BitVec 5) (sr : Bool) : Prop :=
  ∀ s w f r, Issues s w f r → operandsOk s f i = true →
    let c := ctxOf s w f r h
    (Outs.breach (o c) = 0 ∨ f.sys.bmode.getLsbD 2 = false →
      ∃ x q, exec i s = .next (wordDone s w { drawn f (sr && c.act != 0) (sysAfter f (Outs.flags (o c)).bits ((o c).sticky ||| bits c) (tier c)) with
          v := x, run := some q }) ∧
        RunMoves w r q h.s ∧ q.sOld = r.sOld ∧ q.pOld = r.pOld ∧
        LanesWritten f { f with v := x } r c.act d.toNat n (fun k l => BitVec.ofNat 32 (((o c)[l].regs.getD k (0, 0)).1))
          fun k l => ((o c)[l].regs.getD k (0, 0)).2) ∧
    (Outs.breach (o c) ≠ 0 → f.sys.bmode.getLsbD 2 = true →
      exec i s = .next (wordTraps s w { f with sys := sysAfter f 0 0 (tier c) } r
        ⟨0x10, w.pc, Outs.breach (o c), 0, (Outs.breachBound (o c)).setWidth 64 ||| ((code c).setWidth 64 <<< 16), false⟩))

/-- The elements of every lane's operands. -/
def elements (ty : FTy) (A B E : Lanes) (l : Fin 64) : List Ops3 :=
  ops3 ty (A.val ty.wide l) (B.val ty.wide l) (E.val ty.wide l) (A.bnd l) (B.bnd l) (E.bnd l)

/-- The tier at which a tiered word executes (R75, R81): its own, or AUTO's choice over every element of ACTIVE; and whether the
prediction chose FULL. -/
def tierOf (c : Ctx) (ty : FTy) (t : Tier) (op : TOp) (md : RMode) (els : Fin 64 → List Ops3) : Tier × Bool :=
  match t with
  | .auto => if c.act = 0 then (.full, false) else c.env.autoTier ty op md (activeEls c.act els)
  | t => (t, false)

/-- What the lanes of a tiered operation deliver (R76, R77, R79, R83): each element is TierResult at the tier. -/
def tieredLanes (c : Ctx) (op : TOp) (ty : FTy) (md : RMode) (checked : Bool) (t : Tier) (A B E : Lanes) : Outs :=
  outs c.act fun l =>
    laneOut c.env checked ty
      ((elements ty A B E l).map fun x => tiered (fmtOf ty) op (tierP ty t) md c.env.dnan x.a x.b x.c x.ea x.eb x.ec)
      [A.bnd l, B.bnd l, E.bnd l]

/-- LASTTIER of an AUTO word with a lane in ACTIVE (R82). -/
def autoCode (c : Ctx) (t : Tier) (x : Tier × Bool) : Option (BitVec 2) := if t = .auto ∧ c.act ≠ 0 then some (tierCode x.1) else none

/-! ### Pairs of slots (R99) -/

/-- The slots of a P word, slot 0 first, with its marker. -/
def slotsOf : Instr → Option (Bool × Slot × Slot)
  | .saddSlot m d a y => some (m, .sadd d a, y)
  | .ssubSlot m d a y => some (m, .ssub d a, y)
  | .sandSlot m d a y => some (m, .sand d a, y)
  | .sorSlot m d a y => some (m, .sor d a, y)
  | .sxorSlot m d a y => some (m, .sxor d a, y)
  | .smovSlot m d a y => some (m, .smov d a, y)
  | .sshlSlot m d a y => some (m, .sshl d a, y)
  | .sshrSlot m d a y => some (m, .sshr d a, y)
  | .pandSlot m d a y => some (m, .pand d a, y)
  | .porSlot m d a y => some (m, .por d a, y)
  | .pmovSlot m d a y => some (m, .pmov d a, y)
  | .vaddSlot m ty d a y => some (m, .vadd ty d a, y)
  | .vsubSlot m ty d a y => some (m, .vsub ty d a, y)
  | .vmulSlot m ty d a y => some (m, .vmul ty d a, y)
  | .vandSlot m ty d a y => some (m, .vand ty d a, y)
  | .vorSlot m ty d a y => some (m, .vor ty d a, y)
  | .vxorSlot m ty d a y => some (m, .vxor ty d a, y)
  | .vminSlot m ty d a y => some (m, .vmin ty d a, y)
  | .vmaxSlot m ty d a y => some (m, .vmax ty d a, y)
  | .vmovSlot m ty d a y => some (m, .vmov ty d a, y)
  | .vshlSlot m ty d a y => some (m, .vshl ty d a, y)
  | .vshrSlot m ty d a y => some (m, .vshr ty d a, y)
  | .faddSlot m ty t d a y => some (m, .fadd ty t d a, y)
  | .fsubSlot m ty t d a y => some (m, .fsub ty t d a, y)
  | .fmulSlot m ty t d a y => some (m, .fmul ty t d a, y)
  | .fminSlot m ty t d a y => some (m, .fmin ty t d a, y)
  | .fmaxSlot m ty t d a y => some (m, .fmax ty t d a, y)
  | _ => none

/-- The lanes that a tiered slot delivers (R155): D op A under RDEF, checked, at FULL or at the tier that AUTO chooses; of an AUTO slot
also the tier, and whether the prediction chose FULL. -/
def tieredPair (c : Ctx) (op : TOp) (ty : FTy) (full : Bool) (d a : VReg) : Outs × Option (Tier × Bool) :=
  let D := c.lanes ty.wide .d (.v d)
  let A := c.lanes ty.wide .a (.v a)
  let x := if full then (Tier.full, false) else c.env.autoTier ty op c.env.rdef (activeEls c.act (elements ty D A (bcast 0)))
  (tieredLanes c op ty c.env.rdef true x.1 D A (bcast 0), if full then none else some x)

/-- The lanes that an FMIN or FMAX slot delivers (R155). -/
def minmaxPair (c : Ctx) (isMax : Bool) (ty : FTy) (d a : VReg) : Outs :=
  let D := c.lanes ty.wide .d (.v d)
  let A := c.lanes ty.wide .a (.v a)
  outs c.act fun l =>
    laneOut c.env true ty ((elements ty D A (bcast 0) l).map fun x => fminmax (fmtOf ty) isMax c.env.dnan x.a x.b x.ea x.eb) [D.bnd l, A.bnd l]

/-- What a floating-point slot delivers, none for another slot. -/
def slotFp (c : Ctx) : Slot → Option (Outs × Option (Tier × Bool))
  | .fadd ty full d a => some (tieredPair c .add ty full d a)
  | .fsub ty full d a => some (tieredPair c .sub ty full d a)
  | .fmul ty full d a => some (tieredPair c .mul ty full d a)
  | .fmin ty _ d a => some (minmaxPair c false ty d a, none)
  | .fmax ty _ d a => some (minmaxPair c true ty d a, none)
  | _ => none

/-- BSTICKY.UNB of an integer vector slot, which follows the integer bound rule; 0 for another slot (R145, R146). -/
def slotUnb (c : Ctx) : Slot → BitVec 5
  | .vadd ty d a | .vsub ty d a | .vmul ty d a | .vand ty d a | .vor ty d a | .vxor ty d a | .vmin ty d a | .vmax ty d a | .vshl ty d a
  | .vshr ty d a =>
    let ins (l : Fin 64) := [c.laneB ty.wide .d (.v d) l, c.laneB ty.wide .a (.v a) l]
    unbBit c.act (fun l => intBound (ins l)) ins
  | _ => 0

/-- The lane results of a floating-point slot, none for another slot. -/
def slotLanes (c : Ctx) (x : Slot) : Option Outs := (slotFp c x).map (·.1)
/-- What a slot ORs into FPFLAGS and BSTICKY, what it writes to LASTTIER, and its breaching lanes. -/
def slotFlags (c : Ctx) (x : Slot) : BitVec 5 := ((slotLanes c x).elim Flags.none Outs.flags).bits
def slotBits (c : Ctx) (x : Slot) : BitVec 5 :=
  slotUnb c x ||| ((slotLanes c x).elim 0 Outs.sticky ||| if ((slotFp c x).bind (·.2)).any (·.2) then stickyTIERUP else 0)
def slotTier (c : Ctx) (x : Slot) : Option (BitVec 2) := ((slotFp c x).bind (·.2)).map fun t => tierCode t.1
def slotBreach (c : Ctx) (x : Slot) : Mask := (slotLanes c x).elim 0 Outs.breach

/-- What slot x writes to the registers: they stand as in g before and as in k after it, in a run that has written what r says.
Its operands are those that the word reads when it issues (R99, R137, R139, R145, R155). -/
def SlotWrites (c : Ctx) (r : Run) (g k : Floe) (x : Slot) : Prop :=
  let uni (d : SReg) (x : Word) : Prop :=
    k.v = g.v ∧ k.p = g.p ∧ ∀ j, (j ≠ d.toNat ∨ d = 0 → k.sreg j = g.sreg j) ∧
      (j = d.toNat → d ≠ 0 → k.sreg j = x ∨ (r.sOld.find? j).isSome ∧ k.sreg j = g.sreg j)
  let pred (d : PReg) (x : Mask) : Prop :=
    k.v = g.v ∧ k.s = g.s ∧ ∀ j, k.preg j = if j = d.toNat ∧ d ≠ 0 then (g.preg j &&& ~~~c.act) ||| (x &&& c.act) else g.preg j
  let vec (d : VReg) (n : Nat) (val : Nat → Fin 64 → Lane) (bnd : Nat → Fin 64 → Bound) : Prop :=
    k.s = g.s ∧ k.p = g.p ∧ LanesWritten g k r c.act d.toNat n val bnd
  let int (ty : ITy) (d a : VReg) (f : Nat → Nat → Nat) : Prop :=
    vec d (regsOf ty.wide) (fun j l => wordOf (f (c.lane ty.wide .d (.v d) l) (c.lane ty.wide .a (.v a) l)) j)
      fun _ l => intBound [c.laneB ty.wide .d (.v d) l, c.laneB ty.wide .a (.v a) l]
  let P (ty : ITy) := putBits ty false
  let fp (ty : FTy) (d : VReg) : Prop :=
    ∃ o, slotLanes c x = some o ∧
      vec d (regsOf ty.wide) (fun j l => BitVec.ofNat 32 ((o[l].regs.getD j (0, 0)).1)) fun j l => (o[l].regs.getD j (0, 0)).2
  match x with
  | .vadd ty d a => int ty d a fun x y => P ty (valOf ty x + valOf ty y)
  | .vsub ty d a => int ty d a fun x y => P ty (valOf ty x - valOf ty y)
  | .vmul ty d a => int ty d a fun x y => P ty (valOf ty x * valOf ty y)
  | .vand ty d a => int ty d a fun x y => x &&& y
  | .vor ty d a => int ty d a fun x y => x ||| y
  | .vxor ty d a => int ty d a fun x y => x ^^^ y
  | .vmin ty d a => int ty d a fun x y => P ty (min (valOf ty x) (valOf ty y))
  | .vmax ty d a => int ty d a fun x y => P ty (max (valOf ty x) (valOf ty y))
  | .vmov ty d a => vec d (regsOf ty.wide) (fun j l => wordOf (c.lane ty.wide .a (.v a) l) j) fun _ l => c.laneB ty.wide .a (.v a) l
  | .vshl ty d a => int ty d a fun x y => P ty (valOf ty x * 2 ^ y)
  | .vshr ty d a => int ty d a fun x y => x / 2 ^ y
  | .fadd ty _ d _ | .fsub ty _ d _ | .fmul ty _ d _ | .fmin ty _ d _ | .fmax ty _ d _ => fp ty d
  | .sadd d a => uni d (c.sr .d d + c.sr .a a)
  | .ssub d a => uni d (c.sr .d d - c.sr .a a)
  | .sand d a => uni d (c.sr .d d &&& c.sr .a a)
  | .sor d a => uni d (c.sr .d d ||| c.sr .a a)
  | .sxor d a => uni d (c.sr .d d ^^^ c.sr .a a)
  | .smov d a => uni d (c.sr .a a)
  | .sshl d a => uni d (BitVec.ofNat 64 (c.nat .d d * 2 ^ c.nat .a a))
  | .sshr d a => uni d (BitVec.ofNat 64 (c.nat .d d / 2 ^ c.nat .a a))
  | .pand d a => pred d (c.p .d d &&& c.p .a a)
  | .por d a => pred d (c.p .d d ||| c.p .a a)
  | .pmov d a => pred d (c.p .a a)

/-! ### Transfers (R122) -/

/-- The entries that a transfer forms: one for each target, with the lanes that take it (R122). -/
def BranchEntries (es : List Entry) (prio : BitVec 8) (take : Mask) (target : Nat → Word) : Prop :=
  (∀ e ∈ es, e.prio = prio ∧ e.flags = 0 ∧ e.wait = .none ∧ e.mask ≠ 0 ∧
    ∀ l, l < 64 → (has e.mask l = true ↔ has take l = true ∧ (target l).setWidth 48 = e.pc)) ∧
  (∀ l, l < 64 → has take l = true → ∃ e ∈ es, has e.mask l = true) ∧ (es.map (·.pc)).Nodup

/-- A transfer of the lanes of a mask: with every target a word address below 2^48 it completes, the run ends, and the lanes leave
its entry for those of their targets; otherwise it raises MISALIGNED, or PROTECTION, for the lanes at fault (R122, R302). -/
def Transfers (i : Instr) (h : Hdr) (prio : BitVec 8) (take : Ctx → Mask) (target : Ctx → Nat → Word) : Prop :=
  ∀ s w f r, Issues s w f r → operandsOk s f i = true →
    let c := ctxOf s w f r h
    let odd := maskWhere fun l => has (take c) l && (target c l).toNat % 8 != 0
    let far := maskWhere fun l => has (take c) l && decide (2 ^ 48 ≤ (target c l).toNat)
    (odd = 0 → far = 0 →
      ∃ es q, exec i s = .next (wordDone s w { f with frontier := f.frontier ++ es, run := some q }) ∧
        BranchEntries es prio (take c) (target c) ∧
        q = { r with mask := r.mask &&& ~~~(take c), pc := w.pc + 8, count := r.count + 1, ended := true }) ∧
    (odd ≠ 0 → exec i s = .next (wordTraps s w f r ⟨0x22, w.pc, odd, target c (lowest odd), w.word, false⟩)) ∧
    (odd = 0 → far ≠ 0 → exec i s = .next (wordTraps s w f r ⟨0x21, w.pc, far, target c (lowest far), w.word, false⟩))

/-! ### Restored waits (R312) -/

/-- An entry e of a frontier that FRLOAD loaded goes on as b when RFT installs it (R309, R312, R131): a parked one is checked again, an
SBWAIT ends with its generation, a sleeper goes on at its PC, and a waiting word is judged by the restored registers. -/
def Restores (s : State) (key : Nat) (f : Floe) (e b : Entry) : Prop :=
  let flags := e.flags &&& ~~~(flagParked ||| if s.sbarOver f then flagSbwait else 0)
  let goesOn (step : BitVec 48) : Entry := { e with pc := e.pc + step, flags := flags &&& ~~~flagBlocked }
  let waits (w : Wait) : Entry := { e with flags := flags, wait := w }
  (e.flags &&& flagBlocked = 0 → b = { e with flags := flags }) ∧
  (e.flags &&& flagBlocked ≠ 0 →
    (e.mask &&& ~~~f.kept.asleep = 0 → b = goesOn 0) ∧
    (e.mask &&& ~~~f.kept.asleep ≠ 0 → ∀ word p, s.codeAt key f e.pc = some word → s.packs.find? f.pack = some p →
      (∀ h d sa off, decode? (marked word) = some (.barwait h d sa off) →
        let o := f.sreg sa.toNat + off.signExtend 64
        let want : BitVec 32 := (f.sreg d.toNat).setWidth 32
        o.toNat % 16 = 0 → p.inPad o.toNat 16 = true →
          b = if (s.obj f.pack p o.toNat).phase = want then waits (.bar o.toNat want) else goesOn 8) ∧
      (∀ h j, decode? (marked word) = some (.jwait h j) →
        let x := p.join j
        (f.signed.find? j.toNat = none → b = goesOn 8) ∧
        ∀ g, f.signed.find? j.toNat = some g →
          b = if (x.gen - x.done).toNat < (g.gen - x.done).toNat then goesOn 8 else waits (.join j g.gen)) ∧
      ∀ h a, decode? (marked word) = some (.lwait h a) →
        b = if (f.sreg a.toNat).toNat ≤ (s.firn (coreOf key)).toNat then goesOn 8 else waits .lwait))

/-! ### Events -/

/-- Nothing that a program sees moves: floes, packs, accesses to come, bytes, tags and poison. -/
def Unmoved (s t : State) : Prop := t.floes = s.floes ∧ t.packs = s.packs ∧ t.pend = s.pend ∧ SameMemory s t

/-- Bytes are stored at physical addresses, each where its window keeps it (R373): each address of `w` on memory that takes
writes holds its byte, and every other byte is as it was (R239). -/
def BytesStored (s t : State) (w : List (Nat × Byte)) : Prop :=
  (∀ a, (∀ e ∈ w, s.hub.cell e.1 ≠ a) → t.byte a = s.byte a) ∧
    ((w.map fun e => s.hub.cell e.1).Nodup →
      ∀ e ∈ w, s.discards e.1 = false → s.hub.inRecords e.1 = false → t.byte (s.hub.cell e.1) = e.2)

/-- No pack's engine events are kept for it or redirected (R364 to R367). -/
def NoRedirects (s : State) : Prop := ∀ id, s.redirect id = none

/-- A request of an agent outside the package arrives in s, and t follows (R253, R261, R264, R267, R358): where no row step holds its
bank and no earlier request, access or lease its lines it is performed, as `done` says; else it is the latest of those that wait. -/
def Arrives (s t : State) (act : OutAct) (done : State → Prop) : Prop :=
  let as := act.bytes s.hub
  let x : Outside := ⟨s.fresh, s.hub.firn.toNat, act⟩
  let u := s.wakeFor as
  let free := (∀ y ∈ s.outside, y.id < x.id → ∀ n ∈ linesOf (y.act.bytes s.hub), n ∉ linesOf as) ∧
    u.bankHeld 0 .far as = false ∧ u.lineHeld x.id x.born act.place true (linesOf as) = false ∧
    u.mayWrite (some (.unit x.id 0)) as = true
  (free → done t ∧ t.outside = s.outside.filter fun y => y.id != x.id) ∧ (¬free → Unmoved s t ∧ t.outside = s.outside ++ [x])

/-- An access numbered n, the only pending one, has one unit u to come whose performance completes it: no order, row step, lease or
poison met earlier stands in its way, and its floe f is in the run r (R239, R244, R261, R358). -/
structure LastUnit (s : State) (n : Nat) (a : Acc) (u : Work) (f : Floe) (r : Run) : Prop where
  pend : s.pend = [(n, a)]
  number : a.number = n
  todo : a.todo = [u]
  clean : a.poison = []
  snap : a.snap.isSome = true
  free : s.held a u = false
  bank : s.bankHeld (coreOf a.floe) u.level u.bytes = false
  lease : s.mayWrite (some (.unit n ((if u.isWrite then u.bytes else []).headD 0))) (if u.isWrite then u.bytes else []) = true
  upsets : s.upsets = []
  floe : s.floes.find? a.floe = some f
  seq : f.seq = a.seq
  run : f.run = some r

/-- Memory that nothing makes discard writes or read as poison: no pseudo-channel is fenced, service is not reduced, and Moraine is
off (R274, R354, R395). -/
structure PlainMemory (s : State) : Prop where
  fences : ∀ k, (s.stack k).fenced = 0
  full : s.reduced = false
  plain : s.hub.men = false

/-- The accesses to come of a state, with what each has still to do. -/
def State.pendTodo (s : State) : List (Nat × List Work) := List.map (fun e => (e.1, e.2.todo)) s.pend

/-- A die is out of step (R256): its L1s and translations are gone, no write waits on it, it is awake, and it resynchronises;
the hub reports it. -/
def OutOfStep (s t : State) (die : Nat) : Prop :=
  t.hub.skew.getLsbD die = true ∧ t.hub.resync.getLsbD die = true ∧ 21 ∈ t.hub.vectors ∧ (t.die die).walks = [] ∧
    (∀ n, ((t.die die).line n).horizon = 0 ∧ ((t.die die).line n).leases = []) ∧
    (∀ e ∈ t.cores, dieOf e.1 = die → e.2.l1 = [] ∧ e.2.tlb = [] ∧ e.2.ahead = []) ∧ (t.die die).power = .a0 ∧ Unmoved s t

/-- The entries of a frontier by lane and word address. -/
def stands (fr : List Entry) (l : Nat) (pc : BitVec 48) : Prop := ∃ e ∈ fr, e.pc = pc ∧ has e.mask l = true

end Sys2Proof.Machine
end

