-- ==== Sys2Proof/WellFormed.lean ====
section
/-! DEFINITION. Well-formed instructions: those whose fields meet the operand rules of spec 04, so that they have a word
(R96 to R105), and events whose indexes name objects of the package. -/

namespace Sys2Proof

/-- An instruction is well formed when it meets every static rule of its operands. -/
def Instr.wf (i : Instr) : Bool := i.legal

end Sys2Proof
end

