-- ==== Sys2Proof/Certificates/Slice0/Obligations.lean ====
section
/-! DEFINITION. The statements for the provers. -/

open Sys2Proof Sys2Proof.Machine

/-! ### Uniform registers (R132 to R138) -/

/-- R132, R133, R135, R37, R32: every F-form uniform instruction completes and gives register D the value of its row. -/
def Obligations.UniformAluResults : Prop :=
  ∀ (h : Hdr) (m : IntMod) (d a b e : SReg),
    let W := m.ty.bits
    let V (c : Ctx) (pos : Pos) (r : SReg) : Int := valOf m.ty (c.nat pos r)
    WritesUniform (.sadd h m d a b) h d (fun c => put m (V c .a a + V c .b b)) ∧
    WritesUniform (.ssub h m d a b) h d (fun c => put m (V c .a a - V c .b b)) ∧
    WritesUniform (.smul h m d a b) h d (fun c => put m (V c .a a * V c .b b)) ∧
    WritesUniform (.smulh h m d a b) h d (fun c => put m (V c .a a * V c .b b / 2 ^ W)) ∧
    WritesUniform (.smad h m d a b e) h d (fun c => put m (V c .a a * V c .b b + V c .c e)) ∧
    WritesUniform (.sand h m d a b) h d (fun c => put m (valOf m.ty (c.nat .a a &&& c.nat .b b))) ∧
    WritesUniform (.sor h m d a b) h d (fun c => put m (valOf m.ty (c.nat .a a ||| c.nat .b b))) ∧
    WritesUniform (.sxor h m d a b) h d (fun c => put m (valOf m.ty (c.nat .a a ^^^ c.nat .b b))) ∧
    WritesUniform (.snot h m d a) h d (fun c => put m (valOf m.ty (~~~(c.sr .a a)).toNat)) ∧
    WritesUniform (.sshl h m d a b) h d (fun c => put m (V c .a a * 2 ^ c.nat .b b)) ∧
    WritesUniform (.sshr h m d a b) h d (fun c => put m (valOf m.ty (c.nat .a a % 2 ^ W / 2 ^ c.nat .b b))) ∧
    WritesUniform (.ssar h m d a b) h d (fun c => put m (svalOf m.ty (c.nat .a a) / 2 ^ min (c.nat .b b) (W - 1))) ∧
    WritesUniform (.smin h m d a b) h d (fun c => put m (min (V c .a a) (V c .b b))) ∧
    WritesUniform (.smax h m d a b) h d (fun c => put m (max (V c .a a) (V c .b b))) ∧
    WritesUniform (.ssel h m d a b e) h d (fun c => put m (if c.sr .c e ≠ 0 then V c .a a else V c .b b)) ∧
    WritesUniform (.smov h m d a) h d (fun c => put m (V c .a a)) ∧
    WritesUniform (.sclz h m d a) h d (fun c => put m (clzIn W (c.nat .a a))) ∧
    WritesUniform (.spopc h m d a) h d (fun c => put m (onesIn W (c.nat .a a))) ∧
    WritesUniform (.sbfe h m d a b) h d
      (fun c => put m (bitField m.ty (c.nat .a a) (c.nat .b b % 256) (c.nat .b b / 256 % 256)))

/-- R132: Put clamps under saturation, else reduces modulo 2^W; the register value is the result extended by the type. R135,
R143: the bits of an extracted field, and of an inserted one. R55, R56, R60, R74, R76 to R78: over the real numbers, the element
results of the tiered operations, FDIV, FSQRT and CVT are rounded as RoundToP and RoundSR say, with the flags and the bounds that
their rows give; finite operands, and of CVT every format but E8M0. Readings of the model it rests on: logs 14, 15 and 48. -/
def Obligations.ResultRules : Prop :=
  (∀ (m : IntMod) (v : Int),
    (intMin m.ty.bits m.ty.signed ≤ v → v ≤ intMax m.ty.bits m.ty.signed → put m v = BitVec.ofInt 64 v) ∧
    (m.sat = true → v < intMin m.ty.bits m.ty.signed → put m v = BitVec.ofInt 64 (intMin m.ty.bits m.ty.signed)) ∧
    (m.sat = true → intMax m.ty.bits m.ty.signed < v → put m v = BitVec.ofInt 64 (intMax m.ty.bits m.ty.signed)) ∧
    (m.sat = false → put m v = put m (v % 2 ^ m.ty.bits)) ∧
    (put m v = if m.ty.signed then ((put m v).setWidth m.ty.bits).signExtend 64 else ((put m v).setWidth m.ty.bits).setWidth 64)) ∧
  (∀ (ty : ITy) (a pos len i : Nat), i < ty.bits →
    (putBits ty false (bitField ty a pos len)).testBit i =
      (let n := min len ty.bits
       let f (j : Nat) : Bool := if pos + j < ty.bits then a.testBit (pos + j) else ty.signed && a.testBit (ty.bits - 1)
       if n = 0 then false else if i < n then f i else ty.signed && f (n - 1))) ∧
  (∀ (w a b e i : Nat), a < 2 ^ w → i < w →
    (insertField w a b e).testBit i =
      (let p := min (e % 256) w
       let n := min (e / 256 % 256) (w - p)
       if p ≤ i ∧ i < p + n then b.testBit (i - p) else a.testBit i)) ∧
  RoundsExactly ∧ EncodesExactly ∧ TieredExactly ∧ QuotientsAndRootsExactly ∧ ConversionsExactly

/-- R136: every I-form uniform instruction completes and gives D its 64-bit result. -/
def Obligations.UniformImmediateResults : Prop :=
  ∀ (h : Hdr) (d : SReg) (imm : BitVec 32),
    let x := imm.signExtend 64
    WritesUniform (.smovi h d imm) h d (fun _ => x) ∧
    WritesUniform (.smovih h d imm) h d (fun c => imm ++ (c.sr .d d).setWidth 32) ∧
    WritesUniform (.saddi h d imm) h d (fun c => c.sr .d d + x) ∧
    WritesUniform (.sandi h d imm) h d (fun c => c.sr .d d &&& x) ∧
    WritesUniform (.sori h d imm) h d (fun c => c.sr .d d ||| x) ∧
    WritesUniform (.sxori h d imm) h d (fun c => c.sr .d d ^^^ x) ∧
    WritesUniform (.sshli h d imm) h d (fun c => BitVec.ofNat 64 (c.nat .d d * 2 ^ imm.toNat)) ∧
    WritesUniform (.sshri h d imm) h d (fun c => BitVec.ofNat 64 (c.nat .d d / 2 ^ imm.toNat)) ∧
    WritesUniform (.ssari h d imm) h d (fun c => BitVec.ofInt 64 ((c.sr .d d).toInt / 2 ^ imm.toNat)) ∧
    WritesUniform (.smuli h d imm) h d (fun c => c.sr .d d * x)

/-- R138: predicates as values: PAND to PMOV and PSET write the bits of ACTIVE; PGET, PPOPC and PFIRST write a uniform register.
Readings of the model it rests on: log 7 (a predicate that a run writes twice keeps the later value). -/
def Obligations.PredicateResults : Prop :=
  ∀ (h : Hdr) (d a b : PReg) (x : SReg),
    WritesPred (.pand h d a b) h d (fun c => c.p .a a &&& c.p .b b) ∧
    WritesPred (.por h d a b) h d (fun c => c.p .a a ||| c.p .b b) ∧
    WritesPred (.pxor h d a b) h d (fun c => c.p .a a ^^^ c.p .b b) ∧
    WritesPred (.pandn h d a b) h d (fun c => c.p .a a &&& ~~~(c.p .b b)) ∧
    WritesPred (.pnot h d a) h d (fun c => ~~~(c.p .a a)) ∧
    WritesPred (.pmov h d a) h d (fun c => c.p .a a) ∧
    WritesPred (.pset h d x) h d (fun c => c.sr .a x) ∧
    WritesUniform (.pget h x a) h x (fun c => c.p .a a) ∧
    WritesUniform (.ppopc h x a) h x (fun c => BitVec.ofNat 64 ((List.range 64).countP fun l => has (c.p .a a) l && has c.act l)) ∧
    WritesUniform (.pfirst h x a) h x
      (fun c => BitVec.ofNat 64 (((List.range 64).find? fun l => has (c.p .a a) l && has c.act l).getD 64))

/-- R134, R136, R142, R166: compares and votes write the bits of ACTIVE of p[D]. Readings of the model it rests on: log 7 (a predicate
that a run writes twice keeps the later value). -/
def Obligations.CompareResults : Prop :=
  ∀ (h : Hdr) (ty : ITy) (k : ICond) (d q : PReg) (a b : SReg) (x y : VS) (imm : BitVec 32) (mode : Vote),
    WritesPred (.scmp h ty k d a b) h d (fun c =>
      let u (n : Nat) := n % 2 ^ ty.bits
      if icond k (valOf ty (c.nat .a a)) (valOf ty (c.nat .b b)) (u (c.nat .a a)) (u (c.nat .b b)) then allLanes else 0) ∧
    WritesPred (.scmpi h k d a imm) h d (fun c =>
      let v := imm.signExtend 64
      if icond k (c.sr .d a).toInt v.toInt (c.sr .d a).toNat v.toNat then allLanes else 0) ∧
    WritesPred (.vcmp h ty k d x y) h d (fun c => maskOf fun l =>
      let u := c.lane ty.wide .a x l
      let v := c.lane ty.wide .b y l
      icond k (valOf ty u) (valOf ty v) u v) ∧
    WritesPred (.vvote h mode d q) h d (fun c =>
      let n := c.p .a q &&& c.act
      match mode with
      | .any => if n ≠ 0 then allLanes else 0
      | .all => if n = c.act then allLanes else 0
      | .uni => if n = 0 ∨ n = c.act then allLanes else 0)

/-! ### Vector integer words (R140 to R146) -/

/-- R141, R143, R146: every vector integer word completes; each lane of ACTIVE of D takes the result of its row and the integer
bound, and BSTICKY.UNB is set where a lane gains U. -/
def Obligations.VectorIntResults : Prop :=
  ∀ (h : Hdr) (m : IntMod) (d : VReg) (a b : VS) (x y z : VReg),
    let W := m.ty.bits
    let w := m.ty.wide
    let n := if w then 2 else 1
    let A (c : Ctx) (l : Fin 64) : Nat := c.lane w .a a l
    let B (c : Ctx) (l : Fin 64) : Nat := c.lane w .b b l
    let X (c : Ctx) (l : Fin 64) : Nat := c.lane w .a (.v x) l
    let Y (c : Ctx) (l : Fin 64) : Nat := c.lane w .b (.v y) l
    let Z (c : Ctx) (l : Fin 64) : Nat := c.lane w .c (.v z) l
    let V := valOf m.ty
    let P := putBits m.ty m.sat
    let in1 (c : Ctx) (l : Fin 64) := [c.laneB w .a a l]
    let in2 (c : Ctx) (l : Fin 64) := [c.laneB w .a a l, c.laneB w .b b l]
    let in3 (c : Ctx) (l : Fin 64) := [c.laneB w .a (.v x) l, c.laneB w .b (.v y) l, c.laneB w .c (.v z) l]
    let Is (i : Instr) (ins : Ctx → Fin 64 → List Bound) (val : Ctx → Fin 64 → Nat) : Prop :=
      WritesVec i h d n (fun c k l => wordOf (val c l) k) (fun c l => intBound (ins c l))
        (fun c => unbBit c.act (fun l => intBound (ins c l)) (ins c))
    Is (.vadd h m d a b) in2 (fun c l => P (V (A c l) + V (B c l))) ∧
    Is (.vsub h m d a b) in2 (fun c l => P (V (A c l) - V (B c l))) ∧
    Is (.vmul h m d a b) in2 (fun c l => P (V (A c l) * V (B c l))) ∧
    Is (.vmulh h m d a b) in2 (fun c l => P (V (A c l) * V (B c l) / 2 ^ W)) ∧
    Is (.vmad h m d x y z) in3 (fun c l => P (V (X c l) * V (Y c l) + V (Z c l))) ∧
    Is (.vabs h m d a) in1 (fun c l => P (V (A c l)).natAbs) ∧
    Is (.vneg h m d a) in1 (fun c l => P (-V (A c l))) ∧
    Is (.vmin h m d a b) in2 (fun c l => P (min (V (A c l)) (V (B c l)))) ∧
    Is (.vmax h m d a b) in2 (fun c l => P (max (V (A c l)) (V (B c l)))) ∧
    Is (.vand h m d a b) in2 (fun c l => A c l &&& B c l) ∧
    Is (.vor h m d a b) in2 (fun c l => A c l ||| B c l) ∧
    Is (.vxor h m d a b) in2 (fun c l => A c l ^^^ B c l) ∧
    Is (.vnot h m d a) in1 (fun c l => 2 ^ W - 1 - A c l) ∧
    Is (.vshl h m d a b) in2 (fun c l => P (V (A c l) * 2 ^ B c l)) ∧
    Is (.vshr h m d a b) in2 (fun c l => A c l / 2 ^ B c l) ∧
    Is (.vsar h m d a b) in2 (fun c l => P (svalOf m.ty (A c l) / 2 ^ min (B c l) (W - 1))) ∧
    Is (.vclz h m d a) in1 (fun c l => clzIn W (A c l)) ∧
    Is (.vpopc h m d a) in1 (fun c l => onesIn W (A c l)) ∧
    Is (.vbfe h m d a b) in2 (fun c l => P (bitField m.ty (A c l) (B c l % 256) (B c l / 256 % 256))) ∧
    Is (.vbfi h m d x y z) in3 (fun c l => insertField W (X c l) (Y c l) (Z c l))

/-- R141, R143, R144, R146: moves, selects and immediates complete; moves and selects copy the bound, constants have bound
0x0000. -/
def Obligations.VectorMoveAndImmediateResults : Prop :=
  ∀ (h : Hdr) (m : IntMod) (ty : ITy) (d x y : VReg) (a : VS) (p : PReg) (imm : BitVec 32),
    let D (c : Ctx) (l : Fin 64) : Lane := (c.v .d d).val[l]
    let inD (c : Ctx) (l : Fin 64) : List Bound := [(c.v .d d).bnd[l]]
    let Edits (i : Instr) (f : Lane → Lane) : Prop :=
      WritesVec i h d 1 (fun c _ l => f (D c l)) (fun c l => intBound (inD c l))
        (fun c => unbBit c.act (fun l => intBound (inD c l)) (inD c))
    WritesVec (.vmov h m d a) h d (if m.ty.wide then 2 else 1) (fun c k l => wordOf (c.lane m.ty.wide .a a l) k)
      (fun c l => c.laneB m.ty.wide .a a l) (fun _ => 0) ∧
    WritesVec (.vsel h ty d x y p) h d (if ty.wide then 2 else 1)
      (fun c k l => wordOf (if has (c.p .c p) l.val then c.lane ty.wide .a (.v x) l else c.lane ty.wide .b (.v y) l) k)
      (fun c l => if has (c.p .c p) l.val then c.laneB ty.wide .a (.v x) l else c.laneB ty.wide .b (.v y) l) (fun _ => 0) ∧
    WritesVec (.vmovi h d imm) h d 1 (fun _ _ _ => imm) (fun _ _ => 0) (fun _ => 0) ∧
    WritesVec (.fmovi h d imm) h d 1 (fun _ _ _ => imm) (fun _ _ => 0) (fun _ => 0) ∧
    Edits (.vaddi h d imm) (fun v => v + imm) ∧
    Edits (.vandi h d imm) (fun v => v &&& imm) ∧
    Edits (.vori h d imm) (fun v => v ||| imm) ∧
    Edits (.vshli h d imm) (fun v => BitVec.ofNat 32 (v.toNat * 2 ^ imm.toNat)) ∧
    Edits (.vshri h d imm) (fun v => BitVec.ofNat 32 (v.toNat / 2 ^ imm.toNat))

/-! ### Pairs of slots (R99, R137, R139, R145, R155) -/

/-- Both slots of a P word read their operands as the word issues; then slot 0 and slot 1 write their results, with the flags,
sticky bits and tiers of both. No guard applies. A floating-point slot delivers TierResult, or FMIN or FMAX, of its elements.
Neither slot writes when a floating-point slot breaches under BMODE.TRAP = 1. Readings of the model it rests on: logs 7 (a
predicate that a run writes twice keeps the later value) and 14. -/
def Obligations.SlotPairResults : Prop :=
  ∀ i m x y s w f r, slotsOf i = some (m, x, y) → Issues s w f r → operandsOk s f i = true →
    let c := ctxOf s w f r ⟨m, false, 0⟩
    let breach := slotBreach c x ||| slotBreach c y
    let tier := (slotTier c y).or (slotTier c x)
    c.act = r.mask ∧
    (breach = 0 ∨ f.sys.bmode.getLsbD 2 = false →
      ∃ g k r1 q, exec i s = .next (wordDone s w { f with
          v := k.v, s := k.s, p := k.p, run := some q
          sys := sysAfter f (slotFlags c x ||| slotFlags c y) (slotBits c x ||| slotBits c y) tier }) ∧
        RunMoves w r q m ∧ SlotWrites c r f g x ∧ SlotWrites c r1 g k y ∧
        (∀ j, j ∉ slotV x → r1.vOld.find? j = r.vOld.find? j) ∧ ∀ j, j ∉ slotS x → r1.sOld.find? j = r.sOld.find? j) ∧
    (breach ≠ 0 → f.sys.bmode.getLsbD 2 = true →
      let z := if slotBreach c x ≠ 0 then x else y
      exec i s = .next (wordTraps s w { f with sys := sysAfter f 0 0 tier } r
        ⟨0x10, w.pc, breach, 0, ((slotLanes c z).elim 0 Outs.breachBound).setWidth 64 ||| (((slotTier c z).getD 1).setWidth 64 <<< 16),
          false⟩))

/-! ### Floating point (R147 to R154) -/

/-- FADD, FSUB, FMUL and FFMA: every lane of ACTIVE delivers TierResult of its elements at the tier that the word names, or that
AUTO chooses over all elements of ACTIVE; LASTTIER and TIERUP follow AUTO. Readings of the model it rests on: logs 13 and 14. -/
def Obligations.TieredResults : Prop :=
  ∀ (h : Hdr) (m : FpMod) (nc : Bool) (d x y z : VReg) (a b : VS),
    let zero : Lanes := bcast 0
    let Is (i : Instr) (op : TOp) (A B E : Ctx → Lanes) : Prop :=
      let t (c : Ctx) := tierOf c m.ty m.tier op m.rm (elements m.ty (A c) (B c) (E c))
      DeliversLanes i h d (regsOf m.ty.wide) (fun c => tieredLanes c op m.ty m.rm (!m.q) (t c).1 (A c) (B c) (E c))
        (fun c => tierCode (t c).1) (fun c => autoCode c m.tier (t c)) (fun c => if (t c).2 then stickyTIERUP else 0) false
    let L (pos : Pos) (o : VS) (c : Ctx) : Lanes := c.lanes m.ty.wide pos o
    Is (.fadd h m d a b) .add (L .a a) (L .b b) (fun _ => zero) ∧
    Is (.fsub h m d a b) .sub (L .a a) (L .b b) (fun _ => zero) ∧
    Is (.fmul h m d a b) .mul (L .a a) (L .b b) (fun _ => zero) ∧
    Is (.ffma h m nc d x y z) (.fma nc) (L .a (.v x)) (L .b (.v y)) (L .c (.v z))

/-- The other arithmetic of R149 to R154: every lane of ACTIVE delivers its elements' results, one or two operands each, checked
unless Q is 1. Readings of the model it rests on: logs 2 and 14. -/
def Obligations.FloatResults : Prop :=
  ∀ (h : Hdr) (m : FpMod) (d : VReg) (a b : VS),
    let Is (i : Instr) (n : Nat) (b : VS) (f : Ctx → FFmt → Ops3 → El) : Prop :=
      DeliversLanes i h d (regsOf m.ty.wide)
        (fun c =>
          let A := c.lanes m.ty.wide .a a
          let B := c.lanes m.ty.wide .b b
          outs c.act fun l =>
            laneOut c.env (!m.q) m.ty ((elements m.ty A B (bcast 0) l).map fun x => f c (fmtOf m.ty) x) ([A.bnd l, B.bnd l].take n))
        (fun _ => 1) (fun _ => none) (fun _ => 0) false
    Is (.fmin h m d a b) 2 b (fun c F x => fminmax F false c.env.dnan x.a x.b x.ea x.eb) ∧
    Is (.fmax h m d a b) 2 b (fun c F x => fminmax F true c.env.dnan x.a x.b x.ea x.eb) ∧
    Is (.fabs h m d a) 1 a (fun _ F x => fsign F true x.a x.ea) ∧
    Is (.fneg h m d a) 1 a (fun _ F x => fsign F false x.a x.ea) ∧
    Is (.fdiv h m d a b) 2 b (fun c F x => fdiv F m.rm c.env.dnan x.a x.b x.ea x.eb) ∧
    Is (.fsqrt h m d a) 1 a (fun c F x => fsqrt F m.rm c.env.dnan x.a x.ea) ∧
    Is (.frcp h m d a) 1 a (fun c F x => frcp F c.env.dnan x.a x.ea) ∧
    Is (.frsq h m d a) 1 a (fun c F x => frsq F c.env.dnan x.a x.ea) ∧
    Is (.fexp2 h m d a) 1 a (fun c F x => fexp2 F c.env.dnan x.a x.ea) ∧
    Is (.flog2 h m d a) 1 a (fun c F x => flog2 F c.env.dnan x.a x.ea) ∧
    Is (.fldexp h m d a b) 2 b (fun c F x => fldexp F m.rm c.env.dnan x.a (ldexpN m.ty x.b) x.ea (x.eb == 0)) ∧
    Is (.frnd h m d a) 1 a (fun c F x => frnd F m.rm c.env.dnan x.a x.ea)

/-- R150, R151, R85: FCMP writes p[D] in the lanes of ACTIVE, where every element's condition holds, ORs in the elements' flags,
and FRAG where an element is fragile; FCLASS writes one mask, or two in the halves of a packed type, with the integer bound.
Readings of the model it rests on: logs 7 and 14. -/
def Obligations.CompareAndClassResults : Prop :=
  ∀ (h : Hdr) (ty : FTy) (full : Bool) (k : FCond) (p : PReg) (d : VReg) (a b : VS),
    (∀ s w f r, Issues s w f r → operandsOk s f (.fcmp h ty full k p a b) = true →
      let c := ctxOf s w f r h
      let res (l : Fin 64) := (elements ty (c.lanes ty.wide .a a) (c.lanes ty.wide .b b) (bcast 0) l).map fun x =>
        fcmp (fmtOf ty) k x.a x.b x.ea x.eb
      ∃ x q fl frag, exec (.fcmp h ty full k p a b) s =
          .next (wordDone s w { f with p := x, sys := sysAfter f (Flags.bits fl) (if frag then stickyFRAG else 0) none, run := some q }) ∧
        RunMoves w r q h.s ∧ q.vOld = r.vOld ∧ q.sOld = r.sOld ∧
        (frag = true ↔ ∃ l : Fin 64, has c.act l.val = true ∧ ∃ e ∈ res l, e.2.2 = true) ∧
        (fl.nv = true ↔ ∃ l : Fin 64, has c.act l.val = true ∧ ∃ e ∈ res l, e.2.1.nv = true) ∧
        fl.dz = false ∧ fl.of = false ∧ fl.uf = false ∧ fl.nx = false ∧
        ∀ j, let g := { f with p := x }
          g.preg j = if j = p.toNat ∧ p ≠ 0 then (f.preg j &&& ~~~c.act) ||| (maskOf (fun l => (res l).all (·.1)) &&& c.act)
            else f.preg j) ∧
    WritesVec (.fclass h ty full d a) h d 1
      (fun c _ l => BitVec.ofNat 32 (packElems .f16x2 ((elemsOf ty (c.lane ty.wide .a a l)).map (fclass (fmtOf ty))) |>.headD 0))
      (fun c l => intBound [c.laneB ty.wide .a a l])
      (fun c => unbBit c.act (fun l => intBound [c.laneB ty.wide .a a l]) fun l => [c.laneB ty.wide .a a l])

/-! ### Conversions (R156 to R160) -/

/-- CVT, CVTPK, MXQ and MXDQ deliver their lanes with the draw of SDSTEP where SR is 1; MXSCALE gives each half of ACTIVE its
common scale with bound 0x0000. Readings of the model it rests on: logs 15 and 48. -/
def Obligations.ConversionResults : Prop :=
  ∀ (h : Hdr) (m : CvMod) (dst src : Fmt) (fmt : MxFmt) (sr sat full q pack : Bool) (d x y : VReg) (a : VS),
    DeliversLanes (.cvt h m dst src d a) h d (regsOf dst.wide)
      (fun c => outs c.act fun l =>
        let e := cvtEl dst src m.sat c.env.dnan (c.cvRnd m.sr m.rm l.val 0) (c.lane src.wide .a a l) (c.laneB src.wide .a a l)
        let z := cvtPlace dst e.code
        { regs := if dst.wide then [(z % 2 ^ 32, e.bnd), (z / 2 ^ 32, e.bnd)] else [(z, e.bnd)], fl := e.fl
          unb := isU e.bnd && !isU (c.laneB src.wide .a a l), breach := if !m.q && c.env.breach e.bnd e then some e.bnd else none })
      (fun _ => 1) (fun _ => none) (fun _ => 0) m.sr ∧
    DeliversLanes (.cvtpk h m dst src d a) h d (cvtpkNd dst src)
      (fun c => outs c.act fun l =>
        let row (j : Nat) : Nat × Bound := match a with
          | .v v => ((c.vAt .a v j).val[l].toNat, (c.vAt .a v j).bnd[l])
          | .s u => (c.nat .a u % 2 ^ 32, 0)
        let ns := cvtpkNs dst src
        let nd := cvtpkNd dst src
        let el (i : Nat) := cvtEl dst src m.sat c.env.dnan (c.cvRnd m.sr m.rm l.val i)
          (elemAt src.container ((List.range ns).map fun j => (row j).1) i % 2 ^ fmtBits src) (row (i * src.container / 32)).2
        let mine (k : Nat) := (List.range (32 / dst.container)).map fun j => el (k * (32 / dst.container) + j)
        let bnd (k : Nat) := boundMaxL ((mine k).map (·.bnd))
        { regs := (List.range nd).map fun k => (joinElems dst.container ((mine k).map (·.code)), bnd k)
          fl := ((List.range nd).flatMap mine).foldl (fun f e => f.or e.fl) Flags.none
          unb := (List.range nd).any (fun k => isU (bnd k)) && !(List.range ns).any fun j => isU (row j).2
          breach := if m.q then none else (List.range nd).findSome? fun k => if (mine k).any (c.env.breach (bnd k)) then some (bnd k) else none })
      (fun _ => 1) (fun _ => none) (fun _ => 0) m.sr ∧
    WritesVec (.mxscale h full fmt d x) h d 1
      (fun c _ l => BitVec.ofNat 32 (mxScale fmt ((halfLanes c.act (l.val / 32 * 32)).map fun j => (c.v .a x).val[j].toNat)))
      (fun _ _ => 0) (fun _ => 0) ∧
    (let half (l : Fin 64) (i : Nat) : Fin 64 := Fin.ofNat 64 (l.val / 32 * 32 + i)
     let w := (mxFmt fmt).width
     DeliversLanes (.mxq h sr sat full q pack fmt d x y) h d 1
       (fun c => outs c.act fun l =>
         let el (i : Fin 64) : El :=
           if has c.act i.val then
             mxQuant fmt c.env.dnan (c.cvRnd sr .rn i.val 0) (c.v .a x).val[i].toNat ((c.v .b y).val[i].toNat % 256) (c.v .a x).bnd[i]
           else ⟨0, Flags.none, 0, none, 0⟩
         let j := l.val % 32
         let word : Nat × Bound :=
           if j < w then
             (joinElems w ((List.range 32).map fun i => (el (half l i)).code) / 2 ^ (32 * j) % 2 ^ 32,
               boundMaxL ((elemsInWord w j).map fun i => (el (half l i)).bnd))
           else (0, 0)
         let r := if pack then word else ((el l).code, (el l).bnd)
         let ins := if pack then ((elemsInWord w j).map (half l)).filter fun i => has c.act i.val else [l]
         { regs := [r], fl := (el l).fl
           unb := isU r.2 && !ins.any fun i => isU (c.v .a x).bnd[i] || isU (c.v .b y).bnd[i]
           breach := if !q && c.env.breach (el l).bnd (el l) then some (el l).bnd else none })
       (fun _ => 1) (fun _ => none) (fun _ => 0) sr ∧
     DeliversLanes (.mxdq h full q pack fmt d x y) h d 1
       (fun c => outs c.act fun l =>
         let i := l.val % 32
         let from_ := if pack then ((List.range w).filter fun j => (elemsInWord w j).contains i).map (half l) else [l]
         let code :=
           if pack then joinElems 32 ((List.range w).map fun j => (c.v .a x).val[half l j].toNat) / 2 ^ (i * w) % 2 ^ w
           else (c.v .a x).val[l].toNat % 2 ^ w
         let e := mxDequant fmt c.env.dnan code ((c.v .b y).val[l].toNat % 256) (boundMaxL (from_.map fun j => (c.v .a x).bnd[j]))
         { regs := [(e.code, e.bnd)], fl := e.fl
           unb := isU e.bnd && !(isU (c.v .b y).bnd[l] || from_.any fun j => isU (c.v .a x).bnd[j])
           breach := if !q && c.env.breach e.bnd e then some e.bnd else none })
       (fun _ => 1) (fun _ => none) (fun _ => 0) false)

/-! ### Cross-lane words (R161 to R167) -/

/-- R163, R167: the moves between lanes. A lane as another lane sees it is `srcLane` (R161). -/
def Obligations.CrossLaneMoves : Prop :=
  ∀ (h : Hdr) (w xor gid : Bool) (g : BitVec 2) (d a b : VReg) (x y : SReg),
    let n := if w then 2 else 1
    let Gathers (i : Instr) (src : Ctx → Nat → Nat) : Prop :=
      WritesVec i h d n (fun c k l => wordOf (c.srcLane w .a a l.val (src c l.val)).1 k)
        (fun c l => (c.srcLane w .a a l.val (src c l.val)).2) fun _ => 0
    WritesUniform (.vrfl h w x a) h x
      (fun c => BitVec.ofNat 64 (c.srcLane w .a a 64 (((List.range 64).find? fun l => has c.act l).getD 64)).1) ∧
    WritesUniform (.vrln h w x a y) h x (fun c => BitVec.ofNat 64 (c.srcLane w .a a 64 (c.nat .b y % 64)).1) ∧
    Gathers (.vbcst h w d a y) (fun c _ => c.nat .b y % 64) ∧
    Gathers (.vshfl h w xor d a b) (fun c l =>
      let j := ((c.v .b b).val.toList.getD l 0).toNat % 64
      if xor then l ^^^ j else j) ∧
    Gathers (.vrot h w g d a y) (fun c l =>
      let m := 64 / 2 ^ g.toNat
      l / m * m + (l % m + c.nat .b y % 64) % m) ∧
    WritesVec (.vlane h gid d) h d 1 (fun c _ l => BitVec.ofNat 32 ((if gid then c.f.findex * 64 else 0) + l.val)) (fun _ _ => 0)
      (fun _ => 0) ∧
    ∀ s i f r, Issues s i f r → operandsOk s f (.vwln h w d x y) = true →
      let c := ctxOf s i f r h
      let one := if c.act = 0 then 0 else maskWhere fun l => l == c.nat .b y % 64
      ∃ v q, exec (.vwln h w d x y) s = .next (wordDone s i { f with v := v, run := some q }) ∧ RunMoves i r q h.s ∧ q.sOld = r.sOld ∧
        q.pOld = r.pOld ∧ LanesWritten f { f with v := v } r one d.toNat n (fun k _ => wordOf (c.nat .a x) k) fun _ _ => 0

/-- R165, R63 to R65: VRED gives every lane of ACTIVE the root of the tree over ACTIVE, VSCAN the root over its lanes up to its
own. Of integers, whatever the shape of the tree, the root is the sum modulo 2^W, the least, the greatest, or the bitwise AND, OR or
XOR of the lanes, with the integer bound of them all, or a lone lane's own. Of floating-point elements it is the tree of R63, each
element in its own: a node adds, or takes the least or the greatest of, the nodes below it, and passes on the only one. Readings of
the model it rests on: logs 13 and 14. -/
def Obligations.ReductionResults : Prop :=
  (∀ (h : Hdr) (ty : RTy) (op : ROp) (q : Bool) (d a : VReg),
    let n := regsOf ty.wide
    let root (c : Ctx) (m : Mask) : LaneOut := redLane c ty op q (c.lanesV ty.wide .a a) m
    DeliversLanes (.vred h ty op q d a) h d n (fun c => outs c.act fun _ => root c c.act) (fun _ => 1) (fun _ => none) (fun _ => 0) false ∧
    DeliversLanes (.vscan h ty op q d a) h d n
      (fun c => outs c.act fun l => root c (c.act &&& maskWhere fun j => decide (j ≤ l.val))) (fun _ => 1) (fun _ => none)
      (fun _ => 0) false) ∧
  (∀ (c : Ctx) (q : Bool) (A : Lanes) (m : Mask), m ≠ 0 →
    ∀ e ∈ ([(.s32, .s32), (.n32, .n32), (.s64, .s64), (.n64, .n64)] : List (RTy × ITy)),
      let W := e.2.bits
      let X (l : Fin 64) : Nat := A.val e.1.wide l
      let all := (List.finRange 64).filter fun l => has m l.val
      let out (op : ROp) : LaneOut := redLane c e.1 op q A m
      let code (op : ROp) : Nat := ((out op).regs.getD 0 (0, 0)).1 + 2 ^ 32 * ((out op).regs.getD 1 (0, 0)).1
      code .add = (all.map X).sum % 2 ^ W ∧
      ((∃ l ∈ all, code .min = X l) ∧ ∀ l ∈ all, valOf e.2 (code .min) ≤ valOf e.2 (X l)) ∧
      ((∃ l ∈ all, code .max = X l) ∧ ∀ l ∈ all, valOf e.2 (X l) ≤ valOf e.2 (code .max)) ∧
      code .and = all.foldl (fun x l => x &&& X l) (2 ^ W - 1) ∧ code .or = all.foldl (fun x l => x ||| X l) 0 ∧
      code .xor = all.foldl (fun x l => x ^^^ X l) 0 ∧
      ∀ op, let b := if all.length = 1 then boundMaxL (all.map fun l => A.bnd l) else intBound (all.map fun l => A.bnd l)
        (out op).regs.length = regsOf e.1.wide ∧ (∀ r ∈ (out op).regs, r.2 = b ∧ r.1 < 2 ^ 32) ∧ (out op).fl = Flags.none ∧
          (out op).breach = none ∧ (out op).unb = (isU b && !all.any fun l => isU (A.bnd l))) ∧
  ∀ (c : Ctx) (q : Bool) (A : Lanes) (m : Mask) (op : ROp), m ≠ 0 → op = .add ∨ op = .min ∨ op = .max →
    ∀ e ∈ ([(.f32, .f32), (.f64, .f64), (.f16x2, .f16x2), (.bf16x2, .bf16x2)] : List (RTy × FTy)),
      let F := fmtOf e.2
      let n := (elemsOf e.2 0).length
      ∃ node : Nat → Nat → Nat → Option Node,
        (∀ i j, node i 0 j = if h : j < 64 then
          (if has m j then some ⟨(elemsOf e.2 (A.val e.1.wide ⟨j, h⟩)).getD i 0, A.bnd ⟨j, h⟩, Flags.none⟩ else none) else none) ∧
        (∀ i k j, node i (k + 1) j = match node i k (2 * j), node i k (2 * j + 1) with
          | some x, some y =>
            let z := match op with
              | .min => fminmax F false c.env.dnan x.code y.code x.bnd y.bnd
              | .max => fminmax F true c.env.dnan x.code y.code x.bnd y.bnd
              | _ => tiered F .add F.P c.env.rdef c.env.dnan x.code y.code 0 x.bnd y.bnd 0
            some ⟨z.code, z.bnd, (x.fl.or y.fl).or z.fl⟩
          | some x, none => some x
          | none, y => y) ∧
        ∃ roots : List Node, roots.length = n ∧ (∀ i, i < n → node i 6 0 = roots[i]?) ∧
          let b := boundMaxL (roots.map (·.bnd))
          let out := redLane c e.1 op q A m
          out.regs = (packElems e.2 (roots.map (·.code))).map (fun x => (x, b)) ∧
            out.fl = roots.foldl (fun f x => f.or x.fl) Flags.none ∧
            out.unb = (isU b && !(List.finRange 64).any fun l => has m l.val && isU (A.bnd l)) ∧
            out.breach = if !q && roots.any (fun x => c.env.breach b (El.checked F x.code x.fl x.bnd)) then some b else none

/-! ### Rime control (R169 to R172) -/

/-- R169: bounds read, written, cleared and joined; UNB where a lane gains U. R171, R172, R31, R53: BCHK writes its tests to
p[D]; BUD and BUDI give EBUD a canonical value from the next run on, and with ACTIVE empty only pass. Readings of the model it rests
on: logs 7 (a predicate that a run writes twice keeps the later value) and 48. -/
def Obligations.RimeControlWords : Prop :=
  (∀ (h : Hdr) (w : Bool) (d a b : VReg),
    let n := if w then 2 else 1
    let Sets (i : Instr) (bnd : Ctx → Fin 64 → Bound) : Prop :=
      ∀ s x f r, Issues s x f r → operandsOk s f i = true →
        let c := ctxOf s x f r h
        ∃ v q, exec i s = .next (wordDone s x { f with
            v := v, sys := stuck f (unbBit c.act (bnd c) fun l => [(c.v .d d).bnd[l]]), run := some q }) ∧
          RunMoves x r q h.s ∧ q.sOld = r.sOld ∧ q.pOld = r.pOld ∧
          LanesWritten f { f with v := v } r c.act d.toNat n (fun k l => (f.vreg (d.toNat + k)).val[l]) fun _ => bnd c
    WritesVec (.bget h w d a) h d 1 (fun c _ l => (c.v .a a).bnd[l].setWidth 32) (fun _ _ => 0) (fun _ => 0) ∧
    Sets (.bset h w d a) (fun c l => canonBound ((c.v .a a).val[l].setWidth 16)) ∧
    Sets (.bclr h w d) (fun _ _ => 0) ∧
    Sets (.bunb h w d) (fun _ _ => 0x8000) ∧
    WritesVec (.bmaxr h w d a b) h d n (fun c k l => wordOf (c.lane w .a (.v a) l) k)
      (fun c l => boundMax (c.laneB w .a (.v a) l) (c.laneB w .b (.v b) l)) (fun _ => 0)) ∧
  ∀ (h : Hdr) (ty : FTy) (p : PReg) (a : VReg) (x : SReg) (imm : BitVec 16),
    let test (chk : BitVec 2) (c : Ctx) (l : Fin 64) : Bool :=
      (elemsOf ty (c.lane ty.wide .a (.v a) l)).any fun e =>
        ({ c.env with chk := chk } : FpEnv).breach (c.laneB ty.wide .a (.v a) l)
          { code := e, fl := Flags.none, bnd := c.laneB ty.wide .a (.v a) l, emin := (fmtOf ty).emin
            z := match (fmtOf ty).decode e with
              | .inf _ => none
              | x => some x.dy.abs }
    WritesPred (.bchk h ty .abs p a) h p (fun c => maskOf (test 1 c)) ∧
    WritesPred (.bchk h ty .rel p a) h p (fun c => maskOf (test 2 c)) ∧
    WritesPred (.bchk h ty .cur p a) h p (fun c => maskOf (test (c.f.sys.bmode.setWidth 2) c)) ∧
    WritesPred (.bchk h ty .unb p a) h p (fun c => maskOf fun l => (c.laneB ty.wide .a (.v a) l).msb) ∧
    ∀ s w f r, Issues s w f r →
      let Pends (i : Instr) (v : Bound) : Prop :=
        operandsOk s f i = true →
          (activeOf w f r h = 0 → exec i s = .next (wordDone s w (passed w f r h))) ∧
          (activeOf w f r h ≠ 0 →
            ∃ q, exec i s = .next (wordDone s w { f with sysPend := f.sysPend.put 0x020 ((canonBound v).setWidth 64), run := some q }) ∧
              RunMoves w r q h.s ∧ q.vOld = r.vOld ∧ q.sOld = r.sOld ∧ q.pOld = r.pOld)
      Pends (.bud h x) (((ctxOf s w f r h).sr .a x).setWidth 16) ∧ Pends (.budi h imm) imm

/-! ### Control flow (R122 to R131) -/

/-- R122 to R125: BRA, BRC, BRX and RET move the lanes of their take mask to their targets, or trap. CALL moves ACTIVE and
writes the link, with bound 0x0000, to the pair D of its lanes; where it traps, no lane moves and no link is written. -/
def Obligations.TransferResults : Prop :=
  (∀ (h : Hdr) (k : BitVec 8) (p : PReg) (a : VReg) (imm : BitVec 32),
    let near (c : Ctx) (_ : Nat) : Word := c.pc.setWidth 64 + 8 * imm.signExtend 64
    let far (c : Ctx) (l : Nat) : Word := BitVec.ofNat 64 (c.lane true .a (.v a) (Fin.ofNat 64 l))
    Transfers (.bra h k imm) h k (·.act) near ∧
    Transfers (.brc h k p imm) h k (fun c => c.act &&& c.p .d p) near ∧
    Transfers (.brx h k a) h k (·.act) far ∧
    Transfers (.ret h k a) h k (·.act) far) ∧
  ∀ (h : Hdr) (k : BitVec 8) (d : VReg) (imm : BitVec 32) s w f r, Issues s w f r → operandsOk s f (.call h k d imm) = true →
    let act := activeOf w f r h
    let t : Word := w.pc.setWidth 64 + 8 * imm.signExtend 64
    (act = 0 ∨ t.toNat % 8 = 0 ∧ t.toNat < 2 ^ 48 →
      ∃ es v q, exec (.call h k d imm) s = .next (wordDone s w { f with frontier := f.frontier ++ es, v := v, run := some q }) ∧
        BranchEntries es k act (fun _ => t) ∧ q.sOld = r.sOld ∧ q.pOld = r.pOld ∧
        RunMoves w { r with mask := r.mask &&& ~~~act } q true ∧
        LanesWritten f { f with v := v } r act d.toNat 2 (fun j _ => wordOf (w.pc.toNat + 8) j) fun _ _ => 0) ∧
    (act ≠ 0 → t.toNat % 8 ≠ 0 → exec (.call h k d imm) s = .next (wordTraps s w f r ⟨0x22, w.pc, act, t, w.word, false⟩)) ∧
    (act ≠ 0 → t.toNat % 8 = 0 → 2 ^ 48 ≤ t.toNat →
      exec (.call h k d imm) s = .next (wordTraps s w f r ⟨0x21, w.pc, act, t, w.word, false⟩))

/-- R129: PRIO sets the priority of the issuing entry, all its lanes with it, when ACTIVE is not empty; the entry has it at the
next run boundary. -/
def Obligations.PrioWord : Prop :=
  ∀ (h : Hdr) (n : BitVec 8) s w f r, Issues s w f r → operandsOk s f (.prio h n) = true →
    let after (p : BitVec 8) : Run := nextRun w { r with prio := p } h.s
    (activeOf w f r h ≠ 0 → exec (.prio h n) s = .next (wordDone s w { f with run := some (after n) })) ∧
    (activeOf w f r h = 0 → exec (.prio h n) s = .next (wordDone s w { f with run := some (after r.prio) })) ∧
    (r.mask ≠ 0 → ∃ e, (after n).entry = [e] ∧ e.prio = n ∧ e.mask = r.mask)

/-- R230: TRAP and BKPT end their run and raise SWTRAP at its end, for the lanes of ACTIVE, at the next word, with the word's
address and its number. R126 to R131, R236: what leaving, waiting and the run-level words do; nothing else of the state changes.
RECONV's lanes wait at the word with RCWAIT; SLEEP and LWAIT keep one deadline per floe, the latest; HALT stops the floe when
the run has ended. Readings of the model it rests on: logs 16 and 39. -/
def Obligations.WaitResults : Prop :=
  (∀ (h : Hdr) (n : BitVec 8) (imm : BitVec 32) s w f r, Issues s w f r →
    let act := activeOf w f r h
    let Raises (i : Instr) (info : Word) : Prop :=
      operandsOk s f i = true →
        (act = 0 → exec i s = .next (wordDone s w { f with run := some (nextRun w r true) })) ∧
        (act ≠ 0 → exec i s = .next (wordDone s w { f with
          traps := f.traps ++ [⟨⟨0x42, w.pc + 8, act, w.pc.setWidth 64, info, false⟩, .run r.mask, false, false, true⟩]
          run := some (nextRun w r true) }))
    Raises (.trap h imm) (imm.setWidth 64) ∧ Raises (.bkpt h n) (BitVec.ofNat 64 (2 ^ 32 + n.toNat))) ∧
  ∀ (h : Hdr) (imm : BitVec 32) (x : SReg) s w f r, Issues s w f r →
    let act := activeOf w f r h
    let Leaves (i : Instr) (g : Floe) (q : Run) : Prop :=
      operandsOk s f i = true → exec i s = .next (wordDone s w { g with run := some q })
    let later (t : Word) : Word := if f.deadline.toNat < t.toNat then t else f.deadline
    let now := s.firn (coreOf w.floe)
    Leaves (.nop h) f (nextRun w r h.s) ∧
    Leaves (.exit h) f (nextRun w { r with mask := r.mask &&& ~~~act } true) ∧
    Leaves (.yield h) f (nextRun w { r with yielded := r.yielded || act != 0 } true) ∧
    Leaves (.halt h) f (nextRun w { r with halt := if act = 0 then r.halt else some (r.halt.getD w.pc) } h.s) ∧
    (act = 0 → Leaves (.reconv h) f (nextRun w r true)) ∧
    (act ≠ 0 → Leaves (.reconv h) { f with frontier := f.frontier ++ [⟨w.pc, r.prio, 2, act, .none, 0, 0⟩] }
      (nextRun w { r with mask := r.mask &&& ~~~act } true)) ∧
    (act = 0 ∨ imm = 0 → Leaves (.sleep h imm) f (nextRun w r h.s)) ∧
    (act ≠ 0 → imm ≠ 0 →
      Leaves (.sleep h imm) { f with deadline := later (now + imm.setWidth 64) } (nextRun w { r with slept := true } h.s)) ∧
    let t := (ctxOf s w f r h).sr .a x
    (act = 0 ∨ t.toNat ≤ now.toNat → Leaves (.lwait h x) f (nextRun w r true)) ∧
    (act ≠ 0 → now.toNat < t.toNat →
      Leaves (.lwait h x) { f with deadline := later t, frontier := f.frontier ++ [⟨w.pc, r.prio, 8, r.mask, .lwait, 0, 0⟩] }
        (nextRun w { r with mask := 0 } true))

/-! ### Traps and their handlers (R106, R302 to R307, R231) -/

/-- R106: a word whose operands break an operand rule raises ILLEGAL_OPERAND for its entry and has no effect. R305: taking a
trap outside handler mode writes the trap registers, keeps the frontier and the trapping entry's priority aside, sets p14 and
p15, and forms one entry at XBASE with priority 255. R306, R236: in handler mode it halts the floe, is reported with HFAULT in
HALTLOG, unless a report stands there, and raises vector 19; nothing else changes. Readings of the model it rests on: logs 10,
28 and 43. -/
def Obligations.TrapsAndEntry : Prop :=
  (∀ i s w f r, Issues s w f r → (encode i).isSome = true → operandsOk s f i = false →
    exec i s = .next (wordTraps s w f r (issueTrap w r 0x02))) ∧
  (∀ s key f t mask prio, f.handler = false →
    ∃ g, takeTrap s key f t mask prio = s.setFloe key g ∧
      g.xpc = t.pc ∧ g.xcause = (if t.host then 0x200 else 0) ||| t.cause.setWidth 10 ∧ g.xmask = t.mask ∧ g.xaddr = t.addr ∧
      g.xinfo = t.info ∧ g.handler = true ∧ g.intFrontier = f.frontier ∧ g.trapPrio = prio ∧ g.preg 14 = mask ∧ g.preg 15 = f.live ∧
      (∀ k, k ≠ 14 → k ≠ 15 → g.preg k = f.preg k) ∧
      g.frontier = (if f.live = 0 then [] else [⟨f.xbase, 255, 0, f.live, .none, 0, 0⟩]) ∧
      g.v = f.v ∧ g.s = f.s ∧ g.sys = f.sys ∧ g.xbase = f.xbase ∧ g.xsave = f.xsave ∧ g.run = f.run) ∧
  ∀ s key f t mask prio, f.handler = true → key < 20480 →
    ∃ (log addr : Word), takeTrap s key f t mask prio =
        { s with
          floes := s.floes.put key { f with halted := true }
          hub := { s.hub with haltlog := log, haltaddr := addr, vectors := s.hub.vectors ++ [19] } } ∧
      (s.hub.haltlog.msb = true → log = s.hub.haltlog ∧ addr = s.hub.haltaddr) ∧
      (s.hub.haltlog.msb = false → log.msb = true ∧ log.getLsbD 62 = true ∧ (log >>> 54).setWidth 8 = t.cause)

/-- R307, R231, R312, R309, R306: outside handler mode RFT raises ILLEGAL_OPERAND; with ACTIVE empty it only ends its run. Else, with
the frontier F set aside at the trap, or loaded by FRLOAD with the waits of its entries judged again, handler mode ends and the lanes
of XMASK that live go on at XPC with the trapping entry's priority, unless KILL is 1, and the others where they were; no outstanding
fault holds the lanes of XMASK any more, or after FRLOAD any lane, nor the handler's own; a boundary cause of the handler goes to the
end of the run. The floe halts where XPC is no word address. Readings of the model it rests on: logs 7, 10, 11, 23, 49 and 54. -/
def Obligations.ReturnFromTrap : Prop :=
  ∀ (h : Hdr) s w f r, Issues s w f r → operandsOk s f (.rft h) = true →
    let c := ctxOf s w f r h
    let m := sysRead c 0x102 &&& f.live
    let kill := (sysRead c 0x101).getLsbD 8
    let xpc := (sysRead c 0x100).setWidth 48
    (f.handler = false → exec (.rft h) s = .next (wordTraps s w f r (issueTrap w r 0x02))) ∧
    (f.handler = true → c.act = 0 → exec (.rft h) s = .next (wordDone s w { f with run := some (nextRun w r true) })) ∧
    (f.handler = true → c.act ≠ 0 → m = 0 ∨ kill = true ∨ xpc.toNat % 8 = 0 →
      ∃ (back fr : List Entry) (deadline : Word),
        exec (.rft h) s = .next (wordDone
          ((s.unwait w.floe f.seq allLanes true).unwait w.floe f.seq (if f.loaded.isSome then allLanes else m) false) w { f with
            frontier := fr, intFrontier := [], loaded := none, handler := false, deadline := deadline
            sbar := if f.loaded.isSome && s.sbarOver f then none else f.sbar
            syncs := (f.syncs.filter fun x => !x.handler).map fun x =>
              if x.op.isNone then { x with word := (s.codeAt w.floe f x.addr).getD 0 } else x
            traps := f.traps.map fun t => match t.who with
              | .sywait l => { t with who := .sywait (l &&& ~~~sysRead c 0x102) }
              | _ => t
            run := some (nextRun w { r with mask := 0, late := f.lateCause } true) }) ∧
        (f.loaded = none → back = f.intFrontier ∧ deadline = f.deadline) ∧
        (∀ es, f.loaded = some es → List.Forall₂ (Restores s w.floe f) es back ∧ f.deadline.toNat ≤ deadline.toNat ∧
          ∀ e ∈ es, e.flags &&& flagBlocked ≠ 0 → e.mask &&& ~~~f.kept.asleep ≠ 0 → ∀ word k a, s.codeAt w.floe f e.pc = some word →
            decode? (marked word) = some (.lwait k a) → (f.sreg a.toNat).toNat ≤ deadline.toNat) ∧
        (∀ e ∈ fr, e.mask ≠ 0) ∧
        (∀ b ∈ back, b.flags ≠ 0 → b.flags ≠ flagRcwait → b.mask &&& ~~~(m ||| ~~~f.live) ≠ 0 →
          { b with mask := b.mask &&& ~~~(m ||| ~~~f.live) } ∈ fr) ∧
        ∀ l, l < 64 → ∀ pc, (∃ e ∈ fr, e.pc = pc ∧ has e.mask l = true) ↔
          (has m l = true ∧ kill = false ∧ pc = xpc) ∨
          (has m l = false ∧ has f.live l = true ∧ ∃ e ∈ back, e.pc = pc ∧ has e.mask l = true)) ∧
    (f.handler = true → c.act ≠ 0 → m ≠ 0 → kill = false → xpc.toNat % 8 ≠ 0 →
      ∃ (t : State) (g : Floe), exec (.rft h) s = .next t ∧ t.floes.find? w.floe = some g ∧ g.halted = true ∧ g.handler = true ∧ SameMemory s t) ∧
    (s.sbarOver f = true ↔ ∃ l i g p fd, f.sbar = some (l, i, g) ∧ s.packs.find? f.pack = some p ∧ s.fieldOf p.id = some fd ∧
      ∀ b ∈ fd.bars, b.level = l → b.index = i.toNat → b.gen = g → floeCode p.id.k f.findex ∉ b.arrived)

/-! ### System registers, time, the seed, the floe record (R42, R230 to R237, R313) -/

/-- R233: FIRNRD gives D the value of the die's Firn. R232, R42: MFSR gives D the value of a system register, and traps on an
accumulator that the pack does not have; a register that no word of the run has written reads as it stands. Readings of the
model it rests on: log 7. -/
def Obligations.SystemRegisterReads : Prop :=
  (∀ (h : Hdr) (d : SReg), WritesUniform (.firnrd h d) h d (fun c => c.s.firn c.core)) ∧
  ∀ (h : Hdr) (d : SReg) (x : BitVec 10) s w f r, Issues s w f r →
    let c := ctxOf s w f r h
    let ix := x.toNat
    (noAcc c ix = false → WritesUniformAt (.mfsr h d x) h d (fun c => sysRead c ix) s w f r) ∧
    (noAcc c ix = true → operandsOk s f (.mfsr h d x) = true →
      exec (.mfsr h d x) s = .next (wordTraps s w f r (issueTrap w r 0x02))) ∧
    (f.sysPend = [] → r.sysOld = f.sys →
      sysRead c 0x008 = f.ctx.setWidth 64 ∧ sysRead c 0x009 = BitVec.ofNat 64 f.valloc ∧
      sysRead c 0x010 = f.sys.fpctl.setWidth 64 ∧ sysRead c 0x011 = f.sys.fpflags.setWidth 64 ∧
      sysRead c 0x020 = f.sys.ebud.setWidth 64 ∧ sysRead c 0x021 = f.sys.bmode.setWidth 64 ∧
      sysRead c 0x022 = f.sys.bguard.setWidth 64 ∧ sysRead c 0x023 = f.sys.bsticky.setWidth 64 ∧
      sysRead c 0x024 = f.sys.lasttier.setWidth 64 ∧ sysRead c 0x030 = f.sys.seedlo.setWidth 64 ∧
      sysRead c 0x031 = f.sys.seedhi.setWidth 64 ∧ sysRead c 0x032 = f.sys.sdstep.setWidth 64 ∧
      sysRead c 0x040 = s.firn (coreOf w.floe) ∧ sysRead c 0x100 = f.xpc.setWidth 64 ∧ sysRead c 0x101 = f.xcause.setWidth 64 ∧
      sysRead c 0x102 = f.xmask ∧ sysRead c 0x103 = f.xaddr ∧ sysRead c 0x104 = f.xinfo ∧
      sysRead c 0x105 = f.xbase.setWidth 64 ∧ sysRead c 0x106 = f.xsave)

/-- R31, R53, R42, R232: what a run has written to a governing register governs from the next run on. MTSR and MTSRI: FPFLAGS
and BSTICKY clear the bits written 1 at once; the other registers keep the value for the next run; the trap registers and ACCOWN
may be written in handler mode only, and BMODE.CHK may not be 3, also where ACTIVE is empty. Readings of the model it rests on: logs
7 and 43. -/
def Obligations.SystemRegisterWrites : Prop :=
  (∀ (f : Floe) (v : Word),
    let after (ix : Nat) : Floe := ({ f with sysPend := [(ix, v)] } : Floe).applySys
    (after 0x010).sys = { f.sys with fpctl := v.setWidth 3 } ∧ (after 0x020).sys = { f.sys with ebud := canonBound (v.setWidth 16) } ∧
    (after 0x021).sys = { f.sys with bmode := v.setWidth 4 } ∧ (after 0x022).sys = { f.sys with bguard := v.setWidth 4 } ∧
    (after 0x030).sys = { f.sys with seedlo := v.setWidth 32 } ∧ (after 0x031).sys = { f.sys with seedhi := v.setWidth 32 } ∧
    (after 0x032).sys = { f.sys with sdstep := v.setWidth 32 } ∧ (after 0x100).xpc = v.setWidth 48 ∧
    (after 0x101).xcause = v.setWidth 10 ∧ (after 0x102).xmask = v ∧ (after 0x103).xaddr = v ∧ (after 0x104).xinfo = v ∧
    ∀ ix, (after ix).sysPend = [] ∧ (after ix).v = f.v ∧ (after ix).s = f.s ∧ (after ix).p = f.p ∧ (after ix).frontier = f.frontier) ∧
  ∀ (h : Hdr) (x : BitVec 10) (a : SReg) (imm : BitVec 32) s w f r, Issues s w f r →
    let c := ctxOf s w f r h
    let ix := x.toNat
    let Writes (i : Instr) (v : Word) : Prop :=
      operandsOk s f i = true →
        let stored (y : Word) : Floe := { f with sysPend := f.sysPend.put ix y }
        let bad := noAcc c ix = true ∨ handlerOnly ix = true ∧ f.handler = false ∨ ix = 0x021 ∧ v &&& 3 = 3
        let g : Floe :=
          if ix = 0x010 then stored (v &&& 0x7)
          else if ix = 0x011 then { f with sys := { f.sys with fpflags := f.sys.fpflags &&& ~~~(v.setWidth 5) } }
          else if ix = 0x020 then stored ((canonBound (v.setWidth 16)).setWidth 64)
          else if ix = 0x021 ∨ ix = 0x022 then stored (v &&& 0xF)
          else if ix = 0x023 then { f with sys := { f.sys with bsticky := f.sys.bsticky &&& ~~~(v.setWidth 5) } }
          else if ix = 0x030 ∨ ix = 0x031 ∨ ix = 0x032 then stored (v &&& 0xFFFFFFFF)
          else if ix = 0x100 then stored (v &&& 0xFFFFFFFFFFFF)
          else if ix = 0x101 then stored (v &&& 0x3FF)
          else if ix = 0x102 ∨ ix = 0x103 ∨ ix = 0x104 then stored v
          else if 0x090 ≤ ix ∧ ix < 0x098 then stored (v &&& 0xFF)
          else f
        (bad → exec i s = .next (wordTraps s w f r (issueTrap w r 0x02))) ∧
        (¬bad → exec i s = .next (wordDone s w { (if c.act = 0 then f else g) with run := some (nextRun w r h.s) }))
    Writes (.mtsr h x a) (c.sr .a a) ∧ Writes (.mtsri h x imm) (imm.setWidth 64)

/-- R235: SEED gives the next run SEEDLO, SEEDHI and SDSTEP, once when ACTIVE is not empty; its word has form 0, OP9 0x16C and
MOD 0. -/
def Obligations.SeedWord : Prop :=
  ∀ (h : Hdr) (a b : SReg) s w f r, Issues s w f r → operandsOk s f (.seed h a b) = true →
    let c := ctxOf s w f r h
    let x := c.sr .a a
    let y := c.sr .b b
    let kept := ((f.sysPend.put 0x030 (x &&& 0xFFFFFFFF)).put 0x031 (x >>> 32)).put 0x032 (y &&& 0xFFFFFFFF)
    (c.act = 0 → exec (.seed h a b) s = .next (wordDone s w (passed w f r h))) ∧
    (c.act ≠ 0 → exec (.seed h a b) s = .next (wordDone s w { (passed w f r h) with sysPend := kept }) ∧
      (f.sysPend = [] → ({ f with sysPend := kept } : Floe).applySys.sys =
        { f.sys with seedlo := x.setWidth 32, seedhi := (x >>> 32).setWidth 32, sdstep := y.setWidth 32 })) ∧
    ∀ word, encode (.seed h a b) = some word → (word >>> 61).setWidth 2 = 0#2 ∧ (word >>> 52).setWidth 9 = 0x16C#9 ∧
      (word >>> 40).setWidth 8 = 0#8

/-- R36, R231, R237, R313, R174: outside handler mode RFT, FRSAVE and FRLOAD raise ILLEGAL_OPERAND. In handler mode FRSAVE
issues a relaxed store of the parts of the floe's record, and the device keeps beside it what the record does not hold; FRLOAD
issues a relaxed load of them, for every lane of ACTIVE; a base that is no multiple of 256 raises MISALIGN. With ACTIVE empty they
pass. Readings of the model it rests on: logs 19, 23 and 54 (what is kept beside the record). -/
def Obligations.FloeRecordWords : Prop :=
  (∀ (h : Hdr) (a : SReg) s w f r, Issues s w f r → f.handler = false →
    ∀ i ∈ [Instr.rft h, .frsave h a, .frload h a], operandsOk s f i = true →
      exec i s = .next (wordTraps s w f r (issueTrap w r 0x02))) ∧
  (∀ (h : Hdr) (a : SReg),
    let ok (c : Ctx) : Prop := c.f.handler = true ∧ c.act ≠ 0 ∧ (c.sr .a a).toNat % 256 = 0
    let lengths (c : Ctx) : List (Nat × Nat) := (recParts c).map fun e => (e.1, e.2.length)
    let loads (c : Ctx) : List (Nat × Nat) := [(0, 0x580), (0x980, recFixed c.f.valloc - 0x980 + 24 * c.peekSyncs (c.sr .a a))]
    IssuesAccessAs .words (fun f => { f with kept := f.keep }) (.frsave h a) h ⟨true, 1, none, false⟩ (fun c => recAddrs (c.sr .a a) (lengths c))
      (fun c cks => ⟨laneMask c.act cks, .rlx, .core, false, true,
        (cks.zip (recParts c)).flatMap fun e =>
          (laneUnits .near e.2.2.length e.1).map fun x => .store [storeSpan [x] (fun _ k => (e.2.2.getD k 0, 0)) x],
        .none, minExp cks, storeTraps cks, onMmio cks⟩) (fun _ _ => 0) ok ∧
    IssuesAccess (.frload h a) h ⟨false, 1, none, false⟩ (fun c => recAddrs (c.sr .a a) (loads c))
      (fun c cks => ⟨laneMask c.act cks, .rlx, .core, true, false,
        ((cks.zip (loads c)).flatMap fun e =>
          (laneUnits .near e.2.2 e.1).map fun x => ({ x with k := x.k + e.2.1 } : Span)).map fun x => .load [x],
        .frload, minExp cks, true, onMmio cks⟩) (fun _ _ => 0) ok ∧
    ∀ s w f r, Issues s w f r → f.handler = true → activeOf w f r h ≠ 0 →
      let base := (ctxOf s w f r h).sr .a a
      base.toNat % 256 ≠ 0 → ∀ i ∈ [Instr.frsave h a, .frload h a], operandsOk s f i = true →
        exec i s = .next (wordTraps s w f r ⟨0x22, w.pc, activeOf w f r h, base, w.word, false⟩)) ∧
  ∀ (h : Hdr) (a : SReg) s w f r, Issues s w f r → f.handler = true → activeOf w f r h = 0 →
    ∀ i ∈ [Instr.frsave h a, .frload h a], operandsOk s f i = true → exec i s = .next (wordDone s w (passed w f r h))

/-! ### Global memory (R102, R173 to R189, R239) -/

/-- R102, R177 to R179, R239: the address of each lane of ACTIVE is s[SA] + SignExt(v[VB]) + SignExt(OFF), without v[VB] where
VB is 1023. LD, LDU, ST and STU: where every lane passes the checks, the access stands among those to be performed, with the
units and the data that the rules give it; memory and the floe's registers are as they were. Readings of the model it rests on:
logs 19, 36 and 47. -/
def Obligations.LoadStoreWords : Prop :=
  (∀ (c : Ctx) (m : MemOp),
    c.addrs m = (lanesOf c.act).map fun l =>
      (l, c.sr .a m.sa + (if m.vb = 1023 then 0 else ((c.v .a m.vb).val.toList.getD l 0).signExtend 64) + m.off.signExtend 64)) ∧
  ∀ (h : Hdr) (m : MemOp) (sz : Sz) (d : VReg) (x : SReg),
    let n := szBytes sz
    let all (c : Ctx) : List ((Nat × Word) × Nat) := (c.addrs m).map fun la => (la, n)
    let one (c : Ctx) : List ((Nat × Word) × Nat) := [((64, c.sr .a m.sa + m.off.signExtend 64), n)]
    let spans (cks : List LaneCheck) : List Span := cks.flatMap (laneUnits m.level n)
    let parts (cks : List LaneCheck) : List Span := cks.flatMap fun k => laneUnits m.level n k
    let sts (c : Ctx) (cks : List LaneCheck) : List (List StSpan) :=
      storeUnits (unitsOf true (parts cks)) (Ctx.storeByte (c.dataRows d (szSpan sz)) sz)
    IssuesAccess (.ld h m sz d) h ⟨false, 1, none, false⟩ all
      (fun c cks => ⟨laneMask c.act cks, m.order, m.scope, true, false, (unitsOf true (spans cks)).map .load, .vec sz d, minExp cks, true, onMmio cks⟩)
      (fun _ _ => 0) (fun _ => True) ∧
    IssuesAccess (.ldu h m sz x) h ⟨false, 1, none, false⟩ one
      (fun c cks => ⟨laneMask c.act cks, m.order, m.scope, true, false, (spans cks).map fun x => .load [x], .uni sz x, minExp cks, true, onMmio cks⟩)
      (fun _ _ => 0) (fun c => c.act ≠ 0) ∧
    IssuesAccess (.st h m sz d) h ⟨true, 1, none, false⟩ all
      (fun c cks => ⟨laneMask c.act cks, m.order, m.scope, false, true, (sts c cks).map .store, .none, minExp cks, storeTraps cks, onMmio cks⟩)
      (fun c cks => if (sts c cks).any dropsBound then stickyLOST else 0) (fun _ => True) ∧
    IssuesAccess (.stu h m sz x) h ⟨true, 1, none, false⟩ one
      (fun c cks => ⟨laneMask c.act cks, m.order, m.scope, false, true,
        (storeUnits ((parts cks).map fun x => [x]) fun _ k => (BitVec.ofNat 8 (c.nat .d x / 256 ^ k), 0)).map .store,
        .none, minExp cks, storeTraps cks, onMmio cks⟩) (fun _ _ => 0) (fun c => c.act ≠ 0)

/-- R183 to R189: the atomics of global memory and the Moraine words.
Readings of the model it rests on: logs 8, 19 and 32. -/
def Obligations.AtomicAndMoraineWords : Prop :=
  ∀ (h : Hdr) (m : MemOp) (ty : ATy) (ret : Bool) (d : VReg) (op : ReconOp),
    let n := if ty.wide then 8 else 4
    let lanes (c : Ctx) (cks : List LaneCheck) : List AtLane := cks.flatMap fun ck => ck.pieces.map fun q =>
      let x := if has c.act ck.lane then c.atomData ty d ck.lane else (0, 0, 0, 0)
      ⟨ck.lane, ck.va, q.pa, x.1, x.2.1, x.2.2.1, x.2.2.2, leafTagged q.leaf⟩
    let Atom (i : Instr) (f : AFun) : Prop :=
      IssuesAccess i h ⟨true, n, some false, true⟩ (fun c => (c.addrs m).map fun la => (la, n))
        (fun c cks => ⟨laneMask c.act cks, m.order, m.scope, true, true,
          ((lanes c cks).map fun x => lineOf x.pa).eraseDups.map fun ln =>
            .atomic f ty (c.f.sys.fpctl.getLsbD 2) ((lanes c cks).filter fun x => lineOf x.pa == ln),
          if ret then .vec (if ty.wide then .b64 else .b32) d else .none, minExp cks, ret, false⟩) (fun _ _ => 0) (fun _ => True)
    let Cell (i : Instr) (rd wr : Bool) (todo : Ctx → List LaneCheck → List Work) (dest : Dest)
        (snap : Ctx → List LaneCheck → Bool) (bits : Ctx → List LaneCheck → BitVec 5) : Prop :=
      IssuesAccess i h ⟨wr, 8, some true, false⟩ (fun c => (c.addrs m).map fun la => (la, 8))
        (fun c cks => ⟨laneMask c.act cks, m.order, m.scope, rd, wr, todo c cks, dest, minExp cks, snap c cks, false⟩) bits (fun _ => True)
    Atom (.atomAdd h m ty ret d) .add ∧ Atom (.atomSub h m ty ret d) .sub ∧ Atom (.atomMin h m ty ret d) .min ∧
    Atom (.atomMax h m ty ret d) .max ∧ Atom (.atomAnd h m ty ret d) .and ∧ Atom (.atomOr h m ty ret d) .or ∧
    Atom (.atomXor h m ty ret d) .xor ∧ Atom (.atomXchg h m ty ret d) .xchg ∧ Atom (.atomCas h m ty ret d) .cas ∧
    Cell (.ldv h m d) true false (fun c cks => (c.cellLanes d cks).map .ldv) (.vec .b128 d) (fun _ _ => true) (fun _ _ => 0) ∧
    Cell (.stv h m d) false true (fun c cks => (byLine (c.cellLanes d cks)).map .stv) .none (fun _ cks => storeTraps cks)
      (fun c cks => if cks.any fun ck => (c.vAt .d d 0).bnd.toList.getD ck.lane 0 != 0 then stickyLOST else 0) ∧
    Cell (.recon h m op d) true true (fun c cks => (byLine (c.cellLanes d cks)).map fun u => .recon op (c.f.sys.fpctl.getLsbD 2) u)
      (.vec .b128 d) (fun _ _ => true) (fun _ _ => 0)

/-- R174, R308, R342: the checks in their order. A lane at fault raises MISALIGN, then PROTECTION, then MORAINE_OP, for all such
lanes, with the address of the lowest, and the access has no effect. Else the lanes without a translation park at the word, each on
the outstanding fault of its page, and the others go on with the access alone. Readings of the model it rests on: log 17. -/
def Obligations.AccessChecks : Prop :=
  ∀ (c : Ctx) (rule : AccRule) (las : List ((Nat × Word) × Nat)) (k : Ctx → List LaneCheck → State) (p : Pack),
    c.pack? = some p → c.r.denied &&& c.act = 0 →
    let x := checkLanes c.core c.f.ctx (c.s.rootOf p) c.f.handler rule c.s las
    let c' : Ctx := { c with s := x.1 }
    let at_ (t : LaneCheck → Bool) : Mask := failing c.act x.2 t
    (at_ (·.mis) ≠ 0 → c.accessN rule las k = trapAt c' 0x22 (at_ (·.mis)) (failAddr x.2 (·.mis)) c.word) ∧
    (at_ (·.mis) = 0 → at_ (·.prot) ≠ 0 → c.accessN rule las k = trapAt c' 0x21 (at_ (·.prot)) (failAddr x.2 (·.prot)) c.word) ∧
    (at_ (·.mis) = 0 → at_ (·.prot) = 0 → at_ (·.cell) ≠ 0 →
      c.accessN rule las k = trapAt c' 0x26 (at_ (·.cell)) (failAddr x.2 (·.cell)) c.word) ∧
    ((∀ y ∈ x.2, y.mis = false ∧ y.prot = false ∧ y.cell = false ∧ y.miss = []) → c.accessN rule las k = k c' x.2) ∧
    (at_ (·.mis) = 0 → at_ (·.prot) = 0 → at_ (·.cell) = 0 →
      let gone := at_ fun y => !y.miss.isEmpty
      let left := c.r.mask &&& ~~~gone
      gone ≠ 0 → ∃ t : State,
        c.accessN rule las k = k { c with
            s := t, act := c.act &&& ~~~gone
            f := { c.f with frontier := c.f.frontier ++ [⟨c.pc, c.r.prio, flagParked, gone, .none, 0, 0⟩] }
            r := { c.r with mask := left, ended := c.r.ended || left == 0 } }
          (if x.2.any (fun y => y.lane == 64 && !y.miss.isEmpty) then [] else x.2.filter fun y => y.miss.isEmpty) ∧
        SameMemory c.s t ∧ t.floes = c.s.floes ∧ t.pend = c.s.pend ∧
        (∀ z ∈ c.s.hub.faults, ∃ y ∈ t.hub.faults, y.id = z.id ∧ y.ctx = z.ctx ∧ y.page = z.page ∧ ∀ v ∈ z.waiters, v ∈ y.waiters) ∧
        ∀ y ∈ x.2, ∀ e ∈ y.miss, ∃ z ∈ t.hub.faults, z.ctx = c.f.ctx ∧ z.page = e.1.toNat / 65536 ∧
          .lanes c.key c.f.seq gone false c.f.handler ∈ z.waiters) ∧
    SameMemory c.s x.1 ∧ x.1.floes = c.s.floes

/-- R181, R182, R190, R191: PREF changes caches only; LDSP forks one copy for each lane; FENCE stands in order before later
accesses of its lanes; a CACHE word changes no byte, tag or register. Readings of the model it rests on: logs 21, 43 (LDSP judges its
reserved fields also where ACTIVE is empty) and 53. -/
def Obligations.PrefetchFenceAndCacheWords : Prop :=
  ∀ (h : Hdr) (m : MemOp) (sz : Sz) (d a : SReg) (sc : Bool) (scope : Scope) s w f r, Issues s w f r →
    let c := ctxOf s w f r h
    let Quiet (i : Instr) : Prop := operandsOk s f i = true → ∃ t, Retires i s w (passed w f r h) t ∧ t.pend = s.pend
    let n := szBytes sz
    let x := c.nat .d d
    let bar := x / 2 ^ 32 % 2 ^ 24
    Quiet (.pref h m) ∧ Quiet (.cacheDrop h a) ∧ Quiet (.cacheClean h a) ∧ Quiet (.cacheInval h a) ∧
    (operandsOk s f (.fence h sc scope) = true →
      exec (.fence h sc scope) s = .next (wordDone { s with
        fences := if c.act = 0 then s.fences else s.fences ++ [⟨w.floe, f.seq, w.number, c.act, sc, scope⟩] } w (passed w f r h))) ∧
    (operandsOk s f (.ldsp h m sz d) = true → x / 2 ^ 56 ≠ 0 ∨ x / 2 ^ 24 % 2 ^ 8 ≠ 0 →
      exec (.ldsp h m sz d) s = .next (wordTraps s w f r (issueTrap w r 0x02))) ∧
    (operandsOk s f (.ldsp h m sz d) = true → c.act = 0 → x / 2 ^ 56 = 0 → x / 2 ^ 24 % 2 ^ 8 = 0 → exec (.ldsp h m sz d) s = .next (wordDone s w (passed w f r h))) ∧
    (operandsOk s f (.ldsp h m sz d) = true → c.act ≠ 0 → x / 2 ^ 56 = 0 → x / 2 ^ 24 % 2 ^ 8 = 0 → ∀ p b s' cks,
      PadOk p n n ((lanesOf c.act).map fun l => BitVec.ofNat 64 (x % 2 ^ 24 + l * n)) →
      GoodObj c p (BitVec.ofNat 64 (bar)) b →
      Passes c ⟨false, 1, none, false⟩ ((c.addrs m).map fun la => (la, n)) p s' cks →
      ∃ new, exec (.ldsp h m sz d) s = .next (wordDone { s' with copies := s'.copies ++ new, fresh := s'.fresh + cks.length } w
          (passed w f r h)) ∧
        new.map (fun e : Copy => (e.src, e.dst, e.n, e.bar)) =
          cks.map fun k => (laneUnits m.level n k, x % 2 ^ 24 + k.lane * n, n, bar))

/-! ### Scratchpad (R177, R178, R180, R185) -/

/-- R177, R180: LDS gives each lane of ACTIVE the bytes at its offset, with their bounds. Readings of the model it rests on: log 19
(a scratchpad access is performed at its issue). -/
def Obligations.ScratchpadLoads : Prop :=
  ∀ (h : Hdr) (m : MemOp) (sz : Sz) (d : VReg) s w f r p, Issues s w f r → s.packs.find? f.pack = some p →
    let c := ctxOf s w f r h
    let x (l : Fin 64) : List (Lane × Bound) := loadWords sz (padLoad (s.core (coreOf w.floe)) p (c.addr m l.val).toNat (szBytes sz))
    PadOk p (szBytes sz) (szBytes sz) ((c.addrs m).map (·.2)) → operandsOk s f (.lds h m sz d) = true →
      ∃ v q, exec (.lds h m sz d) s = .next (wordDone s w { f with v := v, run := some q }) ∧ RunMoves w r q h.s ∧
        q.sOld = r.sOld ∧ q.pOld = r.pOld ∧
        LanesWritten f { f with v := v } r c.act d.toNat (szSpan sz) (fun k l => ((x l).getD k (0, 0)).1) fun k l => ((x l).getD k (0, 0)).2

/-- R178, R180, R184, R185: STS and the scratchpad atomics complete. STS stores, of the lanes that name one address, the highest
lane's data. An atomic applies its function lane by lane in ascending order, each lane to the word as the lanes before it left it, and
where it returns, each lane receives the word as it found it, with its bound. An object whose phase a store ends may wake waiting
entries; where the pack's engine events are not redirected, no other byte changes. Readings of the model it rests on: logs 19 (a
scratchpad access is performed at its issue) and 37. -/
def Obligations.ScratchpadStores : Prop :=
  ∀ (h : Hdr) (m : MemOp) (sz : Sz) (ty : ATy) (ret : Bool) (d : VReg) s w f r p, Issues s w f r → s.packs.find? f.pack = some p →
    let c := ctxOf s w f r h
    let las := c.addrs m
    let n := szBytes sz
    let core := s.core (coreOf w.floe)
    let data : List (Nat × Byte × Bound) := las.flatMap fun e =>
      if las.any fun g => decide (e.1 < g.1) && g.2 == e.2 then []
      else (List.range n).map fun k => (e.2.toNat + k, Ctx.storeByte (c.dataRows d (szSpan sz)) sz e.1 k)
    (PadOk p n n (las.map (·.2)) → operandsOk s f (.sts h m sz d) = true →
      ∃ t, exec (.sts h m sz d) s = .next t ∧ Completes s t w r ∧ (s.redirect p.id = none → PadStored s t (coreOf w.floe) p data)) ∧
    (PadOk p (atBytes ty) (atBytes ty) (las.map (·.2)) →
      ∀ e ∈ [(Instr.atomsAdd h m ty ret d, AFun.add), (.atomsSub h m ty ret d, .sub), (.atomsMin h m ty ret d, .min),
          (.atomsMax h m ty ret d, .max), (.atomsAnd h m ty ret d, .and), (.atomsOr h m ty ret d, .or), (.atomsXor h m ty ret d, .xor),
          (.atomsXchg h m ty ret d, .xchg), (.atomsCas h m ty ret d, .cas)], operandsOk s f e.1 = true →
        let step (k : Core) (la : Nat × Word) : Core :=
          let old := padLoad k p la.2.toNat (atBytes ty)
          let x := c.atomData ty d la.1
          match atomApply e.2 ty (f.sys.fpctl.getLsbD 2) (leNat (old.map (·.1))) (boundMaxL (old.map (·.2))) x.1 x.2.1 x.2.2.1 x.2.2.2 with
          | none => k
          | some v => padWrite k p ((natLe (atBytes ty) v.1).zipIdx.map fun z => (la.2.toNat + z.2, z.1, v.2))
        let plain := f.handler = false ∧ ∀ la ∈ las, core.isObj p la.2.toNat = false
        let found (l : Nat) : List (Lane × Bound) :=
          loadWords (if ty.wide then .b64 else .b32)
            (padLoad ((las.filter fun la => decide (la.1 < l)).foldl step core) p (c.addr m l).toNat (atBytes ty))
        ∃ t g, exec e.1 s = .next t ∧ Completes s t w r ∧ t.floes.find? w.floe = some g ∧
          (ret = false → g.v = f.v) ∧
          (s.redirect p.id = none →
            (t.core (coreOf w.floe)).spad = (las.foldl step core).spad ∧ (plain → (t.core (coreOf w.floe)).spadB = (las.foldl step core).spadB) ∧
            (ret = true → ∃ bnd : Nat → Fin 64 → Bound, (plain → ∀ k l, bnd k l = ((found l.val).getD k (0, 0)).2) ∧
              LanesWritten f g r c.act d.toNat (if ty.wide then 2 else 1) (fun k l => ((found l.val).getD k (0, 0)).1) bnd)))

/-! ### Barriers and joins (R192 to R202) -/

/-- R193: an event on an object changes its counts, and a phase completes exactly when both are zero after it. R195, R194, R193:
BARINIT makes an object of whatever stands at its offset, BAREXP is an event on it, BARTEST reads its phase, and BARWAIT waits while
the phase is the awaited one; where BARINIT clears RD of a parked object, the Tumbler applies the object's journal to the new one
(R367). R194: MISALIGN, PROTECTION, and BAR_FAULT with subcodes 1, 2 and 5, leave the object as it is. With ACTIVE empty the words
pass. Readings of the model it rests on: logs 37 and 40 (MISALIGN and PROTECTION report the raw word). -/
def Obligations.BarrierWords : Prop :=
  (∀ (o : BarObj) (a e : Nat) (b : BitVec 32),
    let x := o.event a e b
    x.exp = o.exp - e ∧ x.w3 = o.w3 ∧ x.bytes = o.bytes + b ∧
    (o.pend ≤ a ∧ o.bytes + b = 0 → x.pend = x.exp ∧ x.phase = o.phase + 1) ∧
    (¬(o.pend ≤ a ∧ o.bytes + b = 0) → x.pend = o.pend - a ∧ x.phase = o.phase)) ∧
  (∀ (h : Hdr) (scope : Scope) (d sa : SReg) (q : PReg) (off : BitVec 13) s w f r, Issues s w f r →
    let c := ctxOf s w f r h
    let o := c.sr .a sa + off.signExtend 64
    let init := Instr.barinit h scope d sa off
    let others := [Instr.barexp h d sa off, .barwait h d sa off, .bartest h d sa off, .bararr h q sa off, .bardrop h q sa off]
    let Traps (i : Instr) (cause : BitVec 8) (info : Word) : Prop :=
      exec i s = .next (wordTraps s w f r ⟨cause, w.pc, c.act, o, info, false⟩)
    (∀ i ∈ init :: others, operandsOk s f i = true →
      (c.act = 0 → exec i s = .next (wordDone s w (passed w f r h))) ∧
      ∀ p, c.act ≠ 0 → s.packs.find? f.pack = some p →
        (o.toNat % 16 ≠ 0 → Traps i 0x22 w.word) ∧ (o.toNat % 16 = 0 → p.inPad o.toNat 16 = false → Traps i 0x21 w.word)) ∧
    ∀ p, c.act ≠ 0 → s.packs.find? f.pack = some p → o.toNat % 16 = 0 → p.inPad o.toNat 16 = true →
      (65536 ≤ c.nat .d d → operandsOk s f init = true → Traps init 0x32 5) ∧
      ∀ i ∈ others, operandsOk s f i = true →
        let w3 := (s.obj f.pack p o.toNat).w3
        let one := w3.getLsbD 31 = false ∨ w3.getLsbD 30 = true ∨ w3.toNat / 2 ^ 19 % 2 ^ 11 ≠ 0 ∨ w3.toNat / 2 ^ 6 % 2 ^ 10 ≠ 0
        (one → Traps i 0x32 1) ∧ (¬one → w3.toNat % 64 ≠ f.pack % 64 → Traps i 0x32 2)) ∧
  ∀ (h : Hdr) (scope : Scope) (d sa : SReg) (off : BitVec 13) s w f r p b, Issues s w f r → activeOf w f r h ≠ 0 →
    let c := ctxOf s w f r h
    let o := c.sr .a sa + off.signExtend 64
    let n := c.nat .d d
    let want : BitVec 32 := (c.sr .d d).setWidth 32
    let wait := Instr.barwait h d sa off
    let journal : List TEvent := match s.redirect p.id with
      | some (_, x) => if (s.obj f.pack p o.toNat).rd && x.parked.contains o.toNat then x.journal.filter fun e => e.bar == o.toNat else []
      | none => []
    let bytes (e : TEvent) : Option Nat := match e with
      | .sub _ n => some n
      | .status .. => none
    (c.pack? = some p → o.toNat % 16 = 0 → p.inPad o.toNat 16 = true → n < 65536 → (∀ e ∈ journal, (bytes e).isSome = true) →
      operandsOk s f (.barinit h scope d sa off) = true →
      ∃ t, exec (.barinit h scope d sa off) s = .next t ∧ Completes s t w r ∧
        t.obj f.pack p o.toNat = (journal.filterMap bytes).foldl (fun x n => x.event 0 0 (0 - BitVec.ofNat 32 n))
          ⟨n, n, 0, 0, BitVec.ofNat 32 (2 ^ 31 + 2 ^ 16 * scopeCode scope + f.pack % 64)⟩) ∧
    (GoodObj c p o b →
      (operandsOk s f (.barexp h d sa off) = true →
        ∃ t, exec (.barexp h d sa off) s = .next t ∧ Completes s t w r ∧ t.obj f.pack p o.toNat = b.event 0 0 want) ∧
      WritesUniformAt (.bartest h d sa off) h d (fun _ => b.phase.setWidth 64) s w f r ∧
      (b.phase ≠ want → operandsOk s f wait = true → exec wait s = .next (wordDone s w { f with run := some (nextRun w r true) })) ∧
      (b.phase = want → operandsOk s f wait = true →
        exec wait s = .next (wordDone s w { f with
          frontier := f.frontier ++ [⟨w.pc, r.prio, 8, c.act, .bar o.toNat want, 0, 0⟩]
          run := some (nextRun w { r with mask := r.mask &&& ~~~c.act } true) })))

/-- R25, R195, R197, R198, R200, R202: a synchronising word records its membership and the lanes that have executed it, with the
operation that the complete membership performs; where the floe holds 64 incomplete ones the record is marked broken, as one with a
lane that its membership does not name is. When the lanes of ACTIVE are all that the membership names, its event or signature takes
place at the word: the arrival or drop of their number at the object, the floe's arrival at the hardware barrier, the signature on the
join; where the counts cannot take it the record keeps the cause. A boundary meets a broken or failed record of lanes that wait with
SYNC_MASK, or that cause, for each of their entries. With ACTIVE empty the words pass. Readings of the model it rests on: logs 11 and
40 (SBAR's BAR_FAULT reports XADDR 0). -/
def Obligations.SynchronisingWords : Prop :=
  (∀ (s : State) (key : Nat) (f : Floe) (x : SyncRec), s.floes.find? key = some f →
    let mine := f.frontier.filter fun e => e.mask &&& x.done != 0
    let all : Mask := mine.foldl (fun m e => m ||| e.mask) 0
    let Raises (t : Trap) (fill : Bool) : Prop := s.syncStep key x = s.setFloe key { f with
      syncs := f.syncs.filter fun y => !(y.addr == x.addr && y.handler == x.handler)
      traps := f.traps ++ mine.map fun e => ⟨t, .sywait (e.mask &&& x.done), true, fill, true⟩ }
    (x.failed = none → x.bad = true → Raises ⟨0x30, x.addr, all, x.addr.setWidth 64, x.word, false⟩ false) ∧
    ∀ cause addr info, x.failed = some (cause, addr, info) → Raises ⟨cause, x.addr, 0, addr, info, false⟩ true) ∧
  (∀ (h : Hdr) (q : PReg) (j : JReg) (sa : SReg) (off : BitVec 13) (level : SbarLevel) (ix : BitVec 5) s w f r, Issues s w f r →
    activeOf w f r h = 0 → ∀ i ∈ [Instr.jsign h j q, .bararr h q sa off, .bardrop h q sa off, .sbar h level ix q], operandsOk s f i = true →
      exec i s = .next (wordDone s w (passed w f r h))) ∧
  ∀ (h : Hdr) (q : PReg) (j : JReg) (sa : SReg) (off : BitVec 13) (level : SbarLevel) (ix : BitVec 5) s w f r p b fd,
    Issues s w f r → activeOf w f r h ≠ 0 →
    let c := ctxOf s w f r h
    let o := c.sr .a sa + off.signExtend 64
    let mine (x : SyncRec) : Prop := x.addr = w.pc ∧ x.handler = f.handler
    let many := (f.syncs.filter SyncRec.open?).length
    let q' : Run := { (nextRun w r h.s) with sync := r.sync ||| c.act }
    let record (member : Mask) (op : SyncOp) : SyncRec :=
      ⟨w.pc, member, c.act, w.word, some op, c.act &&& ~~~member != 0, f.handler, none⟩
    let Joins (i : Instr) (member : Mask) (op : SyncOp) : Prop :=
      operandsOk s f i = true →
        ((∀ x ∈ f.syncs, ¬mine x) → many < 64 → member ≠ c.act →
          exec i s = .next (wordDone s w { f with syncs := f.syncs ++ [record member op], run := some q' })) ∧
        ((∀ x ∈ f.syncs, ¬mine x) → 64 ≤ many →
          exec i s = .next (wordDone s w { f with syncs := f.syncs ++ [{ record c.act op with bad := true }], run := some q' })) ∧
        ((∃ x ∈ f.syncs, mine x) →
          (∀ x ∈ f.syncs, mine x → x.bad = true ∨ x.member ≠ member ∨ c.act &&& ~~~member ≠ 0 ∨ member &&& ~~~(x.done ||| c.act) ≠ 0 ∨
            x.failed ≠ none) →
          ∃ xs, exec i s = .next (wordDone s w { f with syncs := xs, run := some q' }) ∧ xs.length = f.syncs.length ∧
            ∀ y ∈ xs, mine y → c.act &&& ~~~y.done = 0 ∧ y.op = some op ∧ (y.member ≠ member → y.bad = true))
    -- the moment of a membership that ACTIVE completes alone
    let n := popc c.act
    let Now (i : Instr) (member : Mask) (P : Prop) : Prop :=
      operandsOk s f i = true → (∀ x ∈ f.syncs, ¬mine x) → many < 64 → member = c.act → P
    let Takes (i : Instr) (P : State → Floe → Prop) : Prop :=
      ∃ t g, exec i s = .next t ∧ Completes s t w r ∧ t.floes.find? w.floe = some g ∧ g.syncs = f.syncs ∧ P t g
    let quiet := s.lanesBusy w.floe f.seq c.act = false
    let arr := Instr.bararr h q sa off
    let drop := Instr.bardrop h q sa off
    Joins (.jsign h j q) (c.p .a q) (.jsign j) ∧
    (c.pack? = some p → Now (.jsign h j q) (c.p .a q) (quiet →
      let x := p.join j
      let fits := x.expected ≠ 0 ∧ (x.count = 0 ∨ x.rec? = some SignRec.jsign) ∧ x.count.toNat + n ≤ x.expected.toNat
      let code := if x.expected = 0 then 1 else if x.count ≠ 0 ∧ x.rec? ≠ some SignRec.jsign then 2 else 3
      (fits → Takes (.jsign h j q) fun t g => g.signed.find? j.toNat = some ⟨x.gen, c.act, w.pc, w.word, true⟩ ∧
        ∃ p', t.packs.find? f.pack = some p' ∧ (p'.join j).expected = x.expected ∧
          (x.count.toNat + n = x.expected.toNat → (p'.join j).count = 0 ∧ (p'.join j).gen = x.gen + 1 ∧ (p'.join j).rec? = none) ∧
          (x.count.toNat + n < x.expected.toNat →
            (p'.join j).count.toNat = x.count.toNat + n ∧ (p'.join j).gen = x.gen ∧ (p'.join j).rec? = some SignRec.jsign)) ∧
      (¬fits → ∃ t g p', exec (.jsign h j q) s = .next t ∧ Completes s t w r ∧ t.floes.find? w.floe = some g ∧
        g.syncs = f.syncs ++ [{ record c.act (.jsign j) with
          failed := some (0x31, w.pc.setWidth 64, BitVec.ofNat 64 (code + 256 * j.toNat)) }] ∧
        t.packs.find? f.pack = some p' ∧ (p'.join j).count = 0 ∧ (p'.join j).rec? = none ∧ (p'.join j).gen = x.gen))) ∧
    (GoodObj c p o b → Joins arr (c.p .d q) (.arrive o) ∧ Joins drop (c.p .d q) (.drop o) ∧
      Now arr (c.p .d q) (quiet →
        (n ≤ b.pend → Takes arr fun t g => g.arrivals = f.arrivals + 1 ∧ t.obj f.pack p o.toNat = b.event n 0 0) ∧
        (b.pend < n → exec arr s = .next (wordDone s w { f with
          syncs := f.syncs ++ [{ record c.act (.arrive o) with failed := some (0x32, o, 3) }], run := some q' }))) ∧
      Now drop (c.p .d q)
        ((n ≤ b.pend → n ≤ b.exp → Takes drop fun t g => g.arrivals = f.arrivals + 1 ∧ t.obj f.pack p o.toNat = b.event n n 0) ∧
        (b.pend < n ∨ b.exp < n → exec drop s = .next (wordDone s w { f with
          syncs := f.syncs ++ [{ record c.act (.drop o) with failed := some (0x32, o, 4) }], run := some q' })))) ∧
    (c.pack? = some p → s.fieldOf p.id = some fd → ix.toNat < fd.desc.bars level →
      Joins (.sbar h level ix q) (c.p .a q) (.sbar level ix) ∧
      Now (.sbar h level ix q) (c.p .a q) (quiet → f.sbar = none →
        let place := sbarPlace level (coreOf w.floe)
        let old := fd.bar level place ix.toNat
        Takes (.sbar h level ix q) fun t g => g.arrivals = f.arrivals + 1 ∧ ∃ fd', t.fieldOf p.id = some fd' ∧
          let new := fd'.bar level place ix.toNat
          (new.gen = old.gen ∧ floeCode p.id.k f.findex ∈ new.arrived ∧ g.sbar = some (level, ix, old.gen) ∨
            level ≠ .pod ∧ new.gen = old.gen + 1 ∧ new.arrived = [] ∧ g.sbar = none))) ∧
    (c.pack? = some p → s.fieldOf p.id = some fd → fd.desc.bars level ≤ ix.toNat → operandsOk s f (.sbar h level ix q) = true →
      exec (.sbar h level ix q) s = .next (wordTraps s w f r ⟨0x32, w.pc, c.act, 0, 6, false⟩))

/-- R200, R202: JDECL sets a join's expected count, of 0 to 1,024, which it may not change while signatures are counted; JWAIT
waits for the generation that the floe signed last. With ACTIVE empty neither does anything, but that JWAIT ends its run. Readings of
the model it rests on: log 40 (a generation is judged by the 16-bit counts from DONE to GEN). -/
def Obligations.JoinWords : Prop :=
  (∀ (h : Hdr) (j : JReg) (a : SReg) s w f r, Issues s w f r → activeOf w f r h = 0 →
    (operandsOk s f (.jdecl h j a) = true → exec (.jdecl h j a) s = .next (wordDone s w (passed w f r h))) ∧
    (operandsOk s f (.jwait h j) = true → exec (.jwait h j) s = .next (wordDone s w { f with run := some (nextRun w r true) }))) ∧
  ∀ (h : Hdr) (j : JReg) (a : SReg) s w f r p, Issues s w f r → activeOf w f r h ≠ 0 → s.packs.find? f.pack = some p →
    let c := ctxOf s w f r h
    let v := c.nat .a a
    let x := p.join j
    let ok := v ≤ 1024 ∧ (x.expected = 0 ∨ x.count = 0 ∨ x.expected.toNat = v)
    let done (g : Sig) : Prop := (x.gen - x.done).toNat < (g.gen - x.done).toNat
    let goes := exec (.jwait h j) s = .next (wordDone s w { f with run := some (nextRun w r true) })
    (operandsOk s f (.jdecl h j a) = true → ok →
      exec (.jdecl h j a) s =
        .next (wordDone (s.setPack f.pack (p.putJoin j { x with expected := BitVec.ofNat 11 v })) w (passed w f r h))) ∧
    (operandsOk s f (.jdecl h j a) = true → ¬ok →
      exec (.jdecl h j a) s = .next (wordTraps s w f r ⟨0x31, w.pc, c.act, 0, BitVec.ofNat 64 (5 + 256 * j.toNat), false⟩)) ∧
    (operandsOk s f (.jwait h j) = true →
      (f.signed.find? j.toNat = none → goes) ∧
      ∀ g, f.signed.find? j.toNat = some g → (done g → goes) ∧
        (¬done g → exec (.jwait h j) s = .next (wordDone s w { f with
          frontier := f.frontier ++ [⟨w.pc, r.prio, 8, c.act, .join j g.gen, 0, 0⟩]
          run := some (nextRun w { r with mask := r.mask &&& ~~~c.act } true) })))

/-! ### Tiles, accumulators, MMA (R203 to R213, R216) -/

/-- R203, R204: TCFG writes one TSHAPE, with V set, or clears V where the value is 0, and raises ILLEGAL_SHAPE on a value that
is not legal; TZERO clears a configured tile. Readings of the model it rests on: log 43. -/
def Obligations.TileConfigWords : Prop :=
  ∀ (h : Hdr) (d : TReg) (a : SReg) s w f r p phys sh, Issues s w f r → s.packs.find? f.pack = some p →
    let c := ctxOf s w f r h
    let bit20 : Word := 0x100000
    let v := c.sr .a a &&& ~~~bit20
    let core := s.core (coreOf w.floe)
    (operandsOk s f (.tcfg h d a) = true → v ≠ 0 → tcfgOk p.tiles.length d.toNat v = false →
      exec (.tcfg h d a) s = .next (wordTraps s w f r (issueTrap w r 0x03))) ∧
    (operandsOk s f (.tcfg h d a) = true → v = 0 ∨ tcfgOk p.tiles.length d.toNat v = true → c.act ≠ 0 →
      ∃ t p', Retires (.tcfg h d a) s w (passed w f r h) t ∧ t.packs.find? f.pack = some p' ∧
        (p'.tshape[d.toNat]'d.isLt) = (if v = 0 then (p.tshape[d.toNat]'d.isLt) &&& ~~~bit20 else v ||| bit20) ∧
        ∀ k : Fin 16, k.val ≠ d.toNat → p'.tshape[k] = p.tshape[k]) ∧
    (operandsOk s f (.tzero h d) = true → c.act ≠ 0 → ShapedAs c d phys sh →
      exec (.tzero h d) s =
        .next (wordDone (s.setCore (coreOf w.floe) (core.setTile phys ((core.tile phys).write r.number [] []))) w (passed w f r h))) ∧
    (operandsOk s f (.tzero h d) = true → shV (p.shape w.number d.toNat) = false →
      exec (.tzero h d) s = .next (wordTraps s w f r (issueTrap w r 0x03)))

/-- R205, R206, R212, R213, R210: TLD, TST, ACCLD and ACCST on global memory complete and issue one access of every row, and on
the scratchpad they complete and load or store at once; ACCSPILL and ACCFILL complete and issue one access of the spill image;
ACCST.add completes, on the scratchpad with the sums stored, on global memory with an engine operation. With ACTIVE empty they
pass. An unconfigured tile or a control word that is not legal raises ILLEGAL_SHAPE, an accumulator of another context
ACC_FOREIGN. Readings of the model it rests on: logs 19 (a scratchpad access is performed at its issue, a global one stands pending),
43 and 50. -/
def Obligations.TileAndAccumulatorMemoryWords : Prop :=
  (∀ (h : Hdr) (m : MemOp) (d : TReg) (phys : Nat) (sh : Word),
    let n := shBytes sh
    let ctl (c : Ctx) : Word := c.srAt .a m.sa 1
    let pitch (c : Ctx) : Word := ((ctl c).setWidth 48).signExtend 64
    let bad (c : Ctx) : Prop := (ctl c).toNat / 2 ^ 48 % 2 ^ 15 ≠ 0
    let at_ (c : Ctx) : List Word :=
      (List.range (shRows sh)).map fun r => c.sr .a m.sa + m.off.signExtend 64 + BitVec.ofNat 64 r * pitch c
    let ok (sp : Bool) (c : Ctx) : Prop := c.act ≠ 0 ∧ ¬bad c ∧ (ctl c).msb = sp ∧ ShapedAs c d phys sh
    let align := if shFmt sh ≤ 1 then 2 else 1
    let img (c : Ctx) : List (Byte × Bound) :=
      (List.range (shRows sh)).flatMap fun r =>
        let x := ((c.s.core c.core).tile phys).readRow c.num phys r n
        x.1.map fun b => (b, x.2)
    let spans (cks : List LaneCheck) : List Span := (cks.map (laneUnits m.level n)).zipIdx.flatMap (placeRow n)
    IssuesAccess (.tld h m d) h ⟨false, align, none, false⟩ (fun c => (at_ c).map fun a => ((64, a), n))
      (fun c cks => ⟨laneMask c.act cks, m.order, m.scope, true, false, (spans cks).map fun x => .load [x], .tile phys n (shRows sh), minExp cks, true,
        onMmio cks⟩) (fun _ _ => 0) (ok false) ∧
    IssuesAccess (.tst h m d) h ⟨true, align, none, false⟩ (fun c => (at_ c).map fun a => ((64, a), n))
      (fun c cks => ⟨laneMask c.act cks, m.order, m.scope, false, true,
        (spans cks).map fun x => .store [storeSpan [x] (fun _ k => (img c).getD k (0, 0)) x], .none, minExp cks, storeTraps cks, onMmio cks⟩)
      (fun _ _ => 0) (ok false) ∧
    ∀ s w f r p, Issues s w f r → s.packs.find? f.pack = some p →
      let c := ctxOf s w f r h
      let core := s.core (coreOf w.floe)
      (∀ i ∈ [Instr.tld h m d, .tst h m d], operandsOk s f i = true →
        (bad c ∨ shV (p.shape w.number d.toNat) = false → exec i s = .next (wordTraps s w f r (issueTrap w r 0x03))) ∧
        (¬bad c → ShapedAs c d phys sh → c.act = 0 → exec i s = .next (wordDone s w (passed w f r h)))) ∧
      (ok true c → PadOk p align n (at_ c) →
        (operandsOk s f (.tld h m d) = true →
          exec (.tld h m d) s = .next (wordDone (s.setCore (coreOf w.floe) (core.loadTile phys r.number n
            (cutRows n (shRows sh) ((at_ c).flatMap fun a => padLoad core p a.toNat n)))) w (passed w f r h))) ∧
        (operandsOk s f (.tst h m d) = true →
          let rows : List (Nat × Byte × Bound) :=
            (at_ c).zipIdx.flatMap fun e => (List.range n).map fun k => (e.1.toNat + k, (img c).getD (e.2 * n + k) (0, 0))
          ∃ t, exec (.tst h m d) s = .next t ∧ Completes s t w r ∧
            (s.redirect p.id = none → ∃ data, PadStored s t (coreOf w.floe) p data ∧ (n ≤ (pitch c).toInt.natAbs → data = rows) ∧
              ((pitch c).toInt.natAbs < n → (data.map (·.1)).Nodup ∧ (∀ e ∈ data, e ∈ rows) ∧ ∀ e ∈ rows, e.1 ∈ data.map (·.1)))))) ∧
  ∀ (h : Hdr) (m : MemOp) (d : AReg) (b : SReg) (m32 : Bool) (nc : BitVec 2) (phys : Nat) (x : Accum),
    let n := 4 * x.m * x.n
    let ctl (c : Ctx) : Word := c.srAt .a m.sa 1
    let base (c : Ctx) : Word := c.sr .a m.sa + m.off.signExtend 64
    let ok (sp : Bool) (c : Ctx) : Prop := c.act ≠ 0 ∧ ctl c = (if sp then 0x8000000000000000 else 0) ∧ Owns c d phys x
    let units (cks : List LaneCheck) : List Span := cks.flatMap (laneUnits m.level n)
    let far (cks : List LaneCheck) : List Span := cks.flatMap (laneUnits .near 4160)
    let store (img : List (Byte × Bound)) (xs : List Span) : List Work :=
      xs.map fun y => .store [storeSpan [y] (fun _ k => img.getD k (0, 0)) y]
    let spill (c : Ctx) : List (Byte × Bound) := spillImage (c.accAt d).2 c.num (c.accAt d).1
    IssuesAccess (.accld h m d) h ⟨false, n, none, false⟩ (fun c => [((64, base c), n)])
      (fun c cks => ⟨laneMask c.act cks, m.order, m.scope, true, false, (units cks).map fun y => .load [y], .acc phys (4 * x.n) x.m, minExp cks, true,
        onMmio cks⟩) (fun _ _ => 0) (ok false) ∧
    IssuesAccess (.accst h m d) h ⟨true, n, none, false⟩ (fun c => [((64, base c), n)])
      (fun c cks => ⟨laneMask c.act cks, m.order, m.scope, false, true, store (accImage (x.readRows c.num phys)) (units cks), .none, minExp cks,
        storeTraps cks, onMmio cks⟩) (fun _ _ => 0) (ok false) ∧
    IssuesAccess (.accspill h d b) h ⟨true, 64, none, false⟩ (fun c => [((64, c.sr .b b), 4160)])
      (fun c cks => ⟨laneMask c.act cks, .rlx, .core, false, true, store (spill c) (far cks), .none, minExp cks, storeTraps cks, onMmio cks⟩)
      (fun _ _ => 0) (fun c => c.act ≠ 0) ∧
    IssuesAccess (.accfill h m32 nc d b) h ⟨false, 64, none, false⟩ (fun c => [((64, c.sr .a b), 4160)])
      (fun c cks => ⟨laneMask c.act cks, .rlx, .core, true, false, (far cks).map fun y => .load [y], .fill (c.accAt d).1 m32 nc, minExp cks, true,
        onMmio cks⟩) (fun _ _ => 0) (fun c => c.act ≠ 0) ∧
    ∀ s w f r p, Issues s w f r → s.packs.find? f.pack = some p →
      let c := ctxOf s w f r h
      let core := s.core (coreOf w.floe)
      let v := ctl c
      let rows := x.readRows w.number phys
      let image (img : List (Byte × Bound)) : List (Nat × Byte × Bound) := img.zipIdx.map fun e => ((base c).toNat + e.2, e.1)
      let plain (i : Instr) : Prop := i = .accld h m d ∨ i = .accst h m d
      let legalAdd : Prop := v.toNat / 2 ^ 56 % 2 ^ 5 = 0 ∧ v.toNat % 2 ^ 32 = 0 ∧ v.getLsbD 62 ≠ v.msb ∧ (v.msb = true → v.toNat / 2 ^ 32 % 2 ^ 24 = 0)
      (∀ i ∈ [Instr.accld h m d, .accst h m d, .accstAdd h m d], operandsOk s f i = true →
        ((plain i ∧ v &&& 0x7FFFFFFFFFFFFFFF ≠ 0) ∨ (i = .accstAdd h m d ∧ ¬legalAdd) →
          exec i s = .next (wordTraps s w f r (issueTrap w r 0x03))) ∧
        ((plain i ∧ v &&& 0x7FFFFFFFFFFFFFFF = 0) ∨ (i = .accstAdd h m d ∧ legalAdd) →
          (c.act = 0 → exec i s = .next (wordDone s w (passed w f r h))) ∧
          (c.act ≠ 0 → core.acc (p.accs.getD d.toNat 0) = x → f.sysPend.find? (0x090 + d.toNat) = none → x.live = true → x.owner ≠ f.ctx →
            exec i s = .next (wordTraps s w f r ⟨0x40, w.pc, c.act, x.spill, BitVec.ofNat 64 d.toNat, false⟩)))) ∧
      (ok true c → PadOk p n n [base c] →
        (operandsOk s f (.accld h m d) = true →
          exec (.accld h m d) s = .next (wordDone (s.setCore (coreOf w.floe)
            (core.loadAcc phys r.number f.ctx (padLoad core p (base c).toNat n))) w (passed w f r h))) ∧
        (operandsOk s f (.accst h m d) = true →
          ∃ t, exec (.accst h m d) s = .next t ∧ Completes s t w r ∧
            (s.redirect p.id = none → PadStored s t (coreOf w.floe) p (image (accImage rows))))) ∧
      (c.act ≠ 0 → Owns c d phys x → legalAdd → v.msb = true → PadOk p n n [base c] → operandsOk s f (.accstAdd h m d) = true →
        ∃ t, exec (.accstAdd h m d) s = .next t ∧ Completes s t w r ∧
          (s.redirect p.id = none → PadStored s t (coreOf w.floe) p
            (image (addImage (v.getLsbD 61) (f.sys.fpctl.getLsbD 2) (padLoad core p (base c).toNat n) rows)))) ∧
      (c.act ≠ 0 → Owns c d phys x → legalAdd → v.msb = false → ∀ b s' cks,
        GoodObj c p (BitVec.ofNat 64 (v.toNat / 2 ^ 32 % 2 ^ 24)) b →
        Passes c ⟨true, n, none, false⟩ [((64, base c), n)] p s' cks → operandsOk s f (.accstAdd h m d) = true →
        ∃ new, exec (.accstAdd h m d) s = .next (wordDone { s' with drains := s'.drains ++ new, fresh := s'.fresh + 1 } w
            (passed w f r h)) ∧ new.length = 1 ∧
          ∀ e ∈ new, e.va = base c ∧ e.bar = v.toNat / 2 ^ 32 % 2 ^ 24 ∧ e.int = v.getLsbD 61 ∧
            e.data = rows.flatMap (·.1) ∧ e.bnd = rows.map (·.2))

/-- R216: TLDK of a key of the context whose box the tile fits issues a load of the ranges that the box touches, and loads zeros
at once where it touches none. Readings of the model it rests on: logs 19 (the load stands pending) and 30. -/
def Obligations.KeyedTileLoads : Prop :=
  ∀ (h : Hdr) (m : MemOp) (d : TReg) (phys : Nat) (sh : Word) (bs : List Byte) (cs : List Int),
    let i := Instr.tldk h m d
    let k := keyOf bs
    let wd (c : Ctx) (j : Nat) : Word := c.srAt .a m.sa j
    let ok (c : Ctx) : Prop :=
      c.act ≠ 0 ∧ (wd c 0).toNat / 2 ^ 12 % 2 ^ 20 = 0 ∧ wd c 3 = 0 ∧ ShapedAs c d phys sh ∧ k.fits sh = true ∧
        c.s.keyAt ((wd c 0).toNat % 2 ^ 12) = some ⟨c.f.ctx, bs⟩ ∧ tldkCoords (wd c 0) (wd c 1) (wd c 2) = cs
    (k.ranges cs ≠ [] →
      IssuesAccessAs .latch id i h ⟨false, 1, none, false⟩ (fun _ => (k.ranges cs).map fun r => ((64, r.1), r.2))
        (fun c cks => ⟨laneMask c.act cks, .rlx, .core, true, false,
          cks.flatMap fun ck => (laneUnits (levelOf k.level) 0 ck).map fun x => .load [{ x with k := ck.va.toNat + x.k }],
          .keyed phys bs cs, minExp cks, true, onMmio cks⟩) (fun _ _ => 0) ok) ∧
    (k.ranges cs = [] → ∀ s w f r, Issues s w f r → operandsOk s f i = true → ok (ctxOf s w f r h) →
      let core := s.core (coreOf w.floe)
      exec i s = .next (wordDone (s.setCore (coreOf w.floe) (core.loadTile phys r.number (shBytes sh) (k.tileRows cs fun _ => (0, 0)))) w
        (passed w f r h)))

/-- R210, R211: an accumulator of another context raises ACC_FOREIGN with its spill address; ACCZ clears one, ACCMOV gives the
lanes of ACTIVE 64 elements with their rows' bounds, ACCBND the 32 row bounds. Readings of the model it rests on: log 43. -/
def Obligations.AccumulatorWords : Prop :=
  ∀ (h : Hdr) (d : VReg) (a : AReg) (b : SReg) (phys : Nat) (x : Accum) s w f r, Issues s w f r → activeOf w f r h ≠ 0 →
    let c := ctxOf s w f r h
    let core := s.core (coreOf w.floe)
    let k0 := c.nat .b b
    let row (k : Nat) : List Lane × Bound := x.readRow w.number phys k
    (∀ p, c.pack? = some p → core.acc (p.accs.getD a.toNat 0) = x → f.sysPend.find? (0x090 + a.toNat) = none → x.live = true →
      x.owner ≠ f.ctx → operandsOk s f (.accz h a) = true →
      exec (.accz h a) s = .next (wordTraps s w f r ⟨0x40, w.pc, c.act, x.spill, BitVec.ofNat 64 a.toNat, false⟩)) ∧
    (Owns c a phys x →
      (operandsOk s f (.accz h a) = true →
        exec (.accz h a) s = .next (wordDone
          (s.setCore (coreOf w.floe) (core.setAcc phys ((x.write r.number [] []).claim f.ctx))) w (passed w f r h))) ∧
      (k0 % 64 = 0 → k0 < x.m * x.n →
        WritesVecAt (.accmov h d a b) h d 1 (fun _ _ l => (row ((k0 + l.val) / x.n)).1.getD ((k0 + l.val) % x.n) 0)
          (fun _ l => (row ((k0 + l.val) / x.n)).2) (fun _ => 0) s w f r) ∧
      (k0 % 64 ≠ 0 ∨ x.m * x.n ≤ k0 → operandsOk s f (.accmov h d a b) = true →
        exec (.accmov h d a b) s = .next (wordTraps s w f r (issueTrap w r 0x03))) ∧
      WritesVecAt (.accbnd h d a) h d 1 (fun _ _ l => if l.val < 32 then (row l.val).2.setWidth 32 else 0) (fun _ _ => 0) (fun _ => 0)
        s w f r)


/-- R208, R201, R202, R209: MMA completes and signs its join for ACTIVE where its tiles have legal shapes, its accumulator is
free or the context's and the signature fits the join: the join counts the lanes, the generation notes the record and the floe;
the last lane begins the next generation. Illegal shapes raise ILLEGAL_SHAPE, another context's accumulator ACC_FOREIGN, and a
signature that does not fit JOIN_MISMATCH with its code, which clears the count. With ACTIVE empty the word passes. Readings of
the model it rests on: log 22. -/
def Obligations.MmaWord : Prop :=
  ∀ (h : Hdr) (tier : Tier) (q : Bool) (d : AReg) (a b : TReg) (j : JReg) s w f r p, Issues s w f r → s.packs.find? f.pack = some p →
    let c := ctxOf s w f r h
    let i := Instr.mma h tier q d a b j
    let int (t : TReg) : Prop := shFmt (p.shape w.number t.toNat) = 9
    let x := p.join j
    let n := x.count.toNat + popc c.act
    let code := match tier with
      | .auto => 0
      | .full => 1
      | .half => 2
      | .quart => 3
    let rec_ : SignRec := ⟨true, BitVec.ofNat 8 (16 * code + if q then 1 else 0), d, a, b, f.sys.ebud, f.sys.bmode, f.sys.bguard⟩
    let misfit := if x.expected = 0 then 1 else if x.count ≠ 0 ∧ x.rec? ≠ some rec_ then 2 else if x.expected.toNat < n then 3 else 0
    operandsOk s f i = true →
    (int a → int b → tier = .half ∨ tier = .quart → exec i s = .next (wordTraps s w f r (issueTrap w r 0x02))) ∧
    (¬(int a ∧ int b ∧ (tier = .half ∨ tier = .quart)) →
      (mmaDim (p.shape w.number) a b = none → exec i s = .next (wordTraps s w f r (issueTrap w r 0x03))) ∧
      ∀ dim, mmaDim (p.shape w.number) a b = some dim →
        (c.act = 0 → exec i s = .next (wordDone s w (passed w f r h))) ∧
        (∀ y, c.act ≠ 0 → (s.core (coreOf w.floe)).acc (p.accs.getD d.toNat 0) = y → f.sysPend.find? (0x090 + d.toNat) = none → y.live = true →
          y.owner ≠ f.ctx → exec i s = .next (wordTraps s w f r ⟨0x40, w.pc, c.act, y.spill, BitVec.ofNat 64 d.toNat, false⟩)) ∧
        ∀ phys y, Owns c d phys y → c.act ≠ 0 →
          (misfit ≠ 0 → ∃ t g p', exec i s = .next t ∧ SameMemory s t ∧ t.issuing = none ∧ t.floes.find? w.floe = some g ∧
            g.run = some { r with ended := true, trap := some ⟨0x31, w.pc, c.act, 0, BitVec.ofNat 64 (misfit + 256 * j.toNat), false⟩ } ∧
            t.packs.find? f.pack = some p' ∧ (p'.join j).count = 0 ∧ (p'.join j).rec? = none ∧ (p'.join j).gen = x.gen) ∧
          (misfit = 0 → ∃ t g p', exec i s = .next t ∧ Completes s t w r ∧ t.floes.find? w.floe = some g ∧
            g.signed.find? j.toNat = some ⟨x.gen, c.act, w.pc, w.word, true⟩ ∧ t.packs.find? f.pack = some p' ∧
            (p'.join j).expected = x.expected ∧
            (n = x.expected.toNat → (p'.join j).count = 0 ∧ (p'.join j).gen = x.gen + 1 ∧ (p'.join j).rec? = none) ∧
            (n < x.expected.toNat → (p'.join j).count.toNat = n ∧ (p'.join j).gen = x.gen ∧ (p'.join j).rec? = some rec_) ∧
            (∃ m ∈ p'.mmas, m.join = j ∧ m.gen = x.gen ∧ (⟨f.findex, c.act, w.pc, w.word, f.handler⟩ : Signer) ∈ m.signers) ∧
            ((∀ m ∈ p.mmas, m.join = j → m.gen ≠ x.gen) → ∃ m ∈ p'.mmas, m.join = j ∧ m.gen = x.gen ∧ m.record = rec_)))

/-! ### Keys, Latch and Serac (R215 to R229) -/

/-- R215, R217: KEYCUT seals a legal descriptor under a free handle from 1 to 4,095, or reports why not; KEYDROP frees a handle
of the context; KEYQ reports one. With ACTIVE empty they pass. Readings of the model it rests on: logs 2, 19 (KEYCUT reads the
descriptor at its issue) and 30. -/
def Obligations.KeyWords : Prop :=
  ∀ (h : Hdr) (d sa a : SReg) (off : BitVec 13),
    WritesUniform (.keyq h d a) h d (fun c => BitVec.ofNat 64 (match c.s.keyAt (c.nat .a a % 2 ^ 12) with
      | some key => keyReport key c.f.ctx
      | none => 0)) ∧
    (∀ s w f r, Issues s w f r → activeOf w f r h = 0 → ∀ i ∈ [Instr.keycut h d sa off, .keydrop h a], operandsOk s f i = true →
      exec i s = .next (wordDone s w (passed w f r h))) ∧
    ∀ s w f r p, Issues s w f r → activeOf w f r h ≠ 0 → s.packs.find? f.pack = some p →
      let c := ctxOf s w f r h
      let o := c.sr .a sa + off.signExtend 64
      let bs := s.padBytes f.pack p o.toNat 96
      let st := (keyOf bs).status
      let n := c.nat .a a % 2 ^ 12
      let Drops (t : Tbl Key) : Prop :=
        exec (.keydrop h a) s = .next (wordDone (s.setHub { s.hub with keys := t }) w (passed w f r h))
      (operandsOk s f (.keydrop h a) = true →
        (∀ key, s.keyAt n = some key → key.ctx = f.ctx → Drops (s.hub.keys.del n)) ∧
        (∀ key, s.keyAt n = some key → key.ctx ≠ f.ctx → Drops s.hub.keys) ∧ (s.keyAt n = none → Drops s.hub.keys)) ∧
      (operandsOk s f (.keycut h d sa off) = true → PadOk p 16 96 [o] →
        let Gives (t : State) (v : Word) : Prop :=
          ∃ x y, exec (.keycut h d sa off) s = .next (wordDone t w { f with s := x, run := some y }) ∧ RunMoves w r y h.s ∧
            ∀ k, let g := { f with s := x }
              (k ≠ d.toNat ∨ d = 0 → g.sreg k = f.sreg k) ∧
              (k = d.toNat → d ≠ 0 → g.sreg k = v ∨ (r.sOld.find? k).isSome ∧ g.sreg k = f.sreg k)
        let free (n : Nat) : Prop := 1 ≤ n ∧ n ≤ 4095 ∧ s.hub.keys.find? n = none
        ((∀ n, ¬free n) → Gives s 0x10000) ∧
        ((∃ n, free n) → st ≠ 0 → Gives s (BitVec.ofNat 64 (st * 65536))) ∧
        ((∃ n, free n) → st = 0 → ∃ n, free n ∧
          Gives { s with hub := { s.hub with keys := s.hub.keys.put n ⟨f.ctx, bs⟩ }, fresh := s.fresh + 1 } (BitVec.ofNat 64 n)))

/-- R223 to R225: CPYKICK completes: it takes a chain of up to 256 requests whose objects are good, as the bytes then stand, and
holds its floe until the queue has them; a chain that is longer, not aligned, or has a request whose object fails raises its
cause. CPYSTAT completes and reports a queue. CPYCAN completes and cancels the pack's requests on the queues that it names:
those with nothing in flight end at once. Readings of the model it rests on: logs 21 and 43. -/
def Obligations.LatchWords : Prop :=
  (∀ (h : Hdr) (queue : BitVec 2) (scope : Scope) (d sa a : SReg) (off : BitVec 13) s w f r, Issues s w f r →
    let c := ctxOf s w f r h
    let Stops (i : Instr) : Prop := operandsOk s f i = true → exec i s = .next (wordTraps s w f r (issueTrap w r 0x03))
    let Passed (i : Instr) : Prop := operandsOk s f i = true → c.act = 0 → exec i s = .next (wordDone s w (passed w f r h))
    let kick := Instr.cpykick h queue scope d sa off
    (256 < c.nat .d d → Stops kick) ∧ (4 ≤ c.nat .a a → Stops (.cpystat h d a)) ∧ (8 ≤ c.nat .a a → Stops (.cpycan h a)) ∧
    (c.nat .d d ≤ 256 → Passed kick) ∧ (c.nat .a a < 8 → Passed (.cpycan h a))) ∧
  ∀ (h : Hdr) (queue : BitVec 2) (scope : Scope) (d sa a : SReg) (off : BitVec 13) s w f r p, Issues s w f r → activeOf w f r h ≠ 0 →
    s.packs.find? f.pack = some p →
    let c := ctxOf s w f r h
    let core := s.core (coreOf w.floe)
    let o := c.sr .a sa + off.signExtend 64
    let n := c.nat .d d
    let v := c.nat .a a
    let kick := Instr.cpykick h queue scope d sa off
    let Traps (i : Instr) (cause : BitVec 8) (addr info : Word) : Prop := exec i s = .next (wordTraps s w f r ⟨cause, w.pc, c.act, addr, info, false⟩)
    (operandsOk s f kick = true → n ≤ 256 →
      (o.toNat % 64 ≠ 0 → Traps kick 0x22 o w.word) ∧
      (o.toNat % 64 = 0 → p.inPad o.toNat (64 * n) = false → Traps kick 0x21 o w.word) ∧
      (PadOk p 64 (64 * n) [o] → ∀ bar cause e, chainFault s f.pack p o.toNat n = some (bar, cause, e) →
        Traps kick cause (BitVec.ofNat 64 bar) (if cause = 0x32 then BitVec.ofNat 64 e else w.word)) ∧
      (PadOk p 64 (64 * n) [o] → chainFault s f.pack p o.toNat n = none →
        (n = 0 → exec kick s = .next (wordDone s w (passed w f r h))) ∧
        (n ≠ 0 → ∃ k : Kick, exec kick s = .next (wordDone (s.setCore (coreOf w.floe) { core with kicks := core.kicks ++ [k] }) w
              { f with run := some { (nextRun w r h.s) with held := true } }) ∧
            k.floe = w.floe ∧ k.pack = p.id ∧ k.ctx = f.ctx ∧ k.queue = queue.toNat ∧ k.base = o.toNat ∧ k.count = n ∧ k.scope = scope ∧
            k.fork = ⟨w.floe, f.seq, w.number, c.act⟩ ∧
            k.image = (List.range n).flatMap fun i => s.padBytes f.pack p (o.toNat + 64 * i) 56))) ∧
    (v < 4 → WritesUniformAt (.cpystat h d a) h d (fun _ => BitVec.ofNat 64
      (((core.queue v).countP fun x => x.pack == p.id) +
        (if (core.head v).any fun x => x.state == 3 then 2 ^ 16 else 0) + (if (core.queue v).length = 256 then 2 ^ 17 else 0))) s w f r) ∧
    (v < 8 → operandsOk s f (.cpycan h a) = true →
      let named (q : Nat) : Prop := q < 4 ∧ (4 ≤ v ∨ q = v)
      ∃ t, exec (.cpycan h a) s = .next t ∧ Completes s t w r ∧ t.pend = s.pend ∧
        (∀ q, ¬named q → (t.core (coreOf w.floe)).queue q = core.queue q) ∧
        (NoRedirects s → ∀ q, named q → ∀ x ∈ (t.core (coreOf w.floe)).queue q, x.pack = p.id → x.cancel = true ∧ x.flying ≠ []))

/-- R226 to R229: ROWSTAT reads one of the floe's four counters, and clears it where bit 8 of s[A] is 1. A row instruction whose
control word, ranges, object and pages pass its checks becomes one Serac operation; its object must have package scope at least.
Readings of the model it rests on: logs 42 and 43. -/
def Obligations.RowWords : Prop :=
  (∀ (h : Hdr) (d a : SReg) s w f r, Issues s w f r → operandsOk s f (.rowstat h d a) = true → activeOf w f r h ≠ 0 →
    let v := (ctxOf s w f r h).sr .a a
    let i : Fin 4 := ⟨v.toNat % 4, Nat.mod_lt _ (by decide)⟩
    (v &&& ~~~(0x103 : Word) ≠ 0 → exec (.rowstat h d a) s = .next (wordTraps s w f r (issueTrap w r 0x03))) ∧
    (v &&& ~~~(0x103 : Word) = 0 →
      ∃ x q, exec (.rowstat h d a) s = .next (wordDone s w { f with
          s := x, run := some q, rowstat := if v.getLsbD 8 then f.rowstat.set i 0 else f.rowstat }) ∧
        RunMoves w r q h.s ∧
        ∀ k, let g := { f with s := x }
          (k ≠ d.toNat ∨ d = 0 → g.sreg k = f.sreg k) ∧
          (k = d.toNat → d ≠ 0 → g.sreg k = f.rowstat[i] ∨ (r.sOld.find? k).isSome ∧ g.sreg k = f.sreg k))) ∧
  ∀ (h : Hdr) (d a b e : SReg) s w f r p x, Issues s w f r → s.packs.find? f.pack = some p →
    let c := ctxOf s w f r h
    let ctl := c.nat .c e
    let n := ctl % 2 ^ 12
    let bar := ctl / 2 ^ 16 % 2 ^ 24
    let D := c.sr .d d
    let A := c.sr .a a
    let B := c.sr .b b
    let Forks (i : Instr) (op : RowOp) (srcs : List Word) (pattern : Word) : Prop :=
      operandsOk s f i = true →
        let dst : RowRange := ⟨D, if op = .rdx then 1 else n, true⟩
        let from_ : List RowRange := srcs.map fun y => ⟨y, n, false⟩
        let chk := (dst :: from_).foldl (fun (z : State × List LaneCheck) y =>
          let k := checkLane (coreOf w.floe) f.ctx (s.rootOf p) f.handler ⟨y.dst, 1, none, false⟩ (y.rows * 1024) z.1 (64, y.base)
            .words true
          (k.1, z.2 ++ [k.2])) (s, [])
        (n = 0 ∨ ctl / 2 ^ 12 % 16 ≠ 0 ∨ ctl / 2 ^ 40 ≠ 0 →
          exec i s = .next (wordTraps s w f r ⟨0x03, w.pc, c.act, 0, w.word, false⟩)) ∧
        (c.act ≠ 0 → n ≠ 0 → ctl / 2 ^ 12 % 16 = 0 → ctl / 2 ^ 40 = 0 →
          (∀ y k, serAlign op dst from_ = some (y, k) →
            exec i s = .next (wordTraps s w f r ⟨0x23, w.pc, c.act, y, BitVec.ofNat 64 k, false⟩)) ∧
          (serAlign op dst from_ = none → GoodObj c p (BitVec.ofNat 64 bar) x →
            (x.scope < 3 → exec i s = .next (wordTraps s w f r ⟨0x32, w.pc, c.act, BitVec.ofNat 64 bar, 7, false⟩)) ∧
            (3 ≤ x.scope → r.denied &&& c.act = 0 →
              (∀ k ∈ chk.2, k.prot = false ∧ k.miss = [] ∧ ∀ y ∈ k.pieces, pteSer y.leaf = true) →
              ∃ y : Serac, exec i s = .next (wordDone { chk.1 with seracs := chk.1.seracs ++ [y], fresh := chk.1.fresh + 1 } w
                  (passed w f r h)) ∧
                y.op = op ∧ y.n = n ∧ y.bar = bar ∧ y.pattern = pattern ∧ y.forked = false ∧ y.floe = w.floe ∧ y.findex = f.findex ∧
                y.pack = p.id ∧ y.exp = minExp chk.2 ∧
                y.dRows ++ y.aRows ++ y.bRows ++ y.eRows = chk.2.flatMap fun k => (rowsOf k).map (·.1))))
    Forks (.rowcpy h d a e) .cpy [A] 0 ∧ Forks (.rowfil h d a e) .fil [] A ∧ Forks (.rowand h d a b e) .and [A, B] 0 ∧
    Forks (.rowor h d a b e) .or [A, B] 0 ∧ Forks (.rowxor h d a b e) .xor [A, B] 0 ∧ Forks (.rownot h d a e) .not [A] 0 ∧
    Forks (.rowmaj h d a b e) .maj [A, B, c.srAt .c e 1] 0 ∧ Forks (.rowrdx h d a e) .rdx [A] 0

/-- R175, R205, R206, R208, R210, R212, R213, R216, R223 to R225, R237: TLD, TST, TLDK, ACCLD, ACCST, ACCST.add, ACCSPILL,
ACCFILL, MMA, CPYKICK, CPYSTAT, CPYCAN, FRSAVE and FRLOAD complete: the word has issued, its floe's run is at the next word
without a trap, and memory is as it was, where the operands are legal, the pages that the word reaches pass their checks or its
bytes lie in the scratchpad, its accumulator is free or the context's own, and its objects are good. Readings of the model it
rests on: logs 19 (a global access stands pending from its issue), 43 and 50. -/
def Obligations.FormsComplete : Prop :=
  ∀ (h : Hdr) (m : MemOp) (t ta tb : TReg) (a : AReg) (m32 : Bool) (nc : BitVec 2) (d sa b : SReg) (off : BitVec 13) (queue : BitVec 2)
    (scope : Scope) (tier : Tier) (q : Bool) (j : JReg) s w f r p, Issues s w f r → s.packs.find? f.pack = some p →
    let c := ctxOf s w f r h
    let Done (i : Instr) : Prop := operandsOk s f i = true → ∃ t, exec i s = .next t ∧ Completes s t w r
    let base := c.sr .a m.sa + m.off.signExtend 64
    let ctl := c.srAt .a m.sa 1
    let whole (x : List (Word × Nat)) : List ((Nat × Word) × Nat) := x.map fun e => ((64, e.1), e.2)
    (∀ phys sh, ShapedAs c t phys sh →
      let n := shBytes sh
      let align := if shFmt sh ≤ 1 then 2 else 1
      let rows := (List.range (shRows sh)).map fun k => base + BitVec.ofNat 64 k * (ctl.setWidth 48).signExtend 64
      let At (write : Bool) : Prop :=
        (ctl.msb = false → c.Reaches ⟨write, align, none, false⟩ (whole (rows.map fun x => (x, n)))) ∧ (ctl.msb = true → PadOk p align n rows)
      (ctl.toNat / 2 ^ 48 % 2 ^ 15 = 0 → (At false → Done (.tld h m t)) ∧ (At true → Done (.tst h m t))) ∧
      ∀ bs, s.keyAt ((c.sr .a m.sa).toNat % 2 ^ 12) = some ⟨f.ctx, bs⟩ → (keyOf bs).fits sh = true → (c.sr .a m.sa).toNat / 2 ^ 12 % 2 ^ 20 = 0 →
        c.srAt .a m.sa 3 = 0 →
        c.Reaches ⟨false, 1, none, false⟩ (whole ((keyOf bs).ranges (tldkCoords (c.sr .a m.sa) ctl (c.srAt .a m.sa 2)))) .latch →
        Done (.tldk h m t)) ∧
    (∀ phys x, Owns c a phys x →
      let n := 4 * x.m * x.n
      let At (write : Bool) : Prop :=
        (ctl.msb = false → c.Reaches ⟨write, n, none, false⟩ (whole [(base, n)])) ∧ (ctl.msb = true → PadOk p n n [base])
      (ctl &&& 0x7FFFFFFFFFFFFFFF = 0 → (At false → Done (.accld h m a)) ∧ (At true → Done (.accst h m a))) ∧
      (ctl.toNat / 2 ^ 56 % 2 ^ 5 = 0 → ctl.toNat % 2 ^ 32 = 0 → ctl.getLsbD 62 ≠ ctl.msb →
        (ctl.msb = true → ctl.toNat / 2 ^ 32 % 2 ^ 24 = 0) →
        (ctl.msb = false → ∃ x, GoodObj c p (BitVec.ofNat 64 (ctl.toNat / 2 ^ 32 % 2 ^ 24)) x) → At true → Done (.accstAdd h m a)) ∧
      ∀ dim, mmaDim (p.shape w.number) ta tb = some dim →
        (shFmt (p.shape w.number ta.toNat) = 9 → tier = .auto ∨ tier = .full) →
        (p.join j).expected ≠ 0 → (p.join j).count = 0 → popc c.act ≤ (p.join j).expected.toNat → Done (.mma h tier q a ta tb j)) ∧
    (c.Reaches ⟨true, 64, none, false⟩ (whole [(c.sr .b b, 4160)]) → Done (.accspill h a b)) ∧
    (c.Reaches ⟨false, 64, none, false⟩ (whole [(c.sr .a b, 4160)]) → Done (.accfill h m32 nc a b)) ∧
    (let o := c.sr .a sa + off.signExtend 64
     let n := c.nat .d d
     n ≤ 256 → PadOk p 64 (64 * n) [o] → chainFault s f.pack p o.toNat n = none → Done (.cpykick h queue scope d sa off)) ∧
    (c.nat .a b < 4 → Done (.cpystat h d b)) ∧ (c.nat .a b < 8 → Done (.cpycan h b)) ∧
    (f.handler = true → (c.sr .a b).toNat % 256 = 0 →
      (c.Reaches ⟨true, 1, none, false⟩ (recAddrs (c.sr .a b) ((recParts c).map fun e => (e.1, e.2.length))) → Done (.frsave h b)) ∧
      (c.Reaches ⟨false, 1, none, false⟩
        (recAddrs (c.sr .a b) [(0, 0x580), (0x980, recFixed f.valloc - 0x980 + 24 * c.peekSyncs (c.sr .a b))]) → Done (.frload h b)))

/-! ### Words, steps and reset (R95 to R110, R11, R20, R22, R27, R106) -/

/-- Worked words of the spec's encoding tables, of every form, decode to the instructions that they stand for. -/
def Obligations.WordsDecode : Prop :=
  decode 0x8A3B260200100803 = .ok (.ffma ⟨true, true, 3⟩ ⟨.f32, .half, .rz, false⟩ true 8 1 2 3) ∧
  decode 0x06000001406027FE = .ok (.vadd ⟨false, false, 0⟩ ⟨.s32, false⟩ 5 (.v 6) (.s 9)) ∧
  decode 0xA204090340001008 = .ok (.vaddSlot true .s32 4 8 (.fadd .f32 true 9 13)) ∧
  decode 0xE0001408052A8040 = .ok (.ld ⟨true, false, 0⟩ ⟨.mid, .acqRel, .die, 4, 10, 0x40⟩ .b32 20) ∧
  decode 0x00008000C04017FF = .ok (.sadd ⟨false, false, 0⟩ ⟨.s64, false⟩ 3 4 5) ∧
  decode 0xC0801EC8FFFFFFF0 = .ok (.call ⟨true, false, 0⟩ 200 30 0xFFFFFFF0) ∧
  decode 0x8F608005008FFFFF = .ok (.vred ⟨true, false, 0⟩ .f32 .add false 20 8) ∧
  decode 0xE400050DFFAA0008 = .ok (.atomAdd ⟨true, false, 0⟩ ⟨.near, .acqRel, .die, 6, 1023, 8⟩ .s32 false 5) ∧
  decode 0x9200210000401400 = .ok (.mma ⟨true, false, 0⟩ .half true 0 4 5 0) ∧
  decode 0x16800001C20FFFFF = .ok (.mfsr ⟨false, false, 0⟩ 7 0x020)

/-- Decoding the word of a well-formed instruction gives the instruction back, with every operand at every value; and every
instruction word of the operation table has an encoding. The events of the device, which no word stands for, have none. -/
def Obligations.DecodeOfEncode : Prop :=
  (∀ i w, i.wf = true → encode i = some w → decode w = .ok i) ∧
  ∀ i, (encode i).isSome = i.isWord

/-- A word that decodes is the word of the well-formed instruction that it decodes to: every bit counts, and reserved fields
hold what the rules say. -/
def Obligations.EncodeOfDecode : Prop :=
  ∀ w i, decode w = .ok i → i.wf = true ∧ encode i = some w

/-- R27, R106, R341, R207, R397: a step at a floe that is to issue reads the word at its run's PC through the page tables. A word that
decodes runs, unless it must wait or its requests find no room in the core, and then the state is as it was; one that does not,
or that may not be executed, raises its cause, and one that reads poisoned data of the core's own SRAM takes POISON. What step adds around exec: it takes the floe from the list of those to issue,
keeps what the walk caches and the start of the run, drops the checkpoints that the run has passed, and notes the word as
issuing. Readings of the model it rests on: logs 17, 18 and 46. -/
def Obligations.StepRunsWord : Prop :=
  ∀ s key rest f p g r new s1 pa leaf e, s.issue = key :: rest → s.floes.find? key = some f →
    let s0 : State := { s with issue := rest }
    s0.mayIssue key f = true → s0.startRun f = some (g, r, new) → s0.packs.find? g.pack = some p → r.deniedFetch &&& r.mask = 0 →
    s0.lookup .words (coreOf key) g.ctx (s0.rootOf p) (r.pc.setWidth 64) (fetchOk g.handler) = (s1, .ok pa leaf e) →
    let word : Word := wordOfBytes (s1.pbytes pa 8)
    let as := if r.count + 1 = 32 then word ||| 0x8000000000000000 else word
    let n := s.fresh + if new then 1 else 0
    let g' : Floe := { g.keepCkpts r with readyFor := 0, reported := false, yielded := false, waitFrom := s.firn (coreOf key) }
    let w : Issue := ⟨key, r.pc, word, n⟩
    let t : State :=
      { s1 with floes := s1.floes.put key g', issuing := some w, fresh := s1.fresh + if new then 2 else 1 }
    (fetchOk g.handler leaf = true → s1.poisonedAt (dieOf (coreOf key)) pa = false →
      (∀ i, decode as = .ok i → s0.mustWait key g r word n i = true → step s = .next s0) ∧
      (∀ i, decode as = .ok i → s0.mustWait key g r word n i = false → s1.upsets.any Upset.isResidue = false →
          (∀ x ∈ g'.resids, x.poison = true) →
        Issues t w g' r ∧
        (∀ u, exec i t = .next u → step s = .next (if s0.overfull u (coreOf key) then s0 else t.afterWord i u) ∧
          (g'.resids = [] → (s1.core (coreOf key)).bad = [] → t.afterWord i u = u) ∧
          (∀ f', u.floes.find? key = some f' → f'.failedCheck = true → t.afterWord i u = u) ∧
          (∀ f' c m a, u.floes.find? key = some f' → f'.failedCheck = false → context t (wordHdr word) = .ok c →
            c.poisoned i = some (m, a) → t.afterWord i u = wordTraps t w g' r ⟨0x51, r.pc, m, a, word, false⟩)) ∧
        ((∀ u, exec i t ≠ .next u) → step s = exec i t)) ∧
      (∀ x, decode as = .error x → step s = .next (wordTraps t w g' r (issueTrap w r
        (match x with
          | .illegalOpcode => 0x01
          | .illegalOperand => 0x02
          | .pairBank => 0x04
          | .runControl => 0x05))))) ∧
    (fetchOk g.handler leaf = false →
      step s = .next (wordTraps t w g' r ⟨0x21, r.pc, r.mask, r.pc.setWidth 64, word, false⟩))

/-- R11, R20, R33, R37, R38: module reset leaves no floe, pack, access or key, and the registers at the values that the spec
states; a floe is placed with zero registers, its arguments in s1 to s8, and one entry at ENTRY with priority 255 and every
lane. Readings of the model it rests on: log 4. -/
def Obligations.ResetValues : Prop :=
  (let s := State.reset
   s.wf = true ∧ s.floes = [] ∧ s.packs = [] ∧ s.pend = [] ∧ s.hub.keys = [] ∧ s.hub.insts = [] ∧ s.hub.fields = [] ∧
   s.hub.skewmax = 8 ∧ s.hub.podskew = 200 ∧ s.hub.xcap = 15 ∧ s.hub.lcap = 3 ∧ s.hub.men = false ∧ s.hub.fqen = false ∧
   s.hub.fqlog2 = 4 ∧ s.hub.linseg = 1920 ∧ s.hub.haltlog = 0 ∧ s.hub.mflog = 0 ∧ s.hub.bootPhase = 0 ∧
   (∀ q ∈ s.hub.queues.toList, q.en = false ∧ q.ltol = 0xFFFFF ∧ q.done = 0) ∧
   (∀ d, (s.die d).wdLimit = 100000 ∧ (s.die d).gain = 64 ∧ (s.die d).fresv = 0 ∧ (s.die d).lmin = 1 ∧ (s.die d).auto = true ∧
     (s.die d).fmax = 24 ∧ (s.die d).boost = true ∧ (s.die d).wdlog = 0) ∧
   (∀ n, (s.stack n).thresh = 32 ∧ (s.stack n).rtint = 0 ∧ (s.stack n).ien = false) ∧
   ∀ c b, ((s.core c).bank b).st = .l1) ∧
  ∀ (d : Desc) (pack i part seq : Nat) (now xsave : Word), d.uargs.length = 8 →
    let f := Floe.placed d pack i part seq now xsave
    (∀ k, f.vreg k = VRow.zero) ∧ (∀ k, f.preg k = if k = 0 then allLanes else 0) ∧
    (∀ k, f.sreg k = if 1 ≤ k ∧ k ≤ 8 then d.uargs.getD (k - 1) 0 else 0) ∧
    f.frontier = [⟨d.entry.setWidth 48, 255, 0, allLanes, .none, 0, 0⟩] ∧ f.handler = false ∧ f.run = none ∧
    f.sys.fpctl = d.fpctl ∧ f.sys.fpflags = 0 ∧ f.sys.ebud = d.budget ∧ f.sys.bmode = d.bmode ∧ f.sys.bguard = d.guard ∧
    f.sys.bsticky = 0 ∧ f.sys.lasttier = 0 ∧ f.sys.seedlo = d.seed.setWidth 32 ∧ f.sys.seedhi = (d.seed >>> 32).setWidth 32 ∧
    f.sys.sdstep = d.step

/-- Every step keeps memory, bound tags and poison marks in their canonical forms.
Readings of the model it rests on: log 3. -/
def Obligations.StepKeepsWf : Prop :=
  ∀ s t, s.wf = true → step s = .next t → t.wf = true

/-! ### Events of floes and of time (R21, R22, R28, R131, R234, R254 to R271, R294, R298, R302, R327, R338, R377) -/

/-- R131, R234: a sleep or a lease wait ends at its deadline. R21, R28, R31, R304, R305: at its boundary a run that has ended
leaves its lanes in the frontier, which merges by word address, or takes its trap. R298, R305: PREEMPT is taken between runs.
R22, R27, R294: the entry that issues has the highest priority, then the lowest word address; a partition's clock gives words to
at most three of its ready floes; a floe in mid-run whose next word cannot be fetched traps or parks beside them. Readings of the model it rests on: logs 10, 16, 18 and 39. -/
def Obligations.RunEvents : Prop :=
  (∀ s k f, s.floes.find? k = some f → f.deadline.toNat ≤ (s.firn (coreOf k)).toNat →
    let Ends (i : Instr) (w : Wait) (step : BitVec 48) : Prop :=
      (∃ e ∈ f.frontier ++ f.intFrontier, e.flags &&& 8 ≠ 0 ∧ e.wait = w) →
        let up (e : Entry) : Entry :=
          if e.flags &&& 8 ≠ 0 ∧ e.wait = w then { e with pc := e.pc + step, flags := e.flags &&& ~~~(8 : BitVec 8), wait := .none } else e
        exec i s = .next (s.setFloe k { f with frontier := f.frontier.map up, intFrontier := f.intFrontier.map up })
    Ends (.sleepDeadline k) .sleep 0 ∧
    (s.hub.resync.getLsbD (dieOf (coreOf k)) = false → Ends (.lwaitDeadline k) .lwait 8)) ∧
  (∀ s k f r, s.floes.find? k = some f → f.halted = false → f.run = some r → r.ended = true → r.held = false → r.mask ≠ 0 →
    (∀ e ∈ s.pend, e.2.floe = k → e.2.seq = f.seq → e.2.snap = none) → f.traps = [] → f.syncs = [] → r.halt = none → r.late = none →
    r.slept = false → f.sbar = none ∨ r.sbar = 0 →
    (r.trap = none → (∀ e ∈ f.frontier, e.flags = 0) →
      ∃ t g, exec (.runBoundary k) s = .next t ∧ t.floes.find? k = some g ∧ g.run = none ∧ g.v = f.v ∧ g.s = f.s ∧ g.p = f.p ∧
        g.sys = f.applySys.sys ∧ g.sysPend = [] ∧ g.handler = f.handler ∧ (∀ e ∈ g.frontier, e.flags = 0) ∧
        (g.frontier.map (·.pc)).Nodup ∧ SameMemory s t ∧
        ∀ l pc, stands g.frontier l pc ↔ stands f.frontier l pc ∨ pc = r.pc ∧ has r.mask l = true) ∧
    ∀ x, r.trap = some x → f.handler = false →
      ∃ t g, exec (.runBoundary k) s = .next t ∧ t.floes.find? k = some g ∧ g.run = none ∧ g.handler = true ∧ g.v = f.v ∧ g.s = f.s ∧
        g.xpc = x.pc ∧ g.xcause = (if x.host then 0x200 else 0) ||| x.cause.setWidth 10 ∧ g.xmask = x.mask ∧ g.xaddr = x.addr ∧
        g.xinfo = x.info ∧ g.preg 14 = r.mask ∧ g.trapPrio = r.prio ∧ (∃ m, g.frontier = [⟨f.xbase, 255, 0, m, .none, 0, 0⟩] ∧ g.preg 15 = m) ∧
        SameMemory s t) ∧
  (∀ s k f, s.floes.find? k = some f → f.preempt = true → f.halted = false → f.handler = false → f.run = none →
    (∀ e ∈ s.pend, e.2.floe = k → e.2.seq ≠ f.seq) → s.mmaFlying f = false →
    ∃ g, exec (.preempt k) s = .next (s.setFloe k g) ∧ g.handler = true ∧ g.preempt = false ∧ g.xcause = 0x41 ∧ g.xmask = 0 ∧
      g.intFrontier = f.frontier ∧ g.preg 14 = 0 ∧ g.preg 15 = f.live ∧
      g.frontier = (if f.live = 0 then [] else [⟨f.xbase, 255, 0, f.live, .none, 0, 0⟩]) ∧ g.v = f.v ∧ g.s = f.s ∧ g.sys = f.sys) ∧
  (∀ s f g r, f.run = none → State.startRun s f = some (g, r, true) →
    ∃ e ∈ mergeFrontier f.frontier, e.flags = 0 ∧ r.mask = e.mask ∧ r.prio = e.prio ∧ r.pc = e.pc ∧ r.count = 0 ∧ r.sysOld = f.sys ∧
      r.began = e.mask ∧ g.run = some r ∧ ∀ x ∈ mergeFrontier f.frontier, x.flags = 0 → x.prio ≤ e.prio ∧ (x.prio = e.prio → e.pc ≤ x.pc)) ∧
  ∀ s core part, core < 320 → part < 4 →
    ∃ t done lost, exec (.issueClock core part) s = .next t ∧ t.issue = s.issue ++ done ++ lost ∧ done.length ≤ 3 ∧
      (∀ k ∈ done, ∃ f, (k, f) ∈ s.floes ∧ coreOf k = core ∧ f.part = part ∧ s.ready k f = true) ∧
      (∀ k ∈ lost, ∃ f r, (k, f) ∈ s.floes ∧ coreOf k = core ∧ f.part = part ∧ f.run = some r ∧ s.mayIssue k f = true ∧
        ∀ w, (s.fetch k f r).2 ≠ .word w) ∧ SameMemory s t ∧ t.packs = s.packs ∧
      t.pend = s.pend ∧
      let still (f : Floe) : Floe := { f with readyFor := 0, waitFrom := 0, yielded := false }
      t.floes.map (fun e => (e.1, still e.2)) = s.floes.map fun e => (e.1, still e.2)

/-- R254 to R256, R259, R377: beats, skew and the pod's time. R260 to R262, R266: the ends of leases, horizons and translations.
R327: a recall. R338, R266, R271: walks. Readings of the model it rests on: logs 21, 28, 38 and 41. -/
def Obligations.FirnAndLeaseEvents : Prop :=
  (∀ s die drift, die < 8 → s.beatsSince die ≠ 0 → (s.die die).power ≠ .a3 →
    let d := s.die die
    let m := s.hub.firn.toNat
    let k := s.hub.skewmax.toNat
    let r := d.firn.toNat + drift.toNat
    let agrees := r ≤ m + k ∧ m ≤ r + k
    let y (n : Nat) : Die := { d with firn := BitVec.ofNat 64 (max r m), hold := decide (m < r), beatAt := m, agree := n }
    let n := if m / 256 = d.beatAt / 256 + 1 then d.agree + 1 else 1
    let i : Instr := .firnSyncBeat die drift
    (s.hub.resync.getLsbD die = false → agrees → exec i s = .next (s.setDie die (y n))) ∧
    (s.hub.resync.getLsbD die = false → ¬agrees → ∃ t, exec i s = .next t ∧ OutOfStep s t die) ∧
    (s.hub.resync.getLsbD die = true → ¬agrees → exec i s = .next (s.setDie die (y 0))) ∧
    (s.hub.resync.getLsbD die = true → agrees → n < 2 → exec i s = .next (s.setDie die (y n))) ∧
    (s.hub.resync.getLsbD die = true → agrees → 2 ≤ n →
      exec i s = .next ((s.setDie die (y n)).setHub { s.hub with resync := s.hub.resync &&& ~~~(1#8 <<< die) }))) ∧
  (∀ s die, die < 8 → ∃ t, exec (.firnSkew die) s = .next t ∧ OutOfStep s t die) ∧
  (∀ s (time : Word) trip, s.hub.podEn = true → s.hub.self ≠ s.hub.master → s.hub.reachesMaster = true →
    s.hub.podSampled + 4000 ≤ s.hub.firn.toNat →
    let now := s.hub.firn.toNat
    let h := { s.hub with podSampled := now }
    let n := h.podDiscards + 1
    let aim := time.toNat + trip / 2
    let i : Instr := .podFirnSample time trip
    (h.podskew.toNat < trip → n ≠ 3 → exec i s = .next (s.setHub { h with podDiscards := n })) ∧
    (h.podskew.toNat < trip → n = 3 →
      ∃ t, exec i s = .next t ∧ t.hub.pod = true ∧ t.hub.podrs = true ∧ 21 ∈ t.hub.vectors ∧ Unmoved s t) ∧
    (trip ≤ h.podskew.toNat → max now aim + h.skewmax.toNat < 2 ^ 64 →
      ∃ t, exec i s = .next t ∧ Unmoved s t ∧
        t.hub = { h with podDiscards := 0, podrs := false, firn := BitVec.ofNat 64 (max now aim), podHold := now - aim } ∧
        ∀ d, d < 8 →
          let old := (s.die d).firn.toNat
          let x := (t.die d).firn.toNat
          let k := h.skewmax.toNat
          old ≤ x ∧ (x = old ∨ x ≤ max now aim + k ∧ max now aim ≤ x + k))) ∧
  (∀ s core line,
    let now := (s.firn core).toNat
    let d := s.die (dieOf core)
    let l := d.line line
    let gone := ∃ y, (s.core core).l1.find? line = some y ∧ y.expiry ≤ now
    let drop (s : State) : State := s.setCore core { s.core core with l1 := (s.core core).l1.del line }
    let i : Instr := .l1LeaseExpiry core line
    (∀ x, (l.leases.find? fun x => x.core == core && decide (x.expiry ≤ now)) = some x →
      let t := s.setDie (dieOf core) (d.setLine line (l.close x))
      (gone → exec i s = .next (drop t)) ∧ (¬gone → exec i s = .next t)) ∧
    ((∀ x ∈ l.leases, x.core = core → now < x.expiry) → gone → exec i s = .next (drop s)) ∧
    ∀ x ∈ l.leases, (l.close x).leases = l.leases.erase x ∧ (l.close x).cls = if x.hit then l.cls - 1 else min 3 (l.cls + 1)) ∧
  (∀ s die line, ((s.die die).line line).horizon ≠ 0 → ((s.die die).line line).horizon ≤ (s.die die).firn.toNat →
    exec (.leaseHorizonReached die line) s =
      .next (s.setDie die ((s.die die).setLine line { (s.die die).line line with horizon := 0, grants := 0 }))) ∧
  (∀ s line, (s.hub.dir.find? line).isSome = true → s.horizonPassed (line * 128) = true →
    ∃ t, exec (.directoryRecall line) s = .next t ∧ Unmoved s t ∧ ∀ d, d < 8 → ((t.die d).line line).st = .i) ∧
  (∀ s core ctx page,
    let past (e : Tlb) : Prop := e.ctx = ctx ∧ e.page = page ∧ e.expiry ≤ (s.firn core).toNat
    let keep (e : Tlb) : Bool := decide (e.ctx ≠ ctx ∨ e.page ≠ page ∨ (s.firn core).toNat < e.expiry)
    (∃ e ∈ (s.core core).tlb ++ (s.core core).ahead, past e) →
    exec (.translationLeaseExpiry core ctx page) s = .next (s.setCore core { s.core core with
      tlb := (s.core core).tlb.filter keep, ahead := (s.core core).ahead.filter keep })) ∧
  (∀ s core q r x, (s.core core).head q = some r → x ∈ r.aheadVas → canonical x.1 = true → s.cached .latch core r.ctx x.1 = none →
    ∃ t, exec (.pageWalk core q x.1) s = .next t ∧ Unmoved s t ∧ (t.core core).queues = (s.core core).queues ∧
        let o := s.walk (dieOf core) r.ctx (s.rootId r.pack) x.1 false
        (∀ e ∈ (t.core core).ahead, e ∈ (s.core core).ahead ∨ e.ctx = r.ctx ∧ o.leaf = some e.leaf ∧ o.expiry = some e.expiry) ∧
        ∀ leaf exp, o.leaf = some leaf → o.expiry = some exp → ∃ e ∈ (t.core core).ahead, e.ctx = r.ctx ∧ e.leaf = leaf ∧ e.expiry = exp) ∧
  ∀ s core q r, (s.core core).head q = some r → s.toRenew core r ≠ [] →
    let bare (x : LReq) : LReq := { x with renewed := [] }
    ∃ t, exec (.walkAheadRenewal core q) s = .next t ∧ Unmoved s t ∧ (∀ e ∈ (s.core core).ahead, e ∈ (t.core core).ahead) ∧
      ∀ q', ((t.core core).queue q').map bare = ((s.core core).queue q').map bare

/-! ### Faults, engines and MMA (R182, R193, R201, R209, R212, R220 to R223, R226 to R229, R342 to R344, R355 to R362) -/

/-- R342, R343: the oldest fault is written to the ring in R342's form, or FULL is set. R344, R309: an answer frees its ID and
the lanes that wait on the fault. R223: a chain enters its queue. R360, R361, R219: a request starts; a piece of a fill is at
most the rest of its destination line, while the core holds fewer requests than R331 lets it. R362, R222: a piece that lands, where
no row step holds its bank (R358), writes its bytes. Readings of the model it rests on: logs 17, 18, 21, 24 and 42. -/
def Obligations.FaultAndLatchEvents : Prop :=
  (∀ s f, s.hub.faults.find? (fun x => !x.written) = some f →
    let h := s.hub
    let room := h.fqen = true ∧ (h.fqtail - h.fqhead).toNat ≠ 2 ^ h.fqlog2.toNat
    let a := 4096 * h.fqbase.toNat + 32 * (h.fqtail.toNat % 2 ^ h.fqlog2.toNat)
    let at_ (o n : Nat) (t : State) : Nat := leNat (t.bytes (a + o) n)
    (¬room → h.fqfull = false → exec .faultQueueEntryWrite s = .next (s.setHub { h with fqfull := true })) ∧
    let pas := (List.range 32).map fun i => a + i
    let free := s.lineHeld s.fresh h.firn.toNat .package true (linesOf pas) = false
    (room → free → spanIn [0, 1] a 32 = true → s.mayWrite (some .fault) pas = false →
      exec .faultQueueEntryWrite s = .next (s.waitWrites .fault pas)) ∧
    (room → free → spanIn [0, 1] a 32 = true → (∀ x ∈ pas, s.discards x = false ∧ h.inMoraine x = false) → s.mayWrite (some .fault) pas = true →
      ∃ t, exec .faultQueueEntryWrite s = .next t ∧ t.hub.fqtail = h.fqtail + 1 ∧ (∀ x ∈ t.hub.faults, x.id = f.id → x.written = true) ∧
        (h.fqien = true → 17 ∈ t.hub.vectors) ∧ t.floes = s.floes ∧ (∀ b, b < a ∨ a + 32 ≤ b → t.byte b = s.byte b) ∧
        at_ 0 8 t = f.va.toNat ∧ at_ 8 2 t = f.id.toNat ∧ at_ 10 1 t = f.ctx.toNat ∧ at_ 11 1 t = f.info.toNat ∧
        at_ 12 2 t = f.core % 65536 ∧ at_ 14 1 t = f.slot.toNat ∧ at_ 15 1 t = 0x20 ∧ at_ 16 8 t = h.firn.toNat ∧ at_ 24 8 t = 0)) ∧
  (∀ s id,
    (s.hub.faults.find? (fun x => x.id == id) = none →
      ∀ i ∈ [Instr.fqrespRetry id, .fqrespDeny id], exec i s = .next (s.setHub { s.hub with badresp := true })) ∧
    (∀ x k q m fetch handler g, s.hub.faults.find? (fun x => x.id == id) = some x → x.waiters = [.lanes k q m fetch handler] →
      s.floes.find? k = some g → g.seq = q →
      let Answers (i : Instr) (deny : Bool) : Prop :=
        let go (e : Entry) : Entry :=
          if e.mask &&& m ≠ 0 ∧ e.flags.getLsbD 0 = true then
            { e with
              flags := e.flags &&& ~~~(1 : BitVec 8)
              denied := if deny && !fetch then e.denied ||| (e.mask &&& m) else e.denied
              deniedFetch := if deny && fetch then e.deniedFetch ||| (e.mask &&& m) else e.deniedFetch }
          else e
        ∃ t, exec i s = .next t ∧ (∀ y ∈ t.hub.faults, y.id ≠ id) ∧ SameMemory s t ∧
          (∀ y ∈ t.hub.faults, ∀ n z, Waiter.lanes k q n z handler ∈ y.waiters → n &&& m = 0) ∧
          t.floes = s.floes.put k (if g.handler && !handler then { g with intFrontier := g.intFrontier.map go }
            else { g with frontier := g.frontier.map go })
      Answers (.fqrespRetry id) false ∧ Answers (.fqrespDeny id) true)) ∧
  (∀ s core q k key p, (s.core core).kicks.find? (fun x => x.queue == q) = some k → ((s.core core).queue q).length + k.count ≤ 256 →
    s.packOf k.pack = some (key, p) → k.base % 64 = 0 → s.padWaking key p ((List.range k.count).map fun i => k.base + 64 * i) = false →
    s.redirect k.pack = none →
    ∃ t rs, exec (.cpykickQueueEvent core q) s = .next t ∧ (t.core core).queue q = (s.core core).queue q ++ rs ∧ rs.length = k.count ∧
      (∀ r ∈ rs, r.state = 1 ∧ r.pack = k.pack ∧ r.ctx = k.ctx ∧ r.scope = k.scope ∧ r.issued = 0) ∧
      (t.core core).kicks = (s.core core).kicks.erase k ∧ SameMemory s t ∧
      ∀ f, s.floes.find? k.floe = some f → f.seq = k.fork.seq →
        t.floes.find? k.floe = some { f with run := f.run.map fun r => { r with held := false } }) ∧
  (∀ s core q i r0 key p, (s.core core).toStart q = some (i, r0) → s.packOf r0.pack = some (key, p) → s.redirect r0.pack = none →
    s.padWaking key p [r0.off + 0x38] = false →
    let r : LReq := { r0 with key := s.keyAt (r0.num 4 2 % 4096) }
    r.formError q = 0 → r.len ≠ 0 →
    ∃ t, exec (.latchRequestStart core q) s = .next t ∧ (t.core core).queue q = ((s.core core).queue q).set i { r with state := 2 } ∧
      SameMemory s t ∧ t.floes = s.floes) ∧
  (∀ s core q i r key p, s.latchTurn core = some (q, i, r) → r.opc = 1 → r.dsp = true → s.packOf r.pack = some (key, p) →
    s.requests core < 768 →
    let start := r.dst.toNat + r.issued
    let n := min (128 - start % 128) (r.len - r.issued)
    0 < n → start + n ≤ p.padSize →
    let piece : Fly := ⟨s.fresh, s.hub.firn.toNat, 2 ^ 64, r.issued, n, true, [], r.lv, (List.range n).map fun j =>
      (start + j, BitVec.ofNat 8 (r.src.toNat / 256 ^ ((start + j) % 8)), 0xFF, 0)⟩
    ∃ t, exec (.latchPieceIssue core) s = .next t ∧
      (t.core core).queue q = ((s.core core).queue q).set i { r with issued := r.issued + n, flying := r.flying ++ [piece] } ∧
      (t.core core).turn = (q + 1) % 4 ∧ Unmoved s t) ∧
  ∀ s core piece q i r f, (s.core core).flyOf piece = some (q, i, r, f) → f.pad = false →
    s.bankHeld core f.level (f.dst.map (·.1)) = false → s.lineHeld f.id f.born (.core core) true (linesOf (f.dst.map (·.1))) = false →
    let w := Writer.unit f.id 0
    (s.mayWrite (some w) (f.dst.map (·.1)) = false → exec (.latchPieceLand core piece) s = .next (s.waitWrites w (f.dst.map (·.1)))) ∧
    (s.mayWrite (some w) (f.dst.map (·.1)) = true → NoRedirects s →
      (∀ key p offs, s.packOf r.pack = some (key, p) → s.padWaking key p offs = false) → (∀ d ∈ f.dst, s.hub.versioned d.1 = false ∧ d.2.2.1 = 0xFF) →
      ∃ t, exec (.latchPieceLand core piece) s = .next t ∧ BytesStored s t (f.dst.map fun d => (d.1, d.2.1)))

/-- R182, R94: a piece of an LDSP copy lands, and with the last one the copy's bytes are subtracted from its object. R212, R93: a drain adds its image at the home in one event, modulo 2^32 for
integers. R226, R228, R229, R355 to R357: a Serac operation forks, steps row by row and joins. Each waits for accesses accepted
earlier at its lines (R267), a piece and a drain also for a row step on their bank (R358). Readings of the model it rests on: logs 19, 21, 42 and 45. -/
def Obligations.CopyDrainAndSeracEvents : Prop :=
  (∀ s n x, s.copies.find? (fun y => y.id == n) = some x → s.forkHeld x.fork = false → NoRedirects s → x.src ≠ [] →
    let core := coreOf x.fork.floe
    (∀ q ∈ x.src, s.bankHeld core q.level (addrsFrom q.pa q.n) = false ∧ s.lineHeld x.id x.born (.core core) false (linesOf [q.pa, q.pa + q.n - 1]) = false) →
    (∀ key p offs, s.packOf x.pack = some (key, p) → s.padWaking key p offs = false) →
    ∃ t q, exec (.ldspCopyLand n) s = .next t ∧ q ∈ x.src ∧ SameMemory s t ∧
      let bytes := (s.copyRead core q).zipIdx.map fun e => (x.dst + q.k + e.2, e.1)
      (x.src.length = 1 → t.copies = s.copies.filter (fun y => y.id != n) ∧
        ∀ key p, s.packOf x.pack = some (key, p) → p.ending = false →
          let c := padWrite (s.core (coreOf key)) p bytes
          let u : State := s.setCore (coreOf key) c
          (p.inPad x.bar 16 = false → PadStored s t (coreOf key) p bytes) ∧
          (p.inPad x.bar 16 = true →
            let object := ((u.obj key p x.bar).event 0 0 (0 - BitVec.ofNat 32 x.n)).image
            (t.core (coreOf key)).spad = ((u.padPut key p x.bar object).core (coreOf key)).spad ∧ (t.core (coreOf key)).spadB = c.spadB)) ∧
      (1 < x.src.length → t.copies = s.copies.map (fun y => if y.id = n then { y with src := x.src.erase q } else y) ∧
        ∀ key p, s.packOf x.pack = some (key, p) → p.ending = false → PadStored s t (coreOf key) p bytes)) ∧
  (∀ s n x, s.drains.find? (fun y => y.id == n) = some x →
    let bytes := 4 * x.data.length
    let pas := (List.range bytes).map fun i => x.pa + i
    let w := Writer.unit x.id 0
    s.forkHeld x.fork = false → s.bankHeld (coreOf x.fork.floe) .far pas = false → s.lineHeld x.id x.born .package true (linesOf pas) = false →
    (s.mayWrite (some w) pas = false → exec (.accstAddApply n) s = .next (s.waitWrites w pas)) ∧
    (s.mayWrite (some w) pas = true → NoRedirects s → (∀ key p offs, s.packOf x.pack = some (key, p) → s.padWaking key p offs = false) →
      (∀ a ∈ pas, s.hub.inMoraine a = false) →
      ∃ t, exec (.accstAddApply n) s = .next t ∧ t.drains = s.drains.filter (fun y => y.id != n) ∧
        (∀ a, (∀ b ∈ pas, s.hub.cell b ≠ a) → t.byte a = s.byte a) ∧
        (x.int = true → x.data.length = x.bnd.length * x.cols → (∀ a ∈ pas, s.discards a = false) → (pas.map s.hub.cell).Nodup →
          ∀ j, j < x.data.length →
            leNat (t.pbytes (x.pa + 4 * j) 4) = (leNat (s.pbytes (x.pa + 4 * j) 4) + (x.data.getD j 0).toNat) % 2 ^ 32))) ∧
  ∀ s n x, s.seracs.find? (fun y => y.id == n) = some x →
    let rows (r : Nat) : List Nat := (List.range 8).map fun k => r + 128 * k
    let lines := x.dRows.flatMap rows
    let w := Writer.unit x.id 0
    (x.forked = false → s.forkHeld x.fork = false →
      s.lineHeld x.id x.born .package true (linesOf (lines ++ (x.aRows ++ x.bRows ++ x.eRows).flatMap rows)) = false →
      (s.mayWrite (some w) lines = false → exec (.seracFork n) s = .next (s.waitWrites w lines)) ∧
      (s.mayWrite (some w) lines = true →
        ∃ t, exec (.seracFork n) s = .next t ∧ Unmoved s t ∧
          t.seracs = s.seracs.map fun y => if y.id = n then { y with forked := true } else y)) ∧
    (x.forked = true → x.todo ≠ [] →
      ∃ t i y, exec (.seracRowStep n) s = .next t ∧ i ∈ x.todo ∧
        t.seracs = s.seracs.map (fun z => if z.id = n then y else z) ∧ y.todo = x.todo.erase i ∧ y.dRows = x.dRows ∧
        (∀ k : Fin 4, k ≠ 3 → y.paths[k] = x.paths[k] + if k = x.path s.hub i then 1 else 0) ∧
        (s.pend = [] → s.copies = [] → s.drains = [] → s.outside = [] → (∀ c ∈ s.cores, ∀ q ∈ c.2.queues, ∀ r ∈ q.2, r.flying = []) →
          t.floes = s.floes ∧ y.paths[3] = x.paths[3] ∧
          let d := x.dRow i
          (∀ a, a < d ∨ d + 1024 ≤ a → t.byte a = s.byte a) ∧
          (x.writes i = true → s.discards d = false → x.op ≠ .rdx →
            t.bytes d 1024 = x.bytesOf i ((x.reads i).map fun r => s.bytes r 1024)) ∧
          (x.writes i = true → s.discards d = false → x.op = .cpy → t.bytes d 1024 = s.bytes (x.aRows.getD i 0) 1024) ∧
          (x.writes i = false → SameMemory s t))) ∧
    (x.forked = true → x.todo = [] → NoRedirects s → (∀ key p offs, s.packOf x.pack = some (key, p) → s.padWaking key p offs = false) →
      ∃ t, exec (.seracJoin n) s = .next t ∧ SameMemory s t ∧ t.seracs = s.seracs.filter (fun y => y.id != n) ∧
        ∀ key p k f, s.packOf x.pack = some (key, p) → s.floes.find? k = some f → f.pack = key → f.findex = x.findex →
          ∃ g, t.floes.find? k = some g ∧ g.v = f.v ∧ g.s = f.s ∧ ∀ k : Fin 4, g.rowstat[k] = f.rowstat[k] + x.paths[k])

/-- R209, R65, R91, R92: a generation that has reached its count, with no write of its operands still to come, completes
MMA_FIRE on the operands as they then stand; for INT8 each element is the accumulator's plus the sum of products, modulo 2^32.
MMA_COMPLETE writes a result without a breach that traps, with its shape and the pack's context as owner, and tells the floe
that signed; such a breach, or a recheck that failed, leaves the accumulator and raises its cause in that floe. Readings of the
model it rests on: log 22. -/
def Obligations.MmaEvents : Prop :=
  ∀ s key p, s.packs.find? key = some p →
    let c := coreOf key
    (∀ j m, p.toFire (BitVec.ofNat 3 j) = some m → s.packWrites key = false → p.accBusy m = false →
      let res := fireMma s (s.core c) p m
      exec (.mmaFire key j) s = .next (s.setPack key { p with
        mmas := p.mmas.map fun x => if x.join = m.join ∧ x.gen = m.gen then { x with res := some res } else x }) ∧
      let dim := mmaDim (fun t => p.tshape.toList.getD t 0) m.record.a m.record.b
      (dim = none → res.fail = true) ∧
      ∀ d, dim = some d → d.fa = 9 →
        let elem (t : TReg) (r k : Nat) : Int := (((s.core c).tile (p.tiles.getD t.toNat 0)).bytes.getD (r * d.rowb + k) 0).toInt
        (recTier m.record = .half ∨ recTier m.record = .quart → res.fail = true) ∧
        (recTier m.record = .auto ∨ recTier m.record = .full →
          res.fail = false ∧ res.tier = .full ∧ res.data.length = d.m * d.n ∧
          ∀ a b, a < d.m → b < d.n →
            ((res.data.getD (a * d.n + b) 0).toNat : Int) =
              ((((s.core c).acc (p.accs.getD m.record.d.toNat 0)).data.getD (a * d.n + b) 0).toNat +
                ((List.range d.rowb).map fun k => elem m.record.a a k * elem m.record.b b k).sum) % 2 ^ 32)) ∧
    ∀ j m res x, p.mmas.find? (fun m => m.join == BitVec.ofNat 3 j && m.gen != (p.join (BitVec.ofNat 3 j)).gen) = some m →
      m.res = some res → m.signers = [x] →
      let phys := p.accs.getD m.record.d.toNat 0
      let kept := res.breach ≠ 0 ∧ m.record.bmode.getLsbD 2 = true
      ∃ t p', exec (.mmaComplete key j) s = .next t ∧ SameMemory s t ∧ t.packs.find? key = some p' ∧
        p'.mmas = p.mmas.filter (fun y => !(y.join == m.join && y.gen == m.gen)) ∧
        (res.fail = false → ¬kept →
          (let a := (t.core c).acc phys
           a.live = true ∧ a.owner = p.ctx ∧ a.m32 = res.m32 ∧ a.ncode = res.ncode ∧
           (∀ k, a.data.getD k 0 = if k < res.data.length then res.data.getD k 0 else ((s.core c).acc phys).data.getD k 0) ∧
           ∀ r, a.bnd.getD r 0 = res.bnd.getD r 0) ∧
          (∀ n, n ≠ phys → (t.core c).acc n = (s.core c).acc n) ∧
          ∀ k f, s.floes.find? k = some f → f.pack = key → f.findex = x.findex → x.handler = false →
            ∃ g, t.floes.find? k = some g ∧ g.v = f.v ∧ g.s = f.s ∧ g.traps = f.traps ∧
              g.sys.lasttier = (if recTier m.record = .auto then tierCode res.tier else f.sys.lasttier) ∧
              g.sys.bsticky = f.sys.bsticky ||| ((if res.tierUp then 16 else 0) ||| (if res.unb then 8 else 0) |||
                if res.breach ≠ 0 then 1 else 0)) ∧
        (res.fail = true ∨ kept → t.cores = s.cores ∧
          ∀ k f, s.floes.find? k = some f → f.pack = key → f.findex = x.findex →
            ∃ g, t.floes.find? k = some g ∧ g.traps = f.traps ++
              [⟨if res.fail then ⟨0x03, x.pc, x.lanes, 0, x.word, false⟩
                else ⟨0x10, x.pc, res.breach, 0, res.first.setWidth 64 ||| ((tierCode res.tier).setWidth 64 <<< 16), false⟩,
                .jwait m.join, false, false, true⟩])

/-! ### Packs, nodes, contexts (R26, R126, R283 to R289, R296 to R301, R310, R311, R384 to R388) -/

/-- R310: a saved pack leaves its core for its field's saved packs, once its MMAs have completed and no lease holds its record.
R288, R318, R297: a die places its next pack on the chosen core, its floes at reset and its scratchpad zero, or pre-empts a
victim. R311: a saved pack is placed again with the banks that its record counts, its floes in handler mode with PREEMPT. R296,
R297: slices; all of a die's that have run out count as expired. Readings of the model it rests on: logs 23, 24 and 54. -/
def Obligations.PackEvents : Prop :=
  (∀ s key p f places, s.packs.find? key = some p → s.fieldOf p.id = some f → p.saved = true → p.ending = false →
    p.mmas.any p.isFired = false → s.intoPad p.id = false → (∀ e ∈ s.pend, e.2.pack ≠ p.id) → s.recWaits p.id = false →
    s.recPlaces (coreOf key) p.ctx f.troot (recordVa p.pbase f.desc) f.desc.accs true = .ok places →
    let die := dieOf (coreOf key)
    let lines := (places.zip (recordParts f.desc.accs)).flatMap fun e => linesTouched e.1.1 e.2.2
    let w := Writer.save p.id
    let i : Instr := .packSaveComplete key
    s.lineHeld s.fresh s.hub.firn.toNat (.core (coreOf key)) true (linesOf lines) = false →
    (s.mayWrite (some w) lines = false → exec i s = .next (s.waitWrites w lines)) ∧
    (s.mayWrite (some w) lines = true → s.engineBusy p.id = false → s.redirect p.id = none →
      ∃ t, exec i s = .next t ∧ t.packs.find? key = none ∧ t.floes = s.floes ∧
        ((s.core (coreOf key)).sram.auto = true → ∀ b ∈ p.banks, ((t.core (coreOf key)).bank b).st = .free) ∧
        ∃ g ∈ t.hub.fields, g.inst = p.id.inst ∧ g.node = p.id.node ∧
          (⟨die, p.id.k, p.stats, p.arrivals, p.restores, p.kept, p.mmas, p.saveSlot, p.pbase⟩ : Saved) ∈ g.saved) ∧
    (s.mayWrite (some w) lines = true → s.engineBusy p.id = true → s.redirect p.id = none → 1024 ≤ (s.die die).entries →
      exec i s = .next (s.setDie die { s.die die with tfull := true }))) ∧
  (∀ s die f, s.reap = s → s.serves die = true → (s.die die).power = .a0 → s.nextField die = some f →
    let d := f.desc
    (s.nextSaved f die = none →
      let best := s.bestCore die fun c => (s.fits c d d.nfloes none).isSome
      (∀ core b, best = some core → s.fits core d d.nfloes none = some b →
        ∃ (t : State) (key : Nat) (p : Pack) (ks : List Nat), exec (.packPlacement die) s = .next t ∧ coreOf key = core ∧ t.packs.find? key = some p ∧
          p.id = ⟨f.inst, f.node, d.linear (f.nth die (f.placed.getD die 0))⟩ ∧ p.ctx = d.ctx ∧ p.banks.length = b ∧
          (∀ j : Fin 8, p.joins[j] = Join.idle) ∧ (∀ n : Fin 16, p.tshape[n] = 0) ∧
          (∀ o, o < 65536 * b → (t.core core).padByte (padAddr p.banks o) = 0 ∧ (t.core core).padBound (padAddr p.banks o / 32) = 0) ∧
          ks.length = d.nfloes ∧ ks.Nodup ∧
          (∀ k ∈ ks, coreOf k = core ∧ s.floes.find? k = none ∧
            ∃ i part seq x, i < d.nfloes ∧ t.floes.find? k = some (Floe.placed d key i part seq (s.firn core) x)) ∧
          ∃ g ∈ t.hub.fields, g.inst = f.inst ∧ g.node = f.node ∧ g.placed = f.placed.set die (f.placed.getD die 0 + 1)) ∧
      (best = none → ∀ v, s.victim die d.prio.toNat = some v →
        exec (.packPlacement die) s = .next (s.preemptCtx v.ctx (some die)))) ∧
    ∀ v places, s.nextSaved f die = some v → (∀ x ∈ v.stats, x ≠ .resident) →
      let id : PackId := ⟨f.inst, f.node, v.k⟩
      s.recWaits id = false → s.recPlaces (40 * die) d.ctx f.troot (recordVa v.pbase d) d.accs false = .ok places →
      s.lineHeldNow (40 * die) (linesOf ((places.zip (recordParts d.accs)).flatMap fun e => linesTouched e.1.1 e.2.2)) = false →
      let best := s.bestCore die (s.restoreFits d v (s.recBound d places) (s.recBanks places) (s.recCore places))
      (best = none → ∀ y, s.victim die d.prio.toNat = some y →
        exec (.packRestorePlacement die) s = .next (s.preemptCtx y.ctx (some die))) ∧
      ∀ core, best = some core →
        ∃ t key p, exec (.packRestorePlacement die) s = .next t ∧ coreOf key = core ∧ t.packs.find? key = some p ∧ p.id = id ∧
          p.banks.length = s.recBanks places ∧ p.arrivals = v.arrivals ∧ p.saveSlot = v.saveSlot ∧ SameMemory s t ∧
          ∀ i, i < d.nfloes → v.stats.getD i .retired = .saved →
            ∃ k g, coreOf k = core ∧ t.floes.find? k = some g ∧ g.pack = key ∧ g.findex = i ∧ g.handler = true ∧ g.xcause = 0x41 ∧
              g.xinfo = 1 ∧ g.xaddr = g.xsave ∧ g.frontier = [⟨d.xbase.setWidth 48, 255, 0, allLanes, .none, 0, 0⟩] ∧ g.intFrontier = [] ∧
              g.kept = v.kept.getD i Kept.none ∧ ∀ r, g.vreg r = VRow.zero) ∧
  ∀ s die ctx x, s.reap = s → (s.die die).slices.find? (fun y => y.ctx == ctx) = some x → x.expired = false →
    x.start + x.len ≤ (s.die die).firn.toNat →
    let put (y : Slice) : State :=
      s.setDie die { s.die die with slices := (s.die die).slices.map fun z => if z.ctx = ctx then y else z }
    let past := put { x with expired := true }
    let now := (s.die die).firn.toNat
    let over_ (z : Slice) : Slice := { z with expired := z.expired || decide (z.start + z.len ≤ now) }
    let all : State := s.setDie die { s.die die with slices := (s.die die).slices.map over_ }
    let wanted := ∃ prio v, s.nextPlace die = some (prio, none) ∧ all.victim die prio = some v ∧ v.ctx = ctx
    (¬wanted → exec (.sliceExpiry die ctx) s = .next (put { x with start := (s.die die).firn.toNat })) ∧
    (wanted → exec (.sliceExpiry die ctx) s = .next (past.preemptCtx ctx (some die)))

/-- R386, R387: a trigger makes an instance, or is refused as its queue and graph say. R385, R387, R381: a node whose
predecessors have completed becomes a field, or ends its instance with an error; a field whose packs have all retired completes
its node; one in poisoned data is a bad one (R397). R388: pre-empting and ending a context. R300, R301: the watchdog's reports. Readings
of the model it rests on: logs 23 (a floe in its save handler is not pre-empted), 24, 38 (a floe is reported once, whichever the
kind) and 46. -/
def Obligations.NodeAndContextEvents : Prop :=
  (∀ s (v : Word),
    let h := s.hub
    let q := v.toNat % 16
    let x := h.queues.toList.getD q Queue.reset
    let o := h.graphAt (v.toNat / 2 ^ 52)
    let n := leNat (h.schedBytes (o.getD 0) 2)
    (x.en = false → exec (.trigger v) s = .next s) ∧
    (x.en = true → 64 ≤ h.pending q →
      ∃ t, exec (.trigger v) s = .next t ∧ (t.hub.queues.toList.getD q Queue.reset).ovf = true ∧ t.hub.insts = h.insts ∧
        16 ∈ t.hub.vectors ∧ Unmoved s t) ∧
    (x.en = true → h.pending q < 64 → o = none ∨ n = 0 ∨ 4096 < n →
      ∃ t, exec (.trigger v) s = .next t ∧ (t.hub.queues.toList.getD q Queue.reset).err = 1 ∧ t.hub.insts = h.insts ∧
        16 ∈ t.hub.vectors ∧ Unmoved s t) ∧
    (x.en = true → h.pending q < 64 → o ≠ none → 0 < n → n ≤ 4096 → v.toNat / 16 % 2 ^ 48 = 0 →
      ∃ i : Inst, exec (.trigger v) s = .next (s.setHub { h with insts := h.insts ++ [i], nextInst := h.nextInst + 1 }) ∧
        i.id = h.nextInst ∧ i.queue = q ∧ i.nnodes = n ∧ some i.header = o ∧ i.patches = [] ∧ i.released = [] ∧ i.completed = [] ∧
        i.error = false)) ∧
  (∀ s inst node i, s.hub.insts.find? (fun x => x.id == inst) = some i → s.hub.isHead i = true → i.error = false → node < i.nnodes →
    node ∉ i.released → s.firstDie ≠ none →
    let bs := s.nodeBytes i node
    let bad := s.hub.schedPoisoned (i.header + 256 * (node + 1)) 256
    let code := if bad then 8 else s.nodeError node bs
    (∀ ps, nodePreds node bs = some ps → (∀ n ∈ ps, n ∈ i.completed) → code = 0 →
      s.barsFree (descOf bs) ((List.range 8).map s.standIn) = true →
      ∃ t f, exec (.nodeRelease inst node) s = .next t ∧ t.hub.fields = s.hub.fields ++ [f] ∧ f.inst = inst ∧ f.node = node ∧
        f.desc = descOf bs ∧ s.contextRoot f.desc.ctx = some f.troot ∧ f.ranges = f.desc.ranges ∧ f.retired = 0 ∧ f.saved = [] ∧
        Unmoved s t ∧ ∃ j ∈ t.hub.insts, j.id = inst ∧ node ∈ j.released) ∧
    (code ≠ 0 → i.queue < 16 → bad = true ∨ (∀ ps, nodePreds node bs = some ps → ∀ n ∈ ps, n ∈ i.completed) →
      ∃ t, exec (.nodeRelease inst node) s = .next t ∧ t.hub.fields = s.hub.fields ∧ 16 ∈ t.hub.vectors ∧ Unmoved s t ∧
        (t.hub.queues.toList.getD i.queue Queue.reset).err = BitVec.ofNat 4 code ∧
        (t.hub.queues.toList.getD i.queue Queue.reset).node = BitVec.ofNat 12 node)) ∧
  (∀ s inst node f, s.reap = s → s.hub.fields.find? (fun x => x.inst == inst && x.node == node) = some f → f.ended = false →
    f.retired = f.desc.nx * f.desc.ny * f.desc.nz →
    ∃ t, exec (.nodeComplete inst node) s = .next t ∧ Unmoved s t ∧
      t.hub.fields = s.hub.fields.filter (fun x => !(x.inst == inst && x.node == node)) ∧
      ∀ i, s.hub.insts.find? (fun x => x.id == inst) = some i → i.error = false → i.completed.length + 1 = i.nnodes → i.queue < 16 →
        i.queue ∈ t.hub.vectors ∧ t.hub.insts = s.hub.insts.filter (fun x => x.id != inst) ∧
        (t.hub.queues.toList.getD i.queue Queue.reset).done = (s.hub.queues.toList.getD i.queue Queue.reset).done + 1) ∧
  (∀ s (ctx : BitVec 8),
    exec (.ctxctlPreempt ctx) s = .next { s with
      packs := s.packs.map fun e => if e.2.ctx = ctx then (e.1, { e.2 with saving := true }) else e
      floes := s.floes.map fun e => if e.2.ctx = ctx ∧ e.2.endsSave = false then (e.1, { e.2 with preempt := true }) else e } ∧
    (∃ t, exec (.ctxctlEnd ctx) s = .next t ∧ t.hub.ctxBusy = true ∧ t.hub.ctxLast = ctx ∧ ctx ∈ t.hub.ending ∧
      (∀ e ∈ t.floes, e.2.ctx ≠ ctx) ∧ t.floes.map (·.1) = (List.filter (fun e => e.2.ctx != ctx) s.floes).map (·.1) ∧
      (∀ e ∈ t.packs, e.2.ctx = ctx → e.2.ending = true) ∧ t.packs.map (·.1) = s.packs.map (·.1) ∧
      ∀ f ∈ t.hub.fields, f.desc.ctx = ctx → f.ended = true ∧ f.saved = []) ∧
    (ctx ∈ s.hub.ending → s.engineOf ctx = false →
      ∃ t, exec (.contextEndRelease ctx) s = .next t ∧ ctx ∉ t.hub.ending ∧ t.hub.ctxBusy = !t.hub.ending.isEmpty ∧ t.floes = s.floes ∧
        SameMemory s t ∧ (∀ e ∈ t.packs, e.2.ctx = ctx → e.2.ending = false) ∧ (∀ e ∈ t.hub.keys, e.2.ctx ≠ ctx) ∧
        (∀ f ∈ t.hub.fields, f.desc.ctx = ctx → f.ended = false) ∧
        ∀ c ∈ t.cores, ∀ a ∈ c.2.accs, a.2.owner = ctx → a.2.live = false)) ∧
  ∀ s k f, s.floes.find? k = some f → f.reported = false → f.halted = false →
    let d := s.die (dieOf (coreOf k))
    let Reports (i : Instr) (kind : Nat) : Prop :=
      ∃ t, exec i s = .next t ∧ t.floes = s.floes.put k { f with reported := true } ∧ t.packs = s.packs ∧ t.pend = s.pend ∧
        SameMemory s t ∧ (d.wdIen = true → 18 ∈ t.hub.vectors) ∧ (t.die (dieOf (coreOf k))).wdlog.msb = true ∧
        (d.wdlog.msb = false → (t.die (dieOf (coreOf k))).wdlog =
          BitVec.ofNat 64 (2 ^ 63 + 2 ^ 60 * kind + 2 ^ 40 * f.ctx.toNat + 2 ^ 31 * coreOf k + 2 ^ 25 * (k % 64) + 1))
    k < 20480 →
    (64 < f.readyFor → Reports (.watchdogIssueReport k) 1) ∧
    (f.run = none → (∀ e ∈ f.frontier, s.stalled k f e = true) → f.waitFrom.toNat + 1000 * d.wdLimit.toNat < d.firn.toNat →
      Reports (.watchdogStallReport k) 2)

/-! ### Power, banks, HBM, bring-up (R11, R317 to R321, R351, R352, R358, R369, R391 to R395) -/

/-- R320, R321, R319: a sampling interval's decision, and banks that are gated or become ready. R391, R392: an idle die enters
the deepest power state that the enabled queues tolerate, and wakes to A0. R393: boost permits. Readings of the model it rests
on: logs 25 and 38. -/
def Obligations.PowerAndBankEvents : Prop :=
  (∀ s core,
    let die := dieOf core
    let d := s.die die
    let c : Core := { s.core core with sram := d.sramctl }
    core < 320 → c.lastInterval + 1000 ≤ d.firn.toNat → d.power ≠ .a2 → d.power ≠ .a3 → (∀ p, s.nextPlace die ≠ some (p, some core)) →
    let zero (x : Core) : Core := { x with gained := 0, spare := 0, lastInterval := d.firn.toNat / 1000 * 1000 }
    let spare := c.banksIn .free ++ c.banksIn .gated
    let grow := d.gain.toNat ≤ c.gained ∧ d.fresv.toNat < spare.length
    let shrink := c.spare * 4 < d.gain.toNat ∧ d.lmin.toNat < (c.banksIn .l1).length
    let i : Instr := .carveOutInterval core
    (d.auto = false ∨ ¬grow ∧ ¬shrink → exec i s = .next (s.setCore core (zero c))) ∧
    (d.auto = true → grow → ∃ b, spare.head? = some b ∧
      exec i s = .next (s.setCore core (zero (c.setBank b ⟨.l1, (c.bank b).st == .gated, d.firn⟩)))) ∧
    (d.auto = true → ¬grow → shrink → ∃ b x, (c.banksIn .l1).getLast? = some b ∧ exec i s = .next (s.setCore core (zero x)) ∧
      x.banks = (c.setBank b ⟨.free, false, d.firn⟩).banks ∧ (∀ e ∈ x.l1, e ∈ c.l1 ∧ e.2.bank ≠ b) ∧ x.spad = c.spad)) ∧
  (∀ s core b,
    let c := s.core core
    ((c.bank b).st = .free → (c.bank b).used.toNat + 10000 ≤ (s.firn core).toNat →
      exec (.bankGate core b) s = .next (s.setCore core (c.setBank b { c.bank b with st := .gated }))) ∧
    ((c.bank b).waking = true → exec (.bankReady core b) s = .next (s.setCore core (c.setBank b { c.bank b with waking := false })))) ∧
  (∀ s die,
    let tol := s.hub.tolerance
    let quiet := s.hub.insts = [] ∧ ∀ k, k < 8 → s.idle k = true
    let Enters (p : Power) : Prop := ∃ t, exec (.powerStateEntry die) s = .next t ∧ (t.die die).power = p ∧ Unmoved s t
    (s.idle die = true → (s.die die).power = .a0 →
      (5000 ≤ tol → quiet → die < 8 → Enters .a3) ∧ (50 ≤ tol → tol < 5000 ∨ ¬quiet → Enters .a2) ∧
      (2 ≤ tol → tol < 50 → exec (.powerStateEntry die) s = .next (s.setDie die { s.die die with power := .a1 }))) ∧
    ((s.die die).power ≠ .a0 → die < 8 → ∃ t, exec (.dieWake die) s = .next t ∧ (t.die die).power = .a0 ∧ Unmoved s t ∧
      ((s.die die).power = .a1 → t.hub = s.hub) ∧
      ((s.die die).power ≠ .a3 → ∀ k, k ≠ die → t.die k = s.die k) ∧
      ((s.die die).power = .a2 ∨ (s.die die).power = .a3 → t.hub.resync.getLsbD die = true) ∧
      ((s.die die).power = .a3 → ∀ k, k < 8 → (s.die k).power = .a3 → (t.die k).power ≠ .a3 ∧ t.hub.resync.getLsbD k = true))) ∧
  (∀ s die (claims : BitVec 10),
    let d := s.die die
    d.boostAt + 10000 ≤ d.firn.toNat → d.power = .a0 → s.hub.bootPhase ≠ 2 →
    let order := ((List.range 10).map fun k => (d.winner + 1 + k) % 10).filter fun q => d.boost && claims.getLsbD q
    let won := order.take d.permits
    let start := d.firn.toNat / 10000 * 10000
    ∃ y : Die, exec (.boostInterval die claims) s = .next (s.setDie die y) ∧ y.permits = d.permits - won.length ∧
      y.winner = won.getLastD d.winner ∧ (∀ q, q < 10 → (y.fast.getLsbD q = true ↔ q ∈ won)) ∧
      (∀ q, q < 10 → (y.falling.getLsbD q = true ↔
        start = d.boostAt + 10000 ∧ d.boost = true ∧ claims.getLsbD q = true ∧ d.fast.getLsbD q = true ∧ q ∉ won)) ∧
      y.boostAt = start ∧ y.quietFrom = (if d.fast = 0 ∧ d.falling = 0 then d.quietFrom else d.boostAt + 10000) ∧
      y = { d with permits := y.permits, winner := y.winner, fast := y.fast, falling := y.falling, boostAt := y.boostAt, quietFrom := y.quietFrom }) ∧
  ∀ s die,
    let d := s.die die
    let refilled (from_ : Nat) (y : Die) : State := s.setDie die { y with permits := min 64 (d.permits + 1), quietFrom := from_ + 40000 }
    (d.fast = 0 → d.falling = 0 → d.quietFrom + 40000 ≤ d.firn.toNat →
      exec (.permitRefill die) s = .next (refilled d.quietFrom d)) ∧
    (d.fast ≠ 0 ∨ d.falling ≠ 0 → d.boostAt + 50000 ≤ d.firn.toNat →
      exec (.permitRefill die) s = .next (refilled (d.boostAt + 10000) { d with fast := 0, falling := 0 }))

/-- R11: module reset. R394, R395: a write of BOOTCTL resets the module; from phase MANIFEST the bring-up checks the manifest as time
passes and starts reduced service on the lowest die whose link has trained; full service follows once every stack of the dies has
trained or is fenced. R351, R352, R358: channel widths, eyes, retraining and refresh, which change no value. R369:
a link that fails. Readings of the model it rests on: logs 26, 33 and 34. -/
def Obligations.BootAndChannelEvents : Prop :=
  (∀ s, ∃ t, exec .moduleReset s = .next t ∧ (s.hub.linseg = 1920 → SameMemory s t) ∧
    t = State.remap { State.reset with
      mem := s.mem, tags := s.tags, poison := s.poison, agenda := s.agenda, upsets := s.upsets, fresh := s.fresh
      hub := { Hub.reset with vectors := s.hub.vectors, hostReads := s.hub.hostReads } } s.hub.linseg ∧ t.floes = [] ∧ t.packs = [] ∧ t.cores = [] ∧ t.dies = [] ∧ t.hbms = [] ∧
    t.pend = [] ∧ t.fences = [] ∧ t.copies = [] ∧ t.drains = [] ∧ t.seracs = [] ∧ t.issue = [] ∧ t.issuing = none ∧
    t.hub = { Hub.reset with vectors := s.hub.vectors, hostReads := s.hub.hostReads }) ∧
  (∀ s (v : Word) (trained : BitVec 8) ok, ∃ u, exec .moduleReset s = .next u ∧
    exec (.bootctlWrite v trained ok) s = .next (u.setHub { u.hub with bootPhase := 1, booting := some (v, trained, ok) })) ∧
  (∀ s : State, s.tick.hub.booting = none) ∧
  (∀ s (v : Word) (trained : BitVec 8) ok, s.hub.booting = some (v, trained, ok) →
    let a := v.toNat / 64 % 2 ^ 46 * 64
    let bs := s.bytes a 64
    let fine := kindOf a = 1 ∧ manifestOk bs = true
    let dies : Byte := bs.getD 6 0 &&& trained
    let t := s.bringUp
    t.hub.booting = none ∧ (t.hub.linseg = s.hub.linseg → SameMemory s t) ∧ t.floes = s.floes ∧ t.packs = s.packs ∧
      (¬fine → t.hub.bootPhase = 4 ∧ t.hub.bootErr = 1) ∧
      (fine → ok = false → t.hub.bootPhase = 4 ∧ t.hub.bootErr = 2) ∧
      (fine → ok = true → dies = 0 → t.hub.bootPhase = 4 ∧ t.hub.bootErr = 3) ∧
      (fine → ok = true → dies ≠ 0 → t.hub.bootPhase = 2 ∧ t.hub.diemask = dies ∧ t.hub.linseg.toNat = min 1920 (leNat ((bs.drop 0x14).take 2)) ∧
        (∀ k, k < 16 → (t.stack k).trainedAt.isSome = true) ∧
        ∀ d, d < 8 → ((t.die d).inService = true ↔ dies.getLsbD d = true ∧ ∀ k, k < d → dies.getLsbD k = false))) ∧
  (∀ s, s.hub.bootPhase = 2 →
    let done (k : Nat) : Prop := (∃ x, (s.stack k).trainedAt = some x ∧ x ≤ s.hub.firn.toNat) ∨ ∀ pc, pc < 64 → (s.stack k).fenced.getLsbD pc = true
    let all := ∀ d, d < 8 → s.hub.diemask.getLsbD d = true → done (2 * d) ∧ done (2 * d + 1)
    (¬all → exec .bootFull s = .fault .notDue) ∧
    (all → ∃ t, exec .bootFull s = .next t ∧ Unmoved s t ∧ t.hub = { s.hub with bootPhase := 3, neve := t.hub.neve } ∧
      (∀ n, t.hub.neve.getD n false = true ↔ s.hub.neve.getD n false = true ∨ 128 * n < 2 ^ 32 ∧ ∃ e ∈ s.mem, e.1 / 128 = n) ∧
      ∀ d, d < 8 → (t.die d).inService = s.hub.diemask.getLsbD d)) ∧
  (∀ s n chan lane, n < 16 → chan < 32 → lane < 64 →
    let k := s.stack n
    let half (b : Bool) : State := s.setStack n { k with half := if b then k.half ||| (1#32 <<< chan) else k.half &&& ~~~(1#32 <<< chan) }
    (∀ h, exec (.channelWidthChange n chan h false) s = .next (half h)) ∧
    (∃ t, exec (.channelWidthChange n chan true true) s = .next t ∧ t.hbms = (half true).hbms ∧ 21 ∈ t.hub.vectors ∧ Unmoved s t) ∧
    exec (.eyeactRetrain n chan) s = .next s ∧
    (∃ t, exec (.eyeactRepair n chan lane) s = .next t ∧ Unmoved s t ∧
      (t.hbms = (half true).hbms ∧ t.hub = s.hub ∨ ∃ eye : Byte × Byte,
        let pc := 32 * (lane / 32) + chan
        let at_ := 64 * pc + lane % 32
        let low := eye.2 < k.thresh
        t.stack n = { k with
          spares := k.spares.put at_ (k.spares.getD at_ 0 + 1), eyes := k.eyes.put at_ eye
          eyestat := if low then k.eyestat ||| (1 <<< pc) else k.eyestat } ∧
        (low → k.eyestat.getLsbD pc = false → k.ien = true → 20 ∈ t.hub.vectors) ∧
        (¬low ∨ k.eyestat.getLsbD pc = true ∨ k.ien = false → t.hub = s.hub))) ∧
    exec (.eyeactHalfWidth n chan) s = .next (half true) ∧
    (∀ able, exec (.eyeactFullWidth n chan able) s = .next (if able then half false else s)) ∧
    (k.rtint ≠ 0 → exec (.periodicRetrain n) s = .next s) ∧
    (∀ bank, exec (.hbmRefresh n bank) s = .next s) ∧
    ∀ bit (width height : BitVec 8), bit < 2048 →
      let pc := bit / 32
      let seen : Stack := { k with eyes := k.eyes.put (64 * pc + bit % 32) (height, width) }
      (k.thresh ≤ width → exec (.eyeMarginLow n bit ⟨width, height⟩) s = .next (s.setStack n seen)) ∧
      (width < k.thresh →
        ∃ t, exec (.eyeMarginLow n bit ⟨width, height⟩) s = .next t ∧ Unmoved s t ∧ t.stack n = { seen with eyestat := k.eyestat ||| (1 <<< pc) } ∧
          (k.eyestat.getLsbD pc = false → k.ien = true → 20 ∈ t.hub.vectors) ∧
          (k.eyestat.getLsbD pc = true ∨ k.ien = false → t.hub = s.hub))) ∧
  ∀ s die, die < 8 → ∃ t, exec (.hingeLinkFail die) s = .next t ∧ (t.die die).inService = false ∧ t.hub.diemask = s.hub.diemask &&& ~~~(1#8 <<< die) ∧
    21 ∈ t.hub.vectors ∧ Unmoved s t ∧
    (∀ d, d ≠ die → t.die d = s.die d) ∧
    (s.hub.mflog.msb = false → t.hub.mflog = BitVec.ofNat 64 (2 ^ 63 + 2 ^ 48 * 4 + 2 ^ 40 * die))

/-! ### The outside world (R9, R253, R273, R347, R370 to R380) -/

/-- R253, R371, R372, R375: the host and other packages read, write and update memory in the order of arrival, and take lines
from the dies; what a row step holds at its bank waits (R358). R379: pod barriers. R370: port training. Readings of the model it rests
on: logs 6, 9, 19, 29, 32 and 42. -/
def Obligations.HostEvents : Prop :=
  (∀ s a (data : List (BitVec 8)),
    let stored (n : Nat) (bs : List (BitVec 8)) (t : State) : Prop :=
      t.floes = s.floes ∧ t.packs = s.packs ∧ t.pendTodo = s.pendTodo ∧
        ((∀ i, i < n → s.hub.inMoraine (a + i) = false) → BytesStored s t (((List.range n).map fun i => a + i).zip bs))
    (spanIn [0, 1] a data.length = true →
      ∃ t, exec (.hostCxlMemWrite a data) s = .next t ∧ Arrives s t (.write hostWriter a data) (stored data.length data)) ∧
    ∀ peer, s.hub.podEn = true → peer ≠ s.hub.self →
      (spanIn [0] a data.length = true ∨ s.inPeer a data.length = true →
        ∃ t, exec (.peerAccess peer a (.write data)) s = .next t ∧
          Arrives s t (.write (0xF00 + peer.toNat) a data) (stored data.length data)) ∧
      (∀ n, spanIn [0] a n = true → s.bankHeld 0 .far (addrsFrom a n) = false →
        s.lineHeld s.fresh s.hub.firn.toNat .pod false (linesOf (addrsFrom a n)) = false →
        ∃ t, exec (.peerAccess peer a (.read n)) s = .next t ∧ Unmoved s t) ∧
      ∀ f ty dnan x y, spanIn [0] a (atBytes ty) = true ∨ s.inPeer a (atBytes ty) = true → a % atBytes ty = 0 →
        ∃ t, exec (.peerAccess peer a (.atomic f ty dnan x y)) s = .next t ∧
          Arrives s t (.atomic (0xF00 + peer.toNat) a f ty dnan x y) fun t =>
            match (if s.poisoned a then none else atomApply f ty dnan (leNat (s.pbytes a (atBytes ty))) 0 x y 0 0) with
            | some v => stored (atBytes ty) (natLe (atBytes ty) v.1) t
            | none => Unmoved s t) ∧
  (∀ s a n, spanIn [0] a n = true →
    let lines := linesOf (addrsFrom a n)
    s.bankHeld 0 .far (addrsFrom a n) = false → s.lineHeld s.fresh s.hub.firn.toNat .host false lines = false →
    ∃ t, exec (.hostCxlMemRead a n) s = .next t ∧ Unmoved s t ∧
      t.hub.hostReads = s.hub.hostReads ++ [(a, if lines.any (fun k => s.poisoned (k * 128)) then [] else s.pbytes a n)] ∧
      (s.hub.dir.length + lines.length ≤ 131072 → ∀ i, i < n → t.hub.hostHalves.getD ((a + i) / 64) false = true)) ∧
  (∀ s half inv, kindOf (64 * half) = 1 →
    ∃ t, exec (.hostSnoop half inv) s = .next t ∧ Unmoved s t ∧ t.hub = s.hub ∧ ∀ d, d < 8 →
      let st (x : State) := ((x.die d).line (half / 2)).half (64 * half)
      st t = if st s = .i then .i else if inv then .i else .s) ∧
  (∀ s line off (data : List (BitVec 8)), kindOf (128 * line) = 2 → s.cacheable (128 * line) = true → off + data.length ≤ 128 →
    ∃ u, (data = [] → exec (.poolBackInvalidate ⟨line, off, data⟩) s = .next u) ∧ Unmoved s u ∧ (∀ d, d < 8 → ((u.die d).line line).st = .i) ∧
      (data ≠ [] → ∃ t, exec (.poolBackInvalidate ⟨line, off, data⟩) s = .next t ∧
        Arrives u t (.write hubWriter (128 * line + off) data) fun t => t.floes = s.floes ∧ t.packs = s.packs ∧
          BytesStored s t (data.zipIdx.map fun e => (128 * line + off + e.2, e.1)))) ∧
  (∀ s n, s.hub.podEn = true → n < 32 →
    let h := s.hub
    let a := 512 * h.podBase.toNat + 16 * n
    let pas := (List.range 8).map fun i => a + i
    let rec_ := leNat (s.pbytes a 8)
    let mine := s.podReady n ≠ [] ∧ ∀ e ∈ h.podArrived, e.1 ≠ n
    let i : Instr := .podBarrierArrival n
    let with_ (g : Option (BitVec 32)) : State :=
      s.setHub { h with podArrived := h.podArrived ++ [(n, g, (s.podReady n).map fun f => (f.inst, f.node))] }
    let updated (t : State) : Prop :=
      (∀ x ∈ pas, h.inMoraine x = false ∧ s.discards x = false) → (pas.map h.cell).Nodup →
      let size := rec_ % 2 ^ 16
      let arr := (rec_ / 2 ^ 16 % 2 ^ 16 + 1) % 2 ^ 16
      let gen := rec_ / 2 ^ 32 % 2 ^ 32
      (∀ b, (∀ x ∈ pas, h.cell x ≠ b) → t.byte b = s.byte b) ∧
        leNat (t.pbytes a 8) =
          if arr = size then size + 2 ^ 32 * ((gen + 1) % 2 ^ 32) else size + 2 ^ 16 * arr + 2 ^ 32 * gen
    (h.podHome ≠ h.self → mine → exec i s = .next (with_ (some (h.podGen.getD n 0)))) ∧
    (h.podHome = h.self → mine → ∃ t, exec i s = .next t ∧ Arrives (with_ none) t (.arrive n) updated) ∧
    (h.podHome = h.self → ¬mine → ∃ t, exec i s = .next t ∧ Arrives s t (.arrive n) updated)) ∧
  (∀ s n (gen : BitVec 32), s.hub.podEn = true → n < 32 → s.hub.podHome ≠ s.hub.self →
    ∃ t, exec (.podBarrierCompletion n gen) s = .next t ∧ SameMemory s t ∧ t.hub.podGen = s.hub.podGen.put n gen ∧
      t.floes.map (·.1) = s.floes.map (·.1) ∧
      ((∃ g fs, s.hub.podArrived.find? (fun e => e.1 == n) = some (n, some g, fs) ∧ gen = g + 1) →
        t.hub.podArrived = s.hub.podArrived.filter fun e => e.1 != n) ∧
      ((∀ g fs, s.hub.podArrived.find? (fun e => e.1 == n) = some (n, some g, fs) → gen ≠ g + 1) →
        t = s.setHub { s.hub with podGen := s.hub.podGen.put n gen })) ∧
  ∀ s port up, port < 4 → exec (.cxlPortTraining port up) s = .next (s.setHub
    { s.hub with cxlUp := if up then s.hub.cxlUp ||| (1#4 <<< port) else s.hub.cxlUp &&& ~~~(1#4 <<< port) })

/-- R9, R380, R257, R273, R347, R373: writes of the hub window. RW fields take their bits, W1C fields clear where 1 is written,
locked or illegal settings are ignored, scheduler memory holds what is written. Readings of the model it rests on: logs 28 and
35. -/
def Obligations.MmioEvents : Prop :=
  (∀ s o n (v : Word), n = 4 ∨ n = 8 → o % n = 0 → o < 0x1000000 →
    (∃ t, exec (.mmioRegisterWrite o n v) s = .next t) ∧
    (0x800000 ≤ o → ∃ t, exec (.mmioRegisterWrite o n v) s = .next t ∧ Unmoved s t ∧
      ∀ k, t.hub.sched.getD k 0 =
        if o ≤ 0x800000 + k ∧ 0x800000 + k < o + n then BitVec.ofNat 8 (v.toNat / 256 ^ (0x800000 + k - o)) else s.hub.sched.getD k 0)) ∧
  (∀ s (v : Word),
    let W (o : Nat) : Host.Outcome State Fault Refusal := exec (.mmioRegisterWrite o 8 v) s
    let h := s.hub
    W 0x018 = .next (s.setHub { h with haltlog := if v.msb then 0 else h.haltlog }) ∧
    W 0x028 = .next (s.setHub { h with ctxbase := (v >>> 12).setWidth 40 }) ∧
    W 0x1010 = .next (s.setHub { h with skew := h.skew &&& ~~~(v.setWidth 8), pod := h.pod && !v.getLsbD 8 }) ∧
    W 0x1018 = .next (s.setHub { h with xcap := (v >>> 8).setWidth 4, lcap := v.setWidth 2 }) ∧
    W 0x3000 = .next (s.setHub { h with fqbase := (v >>> 12).setWidth 40 }) ∧
    W 0x3018 = .next (s.setHub { h with fqhead := v.setWidth 32 }) ∧
    W 0x1000 = .next s ∧ W 0x208 = .next s ∧
    ∀ d, d < 8 → W (0x10000 + 0x1000 * d) = .next (s.setDie d { s.die d with
      wdIen := v.getLsbD 32, wdLimit := if v.setWidth 20 = 0#20 then 1 else v.setWidth 20 })) ∧
  (∀ s (v : Word),
    let h := s.hub
    let op := v.toNat / 16 % 16
    let n := v.toNat / 65536 % 65536
    let d := 65536 * h.mdata.toNat
    let r := 131072 * h.mrec.toNat
    let top := hbmTop
    let fits := n ≠ 0 ∧ d + 65536 * n ≤ top ∧ r + 131072 * n ≤ top ∧ (d + 65536 * n ≤ r ∨ r + 131072 * n ≤ d)
    let i : Instr := .mpolicyWrite v
    (9 ≤ op → exec i s = .next s) ∧
    (op < 9 → h.men = false → exec i s = .next (s.setHub { h with
      fold := v.getLsbD 8, defop := BitVec.ofNat 4 op, nframes := BitVec.ofNat 16 n, men := v.getLsbD 0 && decide fits })) ∧
    (op < 9 → h.men = true → exec i s = .next (s.setHub { h with
      fold := v.getLsbD 8, defop := BitVec.ofNat 4 op, men := v.getLsbD 0 })) ∧
    (h.lock = true → exec (.hbmmapWrite v) s = .next s) ∧
    (h.lock = false → exec (.hbmmapWrite v) s = .next ((s.setHub { h with
      linseg := BitVec.ofNat 11 (min 1920 (v.toNat % 2048)), lock := v.getLsbD 32 }).remap h.linseg))) ∧
  ∀ s (k : Fin 8) (v : Word),
    let h := s.hub
    let old := h.cxlwin[k]
    let put (x : Word) : State := s.setHub { h with cxlwin := h.cxlwin.set k x }
    let x := winStored v.toNat
    let i : Instr := .cxlwinWrite k.val v
    (old.msb = true → v.msb = true → exec i s = .next s) ∧
    (old.msb = true → v.msb = false → exec i s = .next (put (old &&& ~~~(0x8000000000000000 : Word)))) ∧
    (old.msb = false → v.msb = false → exec i s = .next (put x)) ∧
    (old.msb = false → v.msb = true → exec i s = .next (if h.winOk k.val x then put (x ||| 0x8000000000000000) else s))

/-! ### Accesses as they are performed (R177, R178, R239, R242) -/

/-- R242, R177, R239: a unit of a load returns the bytes of memory with their bounds, or meets poison (R302); with its last unit the
access writes its register, tile or accumulator (R179, R206, R212, R213, R216), or the floe that a record holds (R237, R313).
R184, R88: an atomic's lanes act in turn, each on the word as the ones before left it. R186 to R188: LDV reads a sibling, STV stores
to its cells, RECON merges them, each as one event of the line. R178, R239, R261: a unit of a store writes its bytes, or waits for the
leases on their lines. LOAD_RESPONSE and STORE_PERFORMED complete for every unit that nothing holds and whose lines may be written:
fewer units of the access are then to come. Readings of the model it rests on: logs 3, 5, 8, 18, 19, 36, 42 and 44. -/
def Obligations.AccessEvents : Prop :=
  (∀ s n a x sz d f r, LastUnit s n a (.load [x]) f r → a.got = [] → a.writes = false → a.dest = .vec sz d →
    x.lane < 64 → x.k = 0 → x.n = szBytes sz → kindOf x.pa ≠ 3 →
    let bs := s.physLoad x.pa x.n x.tagged
    let bad := if x.level = .near ∨ x.level = .mid then s.poisonedAt (dieOf (coreOf a.floe)) x.pa else s.poisoned x.pa
    (bad = false →
      ∃ t v q, exec (.loadResponse n 0) s = .next t ∧ t.pend = [] ∧ SameMemory s t ∧
        t.floes = s.floes.put a.floe { f with v := v, run := some q } ∧ q.sOld = r.sOld ∧ q.pOld = r.pOld ∧
        LanesWritten f { f with v := v } r (1 <<< x.lane) d.toNat (szSpan sz) (fun k _ => ((loadWords sz bs).getD k (0, 0)).1)
          fun k _ => ((loadWords sz bs).getD k (0, 0)).2) ∧
    (bad = true → (∃ p, a.snap = some p ∧ p.run.isSome = true) →
      ∃ t g q, exec (.loadResponse n 0) s = .next t ∧ t.pend = [] ∧ SameMemory s t ∧ t.floes.find? a.floe = some g ∧ g.run = some q ∧
        q.ended = true ∧ q.trap = some ⟨0x51, a.pc, 1 <<< x.lane, x.va &&& ~~~(0x7F : Word), a.word, false⟩)) ∧
  (∀ s n a x f r, LastUnit s n a (.load [x]) f r → a.writes = false → x.lane = 64 → kindOf x.pa ≠ 3 → s.poisoned x.pa = false →
    s.poisonedAt (dieOf (coreOf a.floe)) x.pa = false →
    let bs := s.physLoad x.pa x.n x.tagged
    let data := ({ a with got := a.got ++ [(64, x.k, bs)] } : Acc).datum 64
    let num (o k : Nat) : Nat := leNat (((data.drop o).take k).map (·.1))
    let bound (o k : Nat) : Bound := boundMaxL (((data.drop o).take k).map (·.2))
    let c := s.core (coreOf a.floe)
    let Lands (P : State → Core → Prop) : Prop :=
      ∃ t, exec (.loadResponse n 0) s = .next t ∧ t.pend = [] ∧ SameMemory s t ∧ P t (t.core (coreOf a.floe))
    (∀ sz d, a.dest = .uni sz d → Lands fun t _ =>
      ∃ y q, t.floes = s.floes.put a.floe { f with s := y, run := some q } ∧ q.vOld = r.vOld ∧ q.pOld = r.pOld ∧
        let m := leNat (data.map (·.1))
        let v : Word := match sz with
          | .s8 => (BitVec.ofNat 8 m).signExtend 64
          | .s16 => (BitVec.ofNat 16 m).signExtend 64
          | _ => BitVec.ofNat 64 m
        ∀ k, let g := { f with s := y }
          (k ≠ d.toNat ∨ d = 0 → g.sreg k = f.sreg k) ∧
          (k = d.toNat ∧ d ≠ 0 → g.sreg k = v ∨ (r.sOld.find? k).isSome ∧ g.sreg k = f.sreg k)) ∧
    (∀ phys row rows, a.dest = .tile phys row rows → rows * row ≤ data.length → Lands fun t c' =>
      t.floes = s.floes.put a.floe f ∧
        (∀ k, (c'.tile phys).bytes.getD k 0 = if k < rows * row then (data.getD k (0, 0)).1 else (c.tile phys).bytes.getD k 0) ∧
        ∀ j, (c'.tile phys).bnd.getD j 0 = if j < rows then bound (j * row) row else (c.tile phys).bnd.getD j 0) ∧
    (∀ phys row rows, a.dest = .acc phys row rows →
      let old := c.acc phys
      4 * (old.m * old.n) ≤ data.length → Lands fun t c' =>
        let new := c'.acc phys
        t.floes = s.floes.put a.floe f ∧ new.live = true ∧ new.owner = (if old.live then old.owner else f.ctx) ∧
          (∀ k, new.data.getD k 0 = if k < old.m * old.n then BitVec.ofNat 32 (num (4 * k) 4) else old.data.getD k 0) ∧
          ∀ j, new.bnd.getD j 0 = if j < old.m then bound (j * (4 * old.n)) (4 * old.n) else old.bnd.getD j 0) ∧
    (∀ phys m32 ncode, a.dest = .fill phys m32 ncode → Lands fun t c' =>
      let new := c'.acc phys
      t.floes = s.floes.put a.floe f ∧ new.live = true ∧ new.m32 = m32 ∧ new.ncode = ncode ∧ new.owner = (c.acc phys).owner ∧
        (∀ k, new.data.getD k 0 = if k < 1024 then BitVec.ofNat 32 (num (4 * k) 4) else 0) ∧
        ∀ j, new.bnd.getD j 0 = if j < 32 then canonBound (BitVec.ofNat 16 (num (0x1000 + 2 * j) 2)) else 0) ∧
    (∀ phys key coords, a.dest = .keyed phys key coords → a.got = [] →
      let at_ (va : Word) : Byte × Bound :=
        if x.k ≤ va.toNat ∧ va.toNat < x.k + x.n then bs.getD (va.toNat - x.k) (0, 0) else (0, 0)
      let rows := (keyOf key).tileRows coords at_
      let row := (rows.headD ([], 0)).1.length
      (∀ e ∈ rows, e.1.length = row) → Lands fun t c' =>
        t.floes = s.floes.put a.floe f ∧
          ∀ j, j < rows.length → (c'.tile phys).bnd.getD j 0 = (rows.getD j ([], 0)).2 ∧
            ∀ i, i < row → (c'.tile phys).bytes.getD (j * row + i) 0 = (rows.getD j ([], 0)).1.getD i 0) ∧
    (a.dest = .frload → (∃ p, a.snap = some p ∧ p.run.isSome = true) → recOk f.valloc (data.map (·.1)) = false → Lands fun t _ =>
      ∃ g q, t.floes.find? a.floe = some g ∧ g.run = some q ∧ q.ended = true ∧ q.trap = some ⟨0x03, a.pc, a.lanes, 0, a.word, false⟩) ∧
    (a.dest = .frload → recOk f.valloc (data.map (·.1)) = true → Lands fun t _ =>
      ∃ g q, t.floes = s.floes.put a.floe { g with run := some q } ∧ g.s = f.s ∧ g.frontier = f.frontier ∧ g.handler = f.handler ∧
        g.loaded = some (recFrontier (data.map (·.1))) ∧ g.arrivals = num 0xF0 8 ∧
        (∀ k, g.preg k = if 1 ≤ k ∧ k ≤ 13 then BitVec.ofNat 64 (num (0x100 + 8 * k) 8) else f.preg k) ∧
        LanesWritten f g r allLanes 0 f.valloc (fun k l => BitVec.ofNat 32 (num (0xA00 + 256 * k + 4 * l.val) 4))
          (fun k l => canonBound (BitVec.ofNat 16 (num (0xA00 + 256 * f.valloc + 128 * k + 2 * l.val) 2))) ∧
        g.sys =
          { fpctl := BitVec.ofNat 3 (num 0x40 8), fpflags := BitVec.ofNat 5 (num 0x48 8)
            ebud := canonBound (BitVec.ofNat 16 (num 0x50 8)), bmode := BitVec.ofNat 4 (num 0x58 8)
            bguard := BitVec.ofNat 4 (num 0x60 8), bsticky := BitVec.ofNat 5 (num 0x68 8), lasttier := BitVec.ofNat 2 (num 0x70 8)
            seedlo := BitVec.ofNat 32 (num 0x78 8), seedhi := BitVec.ofNat 32 (num 0x80 8), sdstep := BitVec.ofNat 32 (num 0x88 8) })) ∧
  (∀ s n a f ty dnan ls d fl r, LastUnit s n a (.atomic f ty dnan ls) fl r → PlainMemory s → a.got = [] → a.writes = true →
    a.dest = .vec (if ty.wide then .b64 else .b32) d → (ls.map (·.lane)).Nodup →
    (∀ y ∈ ls, y.lane < 64 ∧ spanIn [0, 1] y.pa (atBytes ty) = true ∧ s.poisoned y.pa = false) →
    let size := atBytes ty
    let made (m : State) (y : AtLane) : Option (Nat × Bound) := atomApply f ty dnan (leNat (m.pbytes y.pa size)) 0 y.x y.y y.xb y.yb
    let step (m : State) (y : AtLane) : State := match made m y with
      | none => m
      | some v => m.setBytes y.pa (natLe size v.1)
    let before (l : Nat) : State := (ls.takeWhile fun y => y.lane != l).foldl step s
    let found (l : Nat) : List (Lane × Bound) := match ls.find? fun y => y.lane == l with
      | some y => loadWords (if ty.wide then .b64 else .b32) (((before l).pbytes y.pa size).map fun b => (b, 0))
      | none => []
    let lost := a.sticky && ls.any fun y => !y.tagged && (made (before y.lane) y).any fun v => v.2 != 0
    ∃ t g bnd, exec (.loadResponse n 0) s = .next t ∧ t.pend = [] ∧ (∀ b, t.byte b = (ls.foldl step s).byte b) ∧
      t.floes.find? a.floe = some g ∧ g.s = fl.s ∧ g.p = fl.p ∧ g.frontier = fl.frontier ∧
      g.sys.bsticky = fl.sys.bsticky ||| (if lost then 2 else 0) ∧
      LanesWritten fl g r (maskWhere fun l => ls.any fun y => y.lane == l) d.toNat (if ty.wide then 2 else 1)
        (fun k l => ((found l.val).getD k (0, 0)).1) bnd) ∧
  (∀ s n a d f r,
    let words (z : Word) (count gen epoch : Nat) : List (Lane × Bound) :=
      loadWords .b128 ((natLe 8 z.toNat ++ natLe 4 (count + 256 * gen) ++ natLe 4 epoch).map fun b => (b, 0))
    let Returns (m : Mask) (found : Nat → List (Lane × Bound)) (P : State → Prop) : Prop :=
      ∃ t v q, exec (.loadResponse n 0) s = .next t ∧ t.pend = [] ∧ t.floes = s.floes.put a.floe { f with v := v, run := some q } ∧
        q.sOld = r.sOld ∧ q.pOld = r.pOld ∧ P t ∧
        LanesWritten f { f with v := v } r m d.toNat 4 (fun k l => ((found l.val).getD k (0, 0)).1) fun k l => ((found l.val).getD k (0, 0)).2
    (∀ l, LastUnit s n a (.ldv l) f r → a.got = [] → a.writes = false → a.dest = .vec .b128 d → l.lane < 64 → s.badLine l.pa = false →
      let m := readMLine s l.pa
      let cell := m.cell (l.pa / 8 % 16)
      Returns (1 <<< l.lane) (fun _ => words (cell.getD (min l.index.toNat (cell.length - 1)) Sib.zero).value cell.length m.gen m.epoch)
        (SameMemory s)) ∧
    (∀ op dnan y ys, LastUnit s n a (.recon op dnan (y :: ys)) f r → a.got = [] → a.writes = true → a.dest = .vec .b128 d →
      ((y :: ys).map (·.lane)).Nodup → (∀ z ∈ y :: ys, z.lane < 64 ∧ s.badLine z.pa = false) →
      let one (m : MLine) (z : CellLane) : MLine × Word := m.recon op dnan (z.pa / 8 % 16) (coreOf a.floe)
      let after (zs : List CellLane) : MLine := zs.foldl (fun m z => (one m z).1) (readMLine s y.pa)
      Returns (maskWhere fun l => (y :: ys).any fun z => z.lane == l)
        (fun l => match (y :: ys).find? fun z => z.lane == l with
          | some z =>
            let x := one (after ((y :: ys).takeWhile fun z => z.lane != l)) z
            words x.2 1 x.1.gen x.1.epoch
          | none => [])
        fun t => t.mem = (s.putMLine y.pa (after (y :: ys))).mem) ∧
    (∀ y ys, LastUnit s n a (.stv (y :: ys)) f r → a.writes = true → a.dest = .none → s.overflow a = none →
      let store (m : MLine) (z : CellLane) : MLine := m.store (reconOf s.hub.defop)
        ⟨z.pa / 8 % 16, (natLe 8 z.value.toNat).zipIdx.map fun e => (e.2, e.1), coreOf a.floe, z.gen.toNat, z.epoch.toNat⟩
      ∃ t, exec (.storePerformed n 0) s = .next t ∧ t.pend = [] ∧ t.floes = s.floes.put a.floe f ∧
        t.mem = (s.putMLine y.pa ((y :: ys).foldl store (readMLine s y.pa))).mem)) ∧
  (∀ s n a u ys, s.pend.find? n = some a → a.number = n → a.todo[u]? = some (.store ys) → u < 768 → a.dest = .none → a.snap = none →
    s.held a (.store ys) = false → s.bankHeld (coreOf a.floe) (Work.store ys).level (Work.store ys).bytes = false → s.hub.men = false →
    (∀ y ∈ ys, kindOf y.src.pa ≠ 3) →
    let pas := (Work.store ys).bytes
    let w := Writer.unit n (pas.headD 0)
    (s.mayWrite (some w) pas = false → exec (.storePerformed n u) s = .next (s.waitWrites w pas)) ∧
    (s.mayWrite (some w) pas = true →
      ∃ t, exec (.storePerformed n u) s = .next t ∧ BytesStored s t (ys.flatMap fun y => y.bytes.map fun e => (e.1, e.2.1)) ∧
        t.packs = s.packs ∧ (1 < a.todo.length → (∀ e ∈ s.pend, e.2.floe = a.floe → e.2.seq = a.seq → e.2.snap = none) →
          ∃ b, t.pend.find? n = some b ∧ b.todo = a.todo.eraseIdx u))) ∧
  ∀ s n a u x, s.pend.find? n = some a → (∀ e ∈ s.pend, e.1 = n → e.2 = a) → a.number = n → a.todo[u]? = some x → u < 768 →
    let now := a.unitsNow x
    let s0 := if a.returns then s.takeUpsets else s
    let pas := (now.filter Work.isWrite).flatMap Work.bytes
    let w := Writer.unit n (pas.headD 0)
    let i : Instr := if a.returns then .loadResponse n u else .storePerformed n u
    let left (t : State) : Nat := (t.pend.find? n).elim 0 fun b => b.todo.length
    now.any (s.held a) = false → (now.any fun v => s.bankHeld (coreOf a.floe) v.level v.bytes) = false →
    (s0.mayWrite (some w) pas = false → exec i s = .next (s0.waitWrites w pas)) ∧
    (s0.mayWrite (some w) pas = true → ∃ t, exec i s = .next t ∧ left t < left s)
end

