-- ==== Sys2Proof/Laws/Tbl.lean ====
section
/-! SUPPORT. The laws of tables: what a read finds after a write, and that writes keep the canonical form. -/

namespace Sys2Proof.Tbl
variable {α : Type}

@[simp] theorem find?_nil (k : Nat) : find? ([] : Tbl α) k = none := rfl

/-- A read of the key just written finds the value. -/
@[simp] theorem find?_put_same (t : Tbl α) (k : Nat) (v : α) : find? (put t k v) k = some v := by
  induction t with
  | nil => simp [put, find?]
  | cons e t ih =>
    obtain ⟨k', v'⟩ := e
    by_cases h1 : k < k'
    · simp [put, find?, h1]
    · by_cases h2 : k = k'
      · simp [put, find?, h2]
      · have h3 : k' ≠ k := fun h => h2 h.symm
        simp [put, find?, h1, h2, h3, ih]

/-- A write leaves every other key alone. -/
theorem find?_put_other (t : Tbl α) {k j : Nat} (v : α) (h : j ≠ k) : find? (put t k v) j = find? t j := by
  have h' : k ≠ j := fun e => h e.symm
  induction t with
  | nil => simp [put, find?, h']
  | cons e t ih =>
    obtain ⟨k', v'⟩ := e
    by_cases h1 : k < k'
    · simp [put, find?, h1, h']
    · by_cases h2 : k = k'
      · subst h2
        simp [put, find?, h']
      · by_cases h3 : k' = j
        · subst h3
          simp [put, find?, h1, h2]
        · simp [put, find?, h1, h2, h3, ih]

/-- A write, read at any key. -/
theorem find?_put (t : Tbl α) (k j : Nat) (v : α) : find? (put t k v) j = if j = k then some v else find? t j := by
  by_cases h : j = k
  · simp [h]
  · simp [h, find?_put_other t v h]

@[simp] theorem getD_put_same (t : Tbl α) (k : Nat) (v d : α) : getD (put t k v) k d = v := by simp [getD]

/-- A second write of a key replaces the first. -/
theorem put_put (t : Tbl α) (k : Nat) (v w : α) : put (put t k v) k w = put t k w := by
  induction t with
  | nil => simp [put]
  | cons e t ih =>
    obtain ⟨k', v'⟩ := e
    by_cases h1 : k < k'
    · simp [put, h1]
    · by_cases h2 : k = k'
      · simp [put, h2]
      · simp [put, h1, h2, ih]

theorem getD_put_other (t : Tbl α) {k j : Nat} (v d : α) (h : j ≠ k) : getD (put t k v) j d = getD t j d := by
  simp [getD, find?_put_other t v h]

/-- A lower bound of the keys weakens. -/
theorem sortedFrom_mono {t : Tbl α} {a b : Nat} (h : a ≤ b) (s : sortedFrom b t = true) : sortedFrom a t = true := by
  cases t with
  | nil => rfl
  | cons e t =>
    obtain ⟨k, v⟩ := e
    simp only [sortedFrom, Bool.and_eq_true, decide_eq_true_eq] at s ⊢
    exact ⟨by omega, s.2⟩

/-- Keys below the bound are not listed. -/
theorem find?_below {t : Tbl α} {lo k : Nat} (s : sortedFrom lo t = true) (h : k < lo) : find? t k = none := by
  induction t generalizing lo with
  | nil => rfl
  | cons e t ih =>
    obtain ⟨k', v⟩ := e
    simp only [sortedFrom, Bool.and_eq_true, decide_eq_true_eq] at s
    have h1 : k' ≠ k := by omega
    simpa [find?, h1] using ih s.2 (by omega)

/-- A write keeps the keys rising. -/
theorem sortedFrom_put {t : Tbl α} {lo k : Nat} (v : α) (s : sortedFrom lo t = true) (h : lo ≤ k) :
    sortedFrom lo (put t k v) = true := by
  induction t generalizing lo with
  | nil => simp [put, sortedFrom, h]
  | cons e t ih =>
    obtain ⟨k', v'⟩ := e
    simp only [sortedFrom, Bool.and_eq_true, decide_eq_true_eq] at s
    by_cases h1 : k < k'
    · have h3 : k + 1 ≤ k' := h1
      simp [put, sortedFrom, h1, h, s.2, h3]
    · by_cases h2 : k = k'
      · subst h2
        simp [put, sortedFrom, h, s.2]
      · simp [put, h1, h2, sortedFrom, s.1, ih s.2 (show k' + 1 ≤ k by omega)]

/-- A removal keeps the keys rising. -/
theorem sortedFrom_del {t : Tbl α} {lo : Nat} (k : Nat) (s : sortedFrom lo t = true) : sortedFrom lo (del t k) = true := by
  induction t generalizing lo with
  | nil => rfl
  | cons e t ih =>
    obtain ⟨k', v'⟩ := e
    simp only [sortedFrom, Bool.and_eq_true, decide_eq_true_eq] at s
    by_cases h1 : k' = k
    · simpa [del, h1] using ih (sortedFrom_mono (show lo ≤ k' + 1 by omega) s.2)
    · simp [del, h1, sortedFrom, s.1, ih s.2]

/-- A removed key is not listed; every other key is as before. -/
theorem find?_del (t : Tbl α) (k j : Nat) : find? (del t k) j = if j = k then none else find? t j := by
  induction t with
  | nil => simp [del]
  | cons e t ih =>
    obtain ⟨k', v'⟩ := e
    by_cases h1 : k' = k
    · subst h1
      by_cases h2 : j = k'
      · subst h2
        simpa [del] using ih
      · have h3 : k' ≠ j := fun e => h2 e.symm
        simp [del, ih, h2, find?, h3]
    · by_cases h2 : k' = j
      · subst h2
        simp [del, h1, find?]
      · simp [del, h1, find?, h2, ih]

theorem mem_put {t : Tbl α} {k : Nat} {v : α} {e : Nat × α} (h : e ∈ put t k v) : e = (k, v) ∨ e ∈ t := by
  induction t with
  | nil => simpa [put] using h
  | cons x t ih =>
    obtain ⟨k', v'⟩ := x
    unfold put at h
    split at h
    · rcases List.mem_cons.mp h with h | h
      · exact .inl h
      · exact .inr h
    · split at h
      · rcases List.mem_cons.mp h with h | h
        · exact .inl h
        · exact .inr (List.mem_cons_of_mem _ h)
      · rcases List.mem_cons.mp h with h | h
        · exact .inr (h ▸ List.mem_cons_self)
        · rcases ih h with h | h
          · exact .inl h
          · exact .inr (List.mem_cons_of_mem _ h)

theorem mem_del {t : Tbl α} {k : Nat} {e : Nat × α} (h : e ∈ del t k) : e ∈ t := by
  induction t with
  | nil => simp [del] at h
  | cons x t ih =>
    obtain ⟨k', v'⟩ := x
    unfold del at h
    split at h
    · exact List.mem_cons_of_mem _ (ih h)
    · rcases List.mem_cons.mp h with h | h
      · exact h ▸ List.mem_cons_self
      · exact List.mem_cons_of_mem _ (ih h)

variable [DecidableEq α]

/-- A write over a default keeps the canonical form. -/
theorem canonical_set {d : α} {t : Tbl α} (k : Nat) (v : α) (h : canonical d t = true) : canonical d (set d t k v) = true := by
  simp only [canonical, Bool.and_eq_true, List.all_eq_true, decide_eq_true_eq] at h ⊢
  unfold set
  split
  · exact ⟨sortedFrom_del k h.1, fun e he => h.2 e (mem_del he)⟩
  · rename_i hv
    refine ⟨sortedFrom_put v h.1 (Nat.zero_le k), fun e he => ?_⟩
    rcases mem_put he with he | he
    · subst he
      exact hv
    · exact h.2 e he

/-- A read after a write over a default finds the value written, and every other key as before. -/
theorem getD_set {d : α} (t : Tbl α) (k j : Nat) (v : α) : getD (set d t k v) j d = if j = k then v else getD t j d := by
  unfold set
  split
  · rename_i hv
    simp only [getD, find?_del t k j]
    by_cases e : j = k <;> simp [e, hv]
  · simp only [getD, find?_put]
    by_cases e : j = k <;> simp [e]

end Sys2Proof.Tbl
end

