-- ==== Sys2Proof/Laws/Words.lean ====
section
/-! SUPPORT. How the meaning of a word begins and ends: the context that it sees, ILLEGAL_OPERAND, retirement, traps, and the reads
and writes of registers. A proof about a word cites these and unfolds none of them. -/

namespace Sys2Proof.Machine
open Sys2Proof

/-! ### Entering a word -/

theorem context_of_issues {s : State} {w : Issue} {f : Floe} {r : Run} (hi : Issues s w f r) (h : Hdr) :
    context s h = .ok (ctxOf s w f r h) := by
  simp [context, hi.word, hi.floe, hi.run, ctxOf]

/-- A word whose operand rules hold has its own effect. -/
theorem onWord_ok {s : State} {w : Issue} {f : Floe} {r : Run} {i : Instr} (hi : Issues s w f r) (ho : operandsOk s f i = true)
    (h : Hdr) (k : Ctx → State) : onWord i h s k = .next (k (ctxOf s w f r h)) := by
  have hf : (ctxOf s w f r h).f = f := rfl
  simp [onWord, context_of_issues hi h, hf, ho]

/-- A word whose operand rules fail raises ILLEGAL_OPERAND (R106). -/
theorem onWord_bad {s : State} {w : Issue} {f : Floe} {r : Run} {i : Instr} (hi : Issues s w f r) (ho : operandsOk s f i = false)
    (h : Hdr) (k : Ctx → State) : onWord i h s k = .next (wordTraps s w f r (issueTrap w r 0x02)) := by
  simp [onWord, context_of_issues hi h, ho, illegalOperand, trapIssue, trapAt, trapWord, wordTraps, wordDone, issueTrap, ctxOf]

theorem onRegs_ok {s : State} {w : Issue} {f : Floe} {r : Run} {i : Instr} (hi : Issues s w f r) (ho : operandsOk s f i = true)
    (h : Hdr) (k : Ctx → Ctx) : onRegs i h s k = .next (retire (k (ctxOf s w f r h))) := onWord_ok hi ho h _

theorem onRegs_bad {s : State} {w : Issue} {f : Floe} {r : Run} {i : Instr} (hi : Issues s w f r) (ho : operandsOk s f i = false)
    (h : Hdr) (k : Ctx → Ctx) : onRegs i h s k = .next (wordTraps s w f r (issueTrap w r 0x02)) := onWord_bad hi ho h _

@[simp] theorem ctxOf_s (s : State) (w : Issue) (f : Floe) (r : Run) (h : Hdr) : (ctxOf s w f r h).s = s := rfl
@[simp] theorem ctxOf_f (s : State) (w : Issue) (f : Floe) (r : Run) (h : Hdr) : (ctxOf s w f r h).f = f := rfl
@[simp] theorem ctxOf_r (s : State) (w : Issue) (f : Floe) (r : Run) (h : Hdr) : (ctxOf s w f r h).r = r := rfl
@[simp] theorem ctxOf_key (s : State) (w : Issue) (f : Floe) (r : Run) (h : Hdr) : (ctxOf s w f r h).key = w.floe := rfl
@[simp] theorem ctxOf_pc (s : State) (w : Issue) (f : Floe) (r : Run) (h : Hdr) : (ctxOf s w f r h).pc = w.pc := rfl
@[simp] theorem ctxOf_word (s : State) (w : Issue) (f : Floe) (r : Run) (h : Hdr) : (ctxOf s w f r h).word = w.word := rfl
@[simp] theorem ctxOf_num (s : State) (w : Issue) (f : Floe) (r : Run) (h : Hdr) : (ctxOf s w f r h).num = w.number := rfl
@[simp] theorem ctxOf_act (s : State) (w : Issue) (f : Floe) (r : Run) (h : Hdr) : (ctxOf s w f r h).act = activeOf w f r h := rfl
@[simp] theorem ctxOf_mark (s : State) (w : Issue) (f : Floe) (r : Run) (h : Hdr) : (ctxOf s w f r h).mark = h.s := rfl

/-! ### Leaving a word -/

/-- Retiring a word that has left its floe as g and its run as q. -/
theorem retire_ctx (s : State) (w : Issue) (f : Floe) (r : Run) (h : Hdr) (g : Floe) (q : Run) :
    retire { ctxOf s w f r h with f := g, r := q } =
      wordDone s w { g with run := some { q with
        pc := w.pc + 8, count := q.count + 1, ended := q.ended || h.s || q.count + 1 == 32 } } := rfl

/-! ### Uniform registers -/

theorem sreg_zero (f : Floe) : f.sreg 0 = 0 := rfl

/-- Register k of a floe with x written to register d (R37). -/
theorem sreg_set (f : Floe) (d k : Nat) (x : Word) :
    ({ f with s := Tbl.set 0 f.s d x } : Floe).sreg k = if k = 0 then 0 else if k = d then x else f.sreg k := by
  unfold Floe.sreg
  split
  · rfl
  · rw [Tbl.getD_set]

/-- A write of a uniform register (R30, R37): what changes in the floe and in the run. -/
theorem writeS_eq (f : Floe) (r : Run) (n d : Nat) (x : Word) :
    ∃ t o, writeS f r n d x = ({ f with s := t }, { r with sOld := o }) ∧
      ∀ k, (k ≠ d ∨ d = 0 → ({ f with s := t } : Floe).sreg k = f.sreg k) ∧
        (k = d → d ≠ 0 → ({ f with s := t } : Floe).sreg k = x ∨
          (r.sOld.find? k).isSome ∧ ({ f with s := t } : Floe).sreg k = f.sreg k) := by
  unfold writeS
  by_cases hd : d = 0
  · refine ⟨f.s, r.sOld, by simp [hd], fun k => ⟨fun _ => rfl, fun _ h => absurd hd h⟩⟩
  · simp only [if_neg hd]
    cases ho : r.sOld.find? d with
    | none =>
      refine ⟨_, _, rfl, fun k => ⟨fun h => ?_, fun h _ => .inl ?_⟩⟩
      · rw [sreg_set]
        have hk : k ≠ d := h.resolve_right hd
        by_cases h0 : k = 0
        · simp [h0, sreg_zero]
        · simp [h0, hk]
      · rw [sreg_set]
        simp [h, hd]
    | some y =>
      refine ⟨_, _, rfl, fun k => ⟨fun h => ?_, fun h _ => ?_⟩⟩
      · rw [sreg_set]
        have hk : k ≠ d := h.resolve_right hd
        by_cases h0 : k = 0
        · simp [h0, sreg_zero]
        · simp [h0, hk]
      · rw [sreg_set]
        subst h
        by_cases hz : Config.hazard n (64 + Pos.keep.num) k 0 <;> simp [hz, hd, ho]

/-- A word that writes one uniform register once, when ACTIVE holds a lane (R132). -/
theorem writesUniform_of_once {i : Instr} {h : Hdr} {d : SReg} {val : Ctx → Word}
    (he : ∀ s, exec i s = onRegs i h s fun c => c.once fun c => c.setS d (val c)) : WritesUniform i h d val := by
  intro s w f r hi ho
  rw [he, onRegs_ok hi ho]
  by_cases ha : activeOf w f r h = 0
  · have e : (ctxOf s w f r h).once (fun c => c.setS d (val c)) = { ctxOf s w f r h with f := f, r := r } := by
      unfold Ctx.once
      rw [ctxOf_act, if_pos ha]
      rfl
    rw [e, retire_ctx]
    exact ⟨f.s, _, rfl, rfl, rfl, rfl, fun k => ⟨fun _ => rfl, fun hk => absurd ha hk.2.2⟩⟩
  · obtain ⟨t, o, hw, hk⟩ := writeS_eq f r w.number d.toNat (val (ctxOf s w f r h))
    have hz : d = 0 ↔ d.toNat = 0 := ⟨fun e => by simp [e], fun e => BitVec.eq_of_toNat_eq (by simpa using e)⟩
    have e : (ctxOf s w f r h).once (fun c => c.setS d (val c)) =
        { ctxOf s w f r h with f := { f with s := t }, r := { r with sOld := o } } := by
      simp only [Ctx.once, ctxOf_act, if_neg ha, Ctx.setS, ctxOf_f, ctxOf_r, ctxOf_num, hw]
    rw [e, retire_ctx]
    refine ⟨t, _, rfl, rfl, rfl, rfl, fun k => ⟨fun hn => ?_, fun hn => ?_⟩⟩
    · refine (hk k).1 ?_
      rcases hn with h1 | h1 | h1
      · exact .inl h1
      · exact .inr (hz.1 h1)
      · exact absurd h1 ha
    · exact (hk k).2 hn.1 fun e => hn.2.1 (hz.2 e)

/-! ### Predicates -/

theorem preg_zero (f : Floe) : f.preg 0 = allLanes := rfl

/-- Predicate k of a floe with x written to predicate d (R38). -/
theorem preg_set (f : Floe) (d k : Nat) (x : Mask) :
    ({ f with p := Tbl.set 0 f.p d x } : Floe).preg k = if k = 0 then allLanes else if k = d then x else f.preg k := by
  unfold Floe.preg
  split
  · rfl
  · rw [Tbl.getD_set]

/-- A write of a predicate (R32, R38). -/
theorem writeP_eq (f : Floe) (r : Run) (d : Nat) (m x : Mask) :
    ∃ t o, writeP f r d m x = ({ f with p := t }, { r with pOld := o }) ∧
      ∀ k, ({ f with p := t } : Floe).preg k = if k = d ∧ d ≠ 0 then (f.preg k &&& ~~~m) ||| (x &&& m) else f.preg k := by
  unfold writeP
  by_cases hd : d = 0
  · exact ⟨f.p, r.pOld, by simp [hd], fun k => by simp [hd]⟩
  · simp only [if_neg hd]
    refine ⟨_, _, rfl, fun k => ?_⟩
    rw [preg_set]
    by_cases h0 : k = 0
    · subst h0
      have : ¬(0 = d) := fun e => hd e.symm
      simp [preg_zero, this]
    · by_cases hk : k = d
      · subst hk
        simp [hd]
      · simp [h0, hk]

/-- A word that writes the bits of ACTIVE of one predicate (R138). -/
theorem writesPred_of_setP {i : Instr} {h : Hdr} {d : PReg} {val : Ctx → Mask}
    (he : ∀ s, exec i s = onRegs i h s fun c => c.setP d c.act (val c)) : WritesPred i h d val := by
  intro s w f r hi ho
  rw [he, onRegs_ok hi ho]
  obtain ⟨t, o, hw, hk⟩ := writeP_eq f r d.toNat (activeOf w f r h) (val (ctxOf s w f r h))
  have hz : d ≠ 0 ↔ d.toNat ≠ 0 := ⟨fun e z => e (BitVec.eq_of_toNat_eq (by simpa using z)), fun e z => e (by simp [z])⟩
  have e : (ctxOf s w f r h).setP d (ctxOf s w f r h).act (val (ctxOf s w f r h)) =
      { ctxOf s w f r h with f := { f with p := t }, r := { r with pOld := o } } := by
    simp only [Ctx.setP, ctxOf_f, ctxOf_r, ctxOf_act, hw]
  rw [e, retire_ctx]
  refine ⟨t, _, rfl, rfl, rfl, rfl, fun k => ?_⟩
  simp only [hz]
  exact hk k

/-! ### Vector registers -/

theorem vreg_put (f : Floe) (d k : Nat) (x : VRow) :
    ({ f with v := Tbl.put f.v d x } : Floe).vreg k = if k = d then x else f.vreg k := by
  unfold Floe.vreg
  simp only [Tbl.getD, Tbl.find?_put]
  by_cases h : k = d <;> simp [h]

@[simp] theorem pick_val (x y : VRow) (p : Nat → Bool) (l : Nat) (hl : l < 64) :
    (x.pick y p).val[l] = if p l then y.val[l] else x.val[l] := by
  simp [VRow.pick]

@[simp] theorem pick_bnd (x y : VRow) (p : Nat → Bool) (l : Nat) (hl : l < 64) :
    (x.pick y p).bnd[l] = if p l then y.bnd[l] else x.bnd[l] := by
  simp [VRow.pick]

/-- No lane belongs to the empty mask. -/
theorem has_zero (l : Nat) : has 0 l = false := by simp [has]

/-- A write of lanes of a vector register (R30, R32). -/
theorem writeV_eq (f : Floe) (r : Run) (n d : Nat) (m : Mask) (x : VRow) :
    ∃ t o, writeV f r n d m x = ({ f with v := t }, { r with vOld := o }) ∧
      LanesWritten f { f with v := t } r m d 1 (fun _ l => x.val[l]) (fun _ l => x.bnd[l]) ∧
      ∀ k, k ≠ d → o.find? k = r.vOld.find? k := by
  unfold writeV
  by_cases hm : m = 0
  · refine ⟨f.v, r.vOld, by simp [hm], fun k l => ⟨fun _ => ⟨rfl, rfl⟩, fun ha => ?_⟩, fun _ _ => rfl⟩
    rw [hm, has_zero] at ha
    cases ha
  · simp only [if_neg hm]
    cases ho : r.vOld.find? d with
    | none =>
      refine ⟨_, _, rfl, fun k l => ⟨fun hn => ?_, fun ha h1 h2 => .inl ?_⟩, fun k hk => by simp [Tbl.find?_put, hk]⟩
      · rw [vreg_put]
        by_cases hk : k = d
        · subst hk
          have ha : has m l.val = false := by
            rcases hn with h | h | h
            · exact h
            · omega
            · omega
          simp [ha]
        · simp [hk]
      · have hk : k = d := by omega
        rw [vreg_put]
        simp [hk, ha]
    | some z =>
      refine ⟨_, _, rfl, fun k l => ⟨fun hn => ?_, fun ha h1 h2 => ?_⟩, fun k hk => by simp [Tbl.find?_put, hk]⟩
      · rw [vreg_put]
        by_cases hk : k = d
        · subst hk
          have ha : has m l.val = false := by
            rcases hn with h | h | h
            · exact h
            · omega
            · omega
          simp [ha]
        · simp [hk]
      · have hk : k = d := by omega
        subst hk
        rw [vreg_put]
        by_cases hz : has z.mask l.val && Config.hazard n (48 + Pos.keep.num) k l.val
        · right
          simp only [Bool.and_eq_true] at hz
          simp [ha, hz, Run.wrote, ho]
        · left
          simp only [Bool.and_eq_true] at hz
          simp [ha, hz]

/-- Writes of neighbouring registers join. -/
theorem lanesWritten_append {f g1 g2 : Floe} {r r1 : Run} {m : Mask} {d n : Nat} {val : Nat → Fin 64 → Lane}
    {bnd : Nat → Fin 64 → Bound} (h1 : LanesWritten f g1 r m d n val bnd)
    (h2 : LanesWritten g1 g2 r1 m (d + n) 1 (fun _ => val n) fun _ => bnd n)
    (hr : r1.vOld.find? (d + n) = r.vOld.find? (d + n)) : LanesWritten f g2 r m d (n + 1) val bnd := by
  intro k l
  obtain ⟨a1, b1⟩ := h1 k l
  obtain ⟨a2, b2⟩ := h2 k l
  refine ⟨fun hn => ?_, fun ha hl hu => ?_⟩
  · have e1 := a1 (hn.imp_right fun h => by omega)
    have e2 := a2 (hn.imp_right fun h => by omega)
    exact ⟨e2.1.trans e1.1, e2.2.trans e1.2⟩
  · by_cases hk : k < d + n
    · have e2 := a2 (.inr (.inl hk))
      have e1 := b1 ha hl hk
      rw [e2.1, e2.2]
      exact e1
    · have hk' : k = d + n := by omega
      subst hk'
      have e1 := a1 (.inr (.inr (Nat.le_refl _)))
      have e2 := b2 ha (by omega) (by omega)
      have hs : d + n - d = n := by omega
      simp only [Run.wrote, hr] at e2
      simp only [hs, Run.wrote]
      rw [← e1.1, ← e1.2]
      exact e2

/-- Writing a result of 32 or 64 bits with its bound (R34). -/
theorem setLanes_eq (c : Ctx) (wide : Bool) (d : VReg) (m : Mask) (val : Fin 64 → Nat) (bnd : Fin 64 → Bound) :
    ∃ t o, c.setLanes wide d m val bnd = { c with f := { c.f with v := t }, r := { c.r with vOld := o } } ∧
      LanesWritten c.f { c.f with v := t } c.r m d.toNat (if wide then 2 else 1) (fun k l => wordOf (val l) k) fun _ => bnd := by
  obtain ⟨t, o, h1, h2, h3⟩ := writeV_eq c.f c.r c.num d.toNat m
    ⟨Vector.ofFn fun l => BitVec.ofNat 32 (val l), Vector.ofFn bnd⟩
  have e1 : LanesWritten c.f { c.f with v := t } c.r m d.toNat 1 (fun k l => wordOf (val l) k) fun _ => bnd := by
    intro k l
    obtain ⟨a, b⟩ := h2 k l
    refine ⟨a, fun ha hl hu => ?_⟩
    have hk : k - d.toNat = 0 := by omega
    simpa [wordOf, hk] using b ha hl hu
  cases wide with
  | false => exact ⟨t, o, by simp [Ctx.setLanes, Ctx.setV, h1], by simpa using e1⟩
  | true =>
    obtain ⟨t', o', g1, g2, g3⟩ := writeV_eq { c.f with v := t } { c.r with vOld := o } c.num (d.toNat + 1) m
      ⟨Vector.ofFn fun l => BitVec.ofNat 32 (val l / 4294967296), Vector.ofFn bnd⟩
    refine ⟨t', o', by simp [Ctx.setLanes, Ctx.setV, h1, g1], ?_⟩
    refine lanesWritten_append e1 (r1 := { c.r with vOld := o }) ?_ (h3 _ (by omega))
    intro k l
    obtain ⟨a, b⟩ := g2 k l
    refine ⟨a, fun ha hl hu => ?_⟩
    simpa [wordOf] using b ha hl hu

/-- A word that writes one vector register or pair and bits of BSTICKY (R140, R146). -/
theorem writesVec_of_setLanes {i : Instr} {h : Hdr} {d : VReg} {wide : Bool} {val : Ctx → Fin 64 → Nat} {bnd : Ctx → Fin 64 → Bound}
    {bits : Ctx → BitVec 5}
    (he : ∀ s, exec i s = onRegs i h s fun c => (c.setLanes wide d c.act (val c) (bnd c)).stick (bits c)) :
    WritesVec i h d (if wide then 2 else 1) (fun c k l => wordOf (val c l) k) bnd bits := by
  intro s w f r hi ho c
  obtain ⟨t, o, h1, h2⟩ := setLanes_eq c wide d c.act (val c) (bnd c)
  rw [he, onRegs_ok hi ho]
  have e : (c.setLanes wide d c.act (val c) (bnd c)).stick (bits c) =
      { ctxOf s w f r h with f := { f with v := t, sys := stuck f (bits c) }, r := { r with vOld := o } } := by
    rw [h1, Ctx.stick]
    cases hh : f.handler <;> simp [c, hh, stuck, ctxOf]
  change ∃ x q, Host.Outcome.next (retire ((c.setLanes wide d c.act (val c) (bnd c)).stick (bits c))) = _ ∧ _
  rw [e, retire_ctx]
  exact ⟨t, _, rfl, rfl, rfl, rfl, h2⟩

end Sys2Proof.Machine
end

