-- ==== Sys2Proof/Laws/Lanes.lean ====
section
/-! SUPPORT. How a floating-point, conversion or reduction word ends: the write-back of its lanes, its flags, sticky bits and tier, and
the breach trap. A proof about such a word cites `deliversLanes_of_back`. -/

namespace Sys2Proof.Machine
open Sys2Proof

/-- Writing n registers from d on in the lanes of a mask. -/
theorem putOuts_eq (c : Ctx) (d n : Nat) (m : Mask) (o : Outs) :
    ∃ t v, c.putOuts d n m o = { c with f := { c.f with v := t }, r := { c.r with vOld := v } } ∧
      LanesWritten c.f { c.f with v := t } c.r m d n (fun k l => BitVec.ofNat 32 ((o[l].regs.getD k (0, 0)).1))
        (fun k l => (o[l].regs.getD k (0, 0)).2) ∧
      ∀ k, k < d ∨ d + n ≤ k → v.find? k = c.r.vOld.find? k := by
  induction n with
  | zero =>
    refine ⟨c.f.v, c.r.vOld, rfl, fun k l => ⟨fun _ => ⟨rfl, rfl⟩, fun _ h1 h2 => ?_⟩, fun _ _ => rfl⟩
    omega
  | succ n ih =>
    obtain ⟨t, v, e, hl, hv⟩ := ih
    obtain ⟨t', v', e', hl', hv'⟩ := writeV_eq { c.f with v := t } { c.r with vOld := v } c.num (d + n) m
      ⟨Vector.ofFn fun l => BitVec.ofNat 32 ((o[l].regs.getD n (0, 0)).1), Vector.ofFn fun l => (o[l].regs.getD n (0, 0)).2⟩
    refine ⟨t', v', ?_, ?_, fun k hk => ?_⟩
    · simp only [Ctx.putOuts] at e
      rw [Ctx.putOuts, List.range_succ, List.foldl_append, List.foldl_cons, List.foldl_nil, e, Ctx.setV]
      simp only [e']
    · refine lanesWritten_append hl (r1 := { c.r with vOld := v }) ?_ (hv _ (.inr (Nat.le_refl _)))
      intro k l
      obtain ⟨a, b⟩ := hl' k l
      refine ⟨a, fun h1 h2 h3 => ?_⟩
      simpa using b h1 h2 h3
    · rw [hv' k (by omega)]
      exact hv k (by omega)

/-- Writing the results and ORing in flags and sticky bits (R147). -/
theorem finish_eq (c : Ctx) (d n : Nat) (o : Outs) :
    ∃ t v, c.finish d n o =
        { c with f := { c.f with v := t, sys := sysAfter c.f (Outs.flags o).bits o.sticky none }, r := { c.r with vOld := v } } ∧
      LanesWritten c.f { c.f with v := t } c.r c.act d n (fun k l => BitVec.ofNat 32 ((o[l].regs.getD k (0, 0)).1))
        (fun k l => (o[l].regs.getD k (0, 0)).2) := by
  obtain ⟨t, v, e, hl, -⟩ := putOuts_eq c d n c.act o
  refine ⟨t, v, ?_, hl⟩
  rw [Ctx.finish, e]
  by_cases hb : Outs.breach o = 0
  · simp only [Outs.sticky, if_pos hb]
    cases hh : c.f.handler <;> cases hu : Outs.unb o <;> simp [Ctx.flag, Ctx.stick, sysAfter, hh]
  · simp only [Outs.sticky, if_neg hb]
    cases hh : c.f.handler <;> cases hu : Outs.unb o <;> simp [Ctx.flag, Ctx.stick, sysAfter, hh, BitVec.or_assoc]

/-- No lane of an empty mask delivers anything. -/
theorem outs_empty (g : Fin 64 → LaneOut) : outs 0 g = Vector.replicate 64 LaneOut.none := by
  apply Vector.ext
  intro i hi
  simp only [outs, Vector.getElem_ofFn, has_zero, Vector.getElem_replicate]
  rfl

theorem flags_empty : Outs.flags (Vector.replicate 64 LaneOut.none) = Flags.none := by decide
theorem unb_empty : Outs.unb (Vector.replicate 64 LaneOut.none) = false := by decide
theorem breach_empty : Outs.breach (Vector.replicate 64 LaneOut.none) = 0 := by decide +kernel
theorem sticky_empty : Outs.sticky (Vector.replicate 64 LaneOut.none) = 0 := by
  simp [Outs.sticky, unb_empty, breach_empty]

/-- A word that ends in the write-back of its lanes, having written LASTTIER before it, if at all. -/
theorem deliversLanes_of_back {i : Instr} {h : Hdr} {d : VReg} {n : Nat} {o : Ctx → Outs} {code : Ctx → BitVec 2}
    {tier : Ctx → Option (BitVec 2)} {bits : Ctx → BitVec 5} {sr : Bool}
    (he : ∀ s, exec i s = onWord i h s fun c =>
      fpBack { c with f := { c.f with sys := sysAfter c.f 0 0 (tier c) } } d.toNat n (o c) (code c)
        fun k => (k.stick (bits c)).drew sr)
    (ho : ∀ c, ∃ g, o c = outs c.act g) (ht : ∀ c, c.act = 0 → tier c = none ∧ bits c = 0) :
    DeliversLanes i h d n o code tier bits sr := by
  intro s w f r hi hop c
  rw [he, onWord_ok hi hop]
  have hc : ctxOf s w f r h = c := rfl
  rw [hc]
  have hz : sysAfter f 0 0 none = f.sys := by
    unfold sysAfter
    split <;> simp
  by_cases ha : c.act = 0
  · obtain ⟨g, hg⟩ := ho c
    rw [ha, outs_empty] at hg
    have hb : Outs.breach (o c) = 0 := by rw [hg, breach_empty]
    refine ⟨fun _ => ?_, fun hn => absurd hb hn⟩
    have hf : c.f = f := rfl
    rw [fpBack, if_pos (show c.act = 0 from ha), (ht c ha).1, (ht c ha).2, hf, hz]
    refine ⟨f.v, { r with pc := w.pc + 8, count := r.count + 1, ended := r.ended || h.s || r.count + 1 == 32 }, ?_, rfl, rfl, rfl,
      fun k l => ⟨fun _ => ⟨rfl, rfl⟩, fun hn => ?_⟩⟩
    · have e1 : (sr && c.act != 0) = false := by simp [ha]
      have e2 : sysAfter f (Outs.flags (o c)).bits ((o c).sticky ||| 0) none = f.sys := by
        rw [hg, flags_empty, sticky_empty]
        exact hz
      rw [e1, e2]
      rfl
    · rw [ha, has_zero] at hn
      cases hn
  · have htr : (({ c with f := { c.f with sys := sysAfter c.f 0 0 (tier c) } } : Ctx).env).trap = f.sys.bmode.getLsbD 2 := by
      simp only [Ctx.env, sysAfter]
      split <;> rfl
    refine ⟨fun hb => ?_, fun hb htb => ?_⟩
    · have hno : ¬(Outs.breach (o c) ≠ 0 ∧ f.sys.bmode.getLsbD 2 = true) := by
        rintro ⟨h1, h2⟩
        rcases hb with hb | hb
        · exact h1 hb
        · rw [hb] at h2
          cases h2
      obtain ⟨t, v, e, hl⟩ := finish_eq { c with f := { c.f with sys := sysAfter c.f 0 0 (tier c) } } d.toNat n (o c)
      refine ⟨t, { r with pc := w.pc + 8, count := r.count + 1, ended := r.ended || h.s || r.count + 1 == 32, vOld := v }, ?_, rfl, rfl,
        rfl, hl⟩
      rw [fpBack, if_neg (show ¬ c.act = 0 from ha), htr, if_neg (by simpa using hno), e]
      have e2 : (({ c with
            f := { f with v := t, sys := sysAfter { f with sys := sysAfter f 0 0 (tier c) } (Outs.flags (o c)).bits (o c).sticky none }
            r := { r with vOld := v } } : Ctx).stick (bits c)).drew sr =
          { c with
            f := { drawn f (sr && c.act != 0) (sysAfter f (Outs.flags (o c)).bits ((o c).sticky ||| bits c) (tier c)) with v := t }
            r := { r with vOld := v } } := by
        have e1 : (sr && c.act != 0) = sr := by rw [show (c.act != 0) = true from bne_iff_ne.2 ha, Bool.and_true]
        rw [e1]
        cases hh : f.handler <;> cases sr <;> cases hp : f.sysPend.find? ixSdstep <;> simp [Ctx.stick, Ctx.drew, drawn, sysAfter, hh, hp, BitVec.or_assoc]
      exact congrArg Host.Outcome.next <| (congrArg retire e2).trans (retire_ctx s w f r h _ _)
    · rw [fpBack, if_neg (show ¬ c.act = 0 from ha), htr, if_pos (by rw [htb, Bool.and_true]; exact decide_eq_true hb)]
      rfl

end Sys2Proof.Machine
end

