-- ==== Sys2Proof/Laws/State.lean ====
section
/-! SUPPORT. What each update of State changes, field by field. -/

namespace Sys2Proof.Machine
open Sys2Proof

/-! ### setCore -/

@[simp] theorem State.setCore_mem (s : State) (c : Nat) (x : Core) : (s.setCore c x).mem = s.mem := rfl
@[simp] theorem State.setCore_tags (s : State) (c : Nat) (x : Core) : (s.setCore c x).tags = s.tags := rfl
@[simp] theorem State.setCore_poison (s : State) (c : Nat) (x : Core) : (s.setCore c x).poison = s.poison := rfl
@[simp] theorem State.setCore_floes (s : State) (c : Nat) (x : Core) : (s.setCore c x).floes = s.floes := rfl
@[simp] theorem State.setCore_packs (s : State) (c : Nat) (x : Core) : (s.setCore c x).packs = s.packs := rfl
@[simp] theorem State.setCore_cores (s : State) (c : Nat) (x : Core) : (s.setCore c x).cores = s.cores.put c x := rfl
@[simp] theorem State.setCore_dies (s : State) (c : Nat) (x : Core) : (s.setCore c x).dies = s.dies := rfl
@[simp] theorem State.setCore_hbms (s : State) (c : Nat) (x : Core) : (s.setCore c x).hbms = s.hbms := rfl
@[simp] theorem State.setCore_hub (s : State) (c : Nat) (x : Core) : (s.setCore c x).hub = s.hub := rfl
@[simp] theorem State.setCore_pend (s : State) (c : Nat) (x : Core) : (s.setCore c x).pend = s.pend := rfl
@[simp] theorem State.setCore_fences (s : State) (c : Nat) (x : Core) : (s.setCore c x).fences = s.fences := rfl
@[simp] theorem State.setCore_copies (s : State) (c : Nat) (x : Core) : (s.setCore c x).copies = s.copies := rfl
@[simp] theorem State.setCore_drains (s : State) (c : Nat) (x : Core) : (s.setCore c x).drains = s.drains := rfl
@[simp] theorem State.setCore_seracs (s : State) (c : Nat) (x : Core) : (s.setCore c x).seracs = s.seracs := rfl
@[simp] theorem State.setCore_writes (s : State) (c : Nat) (x : Core) : (s.setCore c x).writes = s.writes := rfl
@[simp] theorem State.setCore_outside (s : State) (c : Nat) (x : Core) : (s.setCore c x).outside = s.outside := rfl
@[simp] theorem State.setCore_early (s : State) (c : Nat) (x : Core) : (s.setCore c x).early = s.early := rfl
@[simp] theorem State.setCore_agenda (s : State) (c : Nat) (x : Core) : (s.setCore c x).agenda = s.agenda := rfl
@[simp] theorem State.setCore_upsets (s : State) (c : Nat) (x : Core) : (s.setCore c x).upsets = s.upsets := rfl
@[simp] theorem State.setCore_issue (s : State) (c : Nat) (x : Core) : (s.setCore c x).issue = s.issue := rfl
@[simp] theorem State.setCore_issuing (s : State) (c : Nat) (x : Core) : (s.setCore c x).issuing = s.issuing := rfl
@[simp] theorem State.setCore_fresh (s : State) (c : Nat) (x : Core) : (s.setCore c x).fresh = s.fresh := rfl

/-! ### setDie -/

@[simp] theorem State.setDie_mem (s : State) (c : Nat) (x : Die) : (s.setDie c x).mem = s.mem := rfl
@[simp] theorem State.setDie_tags (s : State) (c : Nat) (x : Die) : (s.setDie c x).tags = s.tags := rfl
@[simp] theorem State.setDie_poison (s : State) (c : Nat) (x : Die) : (s.setDie c x).poison = s.poison := rfl
@[simp] theorem State.setDie_floes (s : State) (c : Nat) (x : Die) : (s.setDie c x).floes = s.floes := rfl
@[simp] theorem State.setDie_packs (s : State) (c : Nat) (x : Die) : (s.setDie c x).packs = s.packs := rfl
@[simp] theorem State.setDie_cores (s : State) (c : Nat) (x : Die) : (s.setDie c x).cores = s.cores := rfl
@[simp] theorem State.setDie_dies (s : State) (c : Nat) (x : Die) : (s.setDie c x).dies = s.dies.put c x := rfl
@[simp] theorem State.setDie_hbms (s : State) (c : Nat) (x : Die) : (s.setDie c x).hbms = s.hbms := rfl
@[simp] theorem State.setDie_hub (s : State) (c : Nat) (x : Die) : (s.setDie c x).hub = s.hub := rfl
@[simp] theorem State.setDie_pend (s : State) (c : Nat) (x : Die) : (s.setDie c x).pend = s.pend := rfl
@[simp] theorem State.setDie_fences (s : State) (c : Nat) (x : Die) : (s.setDie c x).fences = s.fences := rfl
@[simp] theorem State.setDie_copies (s : State) (c : Nat) (x : Die) : (s.setDie c x).copies = s.copies := rfl
@[simp] theorem State.setDie_drains (s : State) (c : Nat) (x : Die) : (s.setDie c x).drains = s.drains := rfl
@[simp] theorem State.setDie_seracs (s : State) (c : Nat) (x : Die) : (s.setDie c x).seracs = s.seracs := rfl
@[simp] theorem State.setDie_writes (s : State) (c : Nat) (x : Die) : (s.setDie c x).writes = s.writes := rfl
@[simp] theorem State.setDie_outside (s : State) (c : Nat) (x : Die) : (s.setDie c x).outside = s.outside := rfl
@[simp] theorem State.setDie_early (s : State) (c : Nat) (x : Die) : (s.setDie c x).early = s.early := rfl
@[simp] theorem State.setDie_agenda (s : State) (c : Nat) (x : Die) : (s.setDie c x).agenda = s.agenda := rfl
@[simp] theorem State.setDie_upsets (s : State) (c : Nat) (x : Die) : (s.setDie c x).upsets = s.upsets := rfl
@[simp] theorem State.setDie_issue (s : State) (c : Nat) (x : Die) : (s.setDie c x).issue = s.issue := rfl
@[simp] theorem State.setDie_issuing (s : State) (c : Nat) (x : Die) : (s.setDie c x).issuing = s.issuing := rfl
@[simp] theorem State.setDie_fresh (s : State) (c : Nat) (x : Die) : (s.setDie c x).fresh = s.fresh := rfl

/-! ### setStack -/

@[simp] theorem State.setStack_mem (s : State) (c : Nat) (x : Stack) : (s.setStack c x).mem = s.mem := rfl
@[simp] theorem State.setStack_tags (s : State) (c : Nat) (x : Stack) : (s.setStack c x).tags = s.tags := rfl
@[simp] theorem State.setStack_poison (s : State) (c : Nat) (x : Stack) : (s.setStack c x).poison = s.poison := rfl
@[simp] theorem State.setStack_floes (s : State) (c : Nat) (x : Stack) : (s.setStack c x).floes = s.floes := rfl
@[simp] theorem State.setStack_packs (s : State) (c : Nat) (x : Stack) : (s.setStack c x).packs = s.packs := rfl
@[simp] theorem State.setStack_cores (s : State) (c : Nat) (x : Stack) : (s.setStack c x).cores = s.cores := rfl
@[simp] theorem State.setStack_dies (s : State) (c : Nat) (x : Stack) : (s.setStack c x).dies = s.dies := rfl
@[simp] theorem State.setStack_hbms (s : State) (c : Nat) (x : Stack) : (s.setStack c x).hbms = s.hbms.put c x := rfl
@[simp] theorem State.setStack_hub (s : State) (c : Nat) (x : Stack) : (s.setStack c x).hub = s.hub := rfl
@[simp] theorem State.setStack_pend (s : State) (c : Nat) (x : Stack) : (s.setStack c x).pend = s.pend := rfl
@[simp] theorem State.setStack_fences (s : State) (c : Nat) (x : Stack) : (s.setStack c x).fences = s.fences := rfl
@[simp] theorem State.setStack_copies (s : State) (c : Nat) (x : Stack) : (s.setStack c x).copies = s.copies := rfl
@[simp] theorem State.setStack_drains (s : State) (c : Nat) (x : Stack) : (s.setStack c x).drains = s.drains := rfl
@[simp] theorem State.setStack_seracs (s : State) (c : Nat) (x : Stack) : (s.setStack c x).seracs = s.seracs := rfl
@[simp] theorem State.setStack_writes (s : State) (c : Nat) (x : Stack) : (s.setStack c x).writes = s.writes := rfl
@[simp] theorem State.setStack_outside (s : State) (c : Nat) (x : Stack) : (s.setStack c x).outside = s.outside := rfl
@[simp] theorem State.setStack_early (s : State) (c : Nat) (x : Stack) : (s.setStack c x).early = s.early := rfl
@[simp] theorem State.setStack_agenda (s : State) (c : Nat) (x : Stack) : (s.setStack c x).agenda = s.agenda := rfl
@[simp] theorem State.setStack_upsets (s : State) (c : Nat) (x : Stack) : (s.setStack c x).upsets = s.upsets := rfl
@[simp] theorem State.setStack_issue (s : State) (c : Nat) (x : Stack) : (s.setStack c x).issue = s.issue := rfl
@[simp] theorem State.setStack_issuing (s : State) (c : Nat) (x : Stack) : (s.setStack c x).issuing = s.issuing := rfl
@[simp] theorem State.setStack_fresh (s : State) (c : Nat) (x : Stack) : (s.setStack c x).fresh = s.fresh := rfl

/-! ### setFloe -/

@[simp] theorem State.setFloe_mem (s : State) (k : Nat) (x : Floe) : (s.setFloe k x).mem = s.mem := rfl
@[simp] theorem State.setFloe_tags (s : State) (k : Nat) (x : Floe) : (s.setFloe k x).tags = s.tags := rfl
@[simp] theorem State.setFloe_poison (s : State) (k : Nat) (x : Floe) : (s.setFloe k x).poison = s.poison := rfl
@[simp] theorem State.setFloe_floes (s : State) (k : Nat) (x : Floe) : (s.setFloe k x).floes = s.floes.put k x := rfl
@[simp] theorem State.setFloe_packs (s : State) (k : Nat) (x : Floe) : (s.setFloe k x).packs = s.packs := rfl
@[simp] theorem State.setFloe_cores (s : State) (k : Nat) (x : Floe) : (s.setFloe k x).cores = s.cores := rfl
@[simp] theorem State.setFloe_dies (s : State) (k : Nat) (x : Floe) : (s.setFloe k x).dies = s.dies := rfl
@[simp] theorem State.setFloe_hbms (s : State) (k : Nat) (x : Floe) : (s.setFloe k x).hbms = s.hbms := rfl
@[simp] theorem State.setFloe_hub (s : State) (k : Nat) (x : Floe) : (s.setFloe k x).hub = s.hub := rfl
@[simp] theorem State.setFloe_pend (s : State) (k : Nat) (x : Floe) : (s.setFloe k x).pend = s.pend := rfl
@[simp] theorem State.setFloe_fences (s : State) (k : Nat) (x : Floe) : (s.setFloe k x).fences = s.fences := rfl
@[simp] theorem State.setFloe_copies (s : State) (k : Nat) (x : Floe) : (s.setFloe k x).copies = s.copies := rfl
@[simp] theorem State.setFloe_drains (s : State) (k : Nat) (x : Floe) : (s.setFloe k x).drains = s.drains := rfl
@[simp] theorem State.setFloe_seracs (s : State) (k : Nat) (x : Floe) : (s.setFloe k x).seracs = s.seracs := rfl
@[simp] theorem State.setFloe_writes (s : State) (k : Nat) (x : Floe) : (s.setFloe k x).writes = s.writes := rfl
@[simp] theorem State.setFloe_outside (s : State) (k : Nat) (x : Floe) : (s.setFloe k x).outside = s.outside := rfl
@[simp] theorem State.setFloe_early (s : State) (k : Nat) (x : Floe) : (s.setFloe k x).early = s.early := rfl
@[simp] theorem State.setFloe_agenda (s : State) (k : Nat) (x : Floe) : (s.setFloe k x).agenda = s.agenda := rfl
@[simp] theorem State.setFloe_upsets (s : State) (k : Nat) (x : Floe) : (s.setFloe k x).upsets = s.upsets := rfl
@[simp] theorem State.setFloe_issue (s : State) (k : Nat) (x : Floe) : (s.setFloe k x).issue = s.issue := rfl
@[simp] theorem State.setFloe_issuing (s : State) (k : Nat) (x : Floe) : (s.setFloe k x).issuing = s.issuing := rfl
@[simp] theorem State.setFloe_fresh (s : State) (k : Nat) (x : Floe) : (s.setFloe k x).fresh = s.fresh := rfl

/-! ### setPack -/

@[simp] theorem State.setPack_mem (s : State) (k : Nat) (x : Pack) : (s.setPack k x).mem = s.mem := rfl
@[simp] theorem State.setPack_tags (s : State) (k : Nat) (x : Pack) : (s.setPack k x).tags = s.tags := rfl
@[simp] theorem State.setPack_poison (s : State) (k : Nat) (x : Pack) : (s.setPack k x).poison = s.poison := rfl
@[simp] theorem State.setPack_floes (s : State) (k : Nat) (x : Pack) : (s.setPack k x).floes = s.floes := rfl
@[simp] theorem State.setPack_packs (s : State) (k : Nat) (x : Pack) : (s.setPack k x).packs = s.packs.put k x := rfl
@[simp] theorem State.setPack_cores (s : State) (k : Nat) (x : Pack) : (s.setPack k x).cores = s.cores := rfl
@[simp] theorem State.setPack_dies (s : State) (k : Nat) (x : Pack) : (s.setPack k x).dies = s.dies := rfl
@[simp] theorem State.setPack_hbms (s : State) (k : Nat) (x : Pack) : (s.setPack k x).hbms = s.hbms := rfl
@[simp] theorem State.setPack_hub (s : State) (k : Nat) (x : Pack) : (s.setPack k x).hub = s.hub := rfl
@[simp] theorem State.setPack_pend (s : State) (k : Nat) (x : Pack) : (s.setPack k x).pend = s.pend := rfl
@[simp] theorem State.setPack_fences (s : State) (k : Nat) (x : Pack) : (s.setPack k x).fences = s.fences := rfl
@[simp] theorem State.setPack_copies (s : State) (k : Nat) (x : Pack) : (s.setPack k x).copies = s.copies := rfl
@[simp] theorem State.setPack_drains (s : State) (k : Nat) (x : Pack) : (s.setPack k x).drains = s.drains := rfl
@[simp] theorem State.setPack_seracs (s : State) (k : Nat) (x : Pack) : (s.setPack k x).seracs = s.seracs := rfl
@[simp] theorem State.setPack_writes (s : State) (k : Nat) (x : Pack) : (s.setPack k x).writes = s.writes := rfl
@[simp] theorem State.setPack_outside (s : State) (k : Nat) (x : Pack) : (s.setPack k x).outside = s.outside := rfl
@[simp] theorem State.setPack_early (s : State) (k : Nat) (x : Pack) : (s.setPack k x).early = s.early := rfl
@[simp] theorem State.setPack_agenda (s : State) (k : Nat) (x : Pack) : (s.setPack k x).agenda = s.agenda := rfl
@[simp] theorem State.setPack_upsets (s : State) (k : Nat) (x : Pack) : (s.setPack k x).upsets = s.upsets := rfl
@[simp] theorem State.setPack_issue (s : State) (k : Nat) (x : Pack) : (s.setPack k x).issue = s.issue := rfl
@[simp] theorem State.setPack_issuing (s : State) (k : Nat) (x : Pack) : (s.setPack k x).issuing = s.issuing := rfl
@[simp] theorem State.setPack_fresh (s : State) (k : Nat) (x : Pack) : (s.setPack k x).fresh = s.fresh := rfl

/-! ### setHub -/

@[simp] theorem State.setHub_mem (s : State) (x : Hub) : (s.setHub x).mem = s.mem := rfl
@[simp] theorem State.setHub_tags (s : State) (x : Hub) : (s.setHub x).tags = s.tags := rfl
@[simp] theorem State.setHub_poison (s : State) (x : Hub) : (s.setHub x).poison = s.poison := rfl
@[simp] theorem State.setHub_floes (s : State) (x : Hub) : (s.setHub x).floes = s.floes := rfl
@[simp] theorem State.setHub_packs (s : State) (x : Hub) : (s.setHub x).packs = s.packs := rfl
@[simp] theorem State.setHub_cores (s : State) (x : Hub) : (s.setHub x).cores = s.cores := rfl
@[simp] theorem State.setHub_dies (s : State) (x : Hub) : (s.setHub x).dies = s.dies := rfl
@[simp] theorem State.setHub_hbms (s : State) (x : Hub) : (s.setHub x).hbms = s.hbms := rfl
@[simp] theorem State.setHub_hub (s : State) (x : Hub) : (s.setHub x).hub = x := rfl
@[simp] theorem State.setHub_pend (s : State) (x : Hub) : (s.setHub x).pend = s.pend := rfl
@[simp] theorem State.setHub_fences (s : State) (x : Hub) : (s.setHub x).fences = s.fences := rfl
@[simp] theorem State.setHub_copies (s : State) (x : Hub) : (s.setHub x).copies = s.copies := rfl
@[simp] theorem State.setHub_drains (s : State) (x : Hub) : (s.setHub x).drains = s.drains := rfl
@[simp] theorem State.setHub_seracs (s : State) (x : Hub) : (s.setHub x).seracs = s.seracs := rfl
@[simp] theorem State.setHub_writes (s : State) (x : Hub) : (s.setHub x).writes = s.writes := rfl
@[simp] theorem State.setHub_outside (s : State) (x : Hub) : (s.setHub x).outside = s.outside := rfl
@[simp] theorem State.setHub_early (s : State) (x : Hub) : (s.setHub x).early = s.early := rfl
@[simp] theorem State.setHub_agenda (s : State) (x : Hub) : (s.setHub x).agenda = s.agenda := rfl
@[simp] theorem State.setHub_upsets (s : State) (x : Hub) : (s.setHub x).upsets = s.upsets := rfl
@[simp] theorem State.setHub_issue (s : State) (x : Hub) : (s.setHub x).issue = s.issue := rfl
@[simp] theorem State.setHub_issuing (s : State) (x : Hub) : (s.setHub x).issuing = s.issuing := rfl
@[simp] theorem State.setHub_fresh (s : State) (x : Hub) : (s.setHub x).fresh = s.fresh := rfl

/-! ### bump -/

@[simp] theorem State.bump_mem (s : State) : s.bump.mem = s.mem := rfl
@[simp] theorem State.bump_tags (s : State) : s.bump.tags = s.tags := rfl
@[simp] theorem State.bump_poison (s : State) : s.bump.poison = s.poison := rfl
@[simp] theorem State.bump_floes (s : State) : s.bump.floes = s.floes := rfl
@[simp] theorem State.bump_packs (s : State) : s.bump.packs = s.packs := rfl
@[simp] theorem State.bump_cores (s : State) : s.bump.cores = s.cores := rfl
@[simp] theorem State.bump_dies (s : State) : s.bump.dies = s.dies := rfl
@[simp] theorem State.bump_hbms (s : State) : s.bump.hbms = s.hbms := rfl
@[simp] theorem State.bump_hub (s : State) : s.bump.hub = s.hub := rfl
@[simp] theorem State.bump_pend (s : State) : s.bump.pend = s.pend := rfl
@[simp] theorem State.bump_fences (s : State) : s.bump.fences = s.fences := rfl
@[simp] theorem State.bump_copies (s : State) : s.bump.copies = s.copies := rfl
@[simp] theorem State.bump_drains (s : State) : s.bump.drains = s.drains := rfl
@[simp] theorem State.bump_seracs (s : State) : s.bump.seracs = s.seracs := rfl
@[simp] theorem State.bump_writes (s : State) : s.bump.writes = s.writes := rfl
@[simp] theorem State.bump_outside (s : State) : s.bump.outside = s.outside := rfl
@[simp] theorem State.bump_early (s : State) : s.bump.early = s.early := rfl
@[simp] theorem State.bump_agenda (s : State) : s.bump.agenda = s.agenda := rfl
@[simp] theorem State.bump_upsets (s : State) : s.bump.upsets = s.upsets := rfl
@[simp] theorem State.bump_issue (s : State) : s.bump.issue = s.issue := rfl
@[simp] theorem State.bump_issuing (s : State) : s.bump.issuing = s.issuing := rfl
@[simp] theorem State.bump_fresh (s : State) : s.bump.fresh = s.fresh + 1 := rfl

/-! ### setByte -/

@[simp] theorem State.setByte_mem (s : State) (a : Nat) (b : Byte) : (s.setByte a b).mem = s.mem.set memDefault a b := rfl
@[simp] theorem State.setByte_tags (s : State) (a : Nat) (b : Byte) : (s.setByte a b).tags = s.tags := rfl
@[simp] theorem State.setByte_poison (s : State) (a : Nat) (b : Byte) : (s.setByte a b).poison = s.poison := rfl
@[simp] theorem State.setByte_floes (s : State) (a : Nat) (b : Byte) : (s.setByte a b).floes = s.floes := rfl
@[simp] theorem State.setByte_packs (s : State) (a : Nat) (b : Byte) : (s.setByte a b).packs = s.packs := rfl
@[simp] theorem State.setByte_cores (s : State) (a : Nat) (b : Byte) : (s.setByte a b).cores = s.cores := rfl
@[simp] theorem State.setByte_dies (s : State) (a : Nat) (b : Byte) : (s.setByte a b).dies = s.dies := rfl
@[simp] theorem State.setByte_hbms (s : State) (a : Nat) (b : Byte) : (s.setByte a b).hbms = s.hbms := rfl
@[simp] theorem State.setByte_hub (s : State) (a : Nat) (b : Byte) : (s.setByte a b).hub = s.hub := rfl
@[simp] theorem State.setByte_pend (s : State) (a : Nat) (b : Byte) : (s.setByte a b).pend = s.pend := rfl
@[simp] theorem State.setByte_fences (s : State) (a : Nat) (b : Byte) : (s.setByte a b).fences = s.fences := rfl
@[simp] theorem State.setByte_copies (s : State) (a : Nat) (b : Byte) : (s.setByte a b).copies = s.copies := rfl
@[simp] theorem State.setByte_drains (s : State) (a : Nat) (b : Byte) : (s.setByte a b).drains = s.drains := rfl
@[simp] theorem State.setByte_seracs (s : State) (a : Nat) (b : Byte) : (s.setByte a b).seracs = s.seracs := rfl
@[simp] theorem State.setByte_writes (s : State) (a : Nat) (b : Byte) : (s.setByte a b).writes = s.writes := rfl
@[simp] theorem State.setByte_outside (s : State) (a : Nat) (b : Byte) : (s.setByte a b).outside = s.outside := rfl
@[simp] theorem State.setByte_early (s : State) (a : Nat) (b : Byte) : (s.setByte a b).early = s.early := rfl
@[simp] theorem State.setByte_agenda (s : State) (a : Nat) (b : Byte) : (s.setByte a b).agenda = s.agenda := rfl
@[simp] theorem State.setByte_upsets (s : State) (a : Nat) (b : Byte) : (s.setByte a b).upsets = s.upsets := rfl
@[simp] theorem State.setByte_issue (s : State) (a : Nat) (b : Byte) : (s.setByte a b).issue = s.issue := rfl
@[simp] theorem State.setByte_issuing (s : State) (a : Nat) (b : Byte) : (s.setByte a b).issuing = s.issuing := rfl
@[simp] theorem State.setByte_fresh (s : State) (a : Nat) (b : Byte) : (s.setByte a b).fresh = s.fresh := rfl

/-! ### setTag -/

@[simp] theorem State.setTag_mem (s : State) (a : Nat) (w : Word) : (s.setTag a w).mem = s.mem := rfl
@[simp] theorem State.setTag_tags (s : State) (a : Nat) (w : Word) : (s.setTag a w).tags = s.tags.set 0 (lineOf a) w := rfl
@[simp] theorem State.setTag_poison (s : State) (a : Nat) (w : Word) : (s.setTag a w).poison = s.poison := rfl
@[simp] theorem State.setTag_floes (s : State) (a : Nat) (w : Word) : (s.setTag a w).floes = s.floes := rfl
@[simp] theorem State.setTag_packs (s : State) (a : Nat) (w : Word) : (s.setTag a w).packs = s.packs := rfl
@[simp] theorem State.setTag_cores (s : State) (a : Nat) (w : Word) : (s.setTag a w).cores = s.cores := rfl
@[simp] theorem State.setTag_dies (s : State) (a : Nat) (w : Word) : (s.setTag a w).dies = s.dies := rfl
@[simp] theorem State.setTag_hbms (s : State) (a : Nat) (w : Word) : (s.setTag a w).hbms = s.hbms := rfl
@[simp] theorem State.setTag_hub (s : State) (a : Nat) (w : Word) : (s.setTag a w).hub = s.hub := rfl
@[simp] theorem State.setTag_pend (s : State) (a : Nat) (w : Word) : (s.setTag a w).pend = s.pend := rfl
@[simp] theorem State.setTag_fences (s : State) (a : Nat) (w : Word) : (s.setTag a w).fences = s.fences := rfl
@[simp] theorem State.setTag_copies (s : State) (a : Nat) (w : Word) : (s.setTag a w).copies = s.copies := rfl
@[simp] theorem State.setTag_drains (s : State) (a : Nat) (w : Word) : (s.setTag a w).drains = s.drains := rfl
@[simp] theorem State.setTag_seracs (s : State) (a : Nat) (w : Word) : (s.setTag a w).seracs = s.seracs := rfl
@[simp] theorem State.setTag_writes (s : State) (a : Nat) (w : Word) : (s.setTag a w).writes = s.writes := rfl
@[simp] theorem State.setTag_outside (s : State) (a : Nat) (w : Word) : (s.setTag a w).outside = s.outside := rfl
@[simp] theorem State.setTag_early (s : State) (a : Nat) (w : Word) : (s.setTag a w).early = s.early := rfl
@[simp] theorem State.setTag_agenda (s : State) (a : Nat) (w : Word) : (s.setTag a w).agenda = s.agenda := rfl
@[simp] theorem State.setTag_upsets (s : State) (a : Nat) (w : Word) : (s.setTag a w).upsets = s.upsets := rfl
@[simp] theorem State.setTag_issue (s : State) (a : Nat) (w : Word) : (s.setTag a w).issue = s.issue := rfl
@[simp] theorem State.setTag_issuing (s : State) (a : Nat) (w : Word) : (s.setTag a w).issuing = s.issuing := rfl
@[simp] theorem State.setTag_fresh (s : State) (a : Nat) (w : Word) : (s.setTag a w).fresh = s.fresh := rfl

/-! ### setPoison -/

@[simp] theorem State.setPoison_mem (s : State) (n : Nat) (b : Bool) : (s.setPoison n b).mem = s.mem := rfl
@[simp] theorem State.setPoison_tags (s : State) (n : Nat) (b : Bool) : (s.setPoison n b).tags = s.tags := rfl
@[simp] theorem State.setPoison_poison (s : State) (n : Nat) (b : Bool) : (s.setPoison n b).poison = s.poison.set false n b := rfl
@[simp] theorem State.setPoison_floes (s : State) (n : Nat) (b : Bool) : (s.setPoison n b).floes = s.floes := rfl
@[simp] theorem State.setPoison_packs (s : State) (n : Nat) (b : Bool) : (s.setPoison n b).packs = s.packs := rfl
@[simp] theorem State.setPoison_cores (s : State) (n : Nat) (b : Bool) : (s.setPoison n b).cores = s.cores := rfl
@[simp] theorem State.setPoison_dies (s : State) (n : Nat) (b : Bool) : (s.setPoison n b).dies = s.dies := rfl
@[simp] theorem State.setPoison_hbms (s : State) (n : Nat) (b : Bool) : (s.setPoison n b).hbms = s.hbms := rfl
@[simp] theorem State.setPoison_hub (s : State) (n : Nat) (b : Bool) : (s.setPoison n b).hub = s.hub := rfl
@[simp] theorem State.setPoison_pend (s : State) (n : Nat) (b : Bool) : (s.setPoison n b).pend = s.pend := rfl
@[simp] theorem State.setPoison_fences (s : State) (n : Nat) (b : Bool) : (s.setPoison n b).fences = s.fences := rfl
@[simp] theorem State.setPoison_copies (s : State) (n : Nat) (b : Bool) : (s.setPoison n b).copies = s.copies := rfl
@[simp] theorem State.setPoison_drains (s : State) (n : Nat) (b : Bool) : (s.setPoison n b).drains = s.drains := rfl
@[simp] theorem State.setPoison_seracs (s : State) (n : Nat) (b : Bool) : (s.setPoison n b).seracs = s.seracs := rfl
@[simp] theorem State.setPoison_writes (s : State) (n : Nat) (b : Bool) : (s.setPoison n b).writes = s.writes := rfl
@[simp] theorem State.setPoison_outside (s : State) (n : Nat) (b : Bool) : (s.setPoison n b).outside = s.outside := rfl
@[simp] theorem State.setPoison_early (s : State) (n : Nat) (b : Bool) : (s.setPoison n b).early = s.early := rfl
@[simp] theorem State.setPoison_agenda (s : State) (n : Nat) (b : Bool) : (s.setPoison n b).agenda = s.agenda := rfl
@[simp] theorem State.setPoison_upsets (s : State) (n : Nat) (b : Bool) : (s.setPoison n b).upsets = s.upsets := rfl
@[simp] theorem State.setPoison_issue (s : State) (n : Nat) (b : Bool) : (s.setPoison n b).issue = s.issue := rfl
@[simp] theorem State.setPoison_issuing (s : State) (n : Nat) (b : Bool) : (s.setPoison n b).issuing = s.issuing := rfl
@[simp] theorem State.setPoison_fresh (s : State) (n : Nat) (b : Bool) : (s.setPoison n b).fresh = s.fresh := rfl

end Sys2Proof.Machine
end

