-- ==== Sys2Proof/Laws/Memory.lean ====
section
/-! SUPPORT. The laws of memory: reads after writes, the canonical form that every memory operation keeps, and the operations of
caches and directory, which leave memory as it was. -/

namespace Sys2Proof.Machine
open Sys2Proof

/-! ### Reads after writes -/

/-- A byte read after a byte was written. -/
theorem byte_setByte (s : State) (a x : Nat) (b : Byte) : (s.setByte a b).byte x = if x = a then b else s.byte x := by
  simp only [State.byte, State.setByte]
  exact Tbl.getD_set ..

/-- A byte read after consecutive bytes were written. -/
theorem byte_setBytes (s : State) (a : Nat) (bs : List Byte) (x : Nat) :
    (s.setBytes a bs).byte x = if a ≤ x ∧ x < a + bs.length then bs.getD (x - a) 0 else s.byte x := by
  induction bs generalizing s a with
  | nil => exact (if_neg (by simp only [List.length_nil]; omega)).symm
  | cons b t ih =>
    rw [State.setBytes, ih, byte_setByte]
    by_cases h : x = a
    · subst h
      rw [if_neg (by omega), if_pos rfl, if_pos (by simp)]
      simp
    · rw [if_neg h]
      by_cases h1 : a + 1 ≤ x ∧ x < a + 1 + t.length
      · have h3 : x - a = (x - (a + 1)) + 1 := by omega
        rw [if_pos h1, if_pos (by simp only [List.length_cons]; omega), h3, List.getD_cons_succ]
      · rw [if_neg h1, if_neg (by simp only [List.length_cons]; omega)]

/-- The tag of a line read after a tag was written. -/
theorem tag_setTag (s : State) (a x : Nat) (t : Word) : (s.setTag a t).tag x = if lineOf x = lineOf a then t else s.tag x := by
  simp only [State.tag, State.setTag]
  exact Tbl.getD_set ..

/-! ### The canonical form -/

theorem wf_iff (s : State) :
    s.wf = true ↔ Memory.wf s.mem = true ∧ s.tags.canonical 0 = true ∧ s.poison.canonical false = true := by
  simp [State.wf, Bool.and_eq_true, and_assoc]

/-- Memory at reset, and the whole state, are canonical. -/
theorem reset_memory_wf : Memory.wf State.reset.mem = true := rfl
theorem reset_wf : State.reset.wf = true := rfl

theorem setByte_wf {s : State} (a : Nat) (b : Byte) (h : s.wf = true) : (s.setByte a b).wf = true := by
  rw [wf_iff] at h ⊢
  exact ⟨Tbl.canonical_set a b h.1, h.2⟩

theorem setBytes_wf {s : State} (a : Nat) (bs : List Byte) (h : s.wf = true) : (s.setBytes a bs).wf = true := by
  induction bs generalizing s a with
  | nil => exact h
  | cons b t ih => exact ih _ (setByte_wf a b h)

theorem setTag_wf {s : State} (a : Nat) (t : Word) (h : s.wf = true) : (s.setTag a t).wf = true := by
  rw [wf_iff] at h ⊢
  exact ⟨h.1, Tbl.canonical_set _ t h.2.1, h.2.2⟩

theorem setPoison_wf {s : State} (ln : Nat) (p : Bool) (h : s.wf = true) : (s.setPoison ln p).wf = true := by
  rw [wf_iff] at h ⊢
  exact ⟨h.1, h.2.1, Tbl.canonical_set _ p h.2.2⟩

/-- A property of states that each step of a fold keeps. -/
theorem foldl_keeps {α : Type} {P : State → Prop} {f : State → α → State} (hf : ∀ s e, P s → P (f s e)) (l : List α) {s : State}
    (h : P s) : P (l.foldl f s) := by
  induction l generalizing s with
  | nil => exact h
  | cons e t ih => exact ih (hf s e h)

theorem mergeTags_wf {s : State} (w prior : List (Nat × Bound)) (h : s.wf = true) : (s.mergeTags w prior).wf = true := by
  unfold State.mergeTags
  exact foldl_keeps (P := fun s => s.wf = true) (fun _ _ h => setTag_wf _ _ h) _ h

/-! ### Operations that leave memory alone -/

theorem SameMemory.refl (s : State) : SameMemory s s := ⟨rfl, rfl, rfl⟩

theorem SameMemory.trans {s t u : State} (h : SameMemory s t) (k : SameMemory t u) : SameMemory s u :=
  ⟨k.1.trans h.1, k.2.1.trans h.2.1, k.2.2.trans h.2.2⟩

theorem SameMemory.wf {s t : State} (h : SameMemory s t) (k : s.wf = true) : t.wf = true := by
  rw [wf_iff] at k ⊢
  rw [h.1, h.2.1, h.2.2]
  exact k

/-- A fold of steps that leave memory alone. -/
theorem SameMemory.foldl {α : Type} {f : State → α → State} (hf : ∀ s e, SameMemory s (f s e)) (l : List α) (s : State) :
    SameMemory s (l.foldl f s) :=
  foldl_keeps (P := SameMemory s) (fun _ _ h => h.trans (hf _ _)) l (.refl s)

theorem setCore_sameMemory (s : State) (c : Nat) (x : Core) : SameMemory s (s.setCore c x) := ⟨rfl, rfl, rfl⟩
theorem setDie_sameMemory (s : State) (c : Nat) (x : Die) : SameMemory s (s.setDie c x) := ⟨rfl, rfl, rfl⟩
theorem setStack_sameMemory (s : State) (c : Nat) (x : Stack) : SameMemory s (s.setStack c x) := ⟨rfl, rfl, rfl⟩
theorem setFloe_sameMemory (s : State) (k : Nat) (x : Floe) : SameMemory s (s.setFloe k x) := ⟨rfl, rfl, rfl⟩
theorem setPack_sameMemory (s : State) (k : Nat) (x : Pack) : SameMemory s (s.setPack k x) := ⟨rfl, rfl, rfl⟩
theorem setHub_sameMemory (s : State) (h : Hub) : SameMemory s (s.setHub h) := ⟨rfl, rfl, rfl⟩
theorem interrupt_sameMemory (s : State) (v : Nat) : SameMemory s (s.interrupt v) := ⟨rfl, rfl, rfl⟩

theorem dropL1_sameMemory (s : State) (die line : Nat) : SameMemory s (s.dropL1 die line) := ⟨rfl, rfl, rfl⟩

/-- A choice between two states that hold the memory of a third. -/
theorem SameMemory.ite {s t u : State} {c : Prop} [Decidable c] (h : SameMemory s t) (k : SameMemory s u) :
    SameMemory s (if c then t else u) := by
  split
  · exact h
  · exact k

theorem syncDir_sameMemory (s : State) (line : Nat) : SameMemory s (s.syncDir line) := by
  unfold State.syncDir
  split
  · exact .refl s
  · exact setHub_sameMemory ..

theorem neveFill_sameMemory (s : State) (line : Nat) : SameMemory s (s.neveFill line) := by
  unfold State.neveFill
  exact .ite (.refl s) (setHub_sameMemory ..)

theorem setL2_sameMemory (s : State) (die line : Nat) (st : L2St) : SameMemory s (s.setL2 die line st) :=
  ((SameMemory.ite (.ite (setHub_sameMemory ..) (.refl s)) (.ite (neveFill_sameMemory ..) (.refl s))).trans
    (setDie_sameMemory ..)).trans (syncDir_sameMemory ..)

theorem recall_sameMemory (s : State) (line keep : Nat) (share : Bool) : SameMemory s (s.recall line keep share) :=
  SameMemory.foldl (fun s _ => .ite (.refl s) (setL2_sameMemory ..)) _ s

theorem dropL2_sameMemory (s : State) (die line : Nat) : SameMemory s (s.dropL2 die line) := by
  have h : SameMemory s (if ((s.die die).line line).st == .i then s else s.setL2 die line .i) :=
    .ite (.refl s) (setL2_sameMemory ..)
  exact h.trans (.ite (.refl _) (setDie_sameMemory ..))

theorem l2Room_sameMemory (s : State) (die line : Nat) : SameMemory s (s.l2Room die line) := by
  unfold State.l2Room
  refine .ite (.refl s) (.ite (.refl s) ?_)
  split
  · exact dropL2_sameMemory ..
  · exact .refl s

theorem backInvalidate_sameMemory (s : State) (as : List Nat) : SameMemory s (s.backInvalidate as) := by
  unfold State.backInvalidate
  exact .ite (.refl s) ((setHub_sameMemory ..).trans (SameMemory.foldl (fun _ _ => syncDir_sameMemory ..) _ _))

theorem dirRoom_sameMemory (s : State) (line : Nat) : SameMemory s (s.dirRoom line) := by
  unfold State.dirRoom
  refine .ite (.refl s) ?_
  split
  · exact (recall_sameMemory ..).trans (backInvalidate_sameMemory ..)
  · exact .refl s

theorem takeL2_sameMemory (s : State) (die line : Nat) (st : L2St) : SameMemory s (s.takeL2 die line st) := by
  unfold State.takeL2
  have h := ((l2Room_sameMemory s die line).trans (dirRoom_sameMemory _ line)).trans (neveFill_sameMemory _ line)
  exact .ite (h.trans (.ite (setL2_sameMemory ..) (.refl _))) (setL2_sameMemory ..)

theorem setHalf_sameMemory (s : State) (die a : Nat) (st : L2St) : SameMemory s (s.setHalf die a st) :=
  (SameMemory.ite (.refl s) (l2Room_sameMemory ..)).trans (setDie_sameMemory ..)

theorem recallHalf_sameMemory (s : State) (keep a : Nat) (share : Bool) : SameMemory s (s.recallHalf keep a share) :=
  SameMemory.foldl (fun s _ => .ite (.refl s) (setHalf_sameMemory ..)) _ s

theorem hostLoad_sameMemory (s : State) (die a : Nat) (lv : Level) : SameMemory s (s.hostLoad die a lv) := by
  unfold State.hostLoad
  exact .ite ((recallHalf_sameMemory ..).trans (setHalf_sameMemory ..)) (.ite (.refl s) (recallHalf_sameMemory ..))

theorem hostStore_sameMemory (s : State) (die a : Nat) (lv : Level) : SameMemory s (s.hostStore die a lv) := by
  unfold State.hostStore
  exact .ite ((recallHalf_sameMemory ..).trans (setHalf_sameMemory ..)) (recallHalf_sameMemory ..)

theorem grant_sameMemory (s : State) (core a : Nat) : SameMemory s (s.grant core a) := by
  unfold State.grant
  exact .ite (.refl s) ((setDie_sameMemory ..).trans (setCore_sameMemory ..))

theorem sample_sameMemory (s : State) (core line : Nat) (hit : Bool) : SameMemory s (s.sample core line hit) := setCore_sameMemory ..

/-- R173: what a load does to the caches changes no memory. -/
theorem cacheLoad_sameMemory (s : State) (core a : Nat) (lv : Level) : SameMemory s (s.cacheLoad core a lv) := by
  unfold State.cacheLoad
  refine .ite (hostLoad_sameMemory ..) (.ite (.refl s) ?_)
  have h : SameMemory s (if (((s.die (dieOf core)).line (lineOf a)).st == .i) = true then
      (s.recall (lineOf a) (dieOf core) true).takeL2 (dieOf core) (lineOf a) .s else s) :=
    .ite ((recall_sameMemory ..).trans (takeL2_sameMemory ..)) (.refl s)
  cases lv with
  | near => exact .ite h (.ite (sample_sameMemory ..) ((h.trans (sample_sameMemory ..)).trans (grant_sameMemory ..)))
  | mid => exact h
  | far => exact (recall_sameMemory ..).trans (neveFill_sameMemory ..)
  | stream => exact (recall_sameMemory ..).trans (neveFill_sameMemory ..)

/-- R173: what a store does to the caches changes no memory. -/
theorem cacheStore_sameMemory (s : State) (core a : Nat) (lv : Level) : SameMemory s (s.cacheStore core a lv) := by
  unfold State.cacheStore
  refine .ite (hostStore_sameMemory ..) (.ite (.refl s) (.ite (recall_sameMemory ..) ?_))
  cases lv with
  | near => exact (recall_sameMemory ..).trans (takeL2_sameMemory ..)
  | mid => exact (recall_sameMemory ..).trans (takeL2_sameMemory ..)
  | far => exact (recall_sameMemory ..).trans (neveFill_sameMemory ..)
  | stream => exact (recall_sameMemory ..).trans (neveFill_sameMemory ..)

theorem writeWaits_sameMemory (s : State) (w : Writer) (line : Nat) : SameMemory s (s.writeWaits w line) := by
  unfold State.writeWaits
  refine .ite (.refl s) ?_
  exact .trans (t := { s with writes := s.writes.put line (s.queueAt line ++ [w]) }) ⟨rfl, rfl, rfl⟩
    (SameMemory.foldl (fun s _ => setDie_sameMemory ..) _ _)

theorem unqueue_sameMemory (s : State) (w : Writer) : SameMemory s (s.unqueue w) := ⟨rfl, rfl, rfl⟩

theorem waitWrites_sameMemory (s : State) (w : Writer) (as : List Nat) : SameMemory s (s.waitWrites w as) :=
  SameMemory.foldl (fun _ _ => writeWaits_sameMemory ..) _ s

theorem cacheLoads_sameMemory (s : State) (core : Nat) (lv : Level) (as : List Nat) : SameMemory s (s.cacheLoads core lv as) :=
  SameMemory.foldl (fun _ _ => cacheLoad_sameMemory ..) _ s

theorem noteUnclaimed_sameMemory (s : State) (a : Nat) : SameMemory s (s.noteUnclaimed a) := by
  unfold State.noteUnclaimed
  exact .ite (setHub_sameMemory ..) (.refl s)

theorem strike_sameMemory (s : State) (as : List Nat) : SameMemory s (s.strike as) := by
  unfold State.strike
  exact .ite (.refl s) ⟨rfl, rfl, rfl⟩

theorem wroteAt_sameMemory (s : State) (core : Nat) (lv : Level) (as : List Nat) : SameMemory s (s.wroteAt core lv as) :=
  ((SameMemory.foldl (fun _ _ => cacheStore_sameMemory ..) _ _).trans (backInvalidate_sameMemory ..)).trans (strike_sameMemory ..)

theorem noteRebase_sameMemory (s : State) (a : Nat) (new : MLine) : SameMemory s (noteRebase s a new) := by
  unfold noteRebase
  split
  · exact .refl s
  · exact setHub_sameMemory ..

/-! ### Stores that are performed -/

theorem writeMLine_wf {s : State} (a : Nat) (m : MLine) (h : s.wf = true) : (writeMLine s a m).wf = true := by
  unfold writeMLine
  refine foldl_keeps (P := fun s => s.wf = true) (fun s e h => ?_) _ (setBytes_wf _ _ (setBytes_wf _ _ h))
  refine foldl_keeps (P := fun s => s.wf = true) (fun s z h => ?_) _ h
  split
  · exact setBytes_wf _ _ h
  · exact h

theorem putMLine_wf {s : State} (a : Nat) (new : MLine) (h : s.wf = true) : (s.putMLine a new).wf = true := by
  unfold State.putMLine
  dsimp only
  split
  · exact h
  · exact (backInvalidate_sameMemory ..).wf (writeMLine_wf _ _ ((noteRebase_sameMemory ..).wf h))

theorem mstore_wf {s : State} (a : Nat) (xs : List CellStore) (h : s.wf = true) : (s.mstore a xs).wf = true := putMLine_wf _ _ h

/-- Every store of a performed access keeps the canonical form. -/
theorem physStore_wf {s : State} (core writer : Nat) (lv : Level) (tagged : Bool) (w : List (Nat × Byte × Bound))
    (prior : List (Nat × Bound)) (h : s.wf = true) : (s.physStore core writer lv tagged w prior).wf = true := by
  unfold State.physStore
  refine (wroteAt_sameMemory ..).wf (foldl_keeps (P := fun s => s.wf = true) (fun s ln h => ?_) _ ?_)
  · split
    · exact setPoison_wf _ _ h
    · exact h
  · have h1 := (SameMemory.foldl (f := fun s e => s.noteUnclaimed e.1) (fun _ _ => noteUnclaimed_sameMemory ..) w s).wf h
    have h2 : ∀ (l : List Nat) (g : Nat → List CellStore) {s : State}, s.wf = true →
        (l.foldl (fun s ln => s.mstore (ln * 128) (g ln)) s).wf = true :=
      fun l g _ h => foldl_keeps (P := fun s => s.wf = true) (fun _ _ h => mstore_wf _ _ h) l h
    have h3 : ∀ (l : List (Nat × Byte × Bound)) {s : State}, s.wf = true →
        (l.foldl (fun s e => s.setByte (s.hub.cell e.1) e.2.1) s).wf = true :=
      fun l _ h => foldl_keeps (P := fun s => s.wf = true) (fun _ _ h => setByte_wf _ _ h) l h
    split
    · exact mergeTags_wf _ _ (h3 _ (h2 _ _ h1))
    · exact h3 _ (h2 _ _ h1)

/-! ### The value of an atomic (R184) -/

/-- The result of a tiered operation is the same whatever the bounds of its operands. -/
theorem tiered_code (F : FFmt) (op : TOp) (P : Nat) (md : RMode) (dnan : Bool) (ca cb cc : Nat) (ea eb ec ea' eb' ec' : Bound) :
    (tiered F op P md dnan ca cb cc ea eb ec).code = (tiered F op P md dnan ca cb cc ea' eb' ec').code := by
  unfold tiered
  dsimp only
  split
  · rfl
  split
  · rfl
  split
  · rfl
  split <;> rfl

theorem El.ofCode_code (F : FFmt) (code : Nat) (fl : Flags) (b : Bound) : (El.ofCode F code fl b).code = code := by
  unfold El.ofCode; split <;> rfl

/-- So is the element that FMIN or FMAX delivers. -/
theorem fminmax_code (F : FFmt) (mx dnan : Bool) (a b : Nat) (ea eb ea' eb' : Bound) :
    (fminmax F mx dnan a b ea eb).code = (fminmax F mx dnan a b ea' eb').code := by
  unfold fminmax
  dsimp only
  split
  · rfl
  repeat' split
  all_goals simp only [El.ofCode_code]

/-- Apply's word does not depend on the bound that stands with the old word. -/
theorem atomApply_value (f : AFun) (ty : ATy) (dnan : Bool) (old : Nat) (o o' : Bound) (x y : Word) (xb yb : Bound) :
    (atomApply f ty dnan old o x y xb yb).map (·.1) = (atomApply f ty dnan old o' x y xb yb).map (·.1) := by
  unfold atomApply
  dsimp only
  split <;>
  first
  | rfl
  | exact congrArg some (tiered_code ..)
  | exact congrArg some (fminmax_code ..)

end Sys2Proof.Machine
end

