-- ==== Sys2Proof/Laws/PerInstr.lean ====
section
/-! SUPPORT. One fact of every instruction: the words of the table's first 234 rows have an encoding, the hardware events after them
have none. -/

namespace Sys2Proof.Laws.HasWord
open Sys2Proof

/-- R95: a row that an assembler can write has a word, a hardware event has none. -/
def Statement (i : Instr) : Prop := (encode i).isSome = decide (i.ctorIdx < 234)

theorem bra (h : Hdr) (prio : BitVec 8) (imm : BitVec 32) : Statement (.bra h prio imm) := rfl
theorem brc (h : Hdr) (prio : BitVec 8) (p : PReg) (imm : BitVec 32) : Statement (.brc h prio p imm) := rfl
theorem call (h : Hdr) (prio : BitVec 8) (d : VReg) (imm : BitVec 32) : Statement (.call h prio d imm) := rfl
theorem brx (h : Hdr) (prio : BitVec 8) (a : VReg) : Statement (.brx h prio a) := rfl
theorem ret (h : Hdr) (prio : BitVec 8) (a : VReg) : Statement (.ret h prio a) := rfl
theorem exit (h : Hdr) : Statement (.exit h) := rfl
theorem nop (h : Hdr) : Statement (.nop h) := rfl
theorem reconv (h : Hdr) : Statement (.reconv h) := rfl
theorem prio (h : Hdr) (n : BitVec 8) : Statement (.prio h n) := rfl
theorem yield (h : Hdr) : Statement (.yield h) := rfl
theorem sleep (h : Hdr) (imm : BitVec 32) : Statement (.sleep h imm) := rfl
theorem sadd (h : Hdr) (m : IntMod) (d a b : SReg) : Statement (.sadd h m d a b) := rfl
theorem ssub (h : Hdr) (m : IntMod) (d a b : SReg) : Statement (.ssub h m d a b) := rfl
theorem smul (h : Hdr) (m : IntMod) (d a b : SReg) : Statement (.smul h m d a b) := rfl
theorem smulh (h : Hdr) (m : IntMod) (d a b : SReg) : Statement (.smulh h m d a b) := rfl
theorem smad (h : Hdr) (m : IntMod) (d a b c : SReg) : Statement (.smad h m d a b c) := rfl
theorem sand (h : Hdr) (m : IntMod) (d a b : SReg) : Statement (.sand h m d a b) := rfl
theorem sor (h : Hdr) (m : IntMod) (d a b : SReg) : Statement (.sor h m d a b) := rfl
theorem sxor (h : Hdr) (m : IntMod) (d a b : SReg) : Statement (.sxor h m d a b) := rfl
theorem snot (h : Hdr) (m : IntMod) (d a : SReg) : Statement (.snot h m d a) := rfl
theorem sshl (h : Hdr) (m : IntMod) (d a b : SReg) : Statement (.sshl h m d a b) := rfl
theorem sshr (h : Hdr) (m : IntMod) (d a b : SReg) : Statement (.sshr h m d a b) := rfl
theorem ssar (h : Hdr) (m : IntMod) (d a b : SReg) : Statement (.ssar h m d a b) := rfl
theorem smin (h : Hdr) (m : IntMod) (d a b : SReg) : Statement (.smin h m d a b) := rfl
theorem smax (h : Hdr) (m : IntMod) (d a b : SReg) : Statement (.smax h m d a b) := rfl
theorem scmp (h : Hdr) (ty : ITy) (cond : ICond) (p : PReg) (a b : SReg) : Statement (.scmp h ty cond p a b) := rfl
theorem ssel (h : Hdr) (m : IntMod) (d a b c : SReg) : Statement (.ssel h m d a b c) := rfl
theorem smov (h : Hdr) (m : IntMod) (d a : SReg) : Statement (.smov h m d a) := rfl
theorem sclz (h : Hdr) (m : IntMod) (d a : SReg) : Statement (.sclz h m d a) := rfl
theorem spopc (h : Hdr) (m : IntMod) (d a : SReg) : Statement (.spopc h m d a) := rfl
theorem sbfe (h : Hdr) (m : IntMod) (d a b : SReg) : Statement (.sbfe h m d a b) := rfl
theorem smovi (h : Hdr) (d : SReg) (imm : BitVec 32) : Statement (.smovi h d imm) := rfl
theorem smovih (h : Hdr) (d : SReg) (imm : BitVec 32) : Statement (.smovih h d imm) := rfl
theorem saddi (h : Hdr) (d : SReg) (imm : BitVec 32) : Statement (.saddi h d imm) := rfl
theorem sandi (h : Hdr) (d : SReg) (imm : BitVec 32) : Statement (.sandi h d imm) := rfl
theorem sori (h : Hdr) (d : SReg) (imm : BitVec 32) : Statement (.sori h d imm) := rfl
theorem sxori (h : Hdr) (d : SReg) (imm : BitVec 32) : Statement (.sxori h d imm) := rfl
theorem sshli (h : Hdr) (d : SReg) (imm : BitVec 32) : Statement (.sshli h d imm) := rfl
theorem sshri (h : Hdr) (d : SReg) (imm : BitVec 32) : Statement (.sshri h d imm) := rfl
theorem ssari (h : Hdr) (d : SReg) (imm : BitVec 32) : Statement (.ssari h d imm) := rfl
theorem smuli (h : Hdr) (d : SReg) (imm : BitVec 32) : Statement (.smuli h d imm) := rfl
theorem scmpi (h : Hdr) (cond : ICond) (p : PReg) (a : SReg) (imm : BitVec 32) : Statement (.scmpi h cond p a imm) := rfl
theorem saddSlot (s : Bool) (d a : SReg) (other : Slot) : Statement (.saddSlot s d a other) := rfl
theorem ssubSlot (s : Bool) (d a : SReg) (other : Slot) : Statement (.ssubSlot s d a other) := rfl
theorem sandSlot (s : Bool) (d a : SReg) (other : Slot) : Statement (.sandSlot s d a other) := rfl
theorem sorSlot (s : Bool) (d a : SReg) (other : Slot) : Statement (.sorSlot s d a other) := rfl
theorem sxorSlot (s : Bool) (d a : SReg) (other : Slot) : Statement (.sxorSlot s d a other) := rfl
theorem smovSlot (s : Bool) (d a : SReg) (other : Slot) : Statement (.smovSlot s d a other) := rfl
theorem sshlSlot (s : Bool) (d a : SReg) (other : Slot) : Statement (.sshlSlot s d a other) := rfl
theorem sshrSlot (s : Bool) (d a : SReg) (other : Slot) : Statement (.sshrSlot s d a other) := rfl
theorem pand (h : Hdr) (d a b : PReg) : Statement (.pand h d a b) := rfl
theorem por (h : Hdr) (d a b : PReg) : Statement (.por h d a b) := rfl
theorem pxor (h : Hdr) (d a b : PReg) : Statement (.pxor h d a b) := rfl
theorem pandn (h : Hdr) (d a b : PReg) : Statement (.pandn h d a b) := rfl
theorem pnot (h : Hdr) (d a : PReg) : Statement (.pnot h d a) := rfl
theorem pmov (h : Hdr) (d a : PReg) : Statement (.pmov h d a) := rfl
theorem pset (h : Hdr) (d : PReg) (a : SReg) : Statement (.pset h d a) := rfl
theorem pget (h : Hdr) (d : SReg) (a : PReg) : Statement (.pget h d a) := rfl
theorem ppopc (h : Hdr) (d : SReg) (a : PReg) : Statement (.ppopc h d a) := rfl
theorem pfirst (h : Hdr) (d : SReg) (a : PReg) : Statement (.pfirst h d a) := rfl
theorem pandSlot (s : Bool) (d a : PReg) (other : Slot) : Statement (.pandSlot s d a other) := rfl
theorem porSlot (s : Bool) (d a : PReg) (other : Slot) : Statement (.porSlot s d a other) := rfl
theorem pmovSlot (s : Bool) (d a : PReg) (other : Slot) : Statement (.pmovSlot s d a other) := rfl
theorem vadd (h : Hdr) (m : IntMod) (d : VReg) (a b : VS) : Statement (.vadd h m d a b) := rfl
theorem vsub (h : Hdr) (m : IntMod) (d : VReg) (a b : VS) : Statement (.vsub h m d a b) := rfl
theorem vmul (h : Hdr) (m : IntMod) (d : VReg) (a b : VS) : Statement (.vmul h m d a b) := rfl
theorem vmulh (h : Hdr) (m : IntMod) (d : VReg) (a b : VS) : Statement (.vmulh h m d a b) := rfl
theorem vmad (h : Hdr) (m : IntMod) (d a b c : VReg) : Statement (.vmad h m d a b c) := rfl
theorem vabs (h : Hdr) (m : IntMod) (d : VReg) (a : VS) : Statement (.vabs h m d a) := rfl
theorem vneg (h : Hdr) (m : IntMod) (d : VReg) (a : VS) : Statement (.vneg h m d a) := rfl
theorem vmin (h : Hdr) (m : IntMod) (d : VReg) (a b : VS) : Statement (.vmin h m d a b) := rfl
theorem vmax (h : Hdr) (m : IntMod) (d : VReg) (a b : VS) : Statement (.vmax h m d a b) := rfl
theorem vand (h : Hdr) (m : IntMod) (d : VReg) (a b : VS) : Statement (.vand h m d a b) := rfl
theorem vor (h : Hdr) (m : IntMod) (d : VReg) (a b : VS) : Statement (.vor h m d a b) := rfl
theorem vxor (h : Hdr) (m : IntMod) (d : VReg) (a b : VS) : Statement (.vxor h m d a b) := rfl
theorem vnot (h : Hdr) (m : IntMod) (d : VReg) (a : VS) : Statement (.vnot h m d a) := rfl
theorem vshl (h : Hdr) (m : IntMod) (d : VReg) (a b : VS) : Statement (.vshl h m d a b) := rfl
theorem vshr (h : Hdr) (m : IntMod) (d : VReg) (a b : VS) : Statement (.vshr h m d a b) := rfl
theorem vsar (h : Hdr) (m : IntMod) (d : VReg) (a b : VS) : Statement (.vsar h m d a b) := rfl
theorem vclz (h : Hdr) (m : IntMod) (d : VReg) (a : VS) : Statement (.vclz h m d a) := rfl
theorem vpopc (h : Hdr) (m : IntMod) (d : VReg) (a : VS) : Statement (.vpopc h m d a) := rfl
theorem vbfe (h : Hdr) (m : IntMod) (d : VReg) (a b : VS) : Statement (.vbfe h m d a b) := rfl
theorem vbfi (h : Hdr) (m : IntMod) (d a b c : VReg) : Statement (.vbfi h m d a b c) := rfl
theorem vcmp (h : Hdr) (ty : ITy) (cond : ICond) (p : PReg) (a b : VS) : Statement (.vcmp h ty cond p a b) := rfl
theorem vsel (h : Hdr) (ty : ITy) (d a b : VReg) (p : PReg) : Statement (.vsel h ty d a b p) := rfl
theorem vmov (h : Hdr) (m : IntMod) (d : VReg) (a : VS) : Statement (.vmov h m d a) := rfl
theorem vmovi (h : Hdr) (d : VReg) (imm : BitVec 32) : Statement (.vmovi h d imm) := rfl
theorem vaddi (h : Hdr) (d : VReg) (imm : BitVec 32) : Statement (.vaddi h d imm) := rfl
theorem vandi (h : Hdr) (d : VReg) (imm : BitVec 32) : Statement (.vandi h d imm) := rfl
theorem vori (h : Hdr) (d : VReg) (imm : BitVec 32) : Statement (.vori h d imm) := rfl
theorem vshli (h : Hdr) (d : VReg) (imm : BitVec 32) : Statement (.vshli h d imm) := rfl
theorem vshri (h : Hdr) (d : VReg) (imm : BitVec 32) : Statement (.vshri h d imm) := rfl
theorem fmovi (h : Hdr) (d : VReg) (imm : BitVec 32) : Statement (.fmovi h d imm) := rfl
theorem vaddSlot (s : Bool) (ty : ITy) (d a : VReg) (other : Slot) : Statement (.vaddSlot s ty d a other) := rfl
theorem vsubSlot (s : Bool) (ty : ITy) (d a : VReg) (other : Slot) : Statement (.vsubSlot s ty d a other) := rfl
theorem vmulSlot (s : Bool) (ty : ITy) (d a : VReg) (other : Slot) : Statement (.vmulSlot s ty d a other) := rfl
theorem vandSlot (s : Bool) (ty : ITy) (d a : VReg) (other : Slot) : Statement (.vandSlot s ty d a other) := rfl
theorem vorSlot (s : Bool) (ty : ITy) (d a : VReg) (other : Slot) : Statement (.vorSlot s ty d a other) := rfl
theorem vxorSlot (s : Bool) (ty : ITy) (d a : VReg) (other : Slot) : Statement (.vxorSlot s ty d a other) := rfl
theorem vminSlot (s : Bool) (ty : ITy) (d a : VReg) (other : Slot) : Statement (.vminSlot s ty d a other) := rfl
theorem vmaxSlot (s : Bool) (ty : ITy) (d a : VReg) (other : Slot) : Statement (.vmaxSlot s ty d a other) := rfl
theorem vmovSlot (s : Bool) (ty : ITy) (d a : VReg) (other : Slot) : Statement (.vmovSlot s ty d a other) := rfl
theorem vshlSlot (s : Bool) (ty : ITy) (d a : VReg) (other : Slot) : Statement (.vshlSlot s ty d a other) := rfl
theorem vshrSlot (s : Bool) (ty : ITy) (d a : VReg) (other : Slot) : Statement (.vshrSlot s ty d a other) := rfl
theorem fadd (h : Hdr) (m : FpMod) (d : VReg) (a b : VS) : Statement (.fadd h m d a b) := rfl
theorem fsub (h : Hdr) (m : FpMod) (d : VReg) (a b : VS) : Statement (.fsub h m d a b) := rfl
theorem fmul (h : Hdr) (m : FpMod) (d : VReg) (a b : VS) : Statement (.fmul h m d a b) := rfl
theorem ffma (h : Hdr) (m : FpMod) (nc : Bool) (d a b c : VReg) : Statement (.ffma h m nc d a b c) := rfl
theorem fmin (h : Hdr) (m : FpMod) (d : VReg) (a b : VS) : Statement (.fmin h m d a b) := rfl
theorem fmax (h : Hdr) (m : FpMod) (d : VReg) (a b : VS) : Statement (.fmax h m d a b) := rfl
theorem fabs (h : Hdr) (m : FpMod) (d : VReg) (a : VS) : Statement (.fabs h m d a) := rfl
theorem fneg (h : Hdr) (m : FpMod) (d : VReg) (a : VS) : Statement (.fneg h m d a) := rfl
theorem fcmp (h : Hdr) (ty : FTy) (full : Bool) (cond : FCond) (p : PReg) (a b : VS) : Statement (.fcmp h ty full cond p a b) := rfl
theorem fclass (h : Hdr) (ty : FTy) (full : Bool) (d : VReg) (a : VS) : Statement (.fclass h ty full d a) := rfl
theorem fdiv (h : Hdr) (m : FpMod) (d : VReg) (a b : VS) : Statement (.fdiv h m d a b) := rfl
theorem fsqrt (h : Hdr) (m : FpMod) (d : VReg) (a : VS) : Statement (.fsqrt h m d a) := rfl
theorem frcp (h : Hdr) (m : FpMod) (d : VReg) (a : VS) : Statement (.frcp h m d a) := rfl
theorem frsq (h : Hdr) (m : FpMod) (d : VReg) (a : VS) : Statement (.frsq h m d a) := rfl
theorem fexp2 (h : Hdr) (m : FpMod) (d : VReg) (a : VS) : Statement (.fexp2 h m d a) := rfl
theorem flog2 (h : Hdr) (m : FpMod) (d : VReg) (a : VS) : Statement (.flog2 h m d a) := rfl
theorem fldexp (h : Hdr) (m : FpMod) (d : VReg) (a b : VS) : Statement (.fldexp h m d a b) := rfl
theorem frnd (h : Hdr) (m : FpMod) (d : VReg) (a : VS) : Statement (.frnd h m d a) := rfl
theorem faddSlot (s : Bool) (ty : FTy) (full : Bool) (d a : VReg) (other : Slot) : Statement (.faddSlot s ty full d a other) := rfl
theorem fsubSlot (s : Bool) (ty : FTy) (full : Bool) (d a : VReg) (other : Slot) : Statement (.fsubSlot s ty full d a other) := rfl
theorem fmulSlot (s : Bool) (ty : FTy) (full : Bool) (d a : VReg) (other : Slot) : Statement (.fmulSlot s ty full d a other) := rfl
theorem fminSlot (s : Bool) (ty : FTy) (full : Bool) (d a : VReg) (other : Slot) : Statement (.fminSlot s ty full d a other) := rfl
theorem fmaxSlot (s : Bool) (ty : FTy) (full : Bool) (d a : VReg) (other : Slot) : Statement (.fmaxSlot s ty full d a other) := rfl
theorem cvt (h : Hdr) (m : CvMod) (dst src : Fmt) (d : VReg) (a : VS) : Statement (.cvt h m dst src d a) := rfl
theorem cvtpk (h : Hdr) (m : CvMod) (dst src : Fmt) (d : VReg) (a : VS) : Statement (.cvtpk h m dst src d a) := rfl
theorem mxscale (h : Hdr) (full : Bool) (fmt : MxFmt) (d a : VReg) : Statement (.mxscale h full fmt d a) := rfl
theorem mxq (h : Hdr) (sr sat full q pack : Bool) (fmt : MxFmt) (d a b : VReg) : Statement (.mxq h sr sat full q pack fmt d a b) := rfl
theorem mxdq (h : Hdr) (full q pack : Bool) (fmt : MxFmt) (d a b : VReg) : Statement (.mxdq h full q pack fmt d a b) := rfl
theorem vrfl (h : Hdr) (w : Bool) (d : SReg) (a : VReg) : Statement (.vrfl h w d a) := rfl
theorem vrln (h : Hdr) (w : Bool) (d : SReg) (a : VReg) (b : SReg) : Statement (.vrln h w d a b) := rfl
theorem vwln (h : Hdr) (w : Bool) (d : VReg) (a b : SReg) : Statement (.vwln h w d a b) := rfl
theorem vbcst (h : Hdr) (w : Bool) (d a : VReg) (b : SReg) : Statement (.vbcst h w d a b) := rfl
theorem vshfl (h : Hdr) (w xor : Bool) (d a b : VReg) : Statement (.vshfl h w xor d a b) := rfl
theorem vrot (h : Hdr) (w : Bool) (g : BitVec 2) (d a : VReg) (b : SReg) : Statement (.vrot h w g d a b) := rfl
theorem vred (h : Hdr) (ty : RTy) (op : ROp) (q : Bool) (d a : VReg) : Statement (.vred h ty op q d a) := rfl
theorem vscan (h : Hdr) (ty : RTy) (op : ROp) (q : Bool) (d a : VReg) : Statement (.vscan h ty op q d a) := rfl
theorem vvote (h : Hdr) (mode : Vote) (d a : PReg) : Statement (.vvote h mode d a) := rfl
theorem vlane (h : Hdr) (gid : Bool) (d : VReg) : Statement (.vlane h gid d) := rfl
theorem bget (h : Hdr) (w : Bool) (d a : VReg) : Statement (.bget h w d a) := rfl
theorem bset (h : Hdr) (w : Bool) (d a : VReg) : Statement (.bset h w d a) := rfl
theorem bclr (h : Hdr) (w : Bool) (d : VReg) : Statement (.bclr h w d) := rfl
theorem bunb (h : Hdr) (w : Bool) (d : VReg) : Statement (.bunb h w d) := rfl
theorem bmaxr (h : Hdr) (w : Bool) (d a b : VReg) : Statement (.bmaxr h w d a b) := rfl
theorem bchk (h : Hdr) (ty : FTy) (kind : ChkKind) (p : PReg) (a : VReg) : Statement (.bchk h ty kind p a) := rfl
theorem bud (h : Hdr) (a : SReg) : Statement (.bud h a) := rfl
theorem budi (h : Hdr) (imm : BitVec 16) : Statement (.budi h imm) := rfl
theorem ld (h : Hdr) (m : MemOp) (sz : Sz) (d : VReg) : Statement (.ld h m sz d) := rfl
theorem st (h : Hdr) (m : MemOp) (sz : Sz) (d : VReg) : Statement (.st h m sz d) := rfl
theorem ldu (h : Hdr) (m : MemOp) (sz : Sz) (d : SReg) : Statement (.ldu h m sz d) := rfl
theorem stu (h : Hdr) (m : MemOp) (sz : Sz) (d : SReg) : Statement (.stu h m sz d) := rfl
theorem lds (h : Hdr) (m : MemOp) (sz : Sz) (d : VReg) : Statement (.lds h m sz d) := rfl
theorem sts (h : Hdr) (m : MemOp) (sz : Sz) (d : VReg) : Statement (.sts h m sz d) := rfl
theorem pref (h : Hdr) (m : MemOp) : Statement (.pref h m) := rfl
theorem ldsp (h : Hdr) (m : MemOp) (sz : Sz) (d : SReg) : Statement (.ldsp h m sz d) := rfl
theorem atomAdd (h : Hdr) (m : MemOp) (ty : ATy) (ret : Bool) (d : VReg) : Statement (.atomAdd h m ty ret d) := rfl
theorem atomSub (h : Hdr) (m : MemOp) (ty : ATy) (ret : Bool) (d : VReg) : Statement (.atomSub h m ty ret d) := rfl
theorem atomMin (h : Hdr) (m : MemOp) (ty : ATy) (ret : Bool) (d : VReg) : Statement (.atomMin h m ty ret d) := rfl
theorem atomMax (h : Hdr) (m : MemOp) (ty : ATy) (ret : Bool) (d : VReg) : Statement (.atomMax h m ty ret d) := rfl
theorem atomAnd (h : Hdr) (m : MemOp) (ty : ATy) (ret : Bool) (d : VReg) : Statement (.atomAnd h m ty ret d) := rfl
theorem atomOr (h : Hdr) (m : MemOp) (ty : ATy) (ret : Bool) (d : VReg) : Statement (.atomOr h m ty ret d) := rfl
theorem atomXor (h : Hdr) (m : MemOp) (ty : ATy) (ret : Bool) (d : VReg) : Statement (.atomXor h m ty ret d) := rfl
theorem atomXchg (h : Hdr) (m : MemOp) (ty : ATy) (ret : Bool) (d : VReg) : Statement (.atomXchg h m ty ret d) := rfl
theorem atomCas (h : Hdr) (m : MemOp) (ty : ATy) (ret : Bool) (d : VReg) : Statement (.atomCas h m ty ret d) := rfl
theorem atomsAdd (h : Hdr) (m : MemOp) (ty : ATy) (ret : Bool) (d : VReg) : Statement (.atomsAdd h m ty ret d) := rfl
theorem atomsSub (h : Hdr) (m : MemOp) (ty : ATy) (ret : Bool) (d : VReg) : Statement (.atomsSub h m ty ret d) := rfl
theorem atomsMin (h : Hdr) (m : MemOp) (ty : ATy) (ret : Bool) (d : VReg) : Statement (.atomsMin h m ty ret d) := rfl
theorem atomsMax (h : Hdr) (m : MemOp) (ty : ATy) (ret : Bool) (d : VReg) : Statement (.atomsMax h m ty ret d) := rfl
theorem atomsAnd (h : Hdr) (m : MemOp) (ty : ATy) (ret : Bool) (d : VReg) : Statement (.atomsAnd h m ty ret d) := rfl
theorem atomsOr (h : Hdr) (m : MemOp) (ty : ATy) (ret : Bool) (d : VReg) : Statement (.atomsOr h m ty ret d) := rfl
theorem atomsXor (h : Hdr) (m : MemOp) (ty : ATy) (ret : Bool) (d : VReg) : Statement (.atomsXor h m ty ret d) := rfl
theorem atomsXchg (h : Hdr) (m : MemOp) (ty : ATy) (ret : Bool) (d : VReg) : Statement (.atomsXchg h m ty ret d) := rfl
theorem atomsCas (h : Hdr) (m : MemOp) (ty : ATy) (ret : Bool) (d : VReg) : Statement (.atomsCas h m ty ret d) := rfl
theorem ldv (h : Hdr) (m : MemOp) (d : VReg) : Statement (.ldv h m d) := rfl
theorem stv (h : Hdr) (m : MemOp) (d : VReg) : Statement (.stv h m d) := rfl
theorem recon (h : Hdr) (m : MemOp) (op : ReconOp) (d : VReg) : Statement (.recon h m op d) := rfl
theorem fence (h : Hdr) (sc : Bool) (scope : Scope) : Statement (.fence h sc scope) := rfl
theorem cacheDrop (h : Hdr) (a : SReg) : Statement (.cacheDrop h a) := rfl
theorem cacheClean (h : Hdr) (a : SReg) : Statement (.cacheClean h a) := rfl
theorem cacheInval (h : Hdr) (a : SReg) : Statement (.cacheInval h a) := rfl
theorem barinit (h : Hdr) (scope : Scope) (d sa : SReg) (off : BitVec 13) : Statement (.barinit h scope d sa off) := rfl
theorem bararr (h : Hdr) (d : PReg) (sa : SReg) (off : BitVec 13) : Statement (.bararr h d sa off) := rfl
theorem barexp (h : Hdr) (d sa : SReg) (off : BitVec 13) : Statement (.barexp h d sa off) := rfl
theorem barwait (h : Hdr) (d sa : SReg) (off : BitVec 13) : Statement (.barwait h d sa off) := rfl
theorem bartest (h : Hdr) (d sa : SReg) (off : BitVec 13) : Statement (.bartest h d sa off) := rfl
theorem bardrop (h : Hdr) (d : PReg) (sa : SReg) (off : BitVec 13) : Statement (.bardrop h d sa off) := rfl
theorem sbar (h : Hdr) (level : SbarLevel) (b : BitVec 5) (a : PReg) : Statement (.sbar h level b a) := rfl
theorem jdecl (h : Hdr) (d : JReg) (a : SReg) : Statement (.jdecl h d a) := rfl
theorem jsign (h : Hdr) (d : JReg) (a : PReg) : Statement (.jsign h d a) := rfl
theorem jwait (h : Hdr) (d : JReg) : Statement (.jwait h d) := rfl
theorem tcfg (h : Hdr) (d : TReg) (a : SReg) : Statement (.tcfg h d a) := rfl
theorem tzero (h : Hdr) (d : TReg) : Statement (.tzero h d) := rfl
theorem tld (h : Hdr) (m : MemOp) (d : TReg) : Statement (.tld h m d) := rfl
theorem tst (h : Hdr) (m : MemOp) (d : TReg) : Statement (.tst h m d) := rfl
theorem mma (h : Hdr) (tier : Tier) (q : Bool) (d : AReg) (a b : TReg) (j : JReg) : Statement (.mma h tier q d a b j) := rfl
theorem accz (h : Hdr) (d : AReg) : Statement (.accz h d) := rfl
theorem accmov (h : Hdr) (d : VReg) (a : AReg) (b : SReg) : Statement (.accmov h d a b) := rfl
theorem accbnd (h : Hdr) (d : VReg) (a : AReg) : Statement (.accbnd h d a) := rfl
theorem accspill (h : Hdr) (a : AReg) (b : SReg) : Statement (.accspill h a b) := rfl
theorem accfill (h : Hdr) (mcode : Bool) (ncode : BitVec 2) (d : AReg) (a : SReg) : Statement (.accfill h mcode ncode d a) := rfl
theorem accld (h : Hdr) (m : MemOp) (d : AReg) : Statement (.accld h m d) := rfl
theorem accst (h : Hdr) (m : MemOp) (d : AReg) : Statement (.accst h m d) := rfl
theorem accstAdd (h : Hdr) (m : MemOp) (d : AReg) : Statement (.accstAdd h m d) := rfl
theorem keycut (h : Hdr) (d sa : SReg) (off : BitVec 13) : Statement (.keycut h d sa off) := rfl
theorem tldk (h : Hdr) (m : MemOp) (d : TReg) : Statement (.tldk h m d) := rfl
theorem keydrop (h : Hdr) (a : SReg) : Statement (.keydrop h a) := rfl
theorem keyq (h : Hdr) (d a : SReg) : Statement (.keyq h d a) := rfl
theorem cpykick (h : Hdr) (queue : BitVec 2) (scope : Scope) (d sa : SReg) (off : BitVec 13) : Statement (.cpykick h queue scope d sa off) := rfl
theorem cpystat (h : Hdr) (d a : SReg) : Statement (.cpystat h d a) := rfl
theorem cpycan (h : Hdr) (a : SReg) : Statement (.cpycan h a) := rfl
theorem rowcpy (h : Hdr) (d a c : SReg) : Statement (.rowcpy h d a c) := rfl
theorem rowfil (h : Hdr) (d a c : SReg) : Statement (.rowfil h d a c) := rfl
theorem rowand (h : Hdr) (d a b c : SReg) : Statement (.rowand h d a b c) := rfl
theorem rowor (h : Hdr) (d a b c : SReg) : Statement (.rowor h d a b c) := rfl
theorem rowxor (h : Hdr) (d a b c : SReg) : Statement (.rowxor h d a b c) := rfl
theorem rownot (h : Hdr) (d a c : SReg) : Statement (.rownot h d a c) := rfl
theorem rowmaj (h : Hdr) (d a b c : SReg) : Statement (.rowmaj h d a b c) := rfl
theorem rowrdx (h : Hdr) (d a c : SReg) : Statement (.rowrdx h d a c) := rfl
theorem rowstat (h : Hdr) (d a : SReg) : Statement (.rowstat h d a) := rfl
theorem trap (h : Hdr) (imm : BitVec 32) : Statement (.trap h imm) := rfl
theorem bkpt (h : Hdr) (n : BitVec 8) : Statement (.bkpt h n) := rfl
theorem rft (h : Hdr) : Statement (.rft h) := rfl
theorem mfsr (h : Hdr) (d : SReg) (x : BitVec 10) : Statement (.mfsr h d x) := rfl
theorem mtsr (h : Hdr) (x : BitVec 10) (a : SReg) : Statement (.mtsr h x a) := rfl
theorem mtsri (h : Hdr) (x : BitVec 10) (imm : BitVec 32) : Statement (.mtsri h x imm) := rfl
theorem firnrd (h : Hdr) (d : SReg) : Statement (.firnrd h d) := rfl
theorem lwait (h : Hdr) (a : SReg) : Statement (.lwait h a) := rfl
theorem seed (h : Hdr) (a b : SReg) : Statement (.seed h a b) := rfl
theorem halt (h : Hdr) : Statement (.halt h) := rfl
theorem frsave (h : Hdr) (a : SReg) : Statement (.frsave h a) := rfl
theorem frload (h : Hdr) (a : SReg) : Statement (.frload h a) := rfl
theorem issueClock (core part : Nat) : Statement (.issueClock core part) := rfl
theorem runBoundary (floe : Nat) : Statement (.runBoundary floe) := rfl
theorem loadResponse (acc unit : Nat) : Statement (.loadResponse acc unit) := rfl
theorem mmaFire (pack join : Nat) : Statement (.mmaFire pack join) := rfl
theorem mmaComplete (pack join : Nat) : Statement (.mmaComplete pack join) := rfl
theorem sleepDeadline (floe : Nat) : Statement (.sleepDeadline floe) := rfl
theorem lwaitDeadline (floe : Nat) : Statement (.lwaitDeadline floe) := rfl
theorem firnSyncBeat (die : Nat) (drift : Int) : Statement (.firnSyncBeat die drift) := rfl
theorem firnSkew (die : Nat) : Statement (.firnSkew die) := rfl
theorem podFirnSample (time : BitVec 64) (trip : Nat) : Statement (.podFirnSample time trip) := rfl
theorem l1LeaseExpiry (core line : Nat) : Statement (.l1LeaseExpiry core line) := rfl
theorem leaseHorizonReached (die line : Nat) : Statement (.leaseHorizonReached die line) := rfl
theorem directoryRecall (line : Nat) : Statement (.directoryRecall line) := rfl
theorem pageWalk (core queue : Nat) (va : BitVec 64) : Statement (.pageWalk core queue va) := rfl
theorem translationLeaseExpiry (core : Nat) (ctx : BitVec 8) (page : Nat) : Statement (.translationLeaseExpiry core ctx page) := rfl
theorem walkAheadRenewal (core queue : Nat) : Statement (.walkAheadRenewal core queue) := rfl
theorem faultQueueEntryWrite : Statement .faultQueueEntryWrite := rfl
theorem fqrespRetry (id : BitVec 16) : Statement (.fqrespRetry id) := rfl
theorem fqrespDeny (id : BitVec 16) : Statement (.fqrespDeny id) := rfl
theorem cpykickQueueEvent (core queue : Nat) : Statement (.cpykickQueueEvent core queue) := rfl
theorem latchRequestStart (core queue : Nat) : Statement (.latchRequestStart core queue) := rfl
theorem latchPieceIssue (core : Nat) : Statement (.latchPieceIssue core) := rfl
theorem latchPieceLand (core piece : Nat) : Statement (.latchPieceLand core piece) := rfl
theorem ldspCopyLand (copy : Nat) : Statement (.ldspCopyLand copy) := rfl
theorem accstAddApply (drain : Nat) : Statement (.accstAddApply drain) := rfl
theorem seracFork (op : Nat) : Statement (.seracFork op) := rfl
theorem seracRowStep (op : Nat) : Statement (.seracRowStep op) := rfl
theorem seracJoin (op : Nat) : Statement (.seracJoin op) := rfl
theorem packSaveComplete (pack : Nat) : Statement (.packSaveComplete pack) := rfl
theorem packPlacement (die : Nat) : Statement (.packPlacement die) := rfl
theorem packRestorePlacement (die : Nat) : Statement (.packRestorePlacement die) := rfl
theorem preempt (floe : Nat) : Statement (.preempt floe) := rfl
theorem sliceExpiry (die : Nat) (ctx : BitVec 8) : Statement (.sliceExpiry die ctx) := rfl
theorem nodeRelease (inst node : Nat) : Statement (.nodeRelease inst node) := rfl
theorem nodeComplete (inst node : Nat) : Statement (.nodeComplete inst node) := rfl
theorem watchdogIssueReport (floe : Nat) : Statement (.watchdogIssueReport floe) := rfl
theorem watchdogStallReport (floe : Nat) : Statement (.watchdogStallReport floe) := rfl
theorem carveOutInterval (core : Nat) : Statement (.carveOutInterval core) := rfl
theorem bankGate (core bank : Nat) : Statement (.bankGate core bank) := rfl
theorem bankReady (core bank : Nat) : Statement (.bankReady core bank) := rfl
theorem powerStateEntry (die : Nat) : Statement (.powerStateEntry die) := rfl
theorem dieWake (die : Nat) : Statement (.dieWake die) := rfl
theorem boostInterval (die : Nat) (claims : BitVec 10) : Statement (.boostInterval die claims) := rfl
theorem permitRefill (die : Nat) : Statement (.permitRefill die) := rfl
theorem moduleReset : Statement .moduleReset := rfl
theorem bootctlWrite (value : BitVec 64) (trained : BitVec 8) (imageOk : Bool) : Statement (.bootctlWrite value trained imageOk) := rfl
theorem bootFull : Statement .bootFull := rfl
theorem eyeMarginLow (stack lane : Nat) (eye : Eye) : Statement (.eyeMarginLow stack lane eye) := rfl
theorem periodicRetrain (stack : Nat) : Statement (.periodicRetrain stack) := rfl
theorem channelWidthChange (stack chan : Nat) (half thermal : Bool) : Statement (.channelWidthChange stack chan half thermal) := rfl
theorem hingeLinkFail (die : Nat) : Statement (.hingeLinkFail die) := rfl
theorem hostCxlMemWrite (addr : Nat) (data : List (BitVec 8)) : Statement (.hostCxlMemWrite addr data) := rfl
theorem hostCxlMemRead (addr size : Nat) : Statement (.hostCxlMemRead addr size) := rfl
theorem hostSnoop (half : Nat) (invalidate : Bool) : Statement (.hostSnoop half invalidate) := rfl
theorem poolBackInvalidate (write : PoolWrite) : Statement (.poolBackInvalidate write) := rfl
theorem peerAccess (peer : BitVec 4) (addr : Nat) (op : PeerOp) : Statement (.peerAccess peer addr op) := rfl
theorem podBarrierArrival (index : Nat) : Statement (.podBarrierArrival index) := rfl
theorem podBarrierCompletion (index : Nat) (gen : BitVec 32) : Statement (.podBarrierCompletion index gen) := rfl
theorem trigger (value : BitVec 64) : Statement (.trigger value) := rfl
theorem ctxctlPreempt (ctx : BitVec 8) : Statement (.ctxctlPreempt ctx) := rfl
theorem ctxctlEnd (ctx : BitVec 8) : Statement (.ctxctlEnd ctx) := rfl
theorem contextEndRelease (ctx : BitVec 8) : Statement (.contextEndRelease ctx) := rfl
theorem eyeactRetrain (stack chan : Nat) : Statement (.eyeactRetrain stack chan) := rfl
theorem eyeactRepair (stack chan lane : Nat) : Statement (.eyeactRepair stack chan lane) := rfl
theorem eyeactHalfWidth (stack chan : Nat) : Statement (.eyeactHalfWidth stack chan) := rfl
theorem eyeactFullWidth (stack chan : Nat) (able : Bool) : Statement (.eyeactFullWidth stack chan able) := rfl
theorem mpolicyWrite (value : BitVec 64) : Statement (.mpolicyWrite value) := rfl
theorem cxlwinWrite (window : Nat) (value : BitVec 64) : Statement (.cxlwinWrite window value) := rfl
theorem hbmmapWrite (value : BitVec 64) : Statement (.hbmmapWrite value) := rfl
theorem mmioRegisterWrite (offset size : Nat) (value : BitVec 64) : Statement (.mmioRegisterWrite offset size value) := rfl
theorem storePerformed (acc unit : Nat) : Statement (.storePerformed acc unit) := rfl
theorem cxlPortTraining (port : Nat) (up : Bool) : Statement (.cxlPortTraining port up) := rfl
theorem hbmRefresh (stack bank : Nat) : Statement (.hbmRefresh stack bank) := rfl

end Sys2Proof.Laws.HasWord
end

