-- ==== Sys2Proof/Laws/Traps.lean ====
section
/-! SUPPORT. What traps do: the causes of words, trap entry, and the report of a halt. -/

namespace Sys2Proof.Machine
open Sys2Proof

/-! ### Causes of words (R302, R304) -/

theorem trapAt_ctx (s : State) (w : Issue) (f : Floe) (r : Run) (h : Hdr) (cause : BitVec 8) (mask : Mask) (addr info : Word) :
    trapAt (ctxOf s w f r h) cause mask addr info = wordTraps s w f r ⟨cause, w.pc, mask, addr, info, false⟩ := rfl

theorem illegalOperand_ctx (s : State) (w : Issue) (f : Floe) (r : Run) (h : Hdr) :
    illegalOperand (ctxOf s w f r h) = wordTraps s w f r (issueTrap w r 0x02) := rfl

theorem illegalShape_ctx (s : State) (w : Issue) (f : Floe) (r : Run) (h : Hdr) :
    illegalShape (ctxOf s w f r h) = wordTraps s w f r (issueTrap w r 0x03) := rfl

/-! ### The report of a halt (R236, R306, R389) -/

theorem reportHalt_sameMemory (s : State) (key : Nat) (f : Floe) (cause : BitVec 8) (hf : Bool) (addr : Word) :
    SameMemory s (reportHalt s key f cause hf addr) := ⟨rfl, rfl, rfl⟩

theorem reportHalt_floes (s : State) (key : Nat) (f : Floe) (cause : BitVec 8) (hf : Bool) (addr : Word) :
    (reportHalt s key f cause hf addr).floes = s.floes := rfl

theorem reportHalt_packs (s : State) (key : Nat) (f : Floe) (cause : BitVec 8) (hf : Bool) (addr : Word) :
    (reportHalt s key f cause hf addr).packs = s.packs := rfl

/-- A report that stands is kept; the interrupt is raised in any case. -/
theorem reportHalt_kept {s : State} (key : Nat) (f : Floe) (cause : BitVec 8) (hf : Bool) (addr : Word)
    (h : s.hub.haltlog &&& logValid ≠ 0) : reportHalt s key f cause hf addr = s.interrupt 19 := by
  unfold reportHalt
  dsimp only
  rw [if_neg h]

/-! ### Trap entry (R305, R306) -/

theorem takeTrap_sameMemory (s : State) (key : Nat) (f : Floe) (t : Trap) (mask : Mask) (prio : BitVec 8) :
    SameMemory s (takeTrap s key f t mask prio) := by
  unfold takeTrap
  split <;> exact ⟨rfl, rfl, rfl⟩

theorem takeTrap_packs (s : State) (key : Nat) (f : Floe) (t : Trap) (mask : Mask) (prio : BitVec 8) :
    (takeTrap s key f t mask prio).packs = s.packs := by
  unfold takeTrap
  split <;> rfl

/-- The floe that a trap leaves: outside handler mode it enters its handler, in handler mode it stops. -/
theorem takeTrap_floe (s : State) (key : Nat) (f : Floe) (t : Trap) (mask : Mask) (prio : BitVec 8) :
    (takeTrap s key f t mask prio).floes = s.floes.put key
      (if f.handler then { f with halted := true } else
        { f with
          xpc := t.pc, xcause := (if t.host then 0x200 else 0) ||| t.cause.setWidth 10, xmask := t.mask, xaddr := t.addr,
          xinfo := t.info, intFrontier := f.frontier, trapPrio := prio, loaded := none, handler := true,
          p := (f.p.set 0 14 mask).set 0 15 f.live,
          frontier := if f.live = 0 then [] else [{ pc := f.xbase, prio := 255, flags := 0, mask := f.live }] }) := by
  unfold takeTrap
  split
  · rfl
  · rfl

end Sys2Proof.Machine
end

