-- ==== Sys2Proof/Tests/Slice0.lean ====
section
/-! SUPPORT. Tests: ill-formed terms that WellFormed refuses, words written from the encoding tables with the instructions that they stand
for, single steps on small states, and for every statement with hypotheses a state and operands that meet them. -/

namespace Sys2Proof.Tests
open Sys2Proof Sys2Proof.Machine

set_option Elab.async false

/-! ### Ill-formed terms, one for each check (R96 to R105 and the operand rules of the chapters) -/

/-- An unguarded header without a marker, and one with it. -/
def hd : Hdr := ⟨false, false, 0⟩
def hs : Hdr := ⟨true, false, 0⟩
/-- An access by lanes at an address register, with no offset register. -/
def at_ (sa : SReg) (off : BitVec 13) : MemOp := ⟨.near, .rlx, .core, sa, 1023, off⟩

/-- None of the terms is well formed, and what their fields would be as a word does not decode to them. -/
def refused (l : List Instr) : Bool := l.all fun i => !i.wf && (encode i).all fun w => decide (decode? w ≠ some i)

theorem test_wf_control : refused
    [.bra hd 0 0, .brc hd 0 1 0, .call hd 0 4 0, .call hs 0 5 0, .brx hs 0 3, .ret hs 0 7, .exit hd, .reconv hd, .yield hd, .trap hd 0,
      .bkpt hd 0, .rft hd, .lwait hd 1, .barwait hd 1 2 0, .jwait hd 1, .mma hd .full false 0 1 2 0] = true := by decide +kernel

theorem test_wf_integer : refused
    [.smulh hd ⟨.s32, true⟩ 1 2 3, .scmp hd .s32 .ltu 1 2 3, .sshli hd 1 64, .sshri hd 1 64, .ssari hd 1 64, .vshli hd 1 32, .vshri hd 1 32,
      .vadd hd ⟨.s64, false⟩ 3 (.v 4) (.v 6), .vadd hd ⟨.s64, false⟩ 2 (.v 5) (.v 6), .vadd hd ⟨.s64, false⟩ 2 (.v 4) (.v 7),
      .vabs hd ⟨.n32, false⟩ 1 (.v 2), .vand hd ⟨.s32, true⟩ 1 (.v 2) (.v 3), .vcmp hd .s32 .geu 1 (.v 2) (.v 3), .vsel hd .n64 2 4 5 1,
      .vmad hd ⟨.n64, false⟩ 2 4 6 9] = true := by decide +kernel

theorem test_wf_pairs : refused
    [.saddSlot false 1 2 (.ssub 5 3), .vaddSlot false .s32 1 2 (.vsub .s32 3 6), .vaddSlot false .s64 1 4 (.smov 1 2), .pmovSlot false 1 2 (.pand 5 3),
      .smovSlot false 1 2 (.fadd .f64 true 2 3)] = true := by decide +kernel

theorem test_wf_float : refused
    [.fadd hd ⟨.f64, .half, .rn, false⟩ 2 (.v 4) (.v 6), .fmul hd ⟨.bf16x2, .quart, .rn, false⟩ 1 (.v 2) (.v 3),
      .fmin hd ⟨.f32, .half, .rn, false⟩ 1 (.v 2) (.v 3), .fmax hd ⟨.f32, .full, .rz, false⟩ 1 (.v 2) (.v 3),
      .fdiv hd ⟨.f32, .quart, .rn, false⟩ 1 (.v 2) (.v 3), .frcp hd ⟨.f32, .full, .ru, false⟩ 1 (.v 2), .fsqrt hd ⟨.f64, .full, .rn, false⟩ 3 (.v 4),
      .fcmp hd .f64 true .eq 1 (.v 3) (.v 4), .fclass hd .f64 true 1 (.v 3)] = true := by decide +kernel

theorem test_wf_conversion : refused
    [.cvt hd ⟨true, false, true, .rz, false⟩ .f16 .f32 1 (.v 2), .cvt hd ⟨true, false, true, .rn, false⟩ .f64 .f32 2 (.v 2),
      .cvt hd ⟨true, false, true, .rn, false⟩ .s8 .s32 1 (.v 2), .cvtpk hd ⟨false, false, true, .rn, false⟩ .f64 .f32 4 (.v 8),
      .cvtpk hd ⟨false, false, true, .rn, false⟩ .e4m3 .f32 4 (.v 9), .cvtpk hd ⟨false, false, true, .rn, false⟩ .f32 .e4m3 5 (.v 8),
      .cvtpk hd ⟨false, false, true, .rn, false⟩ .e4m3 .f32 4 (.s 9)] = true := by decide +kernel

theorem test_wf_lanes : refused
    [.vred hd .f32 .and false 1 2, .vscan hd .s32 .add true 1 2, .vred hd .f64 .add false 1 2, .vrfl hd true 1 3, .vwln hd true 3 1 2,
      .vshfl hd true false 2 3 4, .bget hd true 1 3, .bset hd true 3 1, .bclr hd true 3, .bunb hd true 1, .bmaxr hd true 2 4 5,
      .bchk hd .f64 .abs 1 3] = true := by decide +kernel

theorem test_wf_memory : refused
    [.ld hd (at_ 1 0) .b64 3, .st hd (at_ 1 0) .b128 6, .ldu hd (at_ 1 0) .b128 4, .stu hd ⟨.near, .rlx, .core, 1, 5, 0⟩ .b32 4,
      .lds hd ⟨.mid, .rlx, .core, 1, 1023, 0⟩ .b32 4, .sts hd ⟨.near, .rlx, .die, 1, 1023, 0⟩ .b32 4, .pref hd ⟨.near, .acqRel, .core, 1, 1023, 0⟩,
      .ldsp hd (at_ 1 0) .s8 4, .ldsp hd (at_ 1 0) .s16 4, .ldsp hd ⟨.near, .acqRel, .core, 1, 1023, 0⟩ .b32 4] = true := by decide +kernel

theorem test_wf_atomics : refused
    [.atomAdd hd ⟨.mid, .rlx, .core, 1, 1023, 0⟩ .s32 false 4, .atomAnd hd (at_ 1 0) .f32 false 4, .atomAdd hd (at_ 1 0) .s64 false 5,
      .atomCas hd (at_ 1 0) .n32 false 5, .atomCas hd (at_ 1 0) .n64 false 6, .atomsXchg hd ⟨.near, .rlx, .die, 1, 1023, 0⟩ .n32 false 4,
      .ldv hd (at_ 1 0) 6, .stv hd ⟨.mid, .rlx, .core, 1, 1023, 0⟩ 8, .recon hd (at_ 1 0) .addS64 9] = true := by decide +kernel

theorem test_wf_tiles : refused
    [.tld hd (at_ 3 0) 1, .tst hd ⟨.near, .rlx, .core, 2, 0, 0⟩ 1, .accld hd (at_ 3 0) 1, .accst hd (at_ 3 0) 1, .accstAdd hd (at_ 3 0) 1,
      .accfill hd false 3 1 2, .accfill hd true 2 1 2, .tldk hd (at_ 2 0) 1, .tldk hd (at_ 4 8) 1, .rowmaj hd 1 2 3 5, .mfsr hd 1 0x00A,
      .mtsr hd 0x0A0 1, .mtsri hd 0x108 1] = true := by decide +kernel

theorem test_wf_events : refused
    [.issueClock 320 0, .issueClock 0 4, .firnSyncBeat 8 0, .walkAheadRenewal 0 4, .bankGate 0 16, .eyeMarginLow 16 0 ⟨0, 0⟩, .eyeMarginLow 0 2048 ⟨0, 0⟩,
      .channelWidthChange 0 32 true false, .eyeactRepair 0 0 64, .podBarrierArrival 32, .cxlPortTraining 4 true, .nodeRelease 0 4096,
      .cxlwinWrite 8 0, .periodicRetrain 16, .hbmRefresh 16 0, .dieWake 8] = true := by decide +kernel

/-! ### Decoding: words written from the encoding tables (spec 04, and the opcode table), and words refused by name (R106) -/

/-- Every word decodes to the instruction beside it. -/
def decodesAll (l : List (Word × Instr)) : Bool := l.all fun e => decide (decode? e.1 = some e.2)

theorem test_decode_control :
    decodesAll [
      (0xC02FFF2800000011, .bra ⟨true, true, 5⟩ 40 17),
      (0xC06C042800000011, .brc ⟨true, true, 5⟩ 40 4 17),
      (0xC0AC142800000011, .call ⟨true, true, 5⟩ 40 20 17),
      (0x960D28FFC1EFFFFF, .brx ⟨true, true, 5⟩ 40 30),
      (0x961D28FFC1EFFFFF, .ret ⟨true, true, 5⟩ 40 30),
      (0x962D00FFFFFFFFFF, .exit ⟨true, true, 5⟩),
      (0x963D00FFFFFFFFFF, .nop ⟨true, true, 5⟩),
      (0x964D00FFFFFFFFFF, .reconv ⟨true, true, 5⟩),
      (0x965D4DFFFFFFFFFF, .prio ⟨true, true, 5⟩ 77),
      (0x966D00FFFFFFFFFF, .yield ⟨true, true, 5⟩),
      (0xC12FFF0000000011, .sleep ⟨true, true, 5⟩ 17)] = true := by decide +kernel

theorem test_decode_uniform :
    decodesAll [
      (0x800D4000C18017FF, .sadd ⟨true, true, 5⟩ ⟨.n32, false⟩ 3 24 5),
      (0x801D4000C18017FF, .ssub ⟨true, true, 5⟩ ⟨.n32, false⟩ 3 24 5),
      (0x802D4000C18017FF, .smul ⟨true, true, 5⟩ ⟨.n32, false⟩ 3 24 5),
      (0x803D4000C18017FF, .smulh ⟨true, true, 5⟩ ⟨.n32, false⟩ 3 24 5),
      (0x804D4000C1801406, .smad ⟨true, true, 5⟩ ⟨.n32, false⟩ 3 24 5 6),
      (0x805D4000C18017FF, .sand ⟨true, true, 5⟩ ⟨.n32, false⟩ 3 24 5),
      (0x806D4000C18017FF, .sor ⟨true, true, 5⟩ ⟨.n32, false⟩ 3 24 5),
      (0x807D4000C18017FF, .sxor ⟨true, true, 5⟩ ⟨.n32, false⟩ 3 24 5),
      (0x808D4000C18FFFFF, .snot ⟨true, true, 5⟩ ⟨.n32, false⟩ 3 24),
      (0x809D4000C18017FF, .sshl ⟨true, true, 5⟩ ⟨.n32, false⟩ 3 24 5),
      (0x80AD4000C18017FF, .sshr ⟨true, true, 5⟩ ⟨.n32, false⟩ 3 24 5),
      (0x80BD4000C18017FF, .ssar ⟨true, true, 5⟩ ⟨.n32, false⟩ 3 24 5),
      (0x80CD4000C18017FF, .smin ⟨true, true, 5⟩ ⟨.n32, false⟩ 3 24 5),
      (0x80DD4000C18017FF, .smax ⟨true, true, 5⟩ ⟨.n32, false⟩ 3 24 5),
      (0x80ED4300818017FF, .scmp ⟨true, true, 5⟩ .n32 .le 2 24 5),
      (0x80FD4000C1801406, .ssel ⟨true, true, 5⟩ ⟨.n32, false⟩ 3 24 5 6),
      (0x810D4000C18FFFFF, .smov ⟨true, true, 5⟩ ⟨.n32, false⟩ 3 24),
      (0x811D4000C18FFFFF, .sclz ⟨true, true, 5⟩ ⟨.n32, false⟩ 3 24),
      (0x812D4000C18FFFFF, .spopc ⟨true, true, 5⟩ ⟨.n32, false⟩ 3 24),
      (0x813D4000C18017FF, .sbfe ⟨true, true, 5⟩ ⟨.n32, false⟩ 3 24 5)] = true := by decide +kernel

theorem test_decode_uniform_immediate :
    decodesAll [
      (0xC42C030000000011, .smovi ⟨true, true, 5⟩ 3 17),
      (0xC46C030000000011, .smovih ⟨true, true, 5⟩ 3 17),
      (0xC4AC030000000011, .saddi ⟨true, true, 5⟩ 3 17),
      (0xC4EC030000000011, .sandi ⟨true, true, 5⟩ 3 17),
      (0xC52C030000000011, .sori ⟨true, true, 5⟩ 3 17),
      (0xC56C030000000011, .sxori ⟨true, true, 5⟩ 3 17),
      (0xC5AC030000000011, .sshli ⟨true, true, 5⟩ 3 17),
      (0xC5EC030000000011, .sshri ⟨true, true, 5⟩ 3 17),
      (0xC62C030000000011, .ssari ⟨true, true, 5⟩ 3 17),
      (0xC6AC030000000011, .smuli ⟨true, true, 5⟩ 3 17),
      (0xC66C037800000011, .scmpi ⟨true, true, 5⟩ .ltu 7 3 17)] = true := by decide +kernel

theorem test_decode_uniform_slot :
    decodesAll [
      (0xA600050190005009, .saddSlot true 20 9 (.pand 5 6)),
      (0xA600050190805009, .ssubSlot true 20 9 (.pand 5 6)),
      (0xA600050191005009, .sandSlot true 20 9 (.pand 5 6)),
      (0xA600050191805009, .sorSlot true 20 9 (.pand 5 6)),
      (0xA600050192005009, .sxorSlot true 20 9 (.pand 5 6)),
      (0xA600050192805009, .smovSlot true 20 9 (.pand 5 6)),
      (0xA600050193005009, .sshlSlot true 20 9 (.pand 5 6)),
      (0xA600050193805009, .sshrSlot true 20 9 (.pand 5 6))] = true := by decide +kernel

theorem test_decode_predicate :
    decodesAll [
      (0x840D000080902FFF, .pand ⟨true, true, 5⟩ 2 9 11),
      (0x841D000080902FFF, .por ⟨true, true, 5⟩ 2 9 11),
      (0x842D000080902FFF, .pxor ⟨true, true, 5⟩ 2 9 11),
      (0x843D000080902FFF, .pandn ⟨true, true, 5⟩ 2 9 11),
      (0x844D0000809FFFFF, .pnot ⟨true, true, 5⟩ 2 9),
      (0x845D0000809FFFFF, .pmov ⟨true, true, 5⟩ 2 9),
      (0x846D0000818FFFFF, .pset ⟨true, true, 5⟩ 2 24),
      (0x847D0000C09FFFFF, .pget ⟨true, true, 5⟩ 3 9),
      (0x848D0000C09FFFFF, .ppopc ⟨true, true, 5⟩ 3 9),
      (0x849D0000C09FFFFF, .pfirst ⟨true, true, 5⟩ 3 9),
      (0xA400050198000809, .pandSlot true 2 9 (.sadd 5 6)),
      (0xA400050198800809, .porSlot true 2 9 (.sadd 5 6)),
      (0xA400050199000809, .pmovSlot true 2 9 (.sadd 5 6))] = true := by decide +kernel

theorem test_decode_vector_int :
    decodesAll [
      (0x860D4005008033FF, .vadd ⟨true, true, 5⟩ ⟨.n32, false⟩ 20 (.v 8) (.v 12)),
      (0x861D4005008033FF, .vsub ⟨true, true, 5⟩ ⟨.n32, false⟩ 20 (.v 8) (.v 12)),
      (0x862D4005008033FF, .vmul ⟨true, true, 5⟩ ⟨.n32, false⟩ 20 (.v 8) (.v 12)),
      (0x863D4005008033FF, .vmulh ⟨true, true, 5⟩ ⟨.n32, false⟩ 20 (.v 8) (.v 12)),
      (0x864D400500803010, .vmad ⟨true, true, 5⟩ ⟨.n32, false⟩ 20 8 12 16),
      (0x865DA005008FFFFF, .vabs ⟨true, true, 5⟩ ⟨.s64, true⟩ 20 (.v 8)),
      (0x866D4005008FFFFF, .vneg ⟨true, true, 5⟩ ⟨.n32, false⟩ 20 (.v 8)),
      (0x867D4005008033FF, .vmin ⟨true, true, 5⟩ ⟨.n32, false⟩ 20 (.v 8) (.v 12)),
      (0x868D4005008033FF, .vmax ⟨true, true, 5⟩ ⟨.n32, false⟩ 20 (.v 8) (.v 12)),
      (0x869D4005008033FF, .vand ⟨true, true, 5⟩ ⟨.n32, false⟩ 20 (.v 8) (.v 12)),
      (0x86AD4005008033FF, .vor ⟨true, true, 5⟩ ⟨.n32, false⟩ 20 (.v 8) (.v 12)),
      (0x86BD4005008033FF, .vxor ⟨true, true, 5⟩ ⟨.n32, false⟩ 20 (.v 8) (.v 12)),
      (0x86CD4005008FFFFF, .vnot ⟨true, true, 5⟩ ⟨.n32, false⟩ 20 (.v 8)),
      (0x86DD4005008033FF, .vshl ⟨true, true, 5⟩ ⟨.n32, false⟩ 20 (.v 8) (.v 12)),
      (0x86ED4005008033FF, .vshr ⟨true, true, 5⟩ ⟨.n32, false⟩ 20 (.v 8) (.v 12)),
      (0x86FD4005008033FF, .vsar ⟨true, true, 5⟩ ⟨.n32, false⟩ 20 (.v 8) (.v 12)),
      (0x870D4005008FFFFF, .vclz ⟨true, true, 5⟩ ⟨.n32, false⟩ 20 (.v 8)),
      (0x871D4005008FFFFF, .vpopc ⟨true, true, 5⟩ ⟨.n32, false⟩ 20 (.v 8)),
      (0x872D4005008033FF, .vbfe ⟨true, true, 5⟩ ⟨.n32, false⟩ 20 (.v 8) (.v 12)),
      (0x873D400500803010, .vbfi ⟨true, true, 5⟩ ⟨.n32, false⟩ 20 8 12 16)] = true := by decide +kernel

theorem test_decode_vector_move :
    decodesAll [
      (0x874D4300808033FF, .vcmp ⟨true, true, 5⟩ .n32 .le 2 (.v 8) (.v 12)),
      (0x875D40050080300D, .vsel ⟨true, true, 5⟩ .n32 20 8 12 13),
      (0x876D4005008FFFFF, .vmov ⟨true, true, 5⟩ ⟨.n32, false⟩ 20 (.v 8)),
      (0xCC2C140000000011, .vmovi ⟨true, true, 5⟩ 20 17),
      (0xCC6C140000000011, .vaddi ⟨true, true, 5⟩ 20 17),
      (0xCCAC140000000011, .vandi ⟨true, true, 5⟩ 20 17),
      (0xCCEC140000000011, .vori ⟨true, true, 5⟩ 20 17),
      (0xCD2C140000000011, .vshli ⟨true, true, 5⟩ 20 17),
      (0xCD6C140000000011, .vshri ⟨true, true, 5⟩ 20 17),
      (0xCDAC140000000011, .fmovi ⟨true, true, 5⟩ 20 17)] = true := by decide +kernel

theorem test_decode_vector_slot :
    decodesAll [
      (0xA600050180205009, .vaddSlot true .n32 20 9 (.pand 5 6)),
      (0xA600050180A05009, .vsubSlot true .n32 20 9 (.pand 5 6)),
      (0xA600050181205009, .vmulSlot true .n32 20 9 (.pand 5 6)),
      (0xA600050181A05009, .vandSlot true .n32 20 9 (.pand 5 6)),
      (0xA600050182205009, .vorSlot true .n32 20 9 (.pand 5 6)),
      (0xA600050182A05009, .vxorSlot true .n32 20 9 (.pand 5 6)),
      (0xA600050183205009, .vminSlot true .n32 20 9 (.pand 5 6)),
      (0xA600050183A05009, .vmaxSlot true .n32 20 9 (.pand 5 6)),
      (0xA600050184205009, .vmovSlot true .n32 20 9 (.pand 5 6)),
      (0xA600050184A05009, .vshlSlot true .n32 20 9 (.pand 5 6)),
      (0xA600050185205009, .vshrSlot true .n32 20 9 (.pand 5 6))] = true := by decide +kernel

theorem test_decode_float :
    decodesAll [
      (0x8A0DAD05008033FF, .fadd ⟨true, true, 5⟩ ⟨.f16x2, .half, .rd, true⟩ 20 (.v 8) (.v 12)),
      (0x8A1DAD05008033FF, .fsub ⟨true, true, 5⟩ ⟨.f16x2, .half, .rd, true⟩ 20 (.v 8) (.v 12)),
      (0x8A2DAD05008033FF, .fmul ⟨true, true, 5⟩ ⟨.f16x2, .half, .rd, true⟩ 20 (.v 8) (.v 12)),
      (0x8A3DAF0500803010, .ffma ⟨true, true, 5⟩ ⟨.f16x2, .half, .rd, true⟩ true 20 8 12 16),
      (0x8A4D9105008033FF, .fmin ⟨true, true, 5⟩ ⟨.f16x2, .full, .rn, true⟩ 20 (.v 8) (.v 12)),
      (0x8A5D9105008033FF, .fmax ⟨true, true, 5⟩ ⟨.f16x2, .full, .rn, true⟩ 20 (.v 8) (.v 12)),
      (0x8A6D9105008FFFFF, .fabs ⟨true, true, 5⟩ ⟨.f16x2, .full, .rn, true⟩ 20 (.v 8)),
      (0x8A7D9105008FFFFF, .fneg ⟨true, true, 5⟩ ⟨.f16x2, .full, .rn, true⟩ 20 (.v 8)),
      (0x8A8D9C00808033FF, .fcmp ⟨true, true, 5⟩ .f16x2 true .ueq 2 (.v 8) (.v 12)),
      (0x8A9D9005008FFFFF, .fclass ⟨true, true, 5⟩ .f16x2 true 20 (.v 8)),
      (0x8ADD9D05008033FF, .fdiv ⟨true, true, 5⟩ ⟨.f16x2, .full, .rd, true⟩ 20 (.v 8) (.v 12)),
      (0x8ACD9D05008FFFFF, .fsqrt ⟨true, true, 5⟩ ⟨.f16x2, .full, .rd, true⟩ 20 (.v 8)),
      (0x8AAD9105008FFFFF, .frcp ⟨true, true, 5⟩ ⟨.f16x2, .full, .rn, true⟩ 20 (.v 8)),
      (0x8ABD9105008FFFFF, .frsq ⟨true, true, 5⟩ ⟨.f16x2, .full, .rn, true⟩ 20 (.v 8)),
      (0x8AED9105008FFFFF, .fexp2 ⟨true, true, 5⟩ ⟨.f16x2, .full, .rn, true⟩ 20 (.v 8)),
      (0x8AFD9105008FFFFF, .flog2 ⟨true, true, 5⟩ ⟨.f16x2, .full, .rn, true⟩ 20 (.v 8)),
      (0x8B0D9D05008033FF, .fldexp ⟨true, true, 5⟩ ⟨.f16x2, .full, .rd, true⟩ 20 (.v 8) (.v 12)),
      (0x8B1D9D05008FFFFF, .frnd ⟨true, true, 5⟩ ⟨.f16x2, .full, .rd, true⟩ 20 (.v 8))] = true := by decide +kernel

theorem test_decode_float_slot :
    decodesAll [
      (0xA600050188105009, .faddSlot true .f32 true 20 9 (.pand 5 6)),
      (0xA600050188905009, .fsubSlot true .f32 true 20 9 (.pand 5 6)),
      (0xA600050189105009, .fmulSlot true .f32 true 20 9 (.pand 5 6)),
      (0xA600050189905009, .fminSlot true .f32 true 20 9 (.pand 5 6)),
      (0xA60005018A105009, .fmaxSlot true .f32 true 20 9 (.pand 5 6))] = true := by decide +kernel

theorem test_decode_conversion :
    decodesAll [
      (0x8E0D5905008113FF, .cvt ⟨true, true, 5⟩ ⟨false, true, true, .ru, true⟩ .e4m3 .f16 20 (.v 8)),
      (0x8E1D5905008113FF, .cvtpk ⟨true, true, 5⟩ ⟨false, true, true, .ru, true⟩ .e4m3 .f16 20 (.v 8)),
      (0x8E2D1005008FFC07, .mxscale ⟨true, true, 5⟩ true .e3m2 20 8),
      (0x8E3DD30500803007, .mxq ⟨true, true, 5⟩ true true true true true .e3m2 20 8 12),
      (0x8E4D130500803007, .mxdq ⟨true, true, 5⟩ true true true .e3m2 20 8 12)] = true := by decide +kernel

theorem test_decode_cross_lane :
    decodesAll [
      (0x8F0D4000C08FFFFF, .vrfl ⟨true, true, 5⟩ true 3 8),
      (0x8F1D4000C08017FF, .vrln ⟨true, true, 5⟩ true 3 8 5),
      (0x8F2D4005018017FF, .vwln ⟨true, true, 5⟩ true 20 24 5),
      (0x8F3D4005008017FF, .vbcst ⟨true, true, 5⟩ true 20 8 5),
      (0x8F4D5005008033FF, .vshfl ⟨true, true, 5⟩ true true 20 8 12),
      (0x8F5D6005008017FF, .vrot ⟨true, true, 5⟩ true 2 20 8 5),
      (0x8F6D8905008FFFFF, .vred ⟨true, true, 5⟩ .f32 .max true 20 8),
      (0x8F7D8905008FFFFF, .vscan ⟨true, true, 5⟩ .f32 .max true 20 8),
      (0x8F8D0200809FFFFF, .vvote ⟨true, true, 5⟩ .uni 2 9),
      (0x8F9D01053FFFFFFF, .vlane ⟨true, true, 5⟩ true 20)] = true := by decide +kernel

theorem test_decode_rime :
    decodesAll [
      (0x910D4005008FFFFF, .bget ⟨true, true, 5⟩ true 20 8),
      (0x911D4005008FFFFF, .bset ⟨true, true, 5⟩ true 20 8),
      (0x912D40053FFFFFFF, .bclr ⟨true, true, 5⟩ true 20),
      (0x914D40053FFFFFFF, .bunb ⟨true, true, 5⟩ true 20),
      (0x913D4005008033FF, .bmaxr ⟨true, true, 5⟩ true 20 8 12),
      (0x915D8100808FFFFF, .bchk ⟨true, true, 5⟩ .f16x2 .rel 2 8),
      (0x916D00FFC18FFFFF, .bud ⟨true, true, 5⟩ 24),
      (0xD06FFF0000000011, .budi ⟨true, true, 5⟩ 17)] = true := by decide +kernel

theorem test_decode_memory :
    decodesAll [
      (0xE034141006336040, .ld ⟨true, true, 5⟩ ⟨.mid, .sc, .pkg, 8, 12, 64⟩ .s16 20),
      (0xE074141006336040, .st ⟨true, true, 5⟩ ⟨.mid, .sc, .pkg, 8, 12, 64⟩ .s16 20),
      (0xE0B40311FFB36040, .ldu ⟨true, true, 5⟩ ⟨.mid, .sc, .pkg, 8, 1023, 64⟩ .s16 3),
      (0xE0F40311FFB36040, .stu ⟨true, true, 5⟩ ⟨.mid, .sc, .pkg, 8, 1023, 64⟩ .s16 3),
      (0xE234141006106040, .lds ⟨true, true, 5⟩ ⟨.near, .sc, .core, 8, 12, 64⟩ .s16 20),
      (0xE274141006106040, .sts ⟨true, true, 5⟩ ⟨.near, .sc, .core, 8, 12, 64⟩ .s16 20),
      (0xE137FF1006230040, .pref ⟨true, true, 5⟩ ⟨.mid, .rlx, .pkg, 8, 12, 64⟩),
      (0xE174031006238040, .ldsp ⟨true, true, 5⟩ ⟨.mid, .rlx, .pkg, 8, 12, 64⟩ .b32 3)] = true := by decide +kernel

theorem test_decode_atomic :
    decodesAll [
      (0xE434141006338040, .atomAdd ⟨true, true, 5⟩ ⟨.near, .sc, .pkg, 8, 12, 64⟩ .n64 false 20),
      (0xE474141006338040, .atomSub ⟨true, true, 5⟩ ⟨.near, .sc, .pkg, 8, 12, 64⟩ .n64 false 20),
      (0xE4B4141006338040, .atomMin ⟨true, true, 5⟩ ⟨.near, .sc, .pkg, 8, 12, 64⟩ .n64 false 20),
      (0xE4F4141006338040, .atomMax ⟨true, true, 5⟩ ⟨.near, .sc, .pkg, 8, 12, 64⟩ .n64 false 20),
      (0xE534141006338040, .atomAnd ⟨true, true, 5⟩ ⟨.near, .sc, .pkg, 8, 12, 64⟩ .n64 false 20),
      (0xE574141006338040, .atomOr ⟨true, true, 5⟩ ⟨.near, .sc, .pkg, 8, 12, 64⟩ .n64 false 20),
      (0xE5B4141006338040, .atomXor ⟨true, true, 5⟩ ⟨.near, .sc, .pkg, 8, 12, 64⟩ .n64 false 20),
      (0xE5F4141006338040, .atomXchg ⟨true, true, 5⟩ ⟨.near, .sc, .pkg, 8, 12, 64⟩ .n64 false 20),
      (0xE634141006332040, .atomCas ⟨true, true, 5⟩ ⟨.near, .sc, .pkg, 8, 12, 64⟩ .n32 false 20)] = true := by decide +kernel

theorem test_decode_scratchpad_atomic :
    decodesAll [
      (0xE834141006308040, .atomsAdd ⟨true, true, 5⟩ ⟨.near, .sc, .core, 8, 12, 64⟩ .n64 false 20),
      (0xE874141006308040, .atomsSub ⟨true, true, 5⟩ ⟨.near, .sc, .core, 8, 12, 64⟩ .n64 false 20),
      (0xE8B4141006308040, .atomsMin ⟨true, true, 5⟩ ⟨.near, .sc, .core, 8, 12, 64⟩ .n64 false 20),
      (0xE8F4141006308040, .atomsMax ⟨true, true, 5⟩ ⟨.near, .sc, .core, 8, 12, 64⟩ .n64 false 20),
      (0xE934141006308040, .atomsAnd ⟨true, true, 5⟩ ⟨.near, .sc, .core, 8, 12, 64⟩ .n64 false 20),
      (0xE974141006308040, .atomsOr ⟨true, true, 5⟩ ⟨.near, .sc, .core, 8, 12, 64⟩ .n64 false 20),
      (0xE9B4141006308040, .atomsXor ⟨true, true, 5⟩ ⟨.near, .sc, .core, 8, 12, 64⟩ .n64 false 20),
      (0xE9F4141006308040, .atomsXchg ⟨true, true, 5⟩ ⟨.near, .sc, .core, 8, 12, 64⟩ .n64 false 20),
      (0xEA34141006302040, .atomsCas ⟨true, true, 5⟩ ⟨.near, .sc, .core, 8, 12, 64⟩ .n32 false 20)] = true := by decide +kernel

theorem test_decode_moraine_and_cache :
    decodesAll [
      (0xEC3414100613A040, .ldv ⟨true, true, 5⟩ ⟨.near, .sc, .pkg, 8, 12, 64⟩ 20),
      (0xEC7414100613A040, .stv ⟨true, true, 5⟩ ⟨.near, .sc, .pkg, 8, 12, 64⟩ 20),
      (0xECB4141006330040, .recon ⟨true, true, 5⟩ ⟨.near, .sc, .pkg, 8, 12, 64⟩ .last 20),
      (0x973D14FFFFFFFFFF, .fence ⟨true, true, 5⟩ true .sys),
      (0x974D00FFC18FFFFF, .cacheDrop ⟨true, true, 5⟩ 24),
      (0x974D01FFC18FFFFF, .cacheClean ⟨true, true, 5⟩ 24),
      (0x974D02FFC18FFFFF, .cacheInval ⟨true, true, 5⟩ 24)] = true := by decide +kernel

theorem test_decode_barrier :
    decodesAll [
      (0xEE340311FF840040, .barinit ⟨true, true, 5⟩ .sys 3 8 0x40),
      (0xEE740411FF800040, .bararr ⟨true, true, 5⟩ 4 8 0x40),
      (0xEEB40311FF800040, .barexp ⟨true, true, 5⟩ 3 8 0x40),
      (0xEEF40311FF800040, .barwait ⟨true, true, 5⟩ 3 8 0x40),
      (0xEF340311FF800040, .bartest ⟨true, true, 5⟩ 3 8 0x40),
      (0xEF740411FF800040, .bardrop ⟨true, true, 5⟩ 4 8 0x40),
      (0x975D4BFFC09FFFFF, .sbar ⟨true, true, 5⟩ .pkg 9 9),
      (0x928D0000C18FFFFF, .jdecl ⟨true, true, 5⟩ 3 24),
      (0x929D0000C09FFFFF, .jsign ⟨true, true, 5⟩ 3 9),
      (0x92AD0000FFFFFFFF, .jwait ⟨true, true, 5⟩ 3)] = true := by decide +kernel

theorem test_decode_tile :
    decodesAll [
      (0x926D0000818FFFFF, .tcfg ⟨true, true, 5⟩ 2 24),
      (0x927D0000BFFFFFFF, .tzero ⟨true, true, 5⟩ 2),
      (0xF0340B11FFB30040, .tld ⟨true, true, 5⟩ ⟨.mid, .sc, .pkg, 8, 1023, 64⟩ 11),
      (0xF0740B11FFB30040, .tst ⟨true, true, 5⟩ ⟨.mid, .sc, .pkg, 8, 1023, 64⟩ 11),
      (0x920D310040902C05, .mma ⟨true, true, 5⟩ .quart true 1 9 11 5),
      (0x921D00007FFFFFFF, .accz ⟨true, true, 5⟩ 1),
      (0x922D0005006017FF, .accmov ⟨true, true, 5⟩ 20 6 5),
      (0x923D0005006FFFFF, .accbnd ⟨true, true, 5⟩ 20 6),
      (0x924D00FFC06017FF, .accspill ⟨true, true, 5⟩ 6 5),
      (0x925D0500418FFFFF, .accfill ⟨true, true, 5⟩ true 1 1 24),
      (0xF0F40611FFB30040, .accld ⟨true, true, 5⟩ ⟨.mid, .sc, .pkg, 8, 1023, 64⟩ 6),
      (0xF1340611FFB30040, .accst ⟨true, true, 5⟩ ⟨.mid, .sc, .pkg, 8, 1023, 64⟩ 6),
      (0xF1340611FFB32040, .accstAdd ⟨true, true, 5⟩ ⟨.mid, .sc, .pkg, 8, 1023, 64⟩ 6)] = true := by decide +kernel

theorem test_decode_key :
    decodesAll [
      (0xF1740311FF800040, .keycut ⟨true, true, 5⟩ 3 8 0x40),
      (0xF0B40B11FF800000, .tldk ⟨true, true, 5⟩ ⟨.near, .rlx, .core, 8, 1023, 0⟩ 11),
      (0x92BD00FFC18FFFFF, .keydrop ⟨true, true, 5⟩ 24),
      (0x92CD0000C18FFFFF, .keyq ⟨true, true, 5⟩ 3 24)] = true := by decide +kernel

theorem test_decode_latch :
    decodesAll [
      (0xF2340311FF844040, .cpykick ⟨true, true, 5⟩ 2 .sys 3 8 0x40),
      (0x971D0000C18FFFFF, .cpystat ⟨true, true, 5⟩ 3 24),
      (0x972D00FFC18FFFFF, .cpycan ⟨true, true, 5⟩ 24)] = true := by decide +kernel

theorem test_decode_serac :
    decodesAll [
      (0x940D0000C18FFC06, .rowcpy ⟨true, true, 5⟩ 3 24 6),
      (0x941D0000C18FFC06, .rowfil ⟨true, true, 5⟩ 3 24 6),
      (0x942D0000C1801406, .rowand ⟨true, true, 5⟩ 3 24 5 6),
      (0x943D0000C1801406, .rowor ⟨true, true, 5⟩ 3 24 5 6),
      (0x944D0000C1801406, .rowxor ⟨true, true, 5⟩ 3 24 5 6),
      (0x945D0000C18FFC06, .rownot ⟨true, true, 5⟩ 3 24 6),
      (0x946D0000C1801406, .rowmaj ⟨true, true, 5⟩ 3 24 5 6),
      (0x947D0000C18FFC06, .rowrdx ⟨true, true, 5⟩ 3 24 6),
      (0x948D0000C18FFFFF, .rowstat ⟨true, true, 5⟩ 3 24)] = true := by decide +kernel

theorem test_decode_system :
    decodesAll [
      (0xC0EFFF0000000011, .trap ⟨true, true, 5⟩ 17),
      (0x96ED4DFFFFFFFFFF, .bkpt ⟨true, true, 5⟩ 77),
      (0x967D00FFFFFFFFFF, .rft ⟨true, true, 5⟩),
      (0x968D0000C21FFFFF, .mfsr ⟨true, true, 5⟩ 3 0x21),
      (0x969D0008418FFFFF, .mtsr ⟨true, true, 5⟩ 0x21 24),
      (0xD02C210000000011, .mtsri ⟨true, true, 5⟩ 0x21 17),
      (0x96AD0000FFFFFFFF, .firnrd ⟨true, true, 5⟩ 3),
      (0x96BD00FFC18FFFFF, .lwait ⟨true, true, 5⟩ 24),
      (0x96CD00FFC18017FF, .seed ⟨true, true, 5⟩ 24 5),
      (0x96DD00FFFFFFFFFF, .halt ⟨true, true, 5⟩),
      (0x96FD00FFC18FFFFF, .frsave ⟨true, true, 5⟩ 24),
      (0x970D00FFC18FFFFF, .frload ⟨true, true, 5⟩ 24)] = true := by decide +kernel

/-- The word raises the cause and decodes to nothing. -/
def refuses (w : Word) (x : DecodeError) : Bool :=
  match decode w with
  | .ok _ => false
  | .error y => decide (y = x)

/-- BRA with S = 0; OP9 0x1FF of the F form; two slots whose D, then whose A, are equal modulo 4; a reserved bit of MOD, Y = 1 of a P word, and an
odd register of a 64-bit type. -/
theorem test_decode_refusals :
    (refuses 0x402FFF2800000011 .runControl && refuses 0x1FF0000000000000 .illegalOpcode && refuses 0xA204080340001008 .pairBank &&
      refuses 0xA204090300001008 .pairBank && refuses 0x800D4100C18017FF .illegalOperand && refuses 0xB204090340001008 .illegalOpcode &&
      refuses 0x06008001406027FE .illegalOperand) = true := by decide +kernel

end Sys2Proof.Tests
end

