-- ==== Sys2Proof/Tests/Witness.lean ====
section
/-! SUPPORT. For every statement with hypotheses, a state and operands that meet them all together: one theorem for each statement, with a
part for each of its clauses, at a boundary of its range where it has one. -/

namespace Sys2Proof.Tests
open Sys2Proof Sys2Proof.Machine

set_option Elab.async false

/-! ### A floe that issues a word -/

/-- A run of the lanes of a mask at the loaded program's first word. -/
def runOf (mask : Mask) : Run :=
  { mask := mask, began := mask, prio := 255, pc := 0x30000, count := 0, number := 0, ended := false, held := false, slept := false, yielded := false,
    halt := none, sync := 0, sbar := 0, denied := 0, deniedFetch := 0, vOld := [], sOld := [], pOld := [], sysOld := (Floe.placed loadDesc 0 0 0 0 0 0).sys, trap := none, late := none }

/-- The loaded program's floe in that run. -/
def floeOf (mask : Mask) : Floe :=
  { Floe.placed loadDesc 0 0 0 0 0 loadDesc.saveBase with frontier := [], run := some (runOf mask) }

/-- The issue of the word; the statements are about states, so the word itself is any. -/
def issued : Issue := ⟨0, 0x30000, 0, 1⟩

/-- Its pack, with every tile and accumulator and one bank. -/
def pack0 : Pack :=
  { id := ⟨0, 0, 0⟩, x := 0, y := 0, z := 0, ctx := 0, nfloes := 1, stats := [.resident], arrivals := [0], tiles := List.range 16,
    accs := List.range 8, tshape := Vector.replicate 16 0, shapeOld := [], joins := Vector.replicate 8 Join.idle, mmas := [], banks := [0],
    spmin := 1, spmax := 1, saveSlot := 0, pbase := 0x1000000, saving := false, ending := false, restores := [0], kept := [Kept.none], placedAt := 0 }

/-- A state in which that floe issues. -/
def base : State :=
  { State.reset.loadTables.loadFloe with issue := [], fresh := 2, floes := [], packs := [(0, pack0)], issuing := some issued }
def with_ (f : Floe) : State := { base with floes := [(0, f)] }
def packed (p : Pack) (s : State) : State := { s with packs := [(0, p)] }

/-- A word issues at s in a way that P holds of. -/
def Here (s : State) (P : Issue → Floe → Run → Prop) : Prop := ∃ w f r, Issues s w f r ∧ P w f r

theorem here {s : State} {f : Floe} {r : Run} {P : Issue → Floe → Run → Prop} (hw : s.issuing = some issued) (hf : s.floes.find? 0 = some f)
    (hr : f.run = some r) (hp : P issued f r) : Here s P := ⟨issued, f, r, ⟨hw, hf, hr⟩, hp⟩

/-- All lanes, and one lane: lane 63. -/
def all64 : Floe := floeOf allLanes
def lane63 : Floe := floeOf 0x8000000000000000

/-- A guard that excludes every lane: the complement of p0. -/
def off : Hdr := ⟨false, true, 0⟩

/-! ### Uniform registers and predicates -/

/-- Words that may issue at a state, with a lane in ACTIVE and without. -/
def Runs (s : State) (h : Hdr) (act : Bool) (l : List Instr) : Prop :=
  Here s fun w f r => (activeOf w f r h ≠ 0 ↔ act = true) ∧ ∀ i ∈ l, operandsOk s f i = true

/-- Every row with D = s127, with D = s0, and with no lane in ACTIVE. -/
theorem witness_UniformAluResults :
    let rows (h : Hdr) (m : IntMod) (d a b e : SReg) : List Instr :=
      [.sadd h m d a b, .ssub h m d a b, .smul h m d a b, .smulh h m d a b, .smad h m d a b e, .sand h m d a b, .sor h m d a b, .sxor h m d a b,
        .snot h m d a, .sshl h m d a b, .sshr h m d a b, .ssar h m d a b, .smin h m d a b, .smax h m d a b, .ssel h m d a b e, .smov h m d a,
        .sclz h m d a, .spopc h m d a, .sbfe h m d a b]
    Runs (with_ all64) hd true (rows hd ⟨.s32, false⟩ 127 126 125 124) ∧ Runs (with_ all64) hd true (rows hd ⟨.n64, false⟩ 0 1 0 1) ∧
      Runs (with_ all64) off false (rows off ⟨.s64, false⟩ 127 1 2 3) ∧ Runs (with_ all64) hd true [.sadd hd ⟨.s32, true⟩ 1 2 3] := by
  and_intros <;> exact here rfl rfl rfl (by decide +kernel)

theorem real_one : (fmtOf .f32).real 0x3F800000 = 1 := by
  rw [FFmt.real, show ((fmtOf .f32).decode 0x3F800000).dy = ⟨8388608, -23⟩ by decide +kernel]
  norm_num [Dy.real]

/-- The ends of the range, one below it and one above it; a bit of an extracted field and of an inserted one; a magnitude; finite
operands, the greatest, the least and 1 among them; source and destination formats. -/
theorem witness_ResultRules :
    (intMin 32 true ≤ -2147483648 ∧ (-2147483648 : Int) ≤ intMax 32 true) ∧ (intMin 32 true ≤ 2147483647 ∧ (2147483647 : Int) ≤ intMax 32 true) ∧
    (-2147483649 : Int) < intMin 32 true ∧ intMax 32 true < 2147483648 ∧ (-1 : Int) < intMin 64 false ∧ intMax 64 false < 2 ^ 64 ∧
    31 < ITy.s32.bits ∧ 63 < ITy.n64.bits ∧ (2 : Nat) ^ 64 - 1 < 2 ^ 64 ∧ 63 < 64 ∧ (0 < (⟨1, 1⟩ : Frac).n ∧ 0 < (⟨1, 1⟩ : Frac).d) ∧
    (∀ k ∈ TOp.ops (.fma true) 0x7F7FFFFF 0xFF7FFFFF 1, ((fmtOf .f32).decode k).isFin = true) ∧
    ((fmtOf .f32).real 0x3F800000 ≠ 0 ∧ 0 < (fmtOf .f32).real 0x3F800000) ∧
    (∃ G, ffmtOf .f32 = some G ∧ (G.decode (0x7F7FFFFF % 2 ^ G.width)).isFin = true) ∧ (ffmtOf .e2m1).isSome = true ∧
    intFmtOf .s64 = some (64, true) ∧ intFmtOf .n8 = some (8, false) ∧ ffmtOf .n8 = none := by
  refine ⟨by decide, by decide, by decide, by decide, by decide, by decide, by decide, by decide, by decide, by decide, by decide,
    by decide +kernel, ?_, ⟨_, rfl, by decide +kernel⟩, by decide, by decide, by decide, by decide⟩
  rw [real_one]
  norm_num

theorem witness_UniformImmediateResults :
    let rows (h : Hdr) (d : SReg) (imm : BitVec 32) : List Instr :=
      [.smovi h d imm, .smovih h d imm, .saddi h d imm, .sandi h d imm, .sori h d imm, .sxori h d imm, .sshli h d imm, .sshri h d imm,
        .ssari h d imm, .smuli h d imm]
    Runs (with_ all64) hd true (rows hd 127 63) ∧ Runs (with_ all64) hd true (rows hd 0 0) ∧ Runs (with_ all64) off false (rows off 1 1) ∧
      Runs (with_ all64) hd true [.smovi hd 1 0x80000000, .saddi hd 1 0xFFFFFFFF] := by
  and_intros <;> exact here rfl rfl rfl (by decide +kernel)

theorem witness_PredicateResults :
    let rows (h : Hdr) (d a b : PReg) (x : SReg) : List Instr :=
      [.pand h d a b, .por h d a b, .pxor h d a b, .pandn h d a b, .pnot h d a, .pmov h d a, .pset h d x, .pget h x a, .ppopc h x a,
        .pfirst h x a]
    Runs (with_ all64) hd true (rows hd 15 14 13 127) ∧ Runs (with_ all64) hd true (rows hd 0 0 0 0) ∧
      Runs (with_ all64) off false (rows off 1 2 3 4) := by
  and_intros <;> exact here rfl rfl rfl (by decide +kernel)

theorem witness_CompareResults :
    let rows (h : Hdr) (d q : PReg) : List Instr :=
      [.scmp h .s64 .ntst d 1 127, .scmpi h .geu d 127 0xFFFFFFFF, .vcmp h .n64 .lt d (.v 1006) (.s 127), .vvote h .any d q, .vvote h .all d q,
        .vvote h .uni d q]
    Runs (with_ all64) hd true (rows hd 15 0) ∧ Runs (with_ all64) hd true (rows hd 0 1) ∧ Runs (with_ all64) off false (rows off 1 0) := by
  and_intros <;> exact here rfl rfl rfl (by decide +kernel)

/-! ### Vector words -/

/-- A 64-bit type at the last pair of the allocation, a 32-bit type at a handler register, and no lane. -/
theorem witness_VectorIntResults :
    let rows (h : Hdr) (m : IntMod) (d : VReg) (a b : VS) (x y z : VReg) : List Instr :=
      [.vadd h m d a b, .vsub h m d a b, .vmul h m d a b, .vmulh h m d a b, .vmad h m d x y z, .vabs h m d a, .vneg h m d a, .vmin h m d a b,
        .vmax h m d a b, .vand h m d a b, .vor h m d a b, .vxor h m d a b, .vnot h m d a, .vshl h m d a b, .vshr h m d a b, .vsar h m d a b,
        .vclz h m d a, .vpopc h m d a, .vbfe h m d a b, .vbfi h m d x y z]
    Runs (with_ all64) hd true (rows hd ⟨.s64, false⟩ 1006 (.v 0) (.s 127) 0 2 1004) ∧
      Runs (with_ all64) hd true (rows hd ⟨.s32, false⟩ 1016 (.v 1) (.v 1016) 1 2 1023) ∧
      Runs (with_ all64) off false (rows off ⟨.s32, false⟩ 0 (.v 1) (.v 2) 3 4 5) := by
  and_intros <;> exact here rfl rfl rfl (by decide +kernel)

theorem witness_VectorMoveAndImmediateResults :
    let rows (h : Hdr) (m : IntMod) (ty : ITy) (d x y : VReg) (a : VS) (p : PReg) (imm : BitVec 32) : List Instr :=
      [.vmov h m d a, .vsel h ty d x y p, .vmovi h d imm, .fmovi h d imm, .vaddi h d imm, .vandi h d imm, .vori h d imm, .vshli h d imm,
        .vshri h d imm]
    Runs (with_ all64) hd true (rows hd ⟨.n64, false⟩ .s64 1006 0 2 (.s 127) 15 31) ∧
      Runs (with_ all64) off false (rows off ⟨.n32, false⟩ .s32 0 1 2 (.v 3) 0 0) := by
  and_intros <;> exact here rfl rfl rfl (by decide +kernel)

/-- A floe whose operands have bounds above its EBUD under BMODE: CHK ABS, TRAP 1. -/
def breaching (mask : Mask) : Floe :=
  { floeOf mask with
    v := [(2, ⟨Vector.replicate 64 0x3F800000, Vector.replicate 64 0x7FFF⟩)]
    sys := { (floeOf mask).sys with bmode := 5 } }

/-- Slots that breach in no lane, and slots that breach while BMODE.TRAP is 1. -/
theorem witness_SlotPairResults :
    let i (x y : VReg) : Instr := .faddSlot true .f32 true x 2 (.fmul .f32 true y 3)
    let B (s : State) (f : Floe) (w : Issue) (r : Run) (x y : VReg) : Mask :=
      let c := ctxOf s w f r ⟨true, false, 0⟩
      (slotRes c (.fadd .f32 true x 2)).breach ||| (slotRes c (.fmul .f32 true y 3)).breach
    Here (with_ lane63) (fun w f r => operandsOk (with_ lane63) f (i 1004 1005) = true ∧ B (with_ lane63) f w r 1004 1005 = 0) ∧
    Here (with_ (breaching 1)) (fun w f r => operandsOk (with_ (breaching 1)) f (i 4 5) = true ∧ B (with_ (breaching 1)) f w r 4 5 ≠ 0 ∧
      f.sys.bmode.getLsbD 2 = true) ∧
    Here (with_ lane63) (fun _ f _ => ∀ i ∈ [Instr.saddSlot false 127 1 (.vshl .s64 1006 0), .pmovSlot true 15 0 (.sshr 1 2)],
      operandsOk (with_ lane63) f i = true ∧ (slotsOf i).isSome = true) := by
  and_intros <;> exact here rfl rfl rfl (by decide +kernel)

/-! ### Floating point and conversions -/

/-- Words of a statement about delivered lanes, with results that may be written and with a breach that traps. -/
def Delivers (good bad : State) (h : Hdr) (l : List Instr) (o : Ctx → Outs) : Prop :=
  Here good (fun w f r => (∀ i ∈ l, operandsOk good f i = true) ∧ Outs.breach (o (ctxOf good w f r h)) = 0) ∧
  Here bad (fun w f r => (∀ i ∈ l, operandsOk bad f i = true) ∧ Outs.breach (o (ctxOf bad w f r h)) ≠ 0 ∧ f.sys.bmode.getLsbD 2 = true)

theorem witness_TieredResults :
    let m : FpMod := ⟨.f32, .full, .rn, false⟩
    Delivers (with_ lane63) (with_ (breaching 1)) hd
      [.fadd hd m 1 (.v 2) (.v 3), .fsub hd m 1 (.v 2) (.v 3), .fmul hd m 1 (.v 2) (.s 3), .ffma hd m true 1 2 3 4,
        .fadd hd ⟨.f64, .full, .rz, false⟩ 1006 (.v 2) (.s 127), .fmul hd ⟨.f16x2, .quart, .rd, true⟩ 1 (.v 2) (.v 3),
        .ffma hd ⟨.bf16x2, .half, .ru, false⟩ false 1 2 3 4, .fsub hd ⟨.f64, .auto, .rn, false⟩ 2 (.v 4) (.v 6)]
      fun c => tieredLanes c .add .f32 .rn true .full (c.lanes false .a (.v 2)) (c.lanes false .b (.v 3)) (bcast 0) := by
  and_intros <;> exact here rfl rfl rfl (by decide +kernel)

theorem witness_FloatResults :
    let m : FpMod := ⟨.f32, .full, .rn, false⟩
    Delivers (with_ lane63) (with_ (breaching 1)) hd
      [.fmin hd m 1 (.v 2) (.v 3), .fmax hd m 1 (.v 2) (.v 3), .fabs hd m 1 (.v 2), .fneg hd m 1 (.v 2), .fdiv hd m 1 (.v 2) (.v 3),
        .fsqrt hd m 1 (.v 2), .frcp hd m 1 (.v 2), .frsq hd m 1 (.v 2), .fexp2 hd m 1 (.v 2), .flog2 hd m 1 (.v 2), .fldexp hd m 1 (.v 2) (.v 3),
        .frnd hd m 1 (.v 2), .fdiv hd ⟨.f64, .full, .ru, true⟩ 1006 (.s 1) (.v 0), .frnd hd ⟨.bf16x2, .auto, .rd, false⟩ 1 (.v 2)]
      fun c => outs c.act fun l =>
        laneOut c.env true .f32 ((elements .f32 (c.lanes false .a (.v 2)) (c.lanes false .b (.v 2)) (bcast 0) l).map fun x =>
          fsign (fmtOf .f32) true x.a x.ea) ([(c.lanes false .a (.v 2)).bnd l].take 1) := by
  and_intros <;> exact here rfl rfl rfl (by decide +kernel)

theorem witness_CompareAndClassResults :
    let rows (h : Hdr) : List Instr :=
      [.fcmp h .f32 true .one 15 (.v 2) (.v 3), .fcmp h .f64 false .eq 0 (.v 2) (.s 127), .fclass h .f16x2 true 1 (.v 2), .fclass h .f64 true 1 (.v 2)]
    Runs (with_ lane63) hd true (rows hd) ∧ Runs (with_ all64) off false (rows off) := by
  and_intros <;> exact here rfl rfl rfl (by decide +kernel)

/-- Conversions with and without SR; a lane of ACTIVE and every register of CVTPK's destination. -/
theorem witness_ConversionResults :
    let m (sr : Bool) : CvMod := ⟨sr, false, true, .rn, false⟩
    let l : List Instr :=
      [.cvt hd (m true) .e4m3 .f32 1 (.v 2), .cvt hd (m false) .s64 .f64 2 (.v 4), .cvtpk hd (m true) .e2m1 .f32 1 (.v 8),
        .cvtpk hd (m false) .f32 .e4m3 4 (.v 2), .mxscale hd true .e4m3 1 2, .mxq hd true false true false false .e5m2 1 2 3,
        .mxq hd false true true false true .e2m1 1 2 3, .mxdq hd true false false .e2m3 1 2 3, .mxdq hd true false true .e3m2 1 2 3]
    Delivers (with_ lane63) (with_ (breaching 1)) hd l (fun c => outs c.act fun j =>
      let e := cvtEl .e4m3 .f32 false c.env.dnan (c.cvRnd true .rn j.val 0) (c.lane false .a (.v 2) j) (c.laneB false .a (.v 2) j)
      let z := cvtPlace .e4m3 e.code
      { regs := [(z, e.bnd)], fl := e.fl, unb := isU e.bnd && !isU (c.laneB false .a (.v 2) j),
        breach := if c.env.breach e.bnd e then some e.bnd else none }) ∧
    cvtpkOk .f32 .e4m3 4 (.v 2) = true ∧ 3 < cvtpkNd .f32 .e4m3 ∧ has allLanes 63 = true :=
  ⟨⟨here rfl rfl rfl (by decide +kernel), here rfl rfl rfl (by decide +kernel)⟩, by decide +kernel, by decide +kernel, by decide +kernel⟩

/-! ### Cross-lane words and Rime control -/

theorem witness_CrossLaneMoves :
    let rows (h : Hdr) (w : Bool) (d a : VReg) : List Instr :=
      [.vrfl h w 1 a, .vrln h w 127 a 2, .vbcst h w d a 3, .vshfl h w true d a 5, .vshfl h w false d a 5, .vrot h w 3 d a 3, .vlane h true d,
        .vwln h w d 1 2]
    Runs (with_ all64) hd true (rows hd true 1006 0) ∧ Runs (with_ all64) hd true (rows hd false 7 9) ∧
      Runs (with_ all64) off false (rows off true 0 2) := by
  and_intros <;> exact here rfl rfl rfl (by decide +kernel)

/-- Reductions of every kind of type and operation; a lane in the mask of an integer sum. -/
theorem witness_ReductionResults :
    Delivers (with_ lane63) (with_ (breaching 1)) hd
      [.vred hd .f32 .add false 1 2, .vred hd .n64 .xor false 2 4, .vscan hd .bf16x2 .max true 1 2, .vscan hd .s32 .min false 1 2]
      (fun c => outs c.act fun _ => redLane c .f32 .add false (c.lanesV false .a 2) c.act) ∧ (0x8000000000000000 : Mask) ≠ 0 :=
  ⟨⟨here rfl rfl rfl (by decide +kernel), here rfl rfl rfl (by decide +kernel)⟩, by decide⟩

theorem witness_RimeControlWords :
    let rows (h : Hdr) (w : Bool) (d a b : VReg) : List Instr :=
      [.bget h w d a, .bset h w d a, .bclr h w d, .bunb h w d, .bmaxr h w d a b, .bchk h .f64 .abs 15 2, .bchk h .f16x2 .rel 1 2,
        .bchk h .f32 .cur 0 2, .bchk h .bf16x2 .unb 3 2, .bud h 127, .budi h 0xFFFF]
    Runs (with_ all64) hd true (rows hd true 1006 0 2) ∧ Runs (with_ all64) off false (rows off false 1 2 3) := by
  and_intros <;> exact here rfl rfl rfl (by decide +kernel)

/-! ### Control flow -/

/-- A floe whose v2 and v3 hold a branch target for every lane: 0x1000 for lane 0 and 0x1008 for the others, or what is given. -/
def aimed (mask : Mask) (lo hi : Lane) : Floe :=
  { floeOf mask with
    v := [(2, ⟨Vector.replicate 64 lo, Vector.replicate 64 0⟩), (3, ⟨Vector.replicate 64 hi, Vector.replicate 64 0⟩)] }

/-- Targets that are word addresses below 2^48, one that is no multiple of 8, and one at 2^48; branches forward and back; a call out of the
address space. -/
theorem witness_TransferResults :
    let far (c : Ctx) (l : Nat) : Word := BitVec.ofNat 64 (c.lane true .a (.v 2) (Fin.ofNat 64 l))
    let odd (c : Ctx) : Mask := maskWhere fun l => has c.act l && (far c l).toNat % 8 != 0
    let past (c : Ctx) : Mask := maskWhere fun l => has c.act l && decide (2 ^ 48 ≤ (far c l).toNat)
    let good (s : State) (P : Ctx → Prop) : Prop := Here s fun w f r =>
      (∀ i ∈ [Instr.bra hs 0 0xFFFFFFFF, .brc hs 255 15 1, .brx hs 7 2, .ret hs 7 2, .call hs 1 1006 1], operandsOk s f i = true) ∧
        P (ctxOf s w f r hs)
    good (with_ (aimed allLanes 0xFFFFFFF8 0xFFFF)) (fun c => odd c = 0 ∧ past c = 0 ∧ c.act ≠ 0) ∧
    good (with_ (aimed 1 4 0)) (fun c => odd c ≠ 0) ∧ good (with_ (aimed 1 0 0x10000)) (fun c => odd c = 0 ∧ past c ≠ 0) ∧
    (let t (imm : BitVec 32) : Word := issued.pc.setWidth 64 + 8 * imm.signExtend 64
     t 1 = 0x30008 ∧ (t 1).toNat % 8 = 0 ∧ (t 1).toNat < 2 ^ 48 ∧ 2 ^ 48 ≤ (t 0x80000000).toNat ∧ (t 0x80000000).toNat % 8 = 0) ∧
    Here (with_ all64) (fun w f r => activeOf w f r ⟨true, true, 0⟩ = 0 ∧ operandsOk (with_ all64) f (.call ⟨true, true, 0⟩ 1 0 1) = true) ∧
    Here { with_ all64 with issuing := some { issued with pc := 4 } } (fun w f r =>
      activeOf w f r hs ≠ 0 ∧ ((w.pc.setWidth 64 : Word) + 8 * (1 : BitVec 32).signExtend 64).toNat % 8 ≠ 0) := by
  and_intros <;>
  first
  | decide
  | exact here rfl rfl rfl (by decide +kernel)
  | exact ⟨_, all64, runOf allLanes, ⟨rfl, rfl, rfl⟩, by decide +kernel⟩

theorem witness_PrioWord :
    Here (with_ all64) (fun w f r => operandsOk (with_ all64) f (.prio hd 255) = true ∧ activeOf w f r hd ≠ 0 ∧ r.mask ≠ 0) ∧
    Here (with_ all64) (fun w f r => operandsOk (with_ all64) f (.prio off 0) = true ∧ activeOf w f r off = 0) := by
  and_intros <;> exact here rfl rfl rfl (by decide +kernel)

/-- With lanes in ACTIVE and with none; a lease wait for a time to come, for the present time and for the last. -/
theorem witness_WaitResults :
    let late (t : Word) : Floe := { all64 with s := [(1, t)] }
    let offS : Hdr := ⟨true, true, 0⟩
    let rows (h : Hdr) : List Instr :=
      [.trap h 0xFFFFFFFF, .bkpt h 255, .nop h, .exit h, .yield h, .halt h, .reconv h, .sleep h 0, .sleep h 1, .lwait h 1]
    (Here (with_ all64) fun w f r => activeOf w f r hs ≠ 0 ∧ ∀ i ∈ rows hs, operandsOk (with_ all64) f i = true) ∧
    (Here (with_ all64) fun w f r => activeOf w f r offS = 0 ∧ ∀ i ∈ rows offS, operandsOk (with_ all64) f i = true) ∧
    (Here (with_ (late 1)) fun w f r => activeOf w f r hs ≠ 0 ∧
      ((with_ (late 1)).firn (coreOf w.floe)).toNat < ((ctxOf (with_ (late 1)) w f r hs).sr .a 1).toNat) ∧
    (Here (with_ (late 0)) fun w f r => activeOf w f r hs ≠ 0 ∧
      ((ctxOf (with_ (late 0)) w f r hs).sr .a 1).toNat ≤ ((with_ (late 0)).firn (coreOf w.floe)).toNat) := by
  and_intros <;> exact here rfl rfl rfl (by decide +kernel)

/-! ### Traps and system registers -/

/-- The same floe in handler mode. -/
def handling (mask : Mask) : Floe := { floeOf mask with handler := true }

/-- An operand outside the allocation; the floe outside handler mode and in it; HALTLOG free and taken. -/
theorem witness_TrapsAndEntry :
    (Here (with_ all64) fun _ f _ => ∀ i ∈ [Instr.vadd hd ⟨.s32, false⟩ 1008 (.v 0) (.v 1), .mfsr hd 1 0x00A],
      (encode i).isSome = true ∧ operandsOk (with_ all64) f i = false) ∧
    all64.handler = false ∧ (handling 1).handler = true ∧ 20479 < 20480 ∧ base.hub.haltlog.msb = false ∧
    ({ base.hub with haltlog := 0x8000000000000000 } : Hub).haltlog.msb = true := by
  and_intros <;> first | decide +kernel | exact here rfl rfl rfl (by decide +kernel)

/-- A floe in handler mode with a trap to return from. -/
def returning (xcause : BitVec 10) (xmask : Mask) (xpc : BitVec 48) : Floe :=
  let f := handling 1
  { f with
    xcause := xcause, xmask := xmask, xpc := xpc
    run := some { runOf 1 with sysOld := f.sys }, intFrontier := [⟨0x40000, 200, 0, 1, .none, 0, 0⟩] }

/-- What RFT reads, in a run that has not written it. -/
theorem trap_registers {c : Ctx} (h : c.f.sysPend = []) :
    sysRead c 0x100 = c.f.xpc.setWidth 64 ∧ sysRead c 0x101 = c.f.xcause.setWidth 64 ∧ sysRead c 0x102 = c.f.xmask := by
  refine ⟨?_, ?_, ?_⟩ <;> (unfold sysRead; rw [h]; simp [Tbl.find?, SysRegs.read, sysVal])

/-- RFT may issue on a floe, with the lanes, KILL and the XPC that it reads as P says. -/
def Returns (f : Floe) (P : Ctx → Mask → Bool → Word → Prop) : Prop := Here (with_ f) fun w f' r =>
  operandsOk (with_ f) f' (.rft hs) = true ∧
    (let c := ctxOf (with_ f) w f' r hs
     P c (sysRead c 0x102 &&& f'.live) ((sysRead c 0x101).getLsbD 8) (sysRead c 0x100))

theorem returns {f : Floe} {r : Run} {P : Ctx → Mask → Bool → Word → Prop} (hr : f.run = some r) (hp : f.sysPend = [])
    (h : operandsOk (with_ f) f (.rft hs) = true ∧
      P (ctxOf (with_ f) issued f r hs) (f.xmask &&& f.live) ((f.xcause.setWidth 64 : Word).getLsbD 8) (f.xpc.setWidth 64)) : Returns f P := by
  refine here rfl rfl hr ⟨h.1, ?_⟩
  obtain ⟨h0, h1, h2⟩ := trap_registers (c := ctxOf (with_ f) issued f r hs) hp
  dsimp only
  rw [h0, h1, h2]
  exact h.2

/-- A loaded frontier with an entry that waits in LWAIT; outside handler mode; in it, with no lane in ACTIVE, with lanes that go back to XPC, with KILL, with no lane in XMASK, and with an XPC that is no word address. -/
theorem witness_ReturnFromTrap :
    let ready (c : Ctx) : Prop := c.f.handler = true ∧ c.act ≠ 0 ∧ c.f.loaded = none
    let g : Floe := { returning 0x10 1 0x30008 with loaded := some [⟨0x30000, 0, flagBlocked, 2, .none, 0, 0⟩], s := [(2, 9)] }
    let coded : State := (with_ g).setBytes 0x30000 (bytesOfWord ((encode (.lwait hs 2)).getD 0))
    (Here coded fun w f r => (operandsOk coded f (.rft hs) = true ∧ f.handler = true ∧ activeOf w f r hs ≠ 0 ∧
        (sysRead (ctxOf coded w f r hs) 0x100).toNat % 8 = 0) ∧
      ∃ es, f.loaded = some es ∧ ∃ e ∈ es, (e.flags &&& flagBlocked ≠ 0 ∧ e.mask &&& ~~~f.kept.asleep ≠ 0) ∧
        ((coded.codeAt 0 f e.pc).bind fun word => decode? (marked word)) = some (.lwait hs 2)) ∧
    Returns all64 (fun c _ _ _ => c.f.handler = false) ∧
    (Here (with_ (handling 1)) fun w f r => operandsOk (with_ (handling 1)) f (.rft ⟨true, true, 0⟩) = true ∧ f.handler = true ∧
      activeOf w f r ⟨true, true, 0⟩ = 0) ∧
    Returns (returning 0x10 1 0x30008) (fun c m kill x => ready c ∧ m ≠ 0 ∧ kill = false ∧ (x.setWidth 48 : BitVec 48).toNat % 8 = 0) ∧
    Returns (returning 0x110 1 0x30004) (fun c _ kill _ => ready c ∧ kill = true) ∧
    Returns (returning 0x10 0 0x30004) (fun c m _ _ => ready c ∧ m = 0) ∧
    Returns (returning 0x10 1 0x30004) (fun c m kill x => ready c ∧ m ≠ 0 ∧ kill = false ∧ (x.setWidth 48 : BitVec 48).toNat % 8 ≠ 0) := by
  refine ⟨here rfl rfl rfl ⟨?_, _, rfl, _, .head _, by decide +kernel, by decide +kernel⟩, ?_⟩
  · refine ⟨by decide +kernel, rfl, by decide +kernel, ?_⟩
    rw [(trap_registers rfl).1]
    decide +kernel
  and_intros <;> first | exact returns rfl rfl (by decide +kernel) | exact here rfl rfl rfl (by decide +kernel)

/-- A register of the pack and of the floe, an accumulator that the pack does not have, and the registers as a run finds them. -/
theorem witness_SystemRegisterReads :
    let fewer : State := packed { pack0 with accs := [] } (with_ all64)
    (Here (with_ all64) fun w f r => operandsOk (with_ all64) f (.firnrd hd 127) = true ∧ operandsOk (with_ all64) f (.mfsr hd 127 0x090) = true ∧
      noAcc (ctxOf (with_ all64) w f r hd) 0x090 = false ∧ f.sysPend = [] ∧ r.sysOld = f.sys) ∧
    (Here fewer fun w f r => operandsOk fewer f (.mfsr hd 127 0x097) = true ∧ noAcc (ctxOf fewer w f r hd) 0x097 = true) := by
  and_intros <;> exact here rfl rfl rfl (by decide +kernel)

/-- Writes that are bad, for each reason: an accumulator that the pack does not have, a trap register outside handler mode, CHK = 3; and
writes that are not, in handler mode and outside it. -/
theorem witness_SystemRegisterWrites :
    let fewer : State := packed { pack0 with accs := [] } (with_ all64)
    let rows (x : BitVec 10) : List Instr := [.mtsr hd x 1, .mtsri hd x 3]
    (Here (with_ all64) fun w f r => (∀ i ∈ rows 0x010 ++ rows 0x021 ++ rows 0x100, operandsOk (with_ all64) f i = true) ∧
      noAcc (ctxOf (with_ all64) w f r hd) 0x010 = false ∧ handlerOnly 0x010 = false ∧ handlerOnly 0x100 = true ∧ f.handler = false ∧
      activeOf w f r hd ≠ 0 ∧ (3 : Word) &&& 3 = 3) ∧
    (Here fewer fun w f r => noAcc (ctxOf fewer w f r hd) 0x097 = true) ∧
    (Here (with_ (handling 1)) fun w f r => (∀ i ∈ rows 0x107 ++ rows 0x090, operandsOk (with_ (handling 1)) f i = true) ∧
      noAcc (ctxOf (with_ (handling 1)) w f r hd) 0x090 = false ∧ f.handler = true) := by
  and_intros <;> exact here rfl rfl rfl (by decide +kernel)

theorem witness_SeedWord :
    Here (with_ all64) (fun w f r => operandsOk (with_ all64) f (.seed hd 127 0) = true ∧ activeOf w f r hd ≠ 0 ∧ f.sysPend = [] ∧
      (encode (.seed hd 127 0)).isSome = true) ∧
    Here (with_ all64) (fun w f r => operandsOk (with_ all64) f (.seed off 127 0) = true ∧ activeOf w f r off = 0) := by
  and_intros <;> exact here rfl rfl rfl (by decide +kernel)

/-! ### Memory -/

/-- The state with pages of every kind: 512 MiB blocks of plain memory, of a versioned frame, of linear memory for Serac, and of MMIO. -/
def paged (f : Floe) : State :=
  let s := with_ f
  { s with
    mem := (((s.setBytes 0x20008 (natLe 8 0x20000213)).setBytes 0x20010 (natLe 8 0x40000C13)).setBytes 0x20018 (natLe 8 0xF0000000C013)).mem
    hub := { s.hub with linseg := 1, men := true, mdata := 0x2000, nframes := 1, mrec := 128 } }

/-- A floe whose s2 and s3 hold an address and a control word. -/
def aimedAt (f : Floe) (a ctl : Word) : Floe := { f with s := [(2, a), (3, ctl)] }

/-- A word whose one access passes every check. -/
def Accesses (s : State) (i : Instr) (h : Hdr) (rule : AccRule) (las : Ctx → List ((Nat × Word) × Nat))
    (todo : Ctx → List LaneCheck → List Work) (ok : Ctx → Prop) (g : Agent := .words) : Prop :=
  ∃ w f r p s' cks, Issues s w f r ∧ operandsOk s f i = true ∧
    (let c := ctxOf s w f r h
     ok c ∧ Passes c rule (las c) p s' cks g ∧ todo c cks ≠ [])

theorem accesses {s : State} {i : Instr} {h : Hdr} {rule : AccRule} {las : Ctx → List ((Nat × Word) × Nat)}
    {todo : Ctx → List LaneCheck → List Work} {ok : Ctx → Prop} {f : Floe} {r : Run} {p : Pack}
    {g : Agent}
    (hw : s.issuing = some issued) (hf : s.floes.find? 0 = some f) (hr : f.run = some r) (hp : s.packs.find? f.pack = some p)
    (ho : operandsOk s f i = true) (hk : ok (ctxOf s issued f r h))
    (hx : let c := ctxOf s issued f r h
      let x := (checkLanes c.core c.f.ctx (c.s.rootOf p) c.f.handler rule c.s (las c) g).2
      r.denied &&& c.act = 0 ∧ (∀ k ∈ x, k.mis = false ∧ k.prot = false ∧ k.cell = false ∧ k.miss = []) ∧ todo c x ≠ []) :
    Accesses s i h rule las todo ok g :=
  ⟨issued, f, r, p, _, _, ⟨hw, hf, hr⟩, ho, hk, ⟨hp, rfl, hx.1, hx.2.1⟩, hx.2.2⟩

theorem passes_of {c : Ctx} {rule : AccRule} {las : List ((Nat × Word) × Nat)} {p : Pack} {g : Agent}
    (hp : c.pack? = some p) (h : let x := (checkLanes c.core c.f.ctx (c.s.rootOf p) c.f.handler rule c.s las g).2
      c.r.denied &&& c.act = 0 ∧ ∀ k ∈ x, k.mis = false ∧ k.prot = false ∧ k.cell = false ∧ k.miss = []) :
    ∃ s' cks, Passes c rule las p s' cks g := ⟨_, _, hp, rfl, h.1, h.2⟩

/-- A floe in handler mode with an allocation of 16 registers, so that its record is short. -/
def saver (a : Word) : Floe := aimedAt { handling 1 with valloc := 16 } a 0

/-- The three words outside handler mode; a record at the last address that it fits below 512 MiB; a base that is no multiple of 256. -/
theorem witness_FloeRecordWords :
    let lengths (c : Ctx) : List (Nat × Nat) := (recParts c).map fun e => (e.1, e.2.length)
    let loads (c : Ctx) : List (Nat × Nat) := [(0, 0x580), (0x980, recFixed c.f.valloc - 0x980 + 24 * c.peekSyncs (c.sr .a 2))]
    let ok (c : Ctx) : Prop := c.f.handler = true ∧ c.act ≠ 0 ∧ (c.sr .a 2).toNat % 256 = 0
    let s := paged (saver 0x1FFFF000)
    (Here (with_ (handling 1)) fun w f r => f.handler = true ∧ activeOf w f r off = 0 ∧
      ∀ i ∈ [Instr.frsave off 2, .frload off 2], operandsOk (with_ (handling 1)) f i = true) ∧
    (Here (with_ all64) fun _ f _ => f.handler = false ∧
      ∀ i ∈ [Instr.rft hs, .frsave hd 2, .frload hd 2], operandsOk (with_ all64) f i = true) ∧
    Accesses s (.frsave hd 2) hd ⟨true, 1, none, false⟩ (fun c => recAddrs (c.sr .a 2) (lengths c)) (fun c cks =>
      (cks.zip (recParts c)).flatMap fun e =>
        (laneUnits .near e.2.2.length e.1).map fun x => .store [storeSpan [x] (fun _ k => (e.2.2.getD k 0, 0)) x]) ok ∧
    Accesses s (.frload hd 2) hd ⟨false, 1, none, false⟩ (fun c => recAddrs (c.sr .a 2) (loads c)) (fun c cks =>
      ((cks.zip (loads c)).flatMap fun e =>
        (laneUnits .near e.2.2 e.1).map fun x => ({ x with k := x.k + e.2.1 } : Span)).map fun x => .load [x]) ok ∧
    (Here (paged (saver 0x80)) fun w f r => f.handler = true ∧ activeOf w f r hd ≠ 0 ∧
      ((ctxOf (paged (saver 0x80)) w f r hd).sr .a 2).toNat % 256 ≠ 0 ∧
      ∀ i ∈ [Instr.frsave hd 2, .frload hd 2], operandsOk (paged (saver 0x80)) f i = true) := by
  and_intros <;>
  first
  | exact here rfl rfl rfl (by decide +kernel)
  | exact accesses rfl rfl rfl rfl (by decide +kernel) (by decide +kernel) (by decide +kernel)

/-- A lane that loads and stores the last bytes before a page ends, and across it. -/
theorem witness_LoadStoreWords :
    let m : MemOp := ⟨.far, .acqRel, .die, 2, 1023, 0x1FFF⟩
    let s (a : Word) := paged (aimedAt lane63 a 0)
    let spans (cks : List LaneCheck) (n : Nat) : List Span := cks.flatMap (laneUnits m.level n)
    let parts (cks : List LaneCheck) (n : Nat) : List Span := cks.flatMap fun k => laneUnits m.level n k
    let todo (sz : Sz) (c : Ctx) (cks : List LaneCheck) : List Work :=
      (storeUnits (unitsOf true (parts cks (szBytes sz))) (Ctx.storeByte (c.dataRows 4 (szSpan sz)) sz)).map .store
    let all (sz : Sz) (c : Ctx) : List ((Nat × Word) × Nat) := (c.addrs m).map fun la => (la, szBytes sz)
    let one (sz : Sz) (c : Ctx) : List ((Nat × Word) × Nat) := [((64, c.sr .a m.sa + m.off.signExtend 64), szBytes sz)]
    Accesses (s 0x40FFF1) (.ld hd m .b128 4) hd ⟨false, 1, none, false⟩ (all .b128)
      (fun _ cks => (unitsOf true (spans cks 16)).map .load) (fun _ => True) ∧
    Accesses (s 0x40FFFF) (.st hd m .b64 4) hd ⟨true, 1, none, false⟩ (all .b64) (todo .b64) (fun _ => True) ∧
    Accesses (s 0x410000) (.ldu hd m .b64 127) hd ⟨false, 1, none, false⟩ (one .b64)
      (fun _ cks => (spans cks 8).map fun x => .load [x]) (fun c => c.act ≠ 0) ∧
    Accesses (s 0x410000) (.stu hd m .n8 0) hd ⟨true, 1, none, false⟩ (one .n8)
      (fun c cks => (storeUnits ((parts cks 1).map fun x => [x]) fun _ k => (BitVec.ofNat 8 (c.nat .d 0 / 256 ^ k), 0)).map .store)
      (fun c => c.act ≠ 0) := by
  and_intros <;> exact accesses rfl rfl rfl rfl (by decide +kernel) (by decide +kernel) (by decide +kernel)

/-- Every atomic on plain memory, and the Moraine words on a versioned page. -/
theorem witness_AtomicAndMoraineWords :
    let m : MemOp := at_ 2 0
    let s := paged (aimedAt lane63 0x400000 0)
    let v := paged (aimedAt lane63 0x2000FFF8 0)
    let lanes (ty : ATy) (c : Ctx) (cks : List LaneCheck) : List AtLane := cks.flatMap fun ck => ck.pieces.map fun q =>
      let x := if has c.act ck.lane then c.atomData ty 4 ck.lane else (0, 0, 0, 0)
      ⟨ck.lane, ck.va, q.pa, x.1, x.2.1, x.2.2.1, x.2.2.2, leafTagged q.leaf⟩
    let Atom (i : Instr) (ty : ATy) (f : AFun) : Prop := Accesses s i hd ⟨true, if ty.wide then 8 else 4, some false, true⟩
      (fun c => (c.addrs m).map fun la => (la, if ty.wide then 8 else 4))
      (fun c cks => ((lanes ty c cks).map fun x => lineOf x.pa).eraseDups.map fun ln =>
        .atomic f ty (c.f.sys.fpctl.getLsbD 2) ((lanes ty c cks).filter fun x => lineOf x.pa == ln)) (fun _ => True)
    let Cell (i : Instr) (wr : Bool) (todo : Ctx → List LaneCheck → List Work) : Prop :=
      Accesses v i hd ⟨wr, 8, some true, false⟩ (fun c => (c.addrs m).map fun la => (la, 8)) todo (fun _ => True)
    Atom (.atomAdd hd m .f64 true 4) .f64 .add ∧ Atom (.atomSub hd m .s32 false 5) .s32 .sub ∧ Atom (.atomMin hd m .n64 true 4) .n64 .min ∧
    Atom (.atomMax hd m .f32 true 5) .f32 .max ∧ Atom (.atomAnd hd m .n32 true 5) .n32 .and ∧ Atom (.atomOr hd m .s64 true 4) .s64 .or ∧
    Atom (.atomXor hd m .n32 false 5) .n32 .xor ∧ Atom (.atomXchg hd m .n64 true 4) .n64 .xchg ∧ Atom (.atomCas hd m .n64 true 4) .n64 .cas ∧
    Cell (.ldv hd m 4) false (fun c cks => (c.cellLanes 4 cks).map .ldv) ∧
    Cell (.stv hd m 4) true (fun c cks => (byLine (c.cellLanes 4 cks)).map .stv) ∧
    Cell (.recon hd m .addF64 4) true (fun c cks => (byLine (c.cellLanes 4 cks)).map fun u => .recon .addF64 (c.f.sys.fpctl.getLsbD 2) u) := by
  and_intros <;> exact accesses rfl rfl rfl rfl (by decide +kernel) trivial (by decide +kernel)

/-- A lane whose address is misaligned, one on an address that is not canonical, one on a page of the wrong kind, and one without a
translation. -/
theorem witness_AccessChecks :
    let s (a : Word) := paged (aimedAt lane63 a 0)
    let At (a : Word) (P : Ctx → (∀ _ : LaneCheck → Bool, Mask) → Prop) : Prop := Here (s a) fun w f r =>
      let c := ctxOf (s a) w f r hd
      let p := pack0
      c.pack? = some p ∧ c.r.denied &&& c.act = 0 ∧
        P c fun t => failing c.act (checkLanes c.core c.f.ctx (c.s.rootOf p) c.f.handler ⟨true, 4, some false, true⟩ c.s
          ((c.addrs (at_ 2 0)).map fun la => (la, 4))).2 t
    At 0x400002 (fun _ x => x (·.mis) ≠ 0) ∧ At 0x40000000000000 (fun _ x => x (·.mis) = 0 ∧ x (·.prot) ≠ 0) ∧
    At 0x20000000 (fun _ x => x (·.mis) = 0 ∧ x (·.prot) = 0 ∧ x (·.cell) ≠ 0) ∧
    At 0x80000000 (fun _ x => x (·.mis) = 0 ∧ x (·.prot) = 0 ∧ x (·.cell) = 0 ∧ x (fun k => !k.miss.isEmpty) ≠ 0) := by
  and_intros <;> exact here rfl rfl rfl (by decide +kernel)

/-- An object of package scope at offset 16 of the pack's scratchpad, in phase 5 with one arrival to come, with other bytes there. -/
def object : BarObj := ⟨1, 1, 0, 5, 0x80030000⟩
def objectBytes : Tbl Byte := [(16, 1), (18, 1), (24, 5), (30, 3), (31, 0x80)]
def withPad (bytes : Tbl Byte) (s : State) : State :=
  { s with cores := [(0, { Core.reset with banks := [(0, ⟨.pack, false, 0⟩)], seqNext := 1, spad := bytes })] }

theorem padOk_of {p : Pack} {align n : Nat} {las : List Word}
    (h : (las.all fun a => decide (a.toNat % align = 0) && p.inPad a.toNat n) = true) : PadOk p align n las := by
  intro a ha
  simpa using List.all_eq_true.mp h a ha

/-- LDSP with the object beside its destination, with no lane in ACTIVE, and with a bit set above bit 55; the others at any address. -/
theorem witness_PrefetchFenceAndCacheWords :
    let m : MemOp := at_ 2 0
    let f := { lane63 with s := [(2, 0x400000), (4, 0x1000000100)] }
    let s := withPad objectBytes (paged f)
    let l : List Instr := [.pref hd m, .cacheDrop hd 2, .cacheClean hd 2, .cacheInval hd 2, .fence hd true .pkg, .ldsp hd m .b128 4]
    let odd : Floe := { lane63 with s := [(4, 0x0100000000000000)] }
    (Here (with_ all64) fun w f r => activeOf w f r off = 0 ∧ operandsOk (with_ all64) f (.ldsp off m .b32 4) = true ∧
      (ctxOf (with_ all64) w f r off).nat .d 4 = 0) ∧
    (Here (with_ odd) fun w f r => operandsOk (with_ odd) f (.ldsp off m .b32 4) = true ∧ (ctxOf (with_ odd) w f r off).nat .d 4 / 2 ^ 56 ≠ 0) ∧
    Here s fun w f r => (∀ i ∈ l, operandsOk s f i = true) ∧
      (let c := ctxOf s w f r hd
       let x := c.nat .d 4
       c.act ≠ 0 ∧ x / 2 ^ 56 = 0 ∧ x / 2 ^ 24 % 2 ^ 8 = 0 ∧
         PadOk pack0 16 16 ((lanesOf c.act).map fun l => BitVec.ofNat 64 (x % 2 ^ 24 + l * 16)) ∧
         GoodObj c pack0 (BitVec.ofNat 64 (x / 2 ^ 32 % 2 ^ 24)) object ∧
         ∃ s' cks, Passes c ⟨false, 1, none, false⟩ ((c.addrs m).map fun la => (la, 16)) pack0 s' cks) := by
  and_intros <;> refine here rfl rfl rfl ?_ <;> and_intros <;>
  first
  | decide +kernel
  | exact padOk_of (by decide +kernel)
  | exact passes_of (by decide +kernel) (by decide +kernel)

/-! ### Scratchpad, barriers, joins -/

/-- The last offset that an access of 128 bits fits at. -/
theorem witness_ScratchpadLoads :
    let s := with_ (aimedAt lane63 0xFFF0 0)
    s.packs.find? lane63.pack = some pack0 ∧ Here s fun w f r => operandsOk s f (.lds hd (at_ 2 0) .b128 4) = true ∧
      PadOk pack0 (szBytes .b128) (szBytes .b128) (((ctxOf s w f r hd).addrs (at_ 2 0)).map (·.2)) :=
  ⟨rfl, here rfl rfl rfl ⟨by decide +kernel, padOk_of (by decide +kernel)⟩⟩

theorem witness_ScratchpadStores :
    let m : MemOp := at_ 2 0
    let s := with_ (aimedAt lane63 0xFFF8 0)
    s.packs.find? lane63.pack = some pack0 ∧ (Here s fun w f r => PadOk pack0 (szBytes .b64) (szBytes .b64) (((ctxOf s w f r hd).addrs m).map (·.2)) ∧
      operandsOk s f (.sts hd m .b64 4) = true ∧ s.redirect pack0.id = none) ∧
    Here s fun w f r => PadOk pack0 (atBytes .n64) (atBytes .n64) (((ctxOf s w f r hd).addrs m).map (·.2)) ∧
      ∀ i ∈ [Instr.atomsAdd hd m .n64 true 4, .atomsSub hd m .n64 true 4, .atomsMin hd m .n64 true 4, .atomsMax hd m .n64 true 4,
        .atomsAnd hd m .n64 true 4, .atomsOr hd m .n64 true 4, .atomsXor hd m .n64 true 4, .atomsXchg hd m .n64 true 4,
        .atomsCas hd m .n64 true 4], operandsOk s f i = true :=
  ⟨rfl, here rfl rfl rfl ⟨padOk_of (by decide +kernel), by decide +kernel, by decide +kernel⟩,
    here rfl rfl rfl ⟨padOk_of (by decide +kernel), by decide +kernel⟩⟩

/-- An event that completes the phase and one that does not; no lane; a misaligned offset and one past the scratchpad; a count of 65,536; bytes
that are no object, one with RD set and one of another pack; an object to make, and one to make over a parked one with a journal; the
object there, with its phase awaited and not. -/
theorem witness_BarrierWords :
    let none_ : Hdr := ⟨true, true, 0⟩
    let init (h : Hdr) : Instr := .barinit h .pod 3 2 0
    let others (h : Hdr) : List Instr := [.barexp h 3 2 0, .barwait h 3 2 0, .bartest h 3 2 0, .bararr h 0 2 0, .bardrop h 0 2 0]
    let at_ (bytes : Tbl Byte) (a ctl : Word) : State := withPad bytes (with_ (aimedAt all64 a ctl))
    let o (c : Ctx) : Word := c.sr .a 2 + (0 : BitVec 13).signExtend 64
    let both (s : State) (h : Hdr) (P : Ctx → Prop) : Prop := Here s fun w f r =>
      s.packs.find? f.pack = some pack0 ∧ P (ctxOf s w f r h) ∧ ∀ i ∈ init h :: others h, operandsOk s f i = true
    let inside (c : Ctx) : Prop := c.act ≠ 0 ∧ (o c).toNat % 16 = 0 ∧ pack0.inPad (o c).toNat 16 = true
    let w3 (c : Ctx) : BitVec 32 := (c.s.obj c.f.pack pack0 (o c).toNat).w3
    let parked : Redirect := ⟨0, pack0.id, 0, 0, 0, .parking, [16], [.sub 16 4], 1⟩
    let d : State := at_ (objectBytes.put 31 0xC0) 16 65535
    let rd : State := { d with dies := [(0, { d.die 0 with redirects := [parked] })] }
    (object.pend ≤ 1 ∧ object.bytes + 0 = 0) ∧ ¬(object.pend ≤ 0 ∧ object.bytes + 0 = 0) ∧
    both (at_ objectBytes 16 0) none_ (fun c => c.act = 0) ∧
    both (at_ objectBytes 24 0) hs (fun c => c.act ≠ 0 ∧ (o c).toNat % 16 ≠ 0) ∧
    both (at_ objectBytes 0x10000 0) hs (fun c => c.act ≠ 0 ∧ (o c).toNat % 16 = 0 ∧ pack0.inPad (o c).toNat 16 = false) ∧
    both (at_ objectBytes 0xFFF0 65536) hs (fun c => inside c ∧ 65536 ≤ c.nat .d 3 ∧ (w3 c).getLsbD 31 = false) ∧
    both rd hs (fun c => inside c ∧ (w3 c).getLsbD 30 = true) ∧
    both (at_ (objectBytes.put 28 1) 16 0) hs (fun c => inside c ∧ (w3 c).getLsbD 31 = true ∧ (w3 c).getLsbD 30 = false ∧
      (w3 c).toNat / 2 ^ 19 % 2 ^ 11 = 0 ∧ (w3 c).toNat / 2 ^ 6 % 2 ^ 10 = 0 ∧ (w3 c).toNat % 64 ≠ c.f.pack % 64) ∧
    both (at_ objectBytes 16 65535) hs (fun c => inside c ∧ c.nat .d 3 < 65536 ∧ c.s.redirect pack0.id = none) ∧
    both rd hs (fun c => inside c ∧ c.nat .d 3 < 65536 ∧ (c.s.obj c.f.pack pack0 (o c).toNat).rd = true ∧
      c.s.redirect pack0.id = some (0, parked) ∧ parked.parked.contains (o c).toNat = true ∧
        (parked.journal.all fun e => match e with | .sub b _ => b == (o c).toNat | .status .. => false) = true) ∧
    both (at_ objectBytes 16 5) hs (fun c => c.act ≠ 0 ∧ GoodObj c pack0 (o c) object ∧ object.phase = (c.sr .d 3).setWidth 32) ∧
    both (at_ objectBytes 16 4) hs (fun c => c.act ≠ 0 ∧ GoodObj c pack0 (o c) object ∧ object.phase ≠ (c.sr .d 3).setWidth 32) := by
  and_intros <;>
  first
  | decide +kernel
  | exact here rfl rfl rfl (by decide +kernel)
  | exact here rfl rfl rfl (by unfold GoodObj; decide +kernel)

/-- A record of a word; a floe with records, and with lane 63 as its p1. -/
def syncAt (addr : BitVec 48) (member : Mask) : SyncRec := ⟨addr, member, 0, 0, none, false, false, none⟩
def syncing (f : Floe) (l : List SyncRec) : Floe := { f with s := [(2, 16)], p := [(1, 0x8000000000000000)], syncs := l }
def syncState (f : Floe) (l : List SyncRec) (x : Join := Join.idle) : State :=
  withPad objectBytes (packed { pack0 with joins := pack0.joins.set 7 x } (with_ (syncing f l)))

/-- A broken record and a failed one. No lane. No record of the word, with 63 and with 64 records of other words; a record of the word with
another membership. Then memberships that ACTIVE completes alone: a signature that completes a generation, one that does not, and one that
finds no count, another record, or too many; an arrival and a drop of one lane at an object that expects one, and of 64; the last
barrier of a field that has 32 and the first that a field with 31 lacks. -/
theorem witness_SynchronisingWords :
    let rows (h : Hdr) (q : PReg) : List Instr := [.jsign h 7 q, .bararr h q 2 0, .bardrop h q 2 0, .sbar h .pod 31 q]
    let mine (f : Floe) (x : SyncRec) : Prop := x.addr = 0x30000 ∧ x.handler = f.handler
    let many (f : Floe) : Nat := (f.syncs.filter SyncRec.open?).length
    let others (n : Nat) : List SyncRec := List.replicate n (syncAt 0x40000 1)
    let both (s : State) (p : Pack) (h : Hdr) (q : PReg) (P : Ctx → Prop) : Prop := Here s fun w f r =>
      let c := ctxOf s w f r h
      w.pc = 0x30000 ∧ (∀ i ∈ rows h q, operandsOk s f i = true) ∧ P c ∧
        GoodObj c p (c.sr .a 2 + (0 : BitVec 13).signExtend 64) object ∧ ∃ fd, s.fieldOf p.id = some fd ∧ (31 : BitVec 5).toNat < fd.desc.bars .pod
    let fresh (c : Ctx) : Prop := c.act ≠ 0 ∧ (∀ x ∈ c.f.syncs, ¬mine c.f x) ∧ many c.f < 64
    let now (q : PReg) (c : Ctx) : Prop := fresh c ∧ c.p .a q = c.act ∧ c.s.lanesBusy c.key c.f.seq c.act = false ∧ c.f.sbar = none
    let sign (x : Join) (P : Prop) : Prop :=
      both (syncState lane63 (others 63) x) { pack0 with joins := pack0.joins.set 7 x } hd 1 (now 1) ∧ P
    let fits (x : Join) : Prop := x.expected ≠ 0 ∧ (x.count = 0 ∨ x.rec? = some SignRec.jsign) ∧ x.count.toNat + 1 ≤ x.expected.toNat
    let mma : SignRec := ⟨true, 16, 7, 4, 5, 0, 0, 0⟩
    ((syncState all64 []).floes.find? 0 = some (syncing all64 []) ∧ ({ syncAt 0x30000 1 with bad := true } : SyncRec).failed = none ∧
      ({ syncAt 0x30000 1 with failed := some (0x32, 16, 3) } : SyncRec).failed = some (0x32, 16, 3)) ∧
    both (syncState all64 []) { pack0 with joins := pack0.joins.set 7 Join.idle } off 0 (fun c => c.act = 0) ∧
    both (syncState lane63 (others 63)) { pack0 with joins := pack0.joins.set 7 Join.idle } hd 0 (fun c => fresh c ∧ c.p .a 0 ≠ c.act) ∧
    both (syncState lane63 (others 64)) { pack0 with joins := pack0.joins.set 7 Join.idle } hd 0 (fun c => c.act ≠ 0 ∧ (∀ x ∈ c.f.syncs, ¬mine c.f x) ∧
      64 ≤ many c.f) ∧
    both (syncState lane63 [syncAt 0x30000 1]) { pack0 with joins := pack0.joins.set 7 Join.idle } hd 0 (fun c => c.act ≠ 0 ∧ (∃ x ∈ c.f.syncs, mine c.f x) ∧
      ∀ x ∈ c.f.syncs, x.member ≠ c.p .a 0) ∧
    sign ⟨1, 0, 0, 0, none⟩ (fits ⟨1, 0, 0, 0, none⟩ ∧ 0 + 1 = 1) ∧ sign ⟨1024, 1022, 5, 5, some SignRec.jsign⟩ (fits ⟨1024, 1022, 5, 5, some SignRec.jsign⟩) ∧
    sign Join.idle (¬fits Join.idle) ∧ sign ⟨2, 1, 0, 0, some mma⟩ (¬fits ⟨2, 1, 0, 0, some mma⟩) ∧
    sign ⟨2, 2, 0, 0, some SignRec.jsign⟩ (¬fits ⟨2, 2, 0, 0, some SignRec.jsign⟩) ∧
    (popc 0x8000000000000000 ≤ object.pend ∧ popc 0x8000000000000000 ≤ object.exp) ∧
    both (syncState all64 []) { pack0 with joins := pack0.joins.set 7 Join.idle } hd 0 (fun c => now 0 c ∧ object.pend < popc c.act ∧ object.exp < popc c.act) ∧
    ({ loadDesc with barq := 31 } : Desc).bars .quad ≤ (31 : BitVec 5).toNat ∧ Option.map (·.desc) ((with_ all64).fieldOf pack0.id) = some loadDesc := by
  and_intros <;>
  first
  | decide +kernel
  | exact here rfl rfl rfl ⟨by decide +kernel, by decide +kernel, by decide +kernel, by unfold GoodObj; decide +kernel, _, rfl, by decide +kernel⟩

/-- A pack whose join 7 stands as given; a floe whose s3 holds a count and that has signed generation 5 of it, or has signed nothing. -/
def joined (x : Join) (f : Floe) : State := packed { pack0 with joins := pack0.joins.set 7 x } (with_ f)
def signed5 : Floe := { all64 with signed := [(7, ⟨5, 1, 0x30000, 0, true⟩)] }

/-- A count of 1,024 for an idle join and the same count again; 1,025, and another count while signatures are counted; a floe that has signed
nothing, and one whose generation completed last, or 65,535 completions ago, or is to come. -/
theorem witness_JoinWords :
    let ok (x : Join) (v : Nat) : Prop := v ≤ 1024 ∧ (x.expected = 0 ∨ x.count = 0 ∨ x.expected.toNat = v)
    let decl (x : Join) (v : Nat) (P : Prop) : Prop :=
      let f := { all64 with s := [(3, BitVec.ofNat 64 v)] }
      (Here (joined x f) fun w f r => activeOf w f r hs ≠ 0 ∧ operandsOk (joined x f) f (.jdecl hs 7 3) = true ∧
        (ctxOf (joined x f) w f r hs).nat .a 3 = v) ∧ P
    let wait (x : Join) (f : Floe) (P : Option Sig → Prop) : Prop :=
      Here (joined x f) fun w f r => activeOf w f r hs ≠ 0 ∧ operandsOk (joined x f) f (.jwait hs 7) = true ∧ P (f.signed.find? 7)
    let done (x : Join) (g : Sig) : Prop := (x.gen - x.done).toNat < (g.gen - x.done).toNat
    decl Join.idle 1024 (ok Join.idle 1024) ∧ decl ⟨1024, 3, 0, 0, none⟩ 1024 (ok ⟨1024, 3, 0, 0, none⟩ 1024) ∧
    decl Join.idle 1025 (¬ok Join.idle 1025) ∧ decl ⟨4, 3, 0, 0, none⟩ 5 (¬ok ⟨4, 3, 0, 0, none⟩ 5) ∧
    (Here (joined Join.idle all64) fun w f r => activeOf w f r ⟨true, true, 0⟩ = 0 ∧
      ∀ i ∈ [Instr.jdecl ⟨true, true, 0⟩ 7 3, .jwait ⟨true, true, 0⟩ 7], operandsOk (joined Join.idle all64) f i = true) ∧
    wait Join.idle all64 (· = none) ∧
    wait ⟨1, 0, 6, 6, none⟩ signed5 (fun g => ∃ x, g = some x ∧ done ⟨1, 0, 6, 6, none⟩ x) ∧
    wait ⟨1, 0, 4, 4, none⟩ signed5 (fun g => ∃ x, g = some x ∧ done ⟨1, 0, 4, 4, none⟩ x) ∧
    wait ⟨1, 0, 6, 5, none⟩ signed5 (fun g => ∃ x, g = some x ∧ ¬done ⟨1, 0, 6, 5, none⟩ x) := by
  and_intros <;>
  first
  | decide
  | exact here rfl rfl rfl (by decide +kernel)

/-! ### Tiles, accumulators, MMA -/

/-- INT8, 16 rows of 64 bytes; the pack with tiles 4 and 5 so configured. -/
def shape64 : Word := 0x103F49
def shaped : Pack := { pack0 with tshape := ((Vector.replicate 16 0).set 4 shape64).set 5 shape64 }
def tiled (f : Floe) : State := packed shaped (paged f)

theorem shapedAs_of {c : Ctx} {t : TReg} {p : Pack} {phys : Nat} {w : Word} (hp : c.pack? = some p)
    (h : p.tiles.getD t.toNat 0 = phys ∧ p.shape c.num t.toNat = w ∧ shV w = true) : ShapedAs c t phys w := ⟨p, hp, h⟩

theorem owns_of {c : Ctx} {d : AReg} {p : Pack} {phys : Nat} {a : Accum} (hp : c.pack? = some p)
    (h : p.accs.getD d.toNat 0 = phys ∧ (c.s.core c.core).acc phys = a ∧ c.f.sysPend.find? (0x090 + d.toNat) = none ∧
      (a.live = true → a.owner = c.f.ctx)) : Owns c d phys a := ⟨⟨p, hp, h.1⟩, h.2⟩

/-- A value that is not legal, 64 bytes of BF16 in 64 rows; zero and a legal value; a configured tile and one that is not. -/
theorem witness_TileConfigWords :
    let at_ (v : Word) (P : Prop → Word → Prop) : Prop :=
      let s := tiled (aimedAt all64 0 v)
      Here s fun w f r => operandsOk s f (.tcfg hd 15 3) = true ∧
        P ((ctxOf s w f r hd).act ≠ 0) ((ctxOf s w f r hd).sr .a 3 &&& ~~~(0x100000 : Word))
    at_ 0x3FC0 (fun _ v => v ≠ 0 ∧ tcfgOk shaped.tiles.length 15 v = true) ∧ at_ 0x40C0 (fun _ v => v ≠ 0 ∧ tcfgOk shaped.tiles.length 15 v = false) ∧
    at_ 0x100000 (fun act v => act ∧ v = 0) ∧ at_ 0x103F49 (fun act v => act ∧ tcfgOk shaped.tiles.length 15 v = true) ∧
    (Here (tiled all64) fun w f r => operandsOk (tiled all64) f (.tzero hd 4) = true ∧ (ctxOf (tiled all64) w f r hd).act ≠ 0 ∧
      ShapedAs (ctxOf (tiled all64) w f r hd) 4 4 shape64) ∧
    (Here (tiled all64) fun w f _ => operandsOk (tiled all64) f (.tzero hd 15) = true ∧ shV (shaped.shape w.number 15) = false) := by
  and_intros <;> refine here rfl rfl rfl ?_ <;> and_intros <;> first | decide +kernel | exact ⟨_, rfl, by decide +kernel⟩

/-- A key of INT8, 64 by 16, at 0x400000, under handle 4095. -/
def keyBytes : List Byte :=
  natLe 8 0x400000 ++ [9, 2, 0, 0, 0, 0, 0, 0] ++ natLe 4 64 ++ natLe 4 16 ++ natLe 4 1 ++ natLe 4 1 ++ natLe 4 1 ++ natLe 4 0 ++
    natLe 6 64 ++ natLe 6 0 ++ natLe 6 0 ++ natLe 6 0 ++ natLe 2 64 ++ natLe 2 16 ++ natLe 2 1 ++ natLe 2 1 ++ natLe 2 1 ++ natLe 14 0 ++ natLe 8 0
def keyed (f : Floe) : State :=
  let s := tiled f
  { s with hub := { s.hub with keys := [(4095, ⟨0, keyBytes⟩)] } }
def keyFloe (c1 : Word) : Floe := { lane63 with s := [(4, 4095), (5, c1)] }

/-- A box that touches memory, and one beyond the last coordinate. -/
theorem witness_KeyedTileLoads :
    let i := Instr.tldk hd (at_ 4 0) 4
    let k := keyOf keyBytes
    let wd (c : Ctx) (j : Nat) : Word := c.srAt .a 4 j
    let ok (cs : List Int) (c : Ctx) : Prop :=
      c.act ≠ 0 ∧ (wd c 0).toNat / 2 ^ 12 % 2 ^ 20 = 0 ∧ wd c 3 = 0 ∧ ShapedAs c 4 4 shape64 ∧ k.fits shape64 = true ∧
        c.s.keyAt ((wd c 0).toNat % 2 ^ 12) = some ⟨c.f.ctx, keyBytes⟩ ∧ tldkCoords (wd c 0) (wd c 1) (wd c 2) = cs
    k.status = 0 ∧ k.ranges [0, 0, 0, 0, 0] ≠ [] ∧ k.ranges [0, 16, 0, 0, 0] = [] ∧
    Accesses (keyed (keyFloe 0)) i hd ⟨false, 1, none, false⟩ (fun _ => (k.ranges [0, 0, 0, 0, 0]).map fun r => ((64, r.1), r.2))
      (fun _ cks => cks.flatMap fun ck => (laneUnits (levelOf k.level) 0 ck).map fun x => .load [{ x with k := ck.va.toNat + x.k }])
      (ok [0, 0, 0, 0, 0]) .latch ∧
    Here (keyed (keyFloe 16)) fun w f r => operandsOk (keyed (keyFloe 16)) f i = true ∧
      ok [0, 16, 0, 0, 0] (ctxOf (keyed (keyFloe 16)) w f r hd) := by
  and_intros <;>
  first
  | decide +kernel
  | refine here rfl rfl rfl ?_
  | refine accesses rfl rfl rfl rfl (by decide +kernel) ?_ (by decide +kernel)
  all_goals and_intros <;> first | decide +kernel | exact ⟨_, rfl, by decide +kernel⟩

/-- An accumulator of context 7. -/
def foreign : Accum := { Accum.zero with live := true, owner := 7, spill := 0x5000 }
def accState (a : Accum) (f : Floe) : State :=
  { paged f with cores := [(0, { Core.reset with banks := [(0, ⟨.pack, false, 0⟩)], seqNext := 1, accs := [(7, a)] })] }

/-- An accumulator of another context, and one that is free: the last 64 elements, one past them, and an index that is no multiple of 64. -/
theorem witness_AccumulatorWords :
    let at_ (a : Accum) (k0 : Word) (P : Ctx → Prop) : Prop :=
      Here (accState a (aimedAt lane63 0 k0)) fun w f r => activeOf w f r hd ≠ 0 ∧ P (ctxOf (accState a (aimedAt lane63 0 k0)) w f r hd) ∧
        ∀ i ∈ [Instr.accz hd 7, .accmov hd 4 7 3, .accbnd hd 4 7], operandsOk (accState a (aimedAt lane63 0 k0)) f i = true
    at_ foreign 0 (fun c => c.pack? = some pack0 ∧ (c.s.core c.core).acc (pack0.accs.getD 7 0) = foreign ∧ c.f.sysPend.find? (0x090 + 7) = none ∧
      foreign.live = true ∧ foreign.owner ≠ c.f.ctx) ∧
    at_ Accum.zero 192 (fun c => Owns c 7 7 Accum.zero ∧ c.nat .b 3 % 64 = 0 ∧ c.nat .b 3 < Accum.zero.m * Accum.zero.n) ∧
    at_ Accum.zero 256 (fun c => Owns c 7 7 Accum.zero ∧ Accum.zero.m * Accum.zero.n ≤ c.nat .b 3) ∧
    at_ { foreign with owner := 0 } 1 (fun c => Owns c 7 7 { foreign with owner := 0 } ∧ c.nat .b 3 % 64 ≠ 0) := by
  and_intros <;> refine here rfl rfl rfl ?_ <;> and_intros <;> decide +kernel

/-- TLD and TST of rows 64 bytes apart in plain memory, of such rows and of overlapping ones up to the last byte of the scratchpad, with a
control word that is not legal, of a tile that is not configured, and with no lane. ACCLD, ACCST, ACCSPILL and ACCFILL in plain memory;
the three words on the scratchpad, ACCST.add with an object, control words that are not legal, no lane, and a foreign accumulator. -/
theorem witness_TileAndAccumulatorMemoryWords :
    let m : MemOp := at_ 2 0
    (let n := shBytes shape64
     let pitch (c : Ctx) : Word := ((c.srAt .a m.sa 1).setWidth 48).signExtend 64
     let rows (c : Ctx) : List Word := (List.range (shRows shape64)).map fun r => c.sr .a m.sa + m.off.signExtend 64 + BitVec.ofNat 64 r * pitch c
     let bad (c : Ctx) : Prop := (c.srAt .a m.sa 1).toNat / 2 ^ 48 % 2 ^ 15 ≠ 0
     let ok (sp : Bool) (c : Ctx) : Prop := c.act ≠ 0 ∧ ¬bad c ∧ (c.srAt .a m.sa 1).msb = sp ∧ ShapedAs c 4 4 shape64
     let img (c : Ctx) : List (Byte × Bound) := (List.range (shRows shape64)).flatMap fun r =>
       let x := ((c.s.core c.core).tile 4).readRow c.num 4 r n
       x.1.map fun b => (b, x.2)
     let spans (cks : List LaneCheck) : List Span := (cks.map (laneUnits m.level n)).zipIdx.flatMap (placeRow n)
     let s (a ctl : Word) : State := tiled (aimedAt lane63 a ctl)
     let both (s : State) (h : Hdr) (t : TReg) (P : Ctx → Prop) : Prop := Here s fun w f r =>
       (∀ i ∈ [Instr.tld h m t, .tst h m t], operandsOk s f i = true) ∧ P (ctxOf s w f r h)
     Accesses (s 0x400000 64) (.tld hd m 4) hd ⟨false, 1, none, false⟩ (fun c => (rows c).map fun a => ((64, a), n))
       (fun _ cks => (spans cks).map fun x => .load [x]) (ok false) ∧
     Accesses (s 0x400000 64) (.tst hd m 4) hd ⟨true, 1, none, false⟩ (fun c => (rows c).map fun a => ((64, a), n))
       (fun c cks => (spans cks).map fun x => .store [storeSpan [x] (fun _ k => (img c).getD k (0, 0)) x]) (ok false) ∧
     both (s 0xFC00 0x8000000000000040) hd 4 (fun c => ok true c ∧ PadOk shaped 1 n (rows c) ∧ c.s.redirect shaped.id = none ∧ n ≤ (pitch c).toInt.natAbs) ∧
     both (s 0xFFC0 0x8000FFFFFFFFFFC1) hd 4 (fun c => ok true c ∧ PadOk shaped 1 n (rows c) ∧ (pitch c).toInt.natAbs < n) ∧
     both (s 0 0x4000000000000000) hd 4 bad ∧ both (s 0 64) hd 15 (fun c => ¬bad c ∧ shV (shaped.shape c.num 15) = false) ∧
     both (s 0 64) off 4 (fun c => ¬bad c ∧ ShapedAs c 4 4 shape64 ∧ c.act = 0)) ∧
    let x := Accum.zero
    let n := 4 * x.m * x.n
    let base (c : Ctx) : Word := c.sr .a m.sa + m.off.signExtend 64
    let ctl (c : Ctx) : Word := c.srAt .a m.sa 1
    let ok (sp : Bool) (c : Ctx) : Prop := c.act ≠ 0 ∧ ctl c = (if sp then 0x8000000000000000 else 0) ∧ Owns c 7 7 x
    let legalAdd (c : Ctx) : Prop := (ctl c).toNat / 2 ^ 56 % 2 ^ 5 = 0 ∧ (ctl c).toNat % 2 ^ 32 = 0 ∧ (ctl c).getLsbD 62 ≠ (ctl c).msb ∧
      ((ctl c).msb = true → (ctl c).toNat / 2 ^ 32 % 2 ^ 24 = 0)
    let s (a v : Word) : State := withPad objectBytes (paged (aimedAt lane63 a v))
    let units (cks : List LaneCheck) : List Span := cks.flatMap (laneUnits m.level n)
    let far (cks : List LaneCheck) : List Span := cks.flatMap (laneUnits .near 4160)
    let words (s : State) (h : Hdr) (P : Ctx → Prop) : Prop := Here s fun w f r =>
      (∀ i ∈ [Instr.accld h m 7, .accst h m 7, .accstAdd h m 7], operandsOk s f i = true) ∧ P (ctxOf s w f r h)
    Accesses (s 0x400400 0) (.accld hd m 7) hd ⟨false, n, none, false⟩ (fun c => [((64, base c), n)]) (fun _ cks => (units cks).map fun y => .load [y])
      (ok false) ∧
    Accesses (s 0x400400 0) (.accst hd m 7) hd ⟨true, n, none, false⟩ (fun c => [((64, base c), n)])
      (fun c cks => (units cks).map fun y => .store [storeSpan [y] (fun _ k => (accImage (x.readRows c.num 7)).getD k (0, 0)) y]) (ok false) ∧
    Accesses (s 0x400400 0) (.accspill hd 7 2) hd ⟨true, 64, none, false⟩ (fun c => [((64, c.sr .b 2), 4160)])
      (fun c cks => (far cks).map fun y => .store [storeSpan [y] (fun _ k => (spillImage (c.accAt 7).2 c.num (c.accAt 7).1).getD k (0, 0)) y])
      (fun c => c.act ≠ 0) ∧
    Accesses (s 0x400400 0) (.accfill hd true 1 7 2) hd ⟨false, 64, none, false⟩ (fun c => [((64, c.sr .a 2), 4160)])
      (fun _ cks => (far cks).map fun y => .load [y]) (fun c => c.act ≠ 0) ∧
    words (s 0xFC00 0x8000000000000000) hd (fun c => ok true c ∧ PadOk pack0 n n [base c] ∧ legalAdd c ∧ c.s.redirect pack0.id = none) ∧
    words (s 0x400400 0x4000001000000000) hd (fun c => c.act ≠ 0 ∧ Owns c 7 7 x ∧ legalAdd c ∧ (ctl c).msb = false ∧
      GoodObj c pack0 (BitVec.ofNat 64 ((ctl c).toNat / 2 ^ 32 % 2 ^ 24)) object ∧
        ∃ s' cks, Passes c ⟨true, n, none, false⟩ [((64, base c), n)] pack0 s' cks) ∧
    words (s 0 1) hd (fun c => ctl c &&& 0x7FFFFFFFFFFFFFFF ≠ 0 ∧ ¬legalAdd c) ∧ words (s 0 0) off (fun c => c.act = 0 ∧ ctl c &&& 0x7FFFFFFFFFFFFFFF = 0) ∧
    words (s 0 0x8000000000000000) off (fun c => c.act = 0 ∧ legalAdd c) ∧
    words (accState foreign (aimedAt lane63 0 0x8000000000000000)) hd (fun c => c.act ≠ 0 ∧ legalAdd c ∧ ctl c &&& 0x7FFFFFFFFFFFFFFF = 0 ∧
      (c.s.core c.core).acc (pack0.accs.getD 7 0) = foreign ∧ c.f.sysPend.find? (0x090 + 7) = none ∧ foreign.live = true ∧ foreign.owner ≠ c.f.ctx) := by
  and_intros <;>
  first
  | refine here rfl rfl rfl ?_
  | refine accesses rfl rfl rfl rfl (by decide +kernel) ?_ (by decide +kernel)
  all_goals
    and_intros <;>
    first
    | decide +kernel
    | exact ⟨_, rfl, by decide +kernel⟩
    | exact padOk_of (by decide +kernel)
    | exact passes_of rfl (by decide +kernel)

/-- An INT8 MMA at a reduced tier; one on tiles that are not configured, one with no lane, one with a foreign accumulator; a join that expects
nothing, one that counts another record, one that is full; a generation that begins, one that another has begun, one that ends. -/
theorem witness_MmaWord :
    let rec_ : SignRec := ⟨true, 16, 7, 4, 5, 0, 0, 0⟩
    let at_ (h : Hdr) (t : Tier) (a : TReg) (x : Join) (y : Accum) (P : Ctx → Pack → Prop) : Prop :=
      let p := { shaped with joins := shaped.joins.set 7 x }
      let s := packed p (accState y lane63)
      Here s fun w f r => operandsOk s f (.mma h t false 7 a 5 7) = true ∧ P (ctxOf s w f r h) p
    let int (p : Pack) (t : TReg) : Prop := shFmt (p.shape issued.number t.toNat) = 9
    let fits (p : Pack) : Prop := int p 4 ∧ int p 5 ∧ (mmaDim (p.shape issued.number) 4 5).isSome = true
    let mine (c : Ctx) (p : Pack) (Q : Join → Nat → Prop) : Prop := fits p ∧ c.act ≠ 0 ∧ Owns c 7 7 Accum.zero ∧ Q (p.join 7) ((p.join 7).count.toNat + popc c.act)
    at_ hs .half 4 Join.idle Accum.zero (fun _ p => int p 4 ∧ int p 5) ∧ at_ hs .quart 4 Join.idle Accum.zero (fun _ p => int p 4 ∧ int p 5) ∧
    at_ hs .full 6 Join.idle Accum.zero (fun _ p => ¬int p 6 ∧ mmaDim (p.shape issued.number) 6 5 = none) ∧
    at_ ⟨true, true, 0⟩ .full 4 Join.idle Accum.zero (fun c p => fits p ∧ c.act = 0) ∧
    at_ hs .full 4 Join.idle foreign (fun c p => fits p ∧ c.act ≠ 0 ∧ (c.s.core c.core).acc (p.accs.getD 7 0) = foreign ∧
      c.f.sysPend.find? (0x090 + 7) = none ∧ foreign.live = true ∧ foreign.owner ≠ c.f.ctx) ∧
    at_ hs .full 4 Join.idle Accum.zero (fun c p => mine c p fun x _ => x.expected = 0) ∧
    at_ hs .full 4 ⟨2, 1, 0, 0, some { rec_ with a := 6 }⟩ Accum.zero (fun c p => mine c p fun x _ => x.expected ≠ 0 ∧ x.count ≠ 0 ∧ x.rec? ≠ some rec_) ∧
    at_ hs .full 4 ⟨2, 2, 0, 0, some rec_⟩ Accum.zero (fun c p => mine c p fun x n => x.rec? = some rec_ ∧ x.expected.toNat < n) ∧
    at_ hs .full 4 ⟨1, 0, 0, 0, none⟩ Accum.zero (fun c p => mine c p fun x n => x.count = 0 ∧ n = x.expected.toNat ∧
      ∀ m ∈ p.mmas, m.join = 7 → m.gen ≠ x.gen) ∧
    at_ hs .full 4 ⟨2, 1, 0, 0, some rec_⟩ Accum.zero (fun c p => mine c p fun x n => x.rec? = some rec_ ∧ n = x.expected.toNat) ∧
    at_ hs .full 4 ⟨1024, 0, 0, 0, none⟩ Accum.zero (fun c p => mine c p fun x n => x.count = 0 ∧ n < x.expected.toNat) := by
  and_intros <;> refine here rfl rfl rfl ?_ <;> and_intros <;> decide +kernel

/-! ### Keys, Latch and Serac -/

theorem noRedirects_of {s : State} (h : (s.dies.all fun e => e.2.redirects.isEmpty) = true) : NoRedirects s := by
  intro id
  unfold State.redirect
  rw [List.findSome?_eq_none_iff]
  intro e he
  have h0 : e.2.redirects = [] := by simpa using List.all_eq_true.mp h e he
  simp [h0]

/-- A table that holds the keys of a list of handles finds each of them. -/
theorem find_of_mem {k : Key} {l : List Nat} {n : Nat} (h : n ∈ l) : Tbl.find? (l.map fun n => (n, k)) n ≠ none := by
  induction l with
  | nil => cases h
  | cons a t ih =>
    simp only [List.map_cons, Tbl.find?]
    split
    · simp
    · rename_i hne
      exact ih (by simp at h; exact h.resolve_left (by rintro rfl; simp at hne))

/-- Every handle in use. -/
@[irreducible] def fullKeys : Tbl Key := (List.range 4096).map fun n => (n, ⟨7, keyBytes⟩)

theorem fullKeys_found {n : Nat} (h : n ≤ 4095) : Tbl.find? fullKeys n ≠ none := by
  unfold fullKeys
  generalize hm : 4096 = m
  exact find_of_mem (List.mem_range.mpr (by omega))

/-- A key of the floe's context under handle 4095, a key of another under 1, none under 2; a table with room, for a descriptor that is legal
and one that is not (zeros, at offset 0), and a full table. -/
theorem witness_KeyWords :
    let desc : Tbl Byte := (keyBytes.zipIdx.filter fun e => e.1 != 0).map fun e => (96 + e.2, e.1)
    let st (keys : Tbl Key) (a o : Word) : State :=
      let s := withPad desc (with_ (aimedAt all64 a o))
      { s with hub := { s.hub with keys := keys } }
    let some_ : Tbl Key := [(1, ⟨7, keyBytes⟩), (4095, ⟨0, keyBytes⟩)]
    let at_ (keys : Tbl Key) (a o : Word) (P : State → Nat → Nat → Prop) : Prop := Here (st keys a o) fun w f r =>
      let c := ctxOf (st keys a o) w f r hd
      activeOf w f r hd ≠ 0 ∧ (∀ i ∈ [Instr.keydrop hd 2, .keycut hd 4 3 0, .keyq hd 4 2], operandsOk (st keys a o) f i = true) ∧
        PadOk pack0 16 96 [c.sr .a 3 + (0 : BitVec 13).signExtend 64] ∧
        P (st keys a o) (c.nat .a 2 % 2 ^ 12) (keyOf ((st keys a o).padBytes f.pack pack0 (c.sr .a 3 + (0 : BitVec 13).signExtend 64).toNat 96)).status
    let free (s : State) (n : Nat) : Prop := 1 ≤ n ∧ n ≤ 4095 ∧ s.hub.keys.find? n = none
    (Here (st some_ 4095 96) fun w f r => activeOf w f r off = 0 ∧
      ∀ i ∈ [Instr.keydrop off 2, .keycut off 4 3 0], operandsOk (st some_ 4095 96) f i = true) ∧
    at_ some_ 4095 96 (fun s n st => s.keyAt n = some ⟨0, keyBytes⟩ ∧ st = 0 ∧ free s 2) ∧
    at_ some_ 1 0 (fun s n st => s.keyAt n = some ⟨7, keyBytes⟩ ∧ st ≠ 0 ∧ free s 4094) ∧
    at_ some_ 2 96 (fun s n _ => s.keyAt n = none) ∧ at_ fullKeys 0 96 (fun s _ _ => ∀ n, ¬free s n) := by
  and_intros <;> refine here rfl rfl rfl ?_ <;> and_intros <;>
  first
  | decide +kernel
  | exact padOk_of (by decide +kernel)
  | exact fun n ⟨_, h2, h3⟩ => fullKeys_found h2 h3

/-- Chains of 256 requests, one and none, of requests whose object stands at offset 0; chains that are not aligned, that do not fit, and of a
request without an object; a chain of 257; queue 3, and numbers up to 7 and from 8; no lane. -/
theorem witness_LatchWords :
    let bytes : Tbl Byte := [(0, 1), (2, 1), (14, 3), (15, 0x80)]
    let at_ (h : Hdr) (pad : Tbl Byte) (a n : Word) (P : State → Ctx → Prop) : Prop :=
      let s := withPad pad (with_ (aimedAt lane63 a n))
      Here s fun w f r => s.packs.find? f.pack = some pack0 ∧ (∀ i ∈ [Instr.cpykick h 3 .pod 3 2 0, .cpystat h 4 3, .cpycan h 3], operandsOk s f i = true) ∧
        P s (ctxOf s w f r h)
    let o (c : Ctx) : Word := c.sr .a 2 + (0 : BitVec 13).signExtend 64
    let takes (n : Nat) (s : State) (c : Ctx) : Prop :=
      c.act ≠ 0 ∧ c.nat .d 3 = n ∧ PadOk pack0 64 (64 * n) [o c] ∧ chainFault s 0 pack0 (o c).toNat n = none
    at_ hd bytes 64 256 (takes 256) ∧ at_ hd bytes 64 1 (takes 1) ∧ at_ hd bytes 64 0 (takes 0) ∧
    at_ hd bytes 32 256 (fun _ c => c.act ≠ 0 ∧ c.nat .d 3 ≤ 256 ∧ (o c).toNat % 64 ≠ 0) ∧
    at_ hd bytes 0xFFC0 2 (fun _ c => c.act ≠ 0 ∧ (o c).toNat % 64 = 0 ∧ pack0.inPad (o c).toNat (64 * 2) = false) ∧
    at_ hd [] 64 1 (fun s c => c.act ≠ 0 ∧ PadOk pack0 64 (64 * 1) [o c] ∧ chainFault s 0 pack0 (o c).toNat 1 = some (0, 0x32, 1)) ∧
    at_ hd bytes 64 257 (fun _ c => 256 < c.nat .d 3) ∧ at_ hd bytes 64 3 (fun _ c => c.act ≠ 0 ∧ c.nat .a 3 < 4) ∧
    at_ hd bytes 64 4 (fun _ c => 4 ≤ c.nat .a 3) ∧ at_ hd bytes 64 7 (fun s c => c.act ≠ 0 ∧ c.nat .a 3 < 8 ∧ NoRedirects s) ∧
    at_ hd bytes 64 8 (fun _ c => 8 ≤ c.nat .a 3) ∧ at_ off bytes 64 7 (fun _ c => c.act = 0 ∧ c.nat .d 3 ≤ 256 ∧ c.nat .a 3 < 8) := by
  and_intros <;> refine here rfl rfl rfl ?_ <;> and_intros <;>
  first
  | decide +kernel
  | exact padOk_of (by decide +kernel)
  | exact noRedirects_of (by decide +kernel)

/-- A floe whose s2, s4, s5 and s7 hold rows of linear memory, and s6 a control word. -/
def rowFloe (d ctl : Word) : Floe := { lane63 with s := [(2, d), (4, 0x40000400), (5, 0x40000800), (6, ctl), (7, 0x40000C00)] }
def narrow : Tbl Byte := [(16, 1), (18, 1), (24, 5), (30, 2), (31, 0x80)]

/-- ROWSTAT with a field that it does not have, and with 0x103; row words of no rows, with a range that is not aligned, with an object of die
scope, and with one of package scope over one row of linear memory. -/
theorem witness_RowWords :
    let stat (v : Word) (P : Word → Prop) : Prop := Here (with_ (aimedAt all64 0 v)) fun w f r =>
      operandsOk (with_ (aimedAt all64 0 v)) f (.rowstat hd 127 3) = true ∧ activeOf w f r hd ≠ 0 ∧ P ((ctxOf (with_ (aimedAt all64 0 v)) w f r hd).sr .a 3)
    let rows : List (Instr × RowOp × (Ctx → List Word)) :=
      let A (c : Ctx) := c.sr .a 4
      let B (c : Ctx) := c.sr .b 5
      [(.rowcpy hd 2 4 6, .cpy, fun c => [A c]), (.rowfil hd 2 4 6, .fil, fun _ => []), (.rowand hd 2 4 5 6, .and, fun c => [A c, B c]),
        (.rowor hd 2 4 5 6, .or, fun c => [A c, B c]), (.rowxor hd 2 4 5 6, .xor, fun c => [A c, B c]), (.rownot hd 2 4 6, .not, fun c => [A c]),
        (.rowmaj hd 2 4 5 6, .maj, fun c => [A c, B c, c.srAt .c 6 1]), (.rowrdx hd 2 4 6, .rdx, fun c => [A c])]
    let at_ (pad : Tbl Byte) (d ctl : Word) (P : Ctx → Nat → (RowOp → RowRange × List RowRange) → Prop) : Prop :=
      let s := withPad pad (paged (rowFloe d ctl))
      Here s fun w f r =>
        let c := ctxOf s w f r hd
        let n := c.nat .c 6 % 2 ^ 12
        c.act ≠ 0 ∧ (∀ e ∈ rows, operandsOk s f e.1 = true) ∧
          P c (c.nat .c 6) fun op => (⟨c.sr .d 2, if op = .rdx then 1 else n, true⟩,
            (((rows.filter fun e => e.2.1 == op).flatMap fun e => e.2.2 c).map fun y => ⟨y, n, false⟩))
    let good (ctl : Nat) : Prop := ctl % 2 ^ 12 ≠ 0 ∧ ctl / 2 ^ 12 % 16 = 0 ∧ ctl / 2 ^ 40 = 0
    let bar (ctl : Nat) : Word := BitVec.ofNat 64 (ctl / 2 ^ 16 % 2 ^ 24)
    stat 4 (fun v => v &&& ~~~(0x103 : Word) ≠ 0) ∧ stat 0x103 (fun v => v &&& ~~~(0x103 : Word) = 0) ∧
    at_ objectBytes 0x40000000 0x100000 (fun _ ctl _ => ctl % 2 ^ 12 = 0) ∧
    at_ objectBytes 0x40000200 0x100001 (fun _ ctl rs => good ctl ∧ ∀ e ∈ rows, (serAlign e.2.1 (rs e.2.1).1 (rs e.2.1).2).isSome = true) ∧
    at_ narrow 0x40000000 0x100001 (fun c ctl rs => good ctl ∧ (∀ e ∈ rows, serAlign e.2.1 (rs e.2.1).1 (rs e.2.1).2 = none) ∧
      GoodObj c pack0 (bar ctl) ⟨1, 1, 0, 5, 0x80020000⟩ ∧ (⟨1, 1, 0, 5, 0x80020000⟩ : BarObj).scope < 3) ∧
    at_ objectBytes 0x40000000 0x100001 (fun c ctl rs => good ctl ∧ (∀ e ∈ rows, serAlign e.2.1 (rs e.2.1).1 (rs e.2.1).2 = none) ∧
      GoodObj c pack0 (bar ctl) object ∧ 3 ≤ object.scope ∧ c.r.denied &&& c.act = 0 ∧
      ∀ e ∈ rows,
        let chk := ((rs e.2.1).1 :: (rs e.2.1).2).foldl (fun (z : State × List LaneCheck) y =>
          let k := checkLane c.core c.f.ctx (c.s.rootOf pack0) c.f.handler ⟨y.dst, 1, none, false⟩ (y.rows * 1024) z.1 (64, y.base) .words true
          (k.1, z.2 ++ [k.2])) (c.s, [])
        ∀ k ∈ chk.2, k.prot = false ∧ k.miss = [] ∧ ∀ y ∈ k.pieces, pteSer y.leaf = true) := by
  and_intros <;> refine here rfl rfl rfl ?_ <;> and_intros <;> decide +kernel

/-- The words of the statement with rows in plain memory and in the scratchpad, keys, images, chains and records as their own statements have
them; a join that expects the lanes of ACTIVE. -/
theorem witness_FormsComplete :
    let m : MemOp := at_ 2 0
    let words (s : State) (P : Ctx → Prop) : Prop := Here s fun w f r =>
      (∀ i ∈ [Instr.tld hd m 4, .tst hd m 4, .accld hd m 7, .accst hd m 7, .accstAdd hd m 7, .accspill hd 7 2, .accfill hd true 1 7 2,
        .mma hs .auto true 7 4 5 7, .cpykick hd 3 .pod 3 2 0, .cpystat hd 4 3, .cpycan hd 3], operandsOk s f i = true) ∧ P (ctxOf s w f r hd)
    let rows (c : Ctx) : List Word := (List.range (shRows shape64)).map fun k =>
      c.sr .a m.sa + m.off.signExtend 64 + BitVec.ofNat 64 k * ((c.srAt .a m.sa 1).setWidth 48).signExtend 64
    let base (c : Ctx) : Word := c.sr .a m.sa + m.off.signExtend 64
    let both (P : Bool → Prop) : Prop := P true ∧ P false
    let tall : Pack := { shaped with joins := shaped.joins.set 7 ⟨1, 0, 0, 0, none⟩ }
    let s (a v : Word) : State := packed tall (withPad objectBytes (paged (aimedAt lane63 a v)))
    words (s 0x400400 64) (fun c => ShapedAs c 4 4 shape64 ∧
      both fun b => c.Reaches ⟨b, 1, none, false⟩ ((rows c).map fun x => ((64, x), shBytes shape64))) ∧
    words (s 0xFC00 0x8000000000000040) (fun c => ShapedAs c 4 4 shape64 ∧ (c.srAt .a 2 1).msb = true ∧ PadOk tall 1 64 (rows c)) ∧
    words (s 0x400400 0) (fun c => Owns c 7 7 Accum.zero ∧ c.srAt .a 2 1 = 0 ∧
      both fun b => c.Reaches ⟨b, 1024, none, false⟩ [((64, base c), 1024)] ∧ c.Reaches ⟨b, 64, none, false⟩ [((64, base c), 4160)]) ∧
    words (s 0x400400 0x4000001000000000) (fun c => Owns c 7 7 Accum.zero ∧ GoodObj c tall 16 object ∧
      c.Reaches ⟨true, 1024, none, false⟩ [((64, base c), 1024)]) ∧
    words (s 64 256) (fun c => (mmaDim (tall.shape c.num) 4 5).isSome = true ∧ (tall.join 7).count = 0 ∧ popc c.act ≤ (tall.join 7).expected.toNat ∧
      Owns c 7 7 Accum.zero) ∧
    words (s 64 1) (fun c => c.nat .a 3 < 4) ∧
    (Here (keyed (keyFloe 0)) fun w f r =>
      let c := ctxOf (keyed (keyFloe 0)) w f r hd
      operandsOk (keyed (keyFloe 0)) f (.tldk hd (at_ 4 0) 4) = true ∧ ShapedAs c 4 4 shape64 ∧ (keyOf keyBytes).fits shape64 = true ∧
        c.Reaches ⟨false, 1, none, false⟩ (((keyOf keyBytes).ranges (tldkCoords (c.sr .a 4) (c.srAt .a 4 1) (c.srAt .a 4 2))).map fun e => ((64, e.1), e.2))
          .latch) ∧
    Here (paged (saver 0x1FFFF000)) fun w f r =>
      let c := ctxOf (paged (saver 0x1FFFF000)) w f r hd
      c.f.handler = true ∧ (c.sr .a 2).toNat % 256 = 0 ∧
        c.Reaches ⟨true, 1, none, false⟩ (recAddrs (c.sr .a 2) ((recParts c).map fun e => (e.1, e.2.length))) ∧
        c.Reaches ⟨false, 1, none, false⟩ (recAddrs (c.sr .a 2) [(0, 0x580), (0x980, recFixed f.valloc - 0x980 + 24 * c.peekSyncs (c.sr .a 2))]) := by
  have reach {c : Ctx} {rule : AccRule} {las : List ((Nat × Word) × Nat)} {p : Pack} {g : Agent} (hp : c.pack? = some p)
      (h : let x := (checkLanes c.core c.f.ctx (c.s.rootOf p) c.f.handler rule c.s las g).2
        c.r.denied &&& c.act = 0 ∧ ∀ k ∈ x, k.mis = false ∧ k.prot = false ∧ k.cell = false ∧ k.miss = []) : c.Reaches rule las g :=
    ⟨p, passes_of hp h⟩
  and_intros <;> refine here rfl rfl rfl ?_ <;> and_intros <;>
  first
  | decide +kernel
  | exact ⟨_, rfl, by decide +kernel⟩
  | exact padOk_of (by decide +kernel)
  | exact reach rfl (by decide +kernel)


/-! ### Words, steps and reset -/

theorem witness_DecodeOfEncode :
    let i : Instr := .ffma ⟨true, true, 7⟩ ⟨.f64, .auto, .rd, true⟩ true 1022 0 1020 2
    i.wf = true ∧ (encode i).isSome = true ∧ (encode i).all (fun w => decide (decode? w = some i)) = true := by decide +kernel

theorem witness_EncodeOfDecode : ∃ i, decode 0x163000FFFFFFFFFF = .ok i := ⟨.nop hd, by rfl⟩

/-- The hypotheses of StepRunsWord about the fetch, with P of the rest. -/
def fetchFacts (s : State) (P : State → State → Nat → Floe → Run → Bool → Word → Word → Bool) : Bool :=
  match s.issue with
  | [] => false
  | key :: rest =>
    let s0 : State := { s with issue := rest }
    match s.floes.find? key with
    | none => false
    | some f =>
      s0.mayIssue key f && match s0.startRun f with
        | none => false
        | some (g, r, new) =>
          match s0.packs.find? g.pack with
          | none => false
          | some p =>
            let x := s0.lookup .words (coreOf key) g.ctx (s0.rootOf p) (r.pc.setWidth 64) (fetchOk g.handler)
            decide (r.deniedFetch &&& r.mask = 0) && match x.2 with
              | .ok pa leaf _ => !x.1.poisonedAt (dieOf (coreOf key)) pa && P s0 x.1 key g r new (wordOfBytes (x.1.pbytes pa 8)) leaf
              | .miss _ _ => false

def Fetches (s : State) (P : State → State → Nat → Floe → Run → Bool → Word → Word → Bool) : Prop :=
  ∃ key rest f p g r new s1 pa leaf e, s.issue = key :: rest ∧ s.floes.find? key = some f ∧
    (let s0 : State := { s with issue := rest }
     s0.mayIssue key f = true ∧ s0.startRun f = some (g, r, new) ∧ s0.packs.find? g.pack = some p ∧ r.deniedFetch &&& r.mask = 0 ∧
       s0.lookup .words (coreOf key) g.ctx (s0.rootOf p) (r.pc.setWidth 64) (fetchOk g.handler) = (s1, .ok pa leaf e) ∧ s1.poisonedAt (dieOf (coreOf key)) pa = false ∧
       P s0 s1 key g r new (wordOfBytes (s1.pbytes pa 8)) leaf = true)

theorem fetches {s : State} {P : State → State → Nat → Floe → Run → Bool → Word → Word → Bool} (h : fetchFacts s P = true) : Fetches s P := by
  unfold fetchFacts at h
  split at h
  · cases h
  rename_i key rest hi
  dsimp only at h
  split at h
  · cases h
  rename_i f hf
  simp only [Bool.and_eq_true] at h
  obtain ⟨hr, h⟩ := h
  split at h
  · cases h
  rename_i g r new hs
  split at h
  · cases h
  rename_i p hp
  simp only [Bool.and_eq_true, decide_eq_true_eq] at h
  obtain ⟨hd, h⟩ := h
  split at h
  · rename_i pa leaf e hx
    simp only [Bool.and_eq_true, Bool.not_eq_true'] at h
    exact ⟨key, rest, f, p, g, r, new, _, pa, leaf, e, hi, hf, hr, hs, hp, hd, Prod.ext rfl hx, h.1, h.2⟩
  · cases h

/-- An access of the floe with all of it to come. -/
def access (todo : List Work) (dest : Dest) (snap : Option Floe) : Acc :=
  { floe := 0, seq := 0, pack := ⟨0, 0, 0⟩, number := 9, run := 0, lanes := allLanes, order := .rlx, scope := .die, reads := true, writes := false, mmio := false,
    sticky := false, todo := todo, got := [], wrote := [], poison := [], dest := dest, pc := 0x30000, word := 0, born := 0, exp := 0, snap := snap }

/-- Whether a word that issues reads poisoned data of the core's own SRAM, and whether its meaning fails a check of R106. -/
def readsPoison (s s1 : State) (key : Nat) (g : Floe) (r : Run) (new : Bool) (word : Word) (i : Instr) (failed : Bool) : Bool :=
  let g' : Floe := { g.keepCkpts r with readyFor := 0, reported := false, yielded := false, waitFrom := s.firn (coreOf key) }
  let w : Issue := ⟨key, r.pc, word, s.fresh + if new then 1 else 0⟩
  let t : State :=
    { s1 with floes := s1.floes.put key g', issuing := some w, fresh := s1.fresh + if new then 2 else 1 }
  g'.resids.all (·.poison) && match context t (wordHdr word), exec i t with
    | .ok c, .next u => (c.poisoned i).isSome && (u.floes.find? key).any fun f => f.failedCheck == failed
    | _, _ => false

/-- A word that issues, one that must wait for an access of its run, one that reads a poisoned lane, one that would but fails a check, one that does not decode, and one
on a page that may not be executed. -/
theorem witness_StepRunsWord :
    let nop : Nat := 0x163000FFFFFFFFFF
    let s := State.reset.withFetchWord 64 nop
    let exit : Instr := .exit ⟨true, true, 5⟩
    let w : State := { State.reset.withFetchWord 64 0x962D00FFFFFFFFFF with pend := [(9, { access [] .frload (some all64) with run := s.fresh })] }
    let is (i : Instr) (x : Word) : Bool := decide (decode? x = some i)
    let mov : Instr := .vmov ⟨true, true, 5⟩ ⟨.n32, false⟩ 20 (.v 8)
    let u : State := State.reset.withFetchWord 64 0x876D4005008FFFFF
    let bad (u : State) : State := { u with floes := u.floes.map fun e => (e.1, { e.2 with resids := [⟨8, 3, false, false, true⟩] }) }
    let save : Instr := .frsave ⟨true, true, 5⟩ 24
    let v : State := State.reset.withFetchWord 64 0x96FD00FFC18FFFFF
    let goes (s0 s1 : State) (key : Nat) (g : Floe) (r : Run) (new : Bool) (x : Word) (i : Instr) : Bool :=
      is i x && !s0.mustWait key g r x (s0.fresh + if new then 1 else 0) i && !s1.upsets.any Upset.isResidue
    Fetches s (fun s0 s1 key g r new x leaf => fetchOk g.handler leaf && goes s0 s1 key g r new x (.nop hd) &&
      (g.keepCkpts r).resids.isEmpty && (s1.core (coreOf key)).bad.isEmpty) ∧
    Fetches (bad u) (fun s0 s1 key g r new x leaf => fetchOk g.handler leaf && goes s0 s1 key g r new x mov &&
      readsPoison (bad u) s1 key g r new x mov false) ∧
    Fetches (bad v) (fun s0 s1 key g r new x leaf => fetchOk g.handler leaf && goes s0 s1 key g r new x save &&
      readsPoison (bad v) s1 key g r new x save true) ∧
    Fetches w (fun s0 _ key g r new x leaf => fetchOk g.handler leaf && is exit x && s0.mustWait key g r x (s0.fresh + if new then 1 else 0) exit) ∧
    Fetches (State.reset.withFetchWord 64 0x1FF0000000000000) (fun _ _ _ g _ _ x leaf => fetchOk g.handler leaf && (decode? x).isNone) ∧
    Fetches (s.setBytes 0x20000 (natLe 8 0x813)) (fun _ _ _ g _ _ _ leaf => !fetchOk g.handler leaf) := by
  and_intros <;> exact fetches (by decide +kernel)

theorem witness_ResetValues : ({ loadDesc with uargs := List.replicate 8 1 } : Desc).uargs.length = 8 := rfl

/-- A step from reset, and a step that runs a word. -/
theorem witness_StepKeepsWf :
    let moves (s : State) : Prop := s.wf = true ∧ ∃ t, step s = .next t
    moves (State.reset.withFetchWord 64 0x163000FFFFFFFFFF) := by
  have next_of {s : State} (h : (match step s with
    | .next _ => true
    | _ => false) = true) : ∃ t, step s = .next t := by
    split at h
    · exact ⟨_, ‹_›⟩
    · cases h
  exact ⟨by decide +kernel, next_of (by decide +kernel)⟩

/-! ### Events of floes and of time -/

/-- A floe between runs with the given frontier, and a state with it alone. -/
def resting (fr : List Entry) : Floe := { all64 with run := none, frontier := fr }
def idle (f : Floe) : State := { with_ f with issuing := none }

/-- Deadlines that have come; runs that have ended, with a trap and without; PREEMPT; an entry to start; a clock of the last partition of the
last core. -/
theorem witness_RunEvents :
    let wait (w : Wait) : Floe := resting [⟨0x30000, 7, 8, allLanes, w, 0, 0⟩]
    let waits (f : Floe) (w : Wait) : Prop := f.deadline.toNat ≤ ((idle f).firn (coreOf 0)).toNat ∧
      ∃ e ∈ f.frontier ++ f.intFrontier, e.flags &&& 8 ≠ 0 ∧ e.wait = w
    let ended (t : Option Trap) : Floe :=
      { all64 with run := some { runOf 1 with ended := true, trap := t }, frontier := [⟨0x30008, 7, 0, 2, .none, 0, 0⟩] }
    let finished (f : Floe) (r : Run) : Prop := f.halted = false ∧ f.run = some r ∧ r.ended = true ∧ r.held = false ∧ r.mask ≠ 0 ∧
      (∀ e ∈ (idle f).pend, e.2.floe = 0 → e.2.seq = f.seq → e.2.snap = none) ∧ f.traps = [] ∧ f.syncs = [] ∧ r.halt = none ∧ r.late = none ∧ r.slept = false ∧
      (f.sbar = none ∨ r.sbar = 0)
    let t : Trap := ⟨0x10, 0x30000, 1, 0, 0, false⟩
    let p : Floe := { resting [⟨0x30000, 7, 0, allLanes, .none, 0, 0⟩] with preempt := true }
    waits (wait .sleep) .sleep ∧ waits (wait .lwait) .lwait ∧ (idle (wait .lwait)).hub.resync.getLsbD (dieOf (coreOf 0)) = false ∧
    (finished (ended none) { runOf 1 with ended := true, trap := none } ∧ ∀ e ∈ (ended none).frontier, e.flags = 0) ∧
    (finished (ended (some t)) { runOf 1 with ended := true, trap := some t } ∧ (ended (some t)).handler = false) ∧
    (p.preempt = true ∧ p.halted = false ∧ p.handler = false ∧ p.run = none ∧ (∀ e ∈ (idle p).pend, e.2.floe = 0 → e.2.seq ≠ p.seq) ∧
      (idle p).mmaFlying p = false) ∧
    (∃ g r, p.run = none ∧ State.startRun (idle p) p = some (g, r, true)) ∧ 319 < 320 ∧ 3 < 4 :=
  by and_intros <;> first | decide +kernel | exact ⟨_, _, rfl, rfl⟩

/-- A state with one die's record changed, and with one core's. -/
def onDie (g : Die → Die) (s : State) : State := { s with dies := [(0, g (s.die 0))] }
def onCore (g : Core → Core) (s : State) : State := { s with cores := [(0, g (s.core 0))] }
def onHub (g : Hub → Hub) (s : State) : State := { s with hub := g s.hub }
def calm : State := idle all64

/-- A request of 64 bytes (R218). -/
def reqBytes (opc flags q : Nat) (src dst len bar : Nat) : List Byte :=
  [BitVec.ofNat 8 opc, 0, BitVec.ofNat 8 flags, BitVec.ofNat 8 q, 0, 0, 0, 0] ++ natLe 8 src ++ natLe 8 dst ++ natLe 4 len ++ natLe 3 bar ++
    List.replicate 33 0
def noFork : Fork := ⟨0, 0, 0, 0⟩

/-- A state whose packs have no waking bank. -/
theorem awake_of {s : State} {id : PackId}
    (h : (s.packs.all fun e => !e.2.banks.any fun b => ((s.core (coreOf e.1)).bank b).waking) = true) :
    ∀ key p offs, s.packOf id = some (key, p) → s.padWaking key p offs = false := by
  intro key p offs hp
  have h0 := List.all_eq_true.mp h (key, p) (List.mem_of_find?_eq_some hp)
  simp only [Bool.not_eq_true'] at h0
  simp [State.padWaking, h0]

def reqOf (bytes : List Byte) (state : Byte) (flying : List Fly) : LReq :=
  { pack := ⟨0, 0, 0⟩, ctx := 0, off := 64, bytes := bytes, scope := .die, state := state, code := 0, issued := 0, landed := [], flying := flying,
    subtracted := 0, lostB := false, cancel := false, stall := none, renewed := [], key := none, fork := noFork }

/-- Beats that agree, by exactly SKEWMAX, and that do not, by one more, of a die in step and of one that resynchronises; samples of the pod's
time within PODSKEW and beyond it. -/
theorem witness_FirnAndLeaseEvents :
    let beat (firn beatAt : Nat) (resync : Byte) (agree : Nat) (P : Nat → Prop → Prop) : Prop :=
      let s : State := onHub (fun h => { h with firn := 512, resync := resync })
        { calm with dies := [(7, { Die.reset with firn := BitVec.ofNat 64 firn, beatAt := beatAt, agree := agree })] }
      let d := s.die 7
      7 < 8 ∧ s.beatsSince 7 ≠ 0 ∧ d.power ≠ .a3 ∧ s.hub.resync.getLsbD 7 = resync.getLsbD 7 ∧
        P (if s.hub.firn.toNat / 256 = d.beatAt / 256 + 1 then d.agree + 1 else 1)
          (d.firn.toNat + (-1 : Int).toNat ≤ s.hub.firn.toNat + s.hub.skewmax.toNat ∧ s.hub.firn.toNat ≤ d.firn.toNat + s.hub.skewmax.toNat)
    let window : Word := 0xA200000000000000
    let pod (n : Nat) : Hub := { Hub.reset with
      podEn := true, self := 3, master := 4, podDiscards := n, firn := 4000, cxlwin := (Vector.replicate 8 0).set 7 window }
    let samples (n : Nat) : Prop := (pod n).podEn = true ∧ (pod n).self ≠ (pod n).master ∧ (pod n).reachesMaster = true ∧
      (pod n).podSampled + 4000 ≤ (pod n).firn.toNat
    beat 520 256 0 0 (fun _ a => a) ∧ beat 521 256 0 0 (fun _ a => ¬a) ∧ beat 503 256 128 0 (fun _ a => ¬a) ∧
    beat 504 0 128 7 (fun n a => a ∧ n < 2) ∧ beat 504 256 128 1 (fun n a => a ∧ 2 ≤ n) ∧
    (samples 0 ∧ (pod 0).podskew.toNat < 201 ∧ (pod 0).podDiscards + 1 ≠ 3) ∧ (samples 2 ∧ (pod 2).podDiscards + 1 = 3) ∧
    (200 ≤ (pod 0).podskew.toNat ∧ max (pod 0).firn.toNat (5000 + 200 / 2) + (pod 0).skewmax.toNat < 2 ^ 64) := by
  and_intros <;> decide +kernel

/-- Leases of a line that the core holds and of one that it has lost, a line without a lease; horizons and translations at their ends; a recall;
a queue with a page to walk, and one with a page to renew. -/
theorem witness_FirnAndLeaseEvents_ends :
    let line (l1 : Tbl L1Line) (ls : List Lease) : State := onDie (fun d => { d with l2 := [(5, { L2Line.none with leases := ls })] })
      (onCore (fun c => { c with l1 := l1 }) calm)
    let ended (l : List Lease) (s : State) : Prop := (((s.die 0).line 5).leases.find? fun x => x.core == 0 && decide (x.expiry ≤ (s.firn 0).toNat)) = l.head?
    let hz : State := onDie (fun d => { d with firn := 9, l2 := [(5, { L2Line.none with horizon := 9 })] }) calm
    let dir : State := onHub (fun h => { h with dir := [(5, (true, 1, 0))] }) calm
    let tlb : State := onCore (fun c => { c with tlb := [⟨0, 64, 1, 0x400817, 0, false⟩] }) calm
    let fill : LReq := reqOf (reqBytes 0 2 3 0x40FFF8 64 16 0) 2 []
    let tables : State := (calm.setBytes loadRoot (natLe 8 (loadTable + 33))).setBytes loadTable (natLe 8 0x837)
    let walks : State := onCore (fun c => { c with queues := [(3, [fill])] }) tables
    let renews : State := onCore (fun c => { c with ahead := [⟨0, 64, 1, 0x400817, 1, false⟩] }) walks
    let found := walks.walk 0 fill.ctx (walks.rootId fill.pack) 0x410000 false
    ((line [(5, ⟨0, 1, 0⟩)] [⟨0, 0, true⟩]).core 0).l1.find? 5 = some ⟨0, 1, 0⟩ ∧ ended [⟨0, 0, true⟩] (line [(5, ⟨0, 1, 0⟩)] [⟨0, 0, true⟩]) ∧
    ((line [] [⟨0, 0, false⟩]).core 0).l1.find? 5 = none ∧ ended [⟨0, 0, false⟩] (line [] [⟨0, 0, false⟩]) ∧
    ((line [(5, ⟨0, 1, 0⟩)] [⟨0, 1, false⟩]).core 0).l1.find? 5 = some ⟨0, 1, 0⟩ ∧ ended [] (line [(5, ⟨0, 1, 0⟩)] [⟨0, 1, false⟩]) ∧
    (((hz.die 0).line 5).horizon ≠ 0 ∧ ((hz.die 0).line 5).horizon ≤ (hz.die 0).firn.toNat) ∧
    ((dir.hub.dir.find? 5).isSome = true ∧ dir.horizonPassed (5 * 128) = true) ∧
    (∃ e ∈ (tlb.core 0).tlb ++ (tlb.core 0).ahead, e.ctx = 0 ∧ e.page = 64 ∧ e.expiry ≤ (tlb.firn 0).toNat) ∧
    (walks.core 0).head 3 = some fill ∧
    (0x410000, false) ∈ fill.aheadVas ∧ canonical 0x410000 = true ∧ walks.cached .latch 0 fill.ctx 0x410000 = none ∧
    found.leaf.isSome = true ∧ found.expiry.isSome = true ∧ (renews.core 0).head 3 = some fill ∧ renews.toRenew 0 fill ≠ [] := by
  and_intros <;> decide +kernel

/-- A line of the first die leased for 100 ticks. -/
def leased (line : Nat) (s : State) : State := onDie (fun d => { d with l2 := [(line, { L2Line.none with horizon := 100 })] }) s

/-- A fault with room in the ring, without, and with a lease on its entry; answers with an unknown ID and with one that lanes wait on; a chain
with a place for its last request; a request to start; a piece of a fill that ends with its line; a piece that lands, and one that waits. -/
theorem witness_FaultAndLatchEvents :
    let fault (ws : List Waiter) (written : Bool) : FaultRec := ⟨9, 0, 64, 0x400000, 8, 0, 0, written, ws⟩
    let fq (en : Bool) : State := onHub (fun h => { h with faults := [fault [] false], fqen := en, fqien := true, fqbase := 0x400, fqtail := 15 }) calm
    let room (s : State) : Prop := s.hub.fqen = true ∧ (s.hub.fqtail - s.hub.fqhead).toNat ≠ 2 ^ s.hub.fqlog2.toNat
    let a := 4096 * (fq true).hub.fqbase.toNat + 32 * ((fq true).hub.fqtail.toNat % 2 ^ (fq true).hub.fqlog2.toNat)
    let pas := (List.range 32).map fun i => a + i
    let held : State := onHub (fun h => { h with faults := [fault [.lanes 0 0 1 false false] true] }) calm
    let one := reqOf (reqBytes 1 2 3 7 127 2 0) 1 []
    let kick : Kick := ⟨0, ⟨0, 0, 0⟩, 0, 3, 64, 1, .die, reqBytes 1 2 3 7 127 2 0, noFork⟩
    let kicks : State := onCore (fun c => { c with kicks := [kick], queues := [(3, List.replicate 255 one)] }) calm
    let start : State := onCore (fun c => { c with queues := [(3, [one])] }) calm
    let issue : State := onCore (fun c => { c with queues := [(3, [{ one with state := 2 }])] }) calm
    let fly : Fly := ⟨4, 0, 2 ^ 64, 0, 1, false, [], .near, [(0x400000, 7, 0xFF, 0)]⟩
    let wr := reqOf (reqBytes 1 0 3 7 0x400000 1 0) 2 [fly]
    let land : State := onCore (fun c => { c with queues := [(3, [wr])] }) calm
    let lands (s : State) : Prop := (s.core 0).flyOf 4 = some (3, 0, wr, fly) ∧ s.bankHeld 0 fly.level (fly.dst.map (·.1)) = false ∧
      s.lineHeld fly.id fly.born (.core 0) true (linesOf (fly.dst.map (·.1))) = false
    let may (s : State) : Bool := s.mayWrite (some (.unit fly.id 0)) (fly.dst.map (·.1))
    ((fq false).hub.faults.find? (fun x => !x.written) = some (fault [] false) ∧ ¬room (fq false) ∧ (fq false).hub.fqfull = false) ∧
    ((fq true).hub.faults.find? (fun x => !x.written) = some (fault [] false) ∧ room (fq true) ∧ spanIn [0, 1] a 32 = true ∧
      ∀ s ∈ [fq true, leased (a / 128) (fq true)], s.lineHeld s.fresh s.hub.firn.toNat .package true (linesOf pas) = false) ∧
    ((∀ x ∈ pas, (fq true).discards x = false ∧ (fq true).hub.inMoraine x = false) ∧ (fq true).mayWrite (some .fault) pas = true) ∧
    (leased (a / 128) (fq true)).mayWrite (some .fault) pas = false ∧ calm.hub.faults.find? (fun x => x.id == 9) = none ∧
    (held.hub.faults.find? (fun x => x.id == 9) = some (fault [.lanes 0 0 1 false false] true) ∧ held.floes.find? 0 = some all64 ∧ all64.seq = 0) ∧
    ((kicks.core 0).kicks.find? (fun x => x.queue == 3) = some kick ∧ ((kicks.core 0).queue 3).length + kick.count ≤ 256 ∧
      kicks.packOf kick.pack = some (0, pack0) ∧ kicks.padWaking 0 pack0 [64] = false ∧ kicks.redirect kick.pack = none ∧
      kicks.floes.find? kick.floe = some all64 ∧ all64.seq = kick.fork.seq) ∧
    ((start.core 0).toStart 3 = some (0, one) ∧ start.packOf one.pack = some (0, pack0) ∧ start.redirect one.pack = none ∧ start.padWaking 0 pack0 [one.off + 0x38] = false ∧
      ({ one with key := start.keyAt (one.num 4 2 % 4096) } : LReq).formError 3 = 0 ∧ one.len ≠ 0) ∧
    (issue.latchTurn 0 = some (3, 0, { one with state := 2 }) ∧ one.opc = 1 ∧ one.dsp = true ∧ issue.packOf one.pack = some (0, pack0) ∧ issue.requests 0 < 768 ∧
      min (128 - (one.dst.toNat + one.issued) % 128) (one.len - one.issued) = 1 ∧ one.dst.toNat + one.issued + 1 ≤ pack0.padSize) ∧
    (lands land ∧ fly.pad = false ∧ may land = true ∧ NoRedirects land ∧ (∀ key p offs, land.packOf wr.pack = some (key, p) → land.padWaking key p offs = false) ∧
      (fly.dst.all fun d => !land.hub.versioned d.1 && d.2.2.1 == 0xFF) = true) ∧
    lands (leased 0x8000 land) ∧ may (leased 0x8000 land) = false := by
  and_intros <;> first | decide +kernel | exact noRedirects_of (by decide +kernel) | exact awake_of (by decide +kernel)

/-- A copy with one piece to come, with its object in the scratchpad and outside it, and one with two; a drain that waits for a lease, and an integer one that does not; a Serac operation to fork,
on a leased line and not, one with a last step to make, and one with none. -/
theorem witness_CopyDrainAndSeracEvents :
    let span (k : Nat) : Span := ⟨0, k, 0x400000, 0x400000 + k, 8, true, .near⟩
    let copy (bar n : Nat) : Copy := ⟨7, 0, 2 ^ 64, ⟨0, 0, 0⟩, 0, (List.range n).map fun k => span (8 * k), 256, 8 * n, bar, noFork⟩
    let copying (bar n : Nat) : State := { calm with copies := [copy bar n] }
    let copies (bar n : Nat) : Prop := (copying bar n).copies.find? (fun y => y.id == 7) = some (copy bar n) ∧
      (copying bar n).forkHeld noFork = false ∧ NoRedirects (copying bar n) ∧ (copy bar n).src.length = n ∧
      (∀ q ∈ (copy bar n).src, (copying bar n).bankHeld 0 q.level (addrsFrom q.pa q.n) = false ∧
        (copying bar n).lineHeld 7 0 (.core 0) false (linesOf [q.pa, q.pa + q.n - 1]) = false) ∧
      (∀ key p offs, (copying bar n).packOf ⟨0, 0, 0⟩ = some (key, p) → (copying bar n).padWaking key p offs = false) ∧
      (copying bar n).packOf ⟨0, 0, 0⟩ = some (0, pack0) ∧ pack0.ending = false
    let drain : Drain := ⟨7, 0, 2 ^ 64, ⟨0, 0, 0⟩, 0, 0x400000, 0x400000, true, false, false, 4, [1, 2, 3, 4], [0], 16, noFork⟩
    let pas := (List.range (4 * drain.data.length)).map fun i => drain.pa + i
    let drains (s : State) : Prop := s.drains.find? (fun y => y.id == 7) = some drain ∧ s.forkHeld drain.fork = false ∧ s.bankHeld 0 .far pas = false ∧
      s.lineHeld 7 0 .package true (linesOf pas) = false
    let draining : State := { calm with drains := [drain] }
    let serac (forked : Bool) (todo : List Nat) : Serac :=
      ⟨7, 0, 2 ^ 64, 0, 0, ⟨0, 0, 0⟩, 0, .cpy, 1, 0, [0x40000000], [0x40000400], [], [], [true], [true], 16, forked, todo, [], 0, Vector.replicate 4 0, noFork⟩
    let busy (x : Serac) : State := { calm with seracs := [x] }
    let rows (r : Nat) : List Nat := (List.range 8).map fun k => r + 128 * k
    let forks (s : State) (may : Bool) : Prop := s.seracs.find? (fun y => y.id == 7) = some (serac false [0]) ∧ s.forkHeld noFork = false ∧
      s.lineHeld 7 0 .package true (linesOf (rows 0x40000000 ++ rows 0x40000400)) = false ∧ s.mayWrite (some (.unit 7 0)) (rows 0x40000000) = may
    (copies 16 1 ∧ pack0.inPad 16 16 = true) ∧ (copies 65536 1 ∧ pack0.inPad 65536 16 = false) ∧ copies 16 2 ∧
    (drains draining ∧ draining.mayWrite (some (.unit 7 0)) pas = true ∧ (∀ a ∈ pas, draining.hub.inMoraine a = false)) ∧
    (drain.int = true ∧ drain.data.length = drain.bnd.length * drain.cols ∧ (∀ a ∈ pas, draining.discards a = false) ∧
      (pas.map draining.hub.cell).Nodup ∧ NoRedirects draining ∧
      ∀ key p offs, draining.packOf drain.pack = some (key, p) → draining.padWaking key p offs = false) ∧
    (drains (leased 0x8000 draining) ∧ (leased 0x8000 draining).mayWrite (some (.unit 7 0)) pas = false) ∧
    forks (busy (serac false [0])) true ∧ forks (leased 0x800000 (busy (serac false [0]))) false ∧
    ((busy (serac true [0])).seracs.find? (fun y => y.id == 7) = some (serac true [0]) ∧ (serac true [0]).writes 0 = true ∧
      (busy (serac true [0])).discards ((serac true [0]).dRow 0) = false ∧ (busy (serac true [0])).pend = [] ∧
      (busy (serac true [0])).copies = [] ∧ (busy (serac true [0])).drains = [] ∧ (busy (serac true [0])).outside = [] ∧
      (∀ c ∈ (busy (serac true [0])).cores, ∀ q ∈ c.2.queues, ∀ r ∈ q.2, r.flying = [])) ∧
    ((busy (serac true [])).seracs.find? (fun y => y.id == 7) = some (serac true []) ∧ (serac true []).todo = [] ∧
      (busy (serac true [])).packOf ⟨0, 0, 0⟩ = some (0, pack0) ∧ (busy (serac true [])).floes.find? 0 = some all64 ∧ all64.pack = 0 ∧
      all64.findex = (serac true []).findex ∧ NoRedirects (busy (serac true [])) ∧ ∀ key p offs, (busy (serac true [])).packOf ⟨0, 0, 0⟩ = some (key, p) →
        (busy (serac true [])).padWaking key p offs = false) := by
  and_intros <;> first | decide +kernel | exact noRedirects_of (by decide +kernel) | exact awake_of (by decide +kernel)

/-- A generation of INT8 that fires, at FULL and at a tier that it does not have, and one on tiles that are not configured; one that has fired,
without a breach, with one that traps, and with a recheck that failed. -/
theorem witness_MmaEvents :
    let rec_ (bmode : BitVec 4) (op : Byte) : SignRec := ⟨true, op, 7, 4, 5, 0, bmode, 0⟩
    let signer : Signer := ⟨0, 1, 0x30000, 0, false⟩
    let res (breach : Mask) (fail : Bool) : MmaRes := ⟨List.replicate 256 0, List.replicate 16 0, .full, false, false, breach, 0, fail, false, 0⟩
    let mma (bmode : BitVec 4) (op : Byte) (r : Option MmaRes) : Mma := ⟨7, 0, rec_ bmode op, [signer], r⟩
    let p (m : Mma) (sh : Word) : Pack := { shaped with mmas := [m], joins := shaped.joins.set 7 ⟨1, 0, 1, 0, none⟩, tshape := shaped.tshape.set 5 sh }
    let dim (q : Pack) : Option MmaDim := mmaDim (fun t => q.tshape.toList.getD t 0) 4 5
    let fires (m : Mma) (sh : Word) : Prop := (p m sh).toFire (BitVec.ofNat 3 7) = some m ∧ (packed (p m sh) calm).packWrites 0 = false ∧ (p m sh).accBusy m = false
    let completes (m : Mma) : Prop := (p m shape64).mmas.find? (fun x => x.join == BitVec.ofNat 3 7 && x.gen != ((p m shape64).join (BitVec.ofNat 3 7)).gen) = some m
    (fires (mma 0 16 none) shape64 ∧ recTier (rec_ 0 16) = .full ∧ (dim (p (mma 0 16 none) shape64)).any (fun d => d.fa == 9 && d.m == 16 && d.n == 16) = true) ∧
    (fires (mma 0 32 none) shape64 ∧ recTier (rec_ 0 32) = .half) ∧ (fires (mma 0 16 none) 0 ∧ dim (p (mma 0 16 none) 0) = none) ∧
    completes (mma 0 16 (some (res 0 false))) ∧ completes (mma 5 16 (some (res 1 false))) ∧ completes (mma 0 16 (some (res 0 true))) ∧
    ((res 0 false).breach = 0 ∧ (res 1 false).breach ≠ 0 ∧ (rec_ 5 16).bmode.getLsbD 2 = true) ∧
    (calm.floes.find? 0 = some all64 ∧ all64.pack = 0 ∧ all64.findex = signer.findex) := by
  and_intros <;> decide +kernel

/-! ### Packs, nodes, contexts -/

/-- A field of the loaded program's descriptor, with the packs placed on die 0 and the saved packs. -/
def fieldWith (inst : Nat) (desc : Desc) (placed : Nat) (saved : List Saved) : Field :=
  { inst := inst, node := 0, desc := desc, troot := loadRoot, ranges := desc.ranges, owners := List.range 8,
    placed := [placed, 0, 0, 0, 0, 0, 0, 0], retired := 0, saved := saved, slots := [], bars := [], ended := false }
def serving (fields : List Field) (packs : Tbl Pack) (slices : List Slice) : State :=
  { calm with
    floes := [], packs := packs, cores := [], dies := [(0, { Die.reset with slices := slices, firn := 2000 })]
    hub := { calm.hub with bootPhase := 3, fields := fields } }

/-- A pack on every core of die 0, with every tile. -/
def everyCore : Tbl Pack := (List.range 40).map fun c => (64 * c, { pack0 with id := ⟨0, 0, c⟩ })
def ready (s : State) (die : Nat) : Prop := s.reap = s ∧ s.serves die = true ∧ (s.die die).power = .a0
def placesOk (s : State) (core : Nat) (f : Field) (p : Word) (write : Bool) (P : List (Nat × Word) → Bool) : Bool :=
  match s.recPlaces core f.desc.ctx f.troot (recordVa p f.desc) f.desc.accs write with
  | .ok x => P x
  | .error _ => false

/-- A pack that is saved, with a lease on its record and without, and on a die without a redirect entry; a pack to place on an empty core; one
of higher priority for which there is no room; a saved pack to restore, with room and without; slices that end with nothing to place and with
a pack that waits. -/
theorem witness_PackEvents :
    let f := fieldWith 0 loadDesc 1 []
    let saved : Pack := { pack0 with stats := [.saved], saving := true }
    let save := serving [f] [(0, saved)] []
    let other (n : Nat) : Redirect := ⟨1, ⟨9, 0, n⟩, 0, 0, 0, .saved, [], [], 1⟩
    let drain : Drain := ⟨7, 0, 2 ^ 64, ⟨0, 0, 0⟩, 0, 0x400000, 0x400000, true, false, false, 4, [1, 2, 3, 4], [0], 16, noFork⟩
    let busy : State := onDie (fun d => { d with redirects := (List.range 1024).map other }) { save with drains := [drain] }
    let record := (recordVa 0x1000000 loadDesc).toNat
    let lines := ((recordParts 8).flatMap fun e => linesTouched (record + e.1) e.2)
    let saves (s : State) (engines may : Bool) : Prop := s.packs.find? 0 = some saved ∧ s.fieldOf saved.id = some f ∧ saved.saved = true ∧ saved.ending = false ∧
      saved.mmas.any saved.isFired = false ∧ s.intoPad saved.id = false ∧ (∀ e ∈ s.pend, e.2.pack ≠ saved.id) ∧ s.recWaits saved.id = false ∧
      s.redirect saved.id = none ∧ s.engineBusy saved.id = engines ∧
      placesOk s 0 f saved.pbase true (fun x => x.map (·.1) == (recordParts 8).map fun e => record + e.1) = true ∧
      s.mayWrite (some (.save saved.id)) lines = may ∧ s.lineHeld s.fresh s.hub.firn.toNat (.core 0) true (linesOf lines) = false
    let new := fieldWith 0 loadDesc 0 []
    let urgent := fieldWith 1 { loadDesc with ctx := 1, prio := 9 } 0 []
    let slice : Slice := ⟨0, 0, 1000, false, 0⟩
    let full : State := serving [f, urgent] everyCore [slice]
    let v : Saved := ⟨0, 0, [.saved], [5], [1], [Kept.none], [], 0, 0x1000000⟩
    let back (prio : BitVec 8) := fieldWith 0 { loadDesc with prio := prio } 1 [v]
    let restore (fs : List Field) (ps : Tbl Pack) : State := (serving fs ps [slice, { slice with ctx := 1 }]).setBytes (record + 9) [1]
    let restores (s : State) (prio : BitVec 8) (core : Option Nat) : Prop := ready s 0 ∧ s.nextField 0 = some (back prio) ∧
      s.nextSaved (back prio) 0 = some v ∧ (∀ x ∈ v.stats, x ≠ .resident) ∧ s.recWaits ⟨0, 0, 0⟩ = false ∧ v.stats.getD 0 .retired = .saved ∧
      placesOk s 0 (back prio) v.pbase false (fun x =>
        !s.lineHeldNow 0 (linesOf ((x.zip (recordParts 8)).flatMap fun e => linesTouched e.1.1 e.2.2)) && decide (s.bestCore 0 (s.restoreFits (back prio).desc v (s.recBound (back prio).desc x) (s.recBanks x) (s.recCore x)) = core)) = true
    let older := fieldWith 1 { loadDesc with ctx := 1 } 1 []
    let crowd : State := restore [older, back 9] (everyCore.map fun e => (e.1, { e.2 with ctx := 1, id := ⟨1, 0, e.2.id.k⟩ }))
    let even := serving [f, fieldWith 1 { loadDesc with ctx := 1 } 0 []] everyCore [slice]
    let past (s : State) : State := s.setDie 0 { s.die 0 with slices := (s.die 0).slices.map fun z =>
      { z with expired := z.expired || decide (z.start + z.len ≤ (s.die 0).firn.toNat) } }
    saves save false true ∧ saves (onDie (fun d => { d with l2 := [(record / 128, { L2Line.none with horizon := 9000 })] }) save) false false ∧
    saves busy true true ∧ 1024 ≤ (busy.die 0).entries ∧
    (ready (serving [new] [] []) 0 ∧ (serving [new] [] []).nextField 0 = some new ∧ (serving [new] [] []).nextSaved new 0 = none ∧
      (serving [new] [] []).bestCore 0 (fun c => ((serving [new] [] []).fits c new.desc new.desc.nfloes none).isSome) = some 0 ∧
      (serving [new] [] []).fits 0 new.desc new.desc.nfloes none = some 1) ∧
    (ready full 0 ∧ full.nextField 0 = some urgent ∧ full.nextSaved urgent 0 = none ∧
      full.bestCore 0 (fun c => (full.fits c urgent.desc urgent.desc.nfloes none).isSome) = none ∧
      full.victim 0 urgent.desc.prio.toNat = some slice) ∧
    restores (restore [back 0] []) 0 (some 0) ∧ restores crowd 9 none ∧ (crowd.victim 0 9).isSome = true ∧
    (∀ e ∈ [(serving [f] [(0, pack0)] [slice], false), (even, true)], e.1.reap = e.1 ∧
      (e.1.die 0).slices.find? (fun y => y.ctx == 0) = some slice ∧ slice.expired = false ∧ slice.start + slice.len ≤ (e.1.die 0).firn.toNat ∧
      ((e.1.nextPlace 0).any fun x => x.2.isNone && ((past e.1).victim 0 x.1).any fun v => v.ctx == 0) = e.2) := by
  and_intros <;> decide +kernel

/-- A node of one pack, of context 0 (R382, R384), at node 0 of graph 1 with header at offset 256. -/
def nodeBytes0 : List Byte :=
  natLe 8 0x30000 ++ [0, 0, 1, 0, 0, 0, 0, 4] ++ natLe 2 16 ++ List.replicate 10 0 ++ natLe 4 1 ++ List.replicate 16 0 ++ natLe 4 0 ++
    (List.replicate 7 (natLe 4 1)).flatten ++ List.replicate 12 0 ++ natLe 2 1 ++ natLe 2 0 ++ natLe 8 0x30000 ++ natLe 8 0x1000000 ++
    natLe 4 3 ++ List.replicate 76 0 ++ List.replicate 16 0xFF ++ List.replicate 48 0
def graph : Tbl Byte := [(4, 1), (256, 1)] ++ (nodeBytes0.zipIdx.filter fun e => e.1 != 0).map fun e => (512 + e.2, e.1)
def inst0 (completed : List Nat) : Inst := ⟨0, 15, 1, 256, 1, [1] ++ List.replicate 255 0 ++ nodeBytes0, [], completed, completed, false⟩
def queued (ctxOk : Bool) (insts : List Inst) (fields : List Field) : State :=
  let s := serving fields [] []
  { (if ctxOk then s.setBytes 0x100000 (natLe 8 0x10000 ++ natLe 8 1) else s) with
    hub := { s.hub with sched := graph, ctxbase := 0x100, insts := insts, queues := Vector.replicate 16 { Queue.reset with en := true } } }

/-- Triggers of a queue that is not enabled, of a full one, of a graph that is not there, and of one that is; a node to release, and one with an
error; a field whose last pack has retired; a context that has ended; a floe ready for too long, and one that waits for too long. -/
theorem witness_NodeAndContextEvents :
    let q : Nat := 15
    let full := queued true (List.replicate 64 (inst0 [])) []
    let go := queued true [inst0 []] []
    let bad := queued false [inst0 []] []
    let f := fieldWith 0 loadDesc 1 []
    let finished := queued true [{ inst0 [] with released := [0] }] [{ f with retired := 1 }]
    let ending := { calm with hub := { calm.hub with ending := [9] } }
    let late (n : Nat) : State := { calm with floes := [(20479, { all64 with readyFor := n })] }
    let stuckFloe : Floe := resting [⟨0x30000, 7, 8, allLanes, .bar 16 5, 0, 0⟩]
    let stall : State := { calm with floes := [(0, stuckFloe)], dies := [(0, { Die.reset with firn := 100000001, wdIen := true })] }
    (calm.hub.queues.toList.getD q Queue.reset).en = false ∧
    ((full.hub.queues.toList.getD q Queue.reset).en = true ∧ 64 ≤ full.hub.pending q) ∧
    (go.hub.pending q < 64 ∧ go.hub.graphAt 0 = none ∧ go.hub.graphAt 1 = some 256 ∧ leNat (go.hub.schedBytes 256 2) = 1 ∧
      ((2 ^ 52 + 15) / 16 % 2 ^ 48 = 0)) ∧
    (go.hub.insts.find? (fun x => x.id == 0) = some (inst0 []) ∧ go.hub.isHead (inst0 []) = true ∧ (inst0 []).error = false ∧
      0 < (inst0 []).nnodes ∧ 0 ∉ (inst0 []).released ∧ go.firstDie ≠ none) ∧
    (go.nodeBytes (inst0 []) 0 = nodeBytes0 ∧ nodePreds 0 nodeBytes0 = some [] ∧ go.nodeError 0 nodeBytes0 = 0 ∧
      go.barsFree (descOf nodeBytes0) ((List.range 8).map go.standIn) = true) ∧
    (bad.nodeBytes (inst0 []) 0 = nodeBytes0 ∧ bad.nodeError 0 nodeBytes0 ≠ 0 ∧ (inst0 []).queue < 16) ∧
    (go.hub.schedPoisoned 512 256 = false ∧ ({ go.hub with schedBad := [95] } : Hub).schedPoisoned 512 256 = true ∧
      ({ go.hub with schedBad := [96] } : Hub).schedPoisoned 512 256 = false) ∧
    (finished.reap = finished ∧ finished.hub.fields.find? (fun x => x.inst == 0 && x.node == 0) = some { f with retired := 1 } ∧
      f.ended = false ∧ 1 = f.desc.nx * f.desc.ny * f.desc.nz ∧ finished.hub.insts.find? (fun x => x.id == 0) = some { inst0 [] with released := [0] } ∧
      (inst0 []).completed.length + 1 = (inst0 []).nnodes) ∧
    (9 ∈ ending.hub.ending ∧ ending.engineOf 9 = false) ∧
    ((late 65).floes.find? 20479 = some { all64 with readyFor := 65 } ∧ all64.reported = false ∧ all64.halted = false ∧ 64 < 65 ∧ 20479 < 20480) ∧
    (stall.floes.find? 0 = some stuckFloe ∧ stuckFloe.run = none ∧ (∀ e ∈ stuckFloe.frontier, stall.stalled 0 stuckFloe e = true) ∧
      stuckFloe.waitFrom.toNat + 1000 * (stall.die 0).wdLimit.toNat < (stall.die 0).firn.toNat) := by
  and_intros <;> decide +kernel

/-! ### Power, banks, bring-up, the outside world -/

/-- Sampling intervals with AUTO off, that grow, that shrink, and that do neither; banks to gate and to wake; idle dies under every tolerance;
dies to wake; boost; a cluster that falls; a refill while no cluster is above 2 GHz, and one after the interval. -/
theorem witness_PowerAndBankEvents :
    let core (gained spare : Nat) (free : Bool) : Core := { Core.reset with
      gained := gained, spare := spare, banks := if free then [(15, ⟨.free, false, 0⟩)] else [] }
    let sample (auto : Bool) (c : Core) : State := { calm with
      floes := [], packs := [], cores := [(0, c)], dies := [(0, { Die.reset with firn := 10000, auto := auto })], hub := Hub.reset }
    let due (s : State) : Prop := (s.core 0).lastInterval + 1000 ≤ (s.die 0).firn.toNat ∧ (s.die 0).power = .a0 ∧ s.nextPlace 0 = none
    let grow (s : State) : Prop := (s.die 0).gain.toNat ≤ (s.core 0).gained ∧
      (s.die 0).fresv.toNat < ((s.core 0).banksIn .free ++ (s.core 0).banksIn .gated).length
    let shrink (s : State) : Prop := (s.core 0).spare * 4 < (s.die 0).gain.toNat ∧ (s.die 0).lmin.toNat < ((s.core 0).banksIn .l1).length
    let bank (b : Bank) : State := onCore (fun c => { c with banks := [(15, b)] }) (sample true Core.reset)
    let tol (n : BitVec 20) : Hub := { Hub.reset with queues := Hub.reset.queues.set 3 { Queue.reset with en := true, ltol := n } }
    let power (n : BitVec 20) (p : Power) : State := { sample true Core.reset with dies := [(7, { Die.reset with power := p })], hub := tol n }
    let quiet (s : State) : Prop := s.hub.insts = [] ∧ ∀ k, k < 8 → s.idle k = true
    let boost : Die := { Die.reset with firn := 10000, permits := 1 }
    (due (sample false (core 64 16 true)) ∧ ((sample false (core 64 16 true)).die 0).auto = false) ∧
    (due (sample true (core 63 16 true)) ∧ ¬grow (sample true (core 63 16 true)) ∧ ¬shrink (sample true (core 63 16 true))) ∧
    (due (sample true (core 64 16 true)) ∧ ((sample true (core 64 16 true)).die 0).auto = true ∧ grow (sample true (core 64 16 true))) ∧
    (due (sample true (core 64 15 false)) ∧ ¬grow (sample true (core 64 15 false)) ∧ shrink (sample true (core 64 15 false))) ∧
    ((((bank ⟨.free, false, 0⟩).core 0).bank 15).st = .free ∧
      (((bank ⟨.free, false, 0⟩).core 0).bank 15).used.toNat + 10000 ≤ ((bank ⟨.free, false, 0⟩).firn 0).toNat) ∧
    (((bank ⟨.pack, true, 0⟩).core 0).bank 15).waking = true ∧
    ((power 5000 .a0).idle 7 = true ∧ ((power 5000 .a0).die 7).power = .a0 ∧ 5000 ≤ (power 5000 .a0).hub.tolerance ∧ quiet (power 5000 .a0)) ∧
    (50 ≤ (power 50 .a0).hub.tolerance ∧ (power 50 .a0).hub.tolerance < 5000) ∧
    (2 ≤ (power 2 .a0).hub.tolerance ∧ (power 2 .a0).hub.tolerance < 50) ∧
    (((power 2 .a1).die 7).power = .a1 ∧ ((power 2 .a2).die 7).power = .a2 ∧ ((power 2 .a3).die 7).power = .a3 ∧ 7 < 8) ∧
    (boost.boostAt + 10000 ≤ boost.firn.toNat ∧ boost.power = .a0 ∧ Hub.reset.bootPhase ≠ 2) ∧
    (let falls : Die := { boost with permits := 0, fast := 8 }
     falls.firn.toNat / 10000 * 10000 = falls.boostAt + 10000 ∧ falls.boost = true ∧ (8 : BitVec 10).getLsbD 3 = true ∧ falls.fast.getLsbD 3 = true) ∧
    (({ boost with firn := 50000, fast := 8 } : Die).fast ≠ 0 ∧
      ({ boost with firn := 50000, fast := 8 } : Die).boostAt + 50000 ≤ ({ boost with firn := 50000, fast := 8 } : Die).firn.toNat) ∧
    ({ boost with firn := 40000 } : Die).fast = 0 ∧ ({ boost with firn := 40000 } : Die).falling = 0 ∧
    ({ boost with firn := 40000 } : Die).quietFrom + 40000 ≤ ({ boost with firn := 40000 } : Die).firn.toNat := by
  and_intros <;> decide +kernel

/-- A boot manifest for dies 6 and 7 at the first address of host memory (R395): its check word is the CRC of the 60 bytes before it. -/
def manifest (sum : Nat) : State :=
  calm.setBytes hostBase (natLe 4 0x4D4E4654 ++ natLe 2 1 ++ [0xC0] ++ List.replicate 53 0 ++ natLe 4 sum)

/-- Bring-ups that a manifest fails, that its signature fails, whose dies have no link, and that start; stacks still to train, trained, and
fenced; registers of the channels. -/
theorem witness_BootAndChannelEvents :
    let up (sum : Nat) (trained : BitVec 8) (ok : Bool) (P : Prop → Byte → Prop) : Prop :=
      let v : Word := BitVec.ofNat 64 hostBase
      let s : State := onHub (fun h => { h with bootPhase := 1, booting := some (v, trained, ok) }) (manifest sum)
      let a := v.toNat / 64 % 2 ^ 46 * 64
      s.hub.booting = some (v, trained, ok) ∧
        P (kindOf a = 1 ∧ manifestOk (s.bytes a 64) = true) ((s.bytes a 64).getD 6 0 &&& trained)
    let ready (x : Stack) : State := { onHub (fun h => { h with bootPhase := 2, diemask := 0x80, firn := 9 }) calm with hbms := [(14, x), (15, x)] }
    let done (x : Stack) (k : Nat) : Prop :=
      ((ready x).stack k).trainedAt.any (fun t => decide (t ≤ (ready x).hub.firn.toNat)) = true ∨ ∀ pc, pc < 64 → ((ready x).stack k).fenced.getLsbD pc = true
    let all (x : Stack) : Prop := ∀ d, d < 8 → (ready x).hub.diemask.getLsbD d = true → done x (2 * d) ∧ done x (2 * d + 1)
    up 0 0xFF true (fun fine _ => ¬fine) ∧ up 0x1601FA7D 0xFF false (fun fine _ => fine) ∧ up 0x1601FA7D 0x3F true (fun fine dies => fine ∧ dies = 0) ∧
    up 0x1601FA7D 0xFF true (fun fine dies => fine ∧ dies = 0xC0) ∧ (ready Stack.reset).hub.bootPhase = 2 ∧
    ¬all { Stack.reset with trainedAt := some 10 } ∧ all { Stack.reset with trainedAt := some 9 } ∧ all { Stack.reset with fenced := 0xFFFFFFFFFFFFFFFF } ∧ ({ Stack.reset with rtint := 1 } : Stack).rtint ≠ 0 ∧
    (31 : BitVec 8) < Stack.reset.thresh ∧ Stack.reset.eyestat.getLsbD 63 = false ∧ ({ Stack.reset with ien := true } : Stack).ien = true ∧
    Stack.reset.ien = false ∧ ({ Stack.reset with eyestat := 1 } : Stack).eyestat.getLsbD 0 = true ∧
    calm.hub.mflog.msb = false ∧ State.reset.hub.linseg = 1920 ∧ 2047 / 32 = 63 ∧ 15 < 16 ∧ 31 < 32 ∧ 63 < 64 ∧ 7 < 8 := by
  and_intros <;> decide +kernel

/-- Requests of the host and of a peer at the top of device memory, and of a peer to one that a window reaches, that find it free, leased, and taken by an earlier one; reads; recalls of a
host and of a pool line; pod barriers away from home and at home; completions of the generation that follows the arrival's and of another. -/
theorem witness_HostEvents :
    let top := hbmTop - 8
    let podHub (home : BitVec 4) : Hub := { calm.hub with podEn := true, self := 3, podHome := home, podBase := 0x2000 }
    let sbar : HwBar := ⟨.pod, 0, 31, 0, [0], []⟩
    let one : Field := { fieldWith 0 loadDesc 1 [] with bars := [sbar] }
    let pod (home : BitVec 4) : State := { calm with hub := { podHub home with fields := [one] } }
    let a := 512 * (pod 3).hub.podBase.toNat + 16 * 31
    let window : Word := 0x8000000000000000 ||| BitVec.ofNat 64 poolBase
    let pool : State := onHub (fun h => { h with cxlwin := (Vector.replicate 8 0).set 7 window }) calm
    let free (s : State) (act : OutAct) : Prop := (∀ y ∈ s.outside, y.id < s.fresh → ∀ n ∈ linesOf (y.act.bytes s.hub), n ∉ linesOf (act.bytes s.hub)) ∧
      (s.wakeFor (act.bytes s.hub)).bankHeld 0 .far (act.bytes s.hub) = false ∧
      (s.wakeFor (act.bytes s.hub)).lineHeld s.fresh s.hub.firn.toNat act.place true (linesOf (act.bytes s.hub)) = false ∧
      (s.wakeFor (act.bytes s.hub)).mayWrite (some (.unit s.fresh 0)) (act.bytes s.hub) = true
    let write : OutAct := .write hostWriter top (List.replicate 8 1)
    let after : State := { calm with outside := [⟨0, 0, write⟩] }
    let waiting : List (Nat × Option (BitVec 32) × List (Nat × Nat)) := [(31, some 6, [(0, 0)])]
    let peer : State := onHub (fun h => { h with podEn := true, self := 3, cxlwin := (Vector.replicate 8 0).set 7 (0xA000000000000000 ||| BitVec.ofNat 64 poolBase) }) calm
    (spanIn [0, 1] top 8 = true ∧ spanIn [0] top 8 = true ∧ spanIn [0] top (atBytes .f64) = true ∧ top % atBytes .f64 = 0) ∧
    (free calm write ∧ ¬free (leased (top / 128) calm) write ∧ ¬free after write ∧ free calm (.atomic 0xF04 top .add .f64 false 1 0)) ∧
    (peer.inPeer poolBase 8 = true ∧ peer.inPeer poolBase (atBytes .f64) = true ∧ free peer (.write 0xF04 poolBase (List.replicate 8 1))) ∧
    ((∀ p ∈ [Place.pod, .host], calm.lineHeld calm.fresh calm.hub.firn.toNat p false (linesOf (addrsFrom top 8)) = false) ∧
      calm.bankHeld 0 .far (addrsFrom top 8) = false ∧ calm.hub.dir.length + (linesOf (addrsFrom top 8)).length ≤ 131072 ∧ calm.poisoned top = false ∧ ∀ i, i < 8 → calm.hub.inMoraine (top + i) = false) ∧
    ((pod 3).hub.podEn = true ∧ (4 : BitVec 4) ≠ (pod 3).hub.self) ∧ (kindOf (64 * (hostBase / 64)) = 1 ∧ kindOf (128 * (poolBase / 128)) = 2) ∧
    pool.cacheable (128 * (poolBase / 128)) = true ∧
    ((pod 4).hub.podEn = true ∧ (pod 4).hub.podHome ≠ (pod 4).hub.self ∧ (pod 4).podReady 31 ≠ [] ∧ (∀ e ∈ (pod 4).hub.podArrived, e.1 ≠ 31)) ∧
    ((pod 3).hub.podHome = (pod 3).hub.self ∧ (pod 3).podReady 31 ≠ [] ∧ calm.podReady 31 = [] ∧ free (pod 3) (.arrive 31)) ∧
    (∀ x ∈ (List.range 8).map fun i => a + i, (pod 3).hub.inMoraine x = false ∧ (pod 3).discards x = false) ∧
    (((List.range 8).map fun i => (pod 3).hub.cell (a + i)).Nodup ∧ ¬free (leased (a / 128) (pod 3)) (.arrive 31)) ∧
    (waiting.find? (fun e => e.1 == 31) = some (31, some 6, [(0, 0)]) ∧ (7 : BitVec 32) = 6 + 1 ∧ (8 : BitVec 32) ≠ 6 + 1 ∧ 31 < 32 ∧ 3 < 4) := by
  and_intros <;> decide +kernel

/-- The ends of the window; regions that fit and overlap; window registers free, in service and locked. -/
theorem witness_MmioEvents :
    (0xFFFFFC % 4 = 0 ∧ 0xFFFFFC < 0x1000000 ∧ 0xFFFFF8 % 8 = 0 ∧ 0x800000 ≤ 0xFFFFF8) ∧ 7 < 8 ∧
    (9 ≤ (0x90 : Word).toNat / 16 % 16 ∧ (0x81 : Word).toNat / 16 % 16 < 9) ∧
    (let fits (mdata mrec n : Nat) : Prop := n ≠ 0 ∧ 65536 * mdata + 65536 * n ≤ hbmTop ∧ 131072 * mrec + 131072 * n ≤ hbmTop ∧
       (65536 * mdata + 65536 * n ≤ 131072 * mrec ∨ 131072 * mrec + 131072 * n ≤ 65536 * mdata)
     fits 0 1 2 ∧ ¬fits 0 0 1) ∧
    calm.hub.men = false ∧ (paged all64).hub.men = true ∧ calm.hub.lock = false ∧ ({ calm.hub with lock := true } : Hub).lock = true ∧
    calm.hub.cxlwin[7].msb = false ∧ ({ calm.hub with cxlwin := calm.hub.cxlwin.set 7 0x8000000000000000 } : Hub).cxlwin[7].msb = true ∧
    (0x8000000000000000 : Word).msb = true ∧ (0 : Word).msb = false := by
  and_intros <;> decide +kernel

/-! ### Accesses as they are performed -/

/-- An access of the floe that has one unit to come. -/
def lastAcc (u : Work) (dest : Dest) (reads writes : Bool) (snap : Floe) : Acc :=
  { access [u] dest (some snap) with reads := reads, writes := writes, sticky := true }

/-- The floe with a record's worth of registers. -/
def small : Floe := { all64 with valloc := 16 }

/-- What a load of a floe record with one entry, of a floe of 16 registers, has returned but for the entries' number (R313). -/
def recGot : List (Nat × Nat × List (Byte × Bound)) :=
  [(64, 0, [0x45, 0x4F, 0x4C, 0x46, 1, 0, 16, 0].map fun b => (b, 0)), (64, 0x180, [0, 0, 3, 0, 0, 0, 0, 0, 1].map fun b => (b, 0))]

/-- The last unit of a load of a lane, good and poisoned, and of a register, a tile, an accumulator, a spill image, a key's box and a
record, good and bad. -/
theorem witness_AccessEvents_loads :
    let span (lane k n : Nat) : Span := ⟨lane, k, 0x400000, 0x400000, n, false, .near⟩
    let at_ (dest : Dest) (lane n : Nat) (s : State) (P : State → Acc → Prop) (k : Nat := 0)
        (got : List (Nat × Nat × List (Byte × Bound)) := []) : Prop :=
      let a := { lastAcc (.load [span lane k n]) dest true false small with got := got }
      let u : State := { s with floes := [(0, small)], pend := [(9, a)] }
      LastUnit u 9 a (.load [span lane k n]) small (runOf allLanes) ∧ kindOf (span lane k n).pa ≠ 3 ∧ (a.snap.any fun p => p.run.isSome) = true ∧ P u a
    let good (u : State) : Prop := u.poisoned 0x400000 = false ∧ u.poisonedAt 0 0x400000 = false
    let data (u : State) (a : Acc) (n : Nat) (k : Nat := 0) : List (Byte × Bound) :=
      ({ a with got := a.got ++ [(64, k, u.physLoad 0x400000 n false)] } : Acc).datum 64
    let one : State := { calm with mem := [(0x400000, 1)] }
    at_ (.vec .b64 4) 63 8 calm (fun u _ => good u ∧ szBytes .b64 = 8) ∧
    at_ (.vec .b64 4) 63 8 (calm.setPoison (lineOf 0x400000) true) (fun u _ => u.poisonedAt 0 0x400000 = true) ∧
    at_ (.uni .s16 127) 64 2 calm (fun u _ => good u) ∧
    at_ (.tile 15 4 2) 64 8 calm (fun u a => good u ∧ 2 * 4 ≤ (data u a 8).length) ∧
    at_ (.acc 7 64 16) 64 8 calm (fun u a => good u ∧ 4 * (((u.core 0).acc 7).m * ((u.core 0).acc 7).n) ≤ (data u a 8 1016).length) 1016 ∧
    at_ (.fill 7 true 1) 64 8 calm (fun u _ => good u) ∧
    at_ (.keyed 15 keyBytes [0, 0, 0, 0, 0]) 64 8 calm (fun u _ => good u ∧
      (let rows := (keyOf keyBytes).tileRows [0, 0, 0, 0, 0] fun va =>
         if va.toNat < 8 then (u.physLoad 0x400000 8 false).getD va.toNat (0, 0) else (0, 0)
       rows ≠ [] ∧ ∀ e ∈ rows, e.1.length = (rows.headD ([], 0)).1.length)) ∧
    at_ .frload 64 1 calm (fun u a => good u ∧ recOk 16 ((data u a 1 8).map (·.1)) = false) 8 recGot ∧
    at_ .frload 64 1 one (fun u a => good u ∧ recOk 16 ((data u a 1 8).map (·.1)) = true) 8 recGot := by
  and_intros <;> first | decide +kernel | (constructor <;> decide +kernel)

theorem plain_of {s : State} (h : s.hbms = [] ∧ s.reduced = false ∧ s.hub.men = false) : PlainMemory s :=
  ⟨fun k => by rw [State.stack, h.1]; rfl, h.2.1, h.2.2⟩

/-- The last unit of an atomic of two lanes at one word, and of the Moraine words on a versioned line. -/
theorem witness_AccessEvents_atomics :
    let last (u : Work) (wr : Bool) (dest : Dest) (s : State) : State × Acc :=
      let a := lastAcc u dest true wr all64
      ({ s with floes := [(0, all64)], pend := [(9, a)] }, a)
    let lane (l : Nat) : AtLane := ⟨l, 0x400000, 0x400000, 1, 0, 1, 0, false⟩
    let atom : Work := .atomic .add .f64 false [lane 0, lane 63]
    let cell (l : Nat) : CellLane := ⟨l, 0x2000FFF8, 0x2000FFF8, 7, 0, 0, 3⟩
    let moraine : State := idle all64 |> fun s => { s with hub := (paged all64).hub }
    let ok (x : State × Acc) (u : Work) : Prop := LastUnit x.1 9 x.2 u all64 (runOf allLanes)
    let x := last atom true (.vec .b64 4) calm
    ok x atom ∧ PlainMemory x.1 ∧ ([lane 0, lane 63].map (·.lane)).Nodup ∧ (spanIn [0, 1] 0x400000 8 = true ∧ x.1.poisoned 0x400000 = false) ∧
    ok (last (.ldv (cell 63)) false (.vec .b128 4) moraine) (.ldv (cell 63)) ∧ moraine.badLine 0x2000FFF8 = false ∧
    ok (last (.recon .addF64 true [cell 0, cell 63]) true (.vec .b128 4) moraine) (.recon .addF64 true [cell 0, cell 63]) ∧
    ok (last (.stv [cell 0, cell 63]) true .none moraine) (.stv [cell 0, cell 63]) ∧
    (last (.stv [cell 0, cell 63]) true .none moraine).1.overflow (last (.stv [cell 0, cell 63]) true .none moraine).2 = none := by
  and_intros <;>
  first
  | decide +kernel
  | exact plain_of (by decide +kernel)
  | (constructor <;> decide +kernel)

/-- A unit of a store that waits for a lease, and one that does not, with another to come; units that complete. -/
theorem witness_AccessEvents :
    let span (k : Nat) : Span := ⟨63, 0, 0x400000, 0x400000 + k, 8, true, .near⟩
    let load : Acc := lastAcc (.load [span 0]) (.vec .b64 4) true false all64
    let s : State := { calm with pend := [(9, load)] }
    let st (k : Nat) : StSpan := ⟨span k, [], (List.range 8).map fun i => (0x400000 + k + i, 1, 0)⟩
    let store : Acc := { access [.store [st 0], .store [st 256]] .none none with reads := false, writes := true }
    let t : State := { calm with pend := [(9, store)] }
    let pas := (Work.store [st 256]).bytes
    let may (s : State) : Bool := s.mayWrite (some (.unit 9 (pas.headD 0))) pas
    let now := (load.unitsNow (.load [span 0]) ++ store.unitsNow (.store [st 256])).length
    (s.pend.find? 9 = some load ∧ load.number = 9 ∧ load.todo[0]? = some (.load [span 0])) ∧
    (t.pend.find? 9 = some store ∧ store.number = 9 ∧ store.todo[1]? = some (.store [st 256]) ∧ store.dest = .none ∧ store.snap = none ∧
      t.held store (.store [st 256]) = false ∧ t.hub.men = false ∧ kindOf (st 256).src.pa ≠ 3 ∧
      t.bankHeld 0 (Work.store [st 256]).level pas = false ∧ s.bankHeld 0 (Work.load [span 0]).level (Work.load [span 0]).bytes = false) ∧
    (may t = true ∧ may (leased 0x8002 t) = false ∧ (leased 0x8002 t).held store (.store [st 256]) = false) ∧
    (s.held load (.load [span 0]) = false ∧ (∀ e ∈ s.pend, e.1 = 9 → e.2 = load) ∧ now = 2) ∧
    (load.returns = true ∧ store.returns = false ∧ s.takeUpsets.mayWrite (some (.unit 9 0)) [] = true) ∧
    (1 < store.todo.length ∧ ∀ e ∈ t.pend, e.2.floe = store.floe → e.2.seq = store.seq → e.2.snap = none) := by
  and_intros <;> decide +kernel

end Sys2Proof.Tests
end

section
/-! SUPPORT. What the proofs about reset, bring-up, channels and the hub window share: tables and state after folds of writes,
and the updates that move nothing a program sees. -/

namespace Sys2Proof.Tbl
variable {α σ : Type}

/-- A fold that writes key d of one table at its d-th step, with the rest of the state as `wr` makes it from the table: every key
below n then holds what its step wrote. -/
theorem foldl_range_put {g : σ → Nat → σ} {wr : Tbl α → σ} {Q : Nat → α → Prop} (dflt : α)
    (hg : ∀ t d, ∃ x, g (wr t) d = wr (t.put d x) ∧ Q d x) (n : Nat) (t : Tbl α) :
    ∃ t', (List.range n).foldl g (wr t) = wr t' ∧ ∀ d, d < n → Q d (t'.getD d dflt) := by
  induction n with
  | zero => exact ⟨t, rfl, fun d hd => absurd hd (Nat.not_lt_zero d)⟩
  | succ n ih =>
    obtain ⟨t', hfold, hbelow⟩ := ih
    obtain ⟨x, hstep, hx⟩ := hg t' n
    refine ⟨t'.put n x, ?_, fun d hd => ?_⟩
    · rw [List.range_succ, List.foldl_append, List.foldl_cons, List.foldl_nil, hfold, hstep]
    · rcases Nat.lt_succ_iff_lt_or_eq.mp hd with hlt | rfl
      · rw [getD_put_other _ _ _ (Nat.ne_of_lt hlt)]
        exact hbelow d hlt
      · rwa [getD_put_same]

/-- Consecutive values written from key c + i on. -/
theorem getD_foldl_set [DecidableEq α] {d : α} (vs : List α) (i c : Nat) (t : Tbl α) (k : Nat) :
    getD ((vs.zipIdx i).foldl (fun t e => t.set d (e.2 + c) e.1) t) k d =
      if i + c ≤ k ∧ k < i + c + vs.length then vs.getD (k - (i + c)) d else getD t k d := by
  induction vs generalizing i t with
  | nil => exact (if_neg (by simp)).symm
  | cons v vs ih =>
    rw [List.zipIdx_cons, List.foldl_cons, ih, getD_set]
    by_cases hfirst : k = i + c
    · subst hfirst
      simp
    · by_cases hrest : i + 1 + c ≤ k ∧ k < i + 1 + c + vs.length
      · have hnext : k - (i + c) = k - (i + 1 + c) + 1 := by omega
        rw [if_pos hrest, if_pos (by simp only [List.length_cons]; omega), hnext, List.getD_cons_succ]
      · rw [if_neg hrest, if_neg hfirst, if_neg (by simp only [List.length_cons]; omega)]

/-- Keys marked by a fold of writes. -/
theorem getD_foldl_mark (ks : List Nat) (t : Tbl Bool) (n : Nat) :
    getD (ks.foldl (fun t k => t.put k true) t) n false = true ↔ getD t n false = true ∨ n ∈ ks := by
  induction ks generalizing t with
  | nil => simp
  | cons k ks ih =>
    rw [List.foldl_cons, ih, List.mem_cons]
    by_cases h : n = k
    · simp [h]
    · simp [h, getD_put_other]

end Sys2Proof.Tbl

namespace Sys2Proof.Machine
open Sys2Proof

/-! ### Objects read after an update -/

theorem die_setDie (s : State) (d k : Nat) (x : Die) : (s.setDie d x).die k = if k = d then x else s.die k := by
  by_cases h : k = d
  · simp [State.die, h]
  · simp [State.die, h, Tbl.getD_put_other]

/-- A die is what the table of dies says. -/
theorem die_of_dies {s t : State} (h : t.dies = s.dies) (d : Nat) : t.die d = s.die d := congrArg (fun ds => Tbl.getD ds d Die.reset) h

@[simp] theorem stack_setStack_same (s : State) (n : Nat) (x : Stack) : (s.setStack n x).stack n = x := by simp [State.stack]

/-! ### Updates that move nothing a program sees -/

theorem Unmoved.refl (s : State) : Unmoved s s := ⟨rfl, rfl, rfl, .refl s⟩

theorem Unmoved.trans {s t u : State} (h : Unmoved s t) (k : Unmoved t u) : Unmoved s u := by
  obtain ⟨hfloes, hpacks, hpend, hmem⟩ := h
  obtain ⟨kfloes, kpacks, kpend, kmem⟩ := k
  exact ⟨kfloes.trans hfloes, kpacks.trans hpacks, kpend.trans hpend, hmem.trans kmem⟩

theorem setHub_unmoved (s : State) (h : Hub) : Unmoved s (s.setHub h) := ⟨rfl, rfl, rfl, setHub_sameMemory s h⟩
theorem setDie_unmoved (s : State) (d : Nat) (x : Die) : Unmoved s (s.setDie d x) := ⟨rfl, rfl, rfl, setDie_sameMemory s d x⟩
theorem setStack_unmoved (s : State) (n : Nat) (x : Stack) : Unmoved s (s.setStack n x) := ⟨rfl, rfl, rfl, setStack_sameMemory s n x⟩
theorem interrupt_unmoved (s : State) (v : Nat) : Unmoved s (s.interrupt v) := ⟨rfl, rfl, rfl, interrupt_sameMemory s v⟩
theorem bump_unmoved (s : State) : Unmoved s s.bump := ⟨rfl, rfl, rfl, rfl, rfl, rfl⟩

theorem interrupt_vectors (s : State) (v : Nat) : v ∈ (s.interrupt v).hub.vectors := by simp [State.interrupt]

/-! ### Machine faults (R398) -/

theorem machineFault_unmoved (s : State) (kind die detail : Nat) : Unmoved s (s.machineFault kind die detail) :=
  (setHub_unmoved s _).trans (interrupt_unmoved _ _)

theorem machineFault_vectors (s : State) (kind die detail : Nat) : 21 ∈ (s.machineFault kind die detail).hub.vectors :=
  interrupt_vectors _ _

theorem machineFault_dies (s : State) (kind die detail : Nat) : (s.machineFault kind die detail).dies = s.dies := by
  simp [State.machineFault, State.interrupt]

/-- VALID is bit 63 of a log register. -/
theorem and_logValid_eq_zero {x : Word} (h : x.msb = false) : x &&& logValid = 0 := by
  have hlt : x.toNat < 2 ^ 63 := by
    have := BitVec.msb_eq_false_iff_two_mul_lt.mp h
    omega
  apply BitVec.eq_of_toNat_eq
  rw [BitVec.toNat_and, show logValid.toNat = 2 ^ 63 by decide, Nat.and_two_pow, Nat.testBit_lt_two_pow hlt]
  rfl

/-- MFLOG takes the first machine fault after VALID is cleared. -/
theorem machineFault_mflog {s : State} (h : s.hub.mflog.msb = false) (kind die detail : Nat) :
    (s.machineFault kind die detail).hub.mflog = BitVec.ofNat 64 (2 ^ 63 + 2 ^ 48 * kind + 2 ^ 40 * die + detail % 2 ^ 40) :=
  if_pos (and_logValid_eq_zero h)

/-! ### A changed interleaved region (R347) -/

theorem remap_same {s : State} {old : BitVec 11} (h : old = s.hub.linseg) : s.remap old = s := if_pos h

/-- A change of LINSEG moves lines of memory and nothing else. -/
theorem remap_eq (s : State) (old : BitVec 11) :
    ∃ m t p, s.remap old = { s with mem := m, tags := t, poison := p } := by
  unfold State.remap
  dsimp only
  split
  · exact ⟨s.mem, s.tags, s.poison, rfl⟩
  · exact ⟨_, _, _, rfl⟩

theorem remap_hub (s : State) (old : BitVec 11) : (s.remap old).hub = s.hub := by
  obtain ⟨m, t, p, hmap⟩ := remap_eq s old
  rw [hmap]

end Sys2Proof.Machine
end

section
/-! PROOF of O47: module reset and the placement of a floe. -/

namespace Sys2Proof.Machine
open Sys2Proof

/-- R37: a placed floe has its arguments in s1 to s8 and zero in the other uniform registers. -/
theorem placed_sreg (d : Desc) (pack i part seq : Nat) (now xsave : Word) (hargs : d.uargs.length = 8) (k : Nat) :
    (Floe.placed d pack i part seq now xsave).sreg k = if 1 ≤ k ∧ k ≤ 8 then d.uargs.getD (k - 1) 0 else 0 := by
  have hread : (Floe.placed d pack i part seq now xsave).s.getD k 0 =
      if 1 ≤ k ∧ k < 1 + d.uargs.length then d.uargs.getD (k - 1) 0 else 0 :=
    Tbl.getD_foldl_set d.uargs 0 1 [] k
  rw [Floe.sreg, hread, hargs]
  by_cases h0 : k = 0
  · simp [h0]
  · simp [h0, Nat.lt_succ_iff]

/-- Settles O47: reset by its literal values, a placed floe by what its descriptor gives it. -/
theorem resetValues : Obligations.ResetValues := by
  unfold Obligations.ResetValues
  refine ⟨?_, fun d pack i part seq now xsave hargs => ?_⟩
  · refine ⟨reset_wf, rfl, rfl, rfl, rfl, rfl, rfl, rfl, rfl, rfl, rfl, rfl, rfl, rfl, rfl, rfl, rfl, rfl, ?_, ?_, ?_, ?_⟩
    · intro q hq
      have hreset : q = Queue.reset := by simpa [State.reset, Hub.reset] using hq
      subst hreset
      exact ⟨rfl, rfl, rfl⟩
    · exact fun d => ⟨rfl, rfl, rfl, rfl, rfl, rfl, rfl, rfl⟩
    · exact fun n => ⟨rfl, rfl, rfl⟩
    · exact fun c b => rfl
  · exact ⟨fun k => rfl, fun k => rfl, placed_sreg d pack i part seq now xsave hargs, rfl, rfl, rfl, rfl, rfl, rfl, rfl, rfl, rfl,
      rfl, rfl, rfl, rfl⟩

end Sys2Proof.Machine
end

section
/-! PROOF of O59: writes of the hub window. -/

namespace Sys2Proof.Machine
open Sys2Proof

/-! ### A write of all eight bytes of a register (R9, R380) -/

/-- The bits that a write of a whole register brings: every field takes its bits of the value, whatever the register reads as. -/
def RegW.whole (v : Word) : RegW := ⟨v.toNat, v⟩

@[simp] theorem RegW.whole_rw (v : Word) : (RegW.whole v).rw = v.toNat := rfl

/-- A field of n bits from bit i on. -/
theorem RegW.whole_f (v : Word) (i n : Nat) : (RegW.whole v).f i n = (v >>> i).setWidth n := by
  apply BitVec.eq_of_toNat_eq
  simp [RegW.f, bitsAt, Nat.shiftRight_eq_div_pow]

theorem RegW.whole_f_low (v : Word) (n : Nat) : (RegW.whole v).f 0 n = v.setWidth n := by rw [RegW.whole_f, BitVec.ushiftRight_zero]

/-- A write of a whole register takes no bit of what the register reads as. -/
theorem regWrite_whole (s : State) {o : Nat} (v : Word) (h8 : o % 8 = 0) (ho : o < schedBase) :
    s.regWrite o 8 v = s.writeReg o v (BitVec.allOnes 64) := by
  have haligned : o / 8 * 8 = o := by omega
  rw [State.regWrite, if_neg (Nat.not_le.mpr ho)]
  simp [h8, haligned]

theorem merged_whole (x v : Word) :
    (⟨((x &&& ~~~(BitVec.allOnes 64)) ||| (v &&& BitVec.allOnes 64)).toNat, v &&& BitVec.allOnes 64⟩ : RegW) = RegW.whole v := by
  rw [BitVec.not_allOnes, BitVec.and_zero, BitVec.zero_or, BitVec.and_allOnes, RegW.whole]

/-! ### The block that a register lies in -/

theorem regWrite_front (s : State) {o : Nat} (v : Word) (h8 : o % 8 = 0) (ho : o < 0x1000) :
    s.regWrite o 8 v = s.writeFront o (RegW.whole v) := by
  rw [regWrite_whole s v h8 (by unfold schedBase; omega), State.writeReg, merged_whole, if_pos ho]

theorem regWrite_firn (s : State) {o : Nat} (v : Word) (h8 : o % 8 = 0) (ho : o < 0x1000) :
    s.regWrite (0x1000 + o) 8 v = s.writeFirn o (RegW.whole v) := by
  rw [regWrite_whole s v (by omega) (by unfold schedBase; omega), State.writeReg, merged_whole, if_neg (by omega), if_pos (by omega),
    Nat.add_sub_cancel_left]

theorem regWrite_moraine (s : State) {o : Nat} (v : Word) (h8 : o % 8 = 0) (ho : o < 0x1000) :
    s.regWrite (0x2000 + o) 8 v = s.setHub (s.hub.writeMoraine o (RegW.whole v)) := by
  rw [regWrite_whole s v (by omega) (by unfold schedBase; omega), State.writeReg, merged_whole, if_neg (by omega), if_neg (by omega),
    if_pos (by omega), Nat.add_sub_cancel_left]

theorem regWrite_fault (s : State) {o : Nat} (v : Word) (h8 : o % 8 = 0) (ho : o < 0x1000) :
    s.regWrite (0x3000 + o) 8 v = s.writeFault o (RegW.whole v) := by
  rw [regWrite_whole s v (by omega) (by unfold schedBase; omega), State.writeReg, merged_whole, if_neg (by omega), if_neg (by omega),
    if_neg (by omega), if_pos (by omega), Nat.add_sub_cancel_left]

theorem regWrite_map (s : State) (v : Word) :
    s.regWrite 0x4000 8 v = (s.setHub (s.hub.writeMap (RegW.whole v))).remap s.hub.linseg := by
  rw [regWrite_whole s v (by decide) (by decide), State.writeReg, merged_whole]
  rfl

theorem regWrite_cxl (s : State) {o : Nat} (v : Word) (h8 : o % 8 = 0) (ho : o < 0x1000) :
    s.regWrite (0x5000 + o) 8 v = s.setHub (s.hub.writeCxl o (RegW.whole v)) := by
  rw [regWrite_whole s v (by omega) (by unfold schedBase; omega), State.writeReg, merged_whole, if_neg (by omega), if_neg (by omega),
    if_neg (by omega), if_neg (by omega), if_neg (by omega), if_pos (by omega), Nat.add_sub_cancel_left]

theorem regWrite_die (s : State) {d o : Nat} (v : Word) (hd : d < 8) (h8 : o % 8 = 0) (ho : o < 0x1000) :
    s.regWrite (0x10000 + 0x1000 * d + o) 8 v = s.setDie d ((s.die d).write o (RegW.whole v)) := by
  have hdie : (0x10000 + 0x1000 * d + o - 0x10000) / 0x1000 = d := by omega
  have hoff : (0x10000 + 0x1000 * d + o) % 0x1000 = o := by omega
  rw [regWrite_whole s v (by omega) (by unfold schedBase; omega), State.writeReg, merged_whole, if_neg (by omega), if_neg (by omega),
    if_neg (by omega), if_neg (by omega), if_neg (by omega), if_neg (by omega), if_pos (by omega), hdie, hoff]

/-! ### The host's writes as events -/

theorem exec_mmioRegisterWrite (s : State) {o n : Nat} (v : Word) (hn : n = 4 ∨ n = 8) (hal : o % n = 0) (ho : o < windowSize) :
    exec (.mmioRegisterWrite o n v) s = .next (s.regWrite o n v) := by
  have hat : regAt o n = true := by simp [regAt, hn, hal, ho]
  show execMmioRegisterWrite o n v s = _
  rw [execMmioRegisterWrite, hat]
  rfl

theorem writeCxl_window (h : Hub) {o : Nat} (w : RegW) (ho : o < 0x40) : h.writeCxl o w = h.writeWindow (o / 8) w := if_pos ho

theorem exec_cxlwinWrite (s : State) (k : Fin 8) (v : Word) :
    exec (.cxlwinWrite k.val v) s = .next (s.setHub (s.hub.writeWindow k.val (RegW.whole v))) := by
  show execCxlwinWrite k.val v s = _
  rw [execCxlwinWrite, if_neg (Nat.not_le.mpr k.isLt), regWrite_cxl s v (by omega) (by omega), writeCxl_window _ _ (by omega),
    Nat.mul_div_cancel_left _ (by decide)]

theorem exec_mpolicyWrite (s : State) (v : Word) :
    exec (.mpolicyWrite v) s = .next (s.setHub (s.hub.writeMpolicy (RegW.whole v))) :=
  congrArg Host.Outcome.next (regWrite_moraine s (o := 0x10) v (by decide) (by decide))

theorem exec_hbmmapWrite (s : State) (v : Word) :
    exec (.hbmmapWrite v) s = .next ((s.setHub (s.hub.writeMap (RegW.whole v))).remap s.hub.linseg) :=
  congrArg Host.Outcome.next (regWrite_map s v)

/-! ### Scheduler memory (R380) -/

/-- The bytes of a number, little-endian. -/
theorem natLe_getD (n v k : Nat) (h : k < n) : (natLe n v).getD k 0 = BitVec.ofNat 8 (v / 256 ^ k) := by
  simp [natLe, List.getD, h]

theorem natLe_length (n v : Nat) : (natLe n v).length = n := by simp [natLe]

/-- A write of scheduler memory puts its bytes and leaves every other byte. -/
theorem writeSched_getD (h : Hub) (o n : Nat) (v : Word) (k : Nat) :
    (h.writeSched o n v).sched.getD k 0 =
      if o ≤ k ∧ k < o + n then BitVec.ofNat 8 (v.toNat / 256 ^ (k - o)) else h.sched.getD k 0 := by
  have hread := Tbl.getD_foldl_set (d := 0) (natLe n v.toNat) 0 o h.sched k
  simp only [Nat.add_comm _ o, natLe_length, Nat.add_zero] at hread
  refine hread.trans ?_
  by_cases hk : o ≤ k ∧ k < o + n
  · rw [if_pos hk, if_pos hk, natLe_getD _ _ _ (by omega)]
  · rw [if_neg hk, if_neg hk]

theorem regWrite_sched (s : State) {o : Nat} (n : Nat) (v : Word) (ho : schedBase ≤ o) :
    s.regWrite o n v = s.setHub (s.hub.writeSched (o - schedBase) n v) := if_pos ho

/-! ### Moraine's policy (R273) -/

/-- EN may be set when the two regions lie in device memory and do not meet. -/
theorem regionOk_iff (h : Hub) :
    h.regionOk = true ↔
      let n := h.nframes.toNat
      let d := 65536 * h.mdata.toNat
      let r := 131072 * h.mrec.toNat
      n ≠ 0 ∧ d + 65536 * n ≤ hbmTop ∧ r + 131072 * n ≤ hbmTop ∧ (d + 65536 * n ≤ r ∨ r + 131072 * n ≤ d) := by
  simp only [Hub.regionOk, Bool.and_eq_true, Bool.or_eq_true, decide_eq_true_eq, bne_iff_ne]
  simp only [Hub.mdataBase, Hub.mrecBase, Nat.mul_comm, and_assoc]

/-- A reserved default operation leaves MPOLICY as it was. -/
theorem writeMpolicy_reserved (h : Hub) {v : Word} (hop : 9 ≤ v.toNat / 16 % 16) : h.writeMpolicy (RegW.whole v) = h := by
  refine if_pos ?_
  show 9 ≤ v.toNat / 16 % 16 % 16
  rwa [Nat.mod_mod]

/-- With a defined default operation the fields take their bits; NFRAMES is kept while EN is set, and EN sets only over regions
that fit. -/
theorem writeMpolicy_defined (h : Hub) {v : Word} (hop : v.toNat / 16 % 16 < 9) :
    h.writeMpolicy (RegW.whole v) =
      let g : Hub := { h with
        fold := v.getLsbD 8, defop := BitVec.ofNat 4 (v.toNat / 16 % 16)
        nframes := if h.men then h.nframes else BitVec.ofNat 16 (v.toNat / 65536 % 65536) }
      { g with men := v.getLsbD 0 && (h.men || g.regionOk) } := by
  refine if_neg ?_
  show ¬9 ≤ v.toNat / 16 % 16 % 16
  rwa [Nat.mod_mod, Nat.not_le]

/-! ### The HBM map (R347) -/

theorem writeMap_locked {h : Hub} (hlock : h.lock = true) (w : RegW) : h.writeMap w = h := if_pos hlock

theorem writeMap_unlocked {h : Hub} (hlock : h.lock = false) (v : Word) :
    h.writeMap (RegW.whole v) =
      { h with linseg := BitVec.ofNat 11 (min 1920 (v.toNat % 2048)), lock := v.getLsbD 32 } := by
  have hfield : bitsAt v.toNat 0 11 = v.toNat % 2048 := by simp [bitsAt]
  rw [Hub.writeMap, if_neg (ne_true_of_eq_false hlock), RegW.whole_rw, hfield]
  rfl

/-! ### CXL windows (R373) -/

theorem winEn_eq_msb (w : Word) : winEn w = w.msb := (BitVec.msb_eq_getLsbD_last w).symm

/-- The hub with a window register changed. -/
def Hub.putWindow (h : Hub) (k : Fin 8) (x : Word) : Hub := { h with cxlwin := h.cxlwin.set k x }

/-- A window in service keeps its fields, and EN clears alone; another one takes its fields, or ignores the write that would enable it
out of range. -/
theorem writeWindow_eq (h : Hub) (k : Fin 8) (v : Word) :
    h.writeWindow k.val (RegW.whole v) =
      if h.cxlwin[k].msb then (if v.msb then h else h.putWindow k (h.cxlwin[k] &&& ~~~(0x8000000000000000 : Word)))
      else if v.msb then
        (if h.winOk k.val (winStored v.toNat) then h.putWindow k (winStored v.toNat ||| 0x8000000000000000) else h)
      else h.putWindow k (winStored v.toNat) := by
  have hold : h.cxlwin.toList.getD k.val 0 = h.cxlwin[k] := by simp [List.getD]
  have hput (x : Word) : { h with cxlwin := h.cxlwin.setIfInBounds k.val x } = h.putWindow k x := by
    have hset : h.cxlwin.setIfInBounds k.val x = h.cxlwin.set k.val x :=
      Vector.ext fun i hi => by rw [Vector.getElem_setIfInBounds, Vector.getElem_set]
    rw [hset, Hub.putWindow]
  have hen : v.toNat.testBit 63 = v.msb := winEn_eq_msb v
  simp only [Hub.writeWindow, hold, hput, winEn_eq_msb, RegW.whole_rw, hen]
  cases v.msb
  · simp only [Bool.not_false, if_true, Bool.false_eq_true, if_false]
  · simp only [Bool.not_true, if_true, Bool.false_eq_true, if_false]

/-! ### The obligation -/

/-- The registers whose fields are plain bits of the value written. -/
theorem exec_mmioRegisterWrite_values (s : State) (v : Word) :
    let W (o : Nat) : Out := exec (.mmioRegisterWrite o 8 v) s
    let h := s.hub
    W 0x018 = .next (s.setHub { h with haltlog := if v.msb then 0 else h.haltlog }) ∧
    W 0x028 = .next (s.setHub { h with ctxbase := (v >>> 12).setWidth 40 }) ∧
    W 0x1010 = .next (s.setHub { h with skew := h.skew &&& ~~~(v.setWidth 8), pod := h.pod && !v.getLsbD 8 }) ∧
    W 0x1018 = .next (s.setHub { h with xcap := (v >>> 8).setWidth 4, lcap := v.setWidth 2 }) ∧
    W 0x3000 = .next (s.setHub { h with fqbase := (v >>> 12).setWidth 40 }) ∧
    W 0x3018 = .next (s.setHub { h with fqhead := v.setWidth 32 }) ∧
    W 0x1000 = .next s ∧ W 0x208 = .next s ∧
    ∀ d, d < 8 → W (0x10000 + 0x1000 * d) = .next (s.setDie d { s.die d with
      wdIen := v.getLsbD 32, wdLimit := if v.setWidth 20 = 0#20 then 1 else v.setWidth 20 }) := by
  intro W h
  have hW {o : Nat} {t : State} (h8 : o % 8 = 0) (ho : o < windowSize) (hreg : s.regWrite o 8 v = t) : W o = .next t := by
    rw [← hreg]
    exact exec_mmioRegisterWrite s v (.inr rfl) h8 ho
  have hmsb : v.getLsbD 63 = v.msb := winEn_eq_msb v
  refine ⟨?_, ?_, ?_, ?_, ?_, ?_, ?_, ?_, fun d hd => ?_⟩
  · rw [hW (o := 0x018) (by decide) (by decide) (regWrite_front s v (by decide) (by decide)), ← hmsb]
    rfl
  · rw [hW (o := 0x028) (by decide) (by decide) (regWrite_front s v (by decide) (by decide)), ← RegW.whole_f]
    rfl
  · exact hW (by decide) (by decide) (regWrite_firn s (o := 0x10) v (by decide) (by decide))
  · rw [hW (o := 0x1018) (by decide) (by decide) (regWrite_firn s (o := 0x18) v (by decide) (by decide)), ← RegW.whole_f, ← RegW.whole_f_low]
    rfl
  · rw [hW (o := 0x3000) (by decide) (by decide) (regWrite_fault s (o := 0x00) v (by decide) (by decide)), ← RegW.whole_f]
    rfl
  · rw [hW (o := 0x3018) (by decide) (by decide) (regWrite_fault s (o := 0x18) v (by decide) (by decide)), ← RegW.whole_f_low]
    rfl
  · exact hW (by decide) (by decide) (regWrite_firn s (o := 0x00) v (by decide) (by decide))
  · exact hW (by decide) (by decide) (regWrite_front s v (by decide) (by decide))
  · rw [hW (o := 0x10000 + 0x1000 * d) (by omega) (by unfold windowSize; omega) (regWrite_die s (o := 0x00) v hd (by decide) (by decide)),
      ← RegW.whole_f_low]
    rfl

/-- An aligned write of 4 or 8 bytes completes; one of scheduler memory stores its bytes. -/
theorem exec_mmioRegisterWrite_completes (s : State) {o n : Nat} (v : Word) (hn : n = 4 ∨ n = 8) (hal : o % n = 0) (ho : o < windowSize) :
    (∃ t, exec (.mmioRegisterWrite o n v) s = .next t) ∧
    (schedBase ≤ o → ∃ t, exec (.mmioRegisterWrite o n v) s = .next t ∧ Unmoved s t ∧
      ∀ k, t.hub.sched.getD k 0 =
        if o ≤ schedBase + k ∧ schedBase + k < o + n then BitVec.ofNat 8 (v.toNat / 256 ^ (schedBase + k - o))
        else s.hub.sched.getD k 0) := by
  have hexec := exec_mmioRegisterWrite s v hn hal ho
  refine ⟨⟨_, hexec⟩, fun hsched => ⟨_, hexec, ?_⟩⟩
  rw [regWrite_sched s n v hsched]
  refine ⟨setHub_unmoved .., fun k => (writeSched_getD s.hub (o - schedBase) n v k).trans ?_⟩
  have hcover : (o - schedBase ≤ k ∧ k < o - schedBase + n) ↔ (o ≤ schedBase + k ∧ schedBase + k < o + n) := by omega
  have hoff : k - (o - schedBase) = schedBase + k - o := by omega
  rw [if_congr hcover rfl rfl, hoff]

/-- MPOLICY and HBMMAP: settings that are reserved or locked are ignored (R273, R347). -/
theorem exec_mpolicyWrite_hbmmapWrite (s : State) (v : Word) :
    let h := s.hub
    let op := v.toNat / 16 % 16
    let n := v.toNat / 65536 % 65536
    let d := 65536 * h.mdata.toNat
    let r := 131072 * h.mrec.toNat
    let top := hbmTop
    let fits := n ≠ 0 ∧ d + 65536 * n ≤ top ∧ r + 131072 * n ≤ top ∧ (d + 65536 * n ≤ r ∨ r + 131072 * n ≤ d)
    let i : Instr := .mpolicyWrite v
    (9 ≤ op → exec i s = .next s) ∧
    (op < 9 → h.men = false → exec i s = .next (s.setHub { h with
      fold := v.getLsbD 8, defop := BitVec.ofNat 4 op, nframes := BitVec.ofNat 16 n, men := v.getLsbD 0 && decide fits })) ∧
    (op < 9 → h.men = true → exec i s = .next (s.setHub { h with
      fold := v.getLsbD 8, defop := BitVec.ofNat 4 op, men := v.getLsbD 0 })) ∧
    (h.lock = true → exec (.hbmmapWrite v) s = .next s) ∧
    (h.lock = false → exec (.hbmmapWrite v) s = .next ((s.setHub { h with
      linseg := BitVec.ofNat 11 (min 1920 (v.toNat % 2048)), lock := v.getLsbD 32 }).remap h.linseg)) := by
  intro h op n d r top fits i
  refine ⟨fun hop => ?_, fun hop hmen => ?_, fun hop hmen => ?_, fun hlock => ?_, fun hlock => ?_⟩
  · rw [exec_mpolicyWrite, writeMpolicy_reserved _ hop]
    rfl
  · have hfits : ({ h with
        fold := v.getLsbD 8, defop := BitVec.ofNat 4 op, nframes := BitVec.ofNat 16 n } : Hub).regionOk = decide fits := by
      rw [Bool.eq_iff_iff, regionOk_iff, decide_eq_true_iff, BitVec.toNat_ofNat, Nat.mod_mod]
    rw [exec_mpolicyWrite, writeMpolicy_defined _ hop, hmen, ← hfits]
    rfl
  · rw [exec_mpolicyWrite, writeMpolicy_defined _ hop, hmen]
    simp only [Bool.true_or, Bool.and_true, if_true]
    rfl
  · rw [exec_hbmmapWrite, writeMap_locked hlock]
    exact congrArg Host.Outcome.next (remap_same rfl)
  · rw [exec_hbmmapWrite, writeMap_unlocked hlock]

/-- Settles O59, register by register: each write is one of a whole register of its block, or of scheduler memory. -/
theorem mmioEvents : Obligations.MmioEvents := by
  unfold Obligations.MmioEvents
  refine ⟨fun s o n v hn hal ho => exec_mmioRegisterWrite_completes s v hn hal ho, fun s v => exec_mmioRegisterWrite_values s v,
    fun s v => exec_mpolicyWrite_hbmmapWrite s v, fun s k v => ?_⟩
  have hexec := exec_cxlwinWrite s k v
  rw [writeWindow_eq] at hexec
  refine ⟨fun hold hen => ?_, fun hold hen => ?_, fun hold hen => ?_, fun hold hen => ?_⟩
  · rw [hexec, if_pos hold, if_pos hen]
    rfl
  · rw [hexec, if_pos hold, if_neg (ne_true_of_eq_false hen)]
    rfl
  · rw [hexec, if_neg (ne_true_of_eq_false hold), if_neg (ne_true_of_eq_false hen)]
    rfl
  · rw [hexec, if_neg (ne_true_of_eq_false hold), if_pos hen]
    split <;> rfl

end Sys2Proof.Machine
end

section
/-! PROOF of O57: module reset, boot, channel widths and eyes, failing links. -/

namespace Sys2Proof.Machine
open Sys2Proof

/-! ### A bring-up that goes on (R395) -/

/-- The address of the manifest that a write of BOOTCTL names. -/
def manifestAt (v : Word) : Nat := v.toNat / 64 % 2 ^ 46 * 64

/-- The manifest as the bring-up reads it. -/
def State.manifestBytes (s : State) (v : Word) : List Byte := s.bytes (manifestAt v) 64

/-- The manifest is in host memory and valid. -/
def State.ManifestFine (s : State) (v : Word) : Prop := kindOf (manifestAt v) = 1 ∧ manifestOk (s.manifestBytes v) = true

/-- The dies that the manifest asks for and whose links have trained. -/
def State.bootDies (s : State) (v : Word) (trained : Byte) : Byte := (s.manifestBytes v).getD 6 0 &&& trained

/-- A field of one byte is the byte. -/
theorem fieldAt_one (bs : List Byte) (o : Nat) : BitVec.ofNat 8 (fieldAt bs o 1) = bs.getD o 0 := by
  have hbyte : (bs.drop o).take 1 = if h : o < bs.length then [bs[o]] else [] := by
    split
    · rename_i h
      rw [List.drop_eq_getElem_cons h, List.take_succ_cons, List.take_zero]
    · rename_i h
      rw [List.drop_eq_nil_of_le (Nat.not_lt.mp h), List.take_nil]
  rw [fieldAt, hbyte]
  by_cases h : o < bs.length <;> simp [h, leNat, List.getD]

theorem dies_and_trained (s : State) (v : Word) (trained : Byte) :
    BitVec.ofNat 8 (fieldAt (s.manifestBytes v) 6 1) &&& trained = s.bootDies v trained := by
  rw [fieldAt_one]
  rfl

theorem not_manifestFine_iff (s : State) (v : Word) :
    (kindOf (manifestAt v) ≠ 1 ∨ (!manifestOk (s.manifestBytes v)) = true) ↔ ¬s.ManifestFine v := by
  rw [State.ManifestFine, not_and_or, Bool.not_eq_true']
  simp

theorem bootRead_noManifest {s : State} {v : Word} (trained : Byte) (ok : Bool) (hfine : ¬s.ManifestFine v) :
    s.bootRead v trained ok = s.bootFail 1 := if_pos ((not_manifestFine_iff s v).mpr hfine)

theorem bootRead_badImage {s : State} {v : Word} (trained : Byte) (hfine : s.ManifestFine v) :
    s.bootRead v trained false = s.bootFail 2 :=
  (if_neg (fun h => (not_manifestFine_iff s v).mp h hfine)).trans (if_pos rfl)

/-- The lowest die of a mask. -/
theorem find?_lowest {dies : Byte} (h : dies ≠ 0) :
    ∃ low, ((List.range 8).find? fun d => dies.getLsbD d) = some low ∧ dies.getLsbD low = true ∧
      ∀ k, k < low → dies.getLsbD k = false := by
  cases hfind : (List.range 8).find? fun d => dies.getLsbD d with
  | some low =>
    obtain ⟨hbit, -, hlow⟩ := List.find?_range_eq_some.mp hfind
    exact ⟨low, rfl, hbit, fun k hk => by simpa using hlow k hk⟩
  | none =>
    refine absurd (BitVec.eq_of_getLsbD_eq fun i hi => ?_) h
    have := List.find?_range_eq_none.mp hfind i hi
    simpa using this

theorem bootRead_noDie {s : State} {v : Word} {trained : Byte} (hfine : s.ManifestFine v) (hdies : s.bootDies v trained = 0) :
    s.bootRead v trained true = s.bootFail 3 := by
  refine (if_neg (fun h => (not_manifestFine_iff s v).mp h hfine)).trans ((if_neg (by decide)).trans ?_)
  extract_lets dies
  have hmask : dies = 0 := (dies_and_trained s v trained).trans hdies
  rw [hmask]
  rfl

/-- The state with another table of dies, and with another table of stacks. -/
def State.withDies (s : State) (ds : Tbl Die) : State := { s with dies := ds }
def State.withStacks (s : State) (hs : Tbl Stack) : State := { s with hbms := hs }

/-- The lowest die enters service. -/
theorem foldl_enterLow (s : State) (low : Nat) (b : Bool) :
    ∃ ds, (List.range 8).foldl (fun s d => s.setDie d { s.die d with inService := d == low, boost := b }) s = s.withDies ds ∧
      ∀ d, d < 8 → (ds.getD d Die.reset).inService = (d == low) :=
  Tbl.foldl_range_put (wr := s.withDies) (Q := fun d x => x.inService = (d == low)) Die.reset
    (fun ds d => ⟨{ ds.getD d Die.reset with inService := d == low, boost := b }, rfl, rfl⟩) 8 s.dies

/-- Every stack starts to train. -/
theorem foldl_train (s : State) (due : State → Nat → Nat) :
    ∃ hs, (List.range 16).foldl (fun s k => s.setStack k { s.stack k with trainedAt := some (due s k) }) s = s.withStacks hs ∧
      ∀ k, k < 16 → (hs.getD k Stack.reset).trainedAt.isSome = true := by
  have h := Tbl.foldl_range_put (g := fun s k => s.setStack k { s.stack k with trainedAt := some (due s k) }) (wr := s.withStacks)
    (Q := fun _ x => x.trainedAt.isSome = true) Stack.reset
    (fun hs k => ⟨{ hs.getD k Stack.reset with trainedAt := some (due (s.withStacks hs) k) }, rfl, rfl⟩)
  exact h 16 s.hbms

/-- Reduced service starts on the lowest die that the manifest asks for and whose link has trained; every stack starts to train. -/
theorem bootRead_up {s : State} {v : Word} {trained : Byte} (hfine : s.ManifestFine v) (hdies : s.bootDies v trained ≠ 0) :
    ∃ low ds hs, (s.bootDies v trained).getLsbD low = true ∧ (∀ k, k < low → (s.bootDies v trained).getLsbD k = false) ∧
      (∀ d, d < 8 → (ds.getD d Die.reset).inService = (d == low)) ∧
      (∀ k, k < 16 → (hs.getD k Stack.reset).trainedAt.isSome = true) ∧
      s.bootRead v trained true =
        ((((s.withDies ds).withStacks hs).setHub { s.hub with
          bootPhase := 2, diemask := s.bootDies v trained
          linseg := BitVec.ofNat 11 (min linsegMax (fieldAt (s.manifestBytes v) 0x14 2))
          skewmax := BitVec.ofNat 7 (clampTo 4 64 (fieldAt (s.manifestBytes v) 0x16 1))
          lock := (fieldAt (s.manifestBytes v) 7 1).testBit 0 }).remap s.hub.linseg).bump := by
  obtain ⟨low, hfind, hbit, hlow⟩ := find?_lowest hdies
  obtain ⟨ds, hds, hserve⟩ := foldl_enterLow s low ((fieldAt (s.manifestBytes v) 7 1).testBit 1)
  obtain ⟨hs, hhs, htrain⟩ := foldl_train (s.withDies ds) fun s k => s.hub.firn.toNat + Config.pick 18 (s.fresh + k)
  refine ⟨low, ds, hs, hbit, hlow, hserve, htrain, ?_⟩
  refine (if_neg (fun h => (not_manifestFine_iff s v).mp h hfine)).trans ((if_neg (by decide)).trans ?_)
  extract_lets dies
  have hmask : dies = s.bootDies v trained := dies_and_trained s v trained
  rw [hmask, hfind]
  dsimp -zeta only
  extract_lets s1 s2
  have hs1 : s1 = s.withDies ds := hds
  have hs2 : s2 = (s.withDies ds).withStacks hs := by rw [← hhs, ← hs1]
  rw [hs2]
  rfl

/-- A bring-up is over once it has read the manifest. -/
theorem bootRead_booting (s : State) (v : Word) (trained : Byte) (ok : Bool) :
    (s.bootRead v trained ok).hub.booting = s.hub.booting := by
  by_cases hfine : s.ManifestFine v
  · cases ok with
    | false => rw [bootRead_badImage trained hfine]; rfl
    | true =>
      by_cases hdies : s.bootDies v trained = 0
      · rw [bootRead_noDie hfine hdies]; rfl
      · obtain ⟨low, ds, hs, -, -, -, -, hup⟩ := bootRead_up hfine hdies
        rw [hup, State.bump_hub, remap_hub]
        rfl
  · rw [bootRead_noManifest trained ok hfine]; rfl

theorem bringUp_eq {s : State} {v : Word} {trained : Byte} {ok : Bool} (h : s.hub.booting = some (v, trained, ok)) :
    s.bringUp = (s.setHub { s.hub with booting := none }).bootRead v trained ok := by
  rw [State.bringUp, h]

theorem bringUp_booting (s : State) : s.bringUp.hub.booting = none := by
  cases h : s.hub.booting with
  | none => rw [State.bringUp, h]; exact h
  | some b =>
    obtain ⟨v, trained, ok⟩ := b
    rw [bringUp_eq h, bootRead_booting]
    rfl

theorem tick_booting (s : State) : s.tick.hub.booting = none := by
  simp only [State.tick, bringUp_booting]

/-- What reduced service leaves: its registers, and the lowest die in service. -/
theorem bootRead_up_spec {s : State} {v : Word} {trained : Byte} (hfine : s.ManifestFine v) (hdies : s.bootDies v trained ≠ 0) :
    let t := s.bootRead v trained true
    (t.hub.linseg = s.hub.linseg → SameMemory s t) ∧ t.floes = s.floes ∧ t.packs = s.packs ∧ t.hub.bootPhase = 2 ∧
      t.hub.diemask = s.bootDies v trained ∧ t.hub.linseg.toNat = min 1920 (leNat (((s.manifestBytes v).drop 0x14).take 2)) ∧
      (∀ k, k < 16 → (t.stack k).trainedAt.isSome = true) ∧
      ∀ d, d < 8 → ((t.die d).inService = true ↔
        (s.bootDies v trained).getLsbD d = true ∧ ∀ k, k < d → (s.bootDies v trained).getLsbD k = false) := by
  obtain ⟨low, ds, hs, hbit, hlow, hserve, htrain, hup⟩ := bootRead_up hfine hdies
  rw [hup]
  generalize hu : ((s.withDies ds).withStacks hs).setHub _ = u
  have hlinseg : u.hub.linseg = BitVec.ofNat 11 (min linsegMax (fieldAt (s.manifestBytes v) 0x14 2)) := by rw [← hu]; rfl
  have hfields : u.floes = s.floes ∧ u.packs = s.packs ∧ u.hub.bootPhase = 2 ∧ u.hub.diemask = s.bootDies v trained ∧
      u.hbms = hs ∧ u.dies = ds ∧ SameMemory s u := by
    rw [← hu]
    exact ⟨rfl, rfl, rfl, rfl, rfl, rfl, rfl, rfl, rfl⟩
  obtain ⟨hfloes, hpacks, hphase, hmask, hstacks, hdietable, hmem⟩ := hfields
  obtain ⟨m, t, p, hmap⟩ := remap_eq u s.hub.linseg
  refine ⟨fun hsame => ?_, ?_, ?_, ?_, ?_, ?_, fun k hk => ?_, fun d hd => ?_⟩
  · have hstay : s.hub.linseg = u.hub.linseg := by rw [hmap] at hsame; exact hsame.symm
    rw [remap_same hstay]
    exact hmem
  · rw [hmap]; exact hfloes
  · rw [hmap]; exact hpacks
  · rw [hmap]; exact hphase
  · rw [hmap]; exact hmask
  · rw [hmap]
    show u.hub.linseg.toNat = _
    rw [hlinseg, BitVec.toNat_ofNat, linsegMax, fieldAt]
    omega
  · rw [hmap]
    show (u.hbms.getD k Stack.reset).trainedAt.isSome = true
    rw [hstacks]
    exact htrain k hk
  · rw [hmap]
    show (u.dies.getD d Die.reset).inService = true ↔ _
    rw [hdietable, hserve d hd, beq_iff_eq]
    constructor
    · rintro rfl
      exact ⟨hbit, hlow⟩
    · rintro ⟨hd1, hd2⟩
      rcases Nat.lt_trichotomy d low with h | h | h
      · exact absurd hd1 (by simp [hlow d h])
      · exact h
      · exact absurd hbit (by simp [hd2 low h])

/-! ### Full service (R395) -/

/-- A stack has trained, or every pseudo-channel of it is fenced. -/
theorem stackReady_iff (s : State) (k : Nat) :
    s.stackReady k = true ↔
      (∃ x, (s.stack k).trainedAt = some x ∧ x ≤ s.hub.firn.toNat) ∨ ∀ pc, pc < 64 → (s.stack k).fenced.getLsbD pc = true := by
  have hfenced : (s.stack k).fenced = BitVec.allOnes 64 ↔ ∀ pc, pc < 64 → (s.stack k).fenced.getLsbD pc = true := by
    constructor
    · intro h pc hpc
      rw [h, BitVec.getLsbD_allOnes, decide_eq_true hpc]
    · exact fun h => BitVec.eq_of_getLsbD_eq fun pc hpc => by rw [h pc hpc, BitVec.getLsbD_allOnes, decide_eq_true hpc]
  rw [State.stackReady, Bool.or_eq_true, beq_iff_eq, hfenced, Option.any_eq_true]
  simp only [decide_eq_true_eq]

/-- Both stacks of every die in DIEMASK are ready. -/
def State.DiesReady (s : State) : Prop :=
  ∀ d, d < 8 → s.hub.diemask.getLsbD d = true → s.stackReady (2 * d) = true ∧ s.stackReady (2 * d + 1) = true

theorem diesReady_iff (s : State) :
    (((List.range 8).filter fun d => s.hub.diemask.getLsbD d).all fun d => s.stackReady (2 * d) && s.stackReady (2 * d + 1)) = true ↔
      s.DiesReady := by
  simp only [State.DiesReady, List.all_eq_true, List.mem_filter, List.mem_range, Bool.and_eq_true, and_imp]

theorem exec_bootFull_notReady {s : State} (h : ¬s.DiesReady) : exec .bootFull s = .fault .notDue := by
  have hall := mt (diesReady_iff s).mp h
  exact if_pos (by simp [hall])

/-- Die d serves when DIEMASK has it, with its beats counted from now on if it did not serve before. -/
def State.enterService (s : State) (d : Nat) : State :=
  if s.hub.diemask.getLsbD d then
    s.setDie d { s.die d with inService := true, beatAt := if (s.die d).inService then (s.die d).beatAt else s.hub.firn.toNat }
  else s.setDie d { s.die d with inService := false }

/-- The lines below 4 GiB that hold written bytes. -/
def State.writtenLow (s : State) : List Nat := (s.mem.map fun e => lineOf e.1).filter fun n => decide (128 * n < reducedTop)

/-- Phase FULL, with the written lines below 4 GiB still in the Neve. -/
def State.fullService (s : State) : State :=
  s.setHub { s.hub with bootPhase := 3, neve := s.writtenLow.foldl (fun t n => t.put n true) s.hub.neve }

theorem exec_bootFull_ready {s : State} (hphase : s.hub.bootPhase = 2) (h : s.DiesReady) :
    exec .bootFull s = .next ((List.range 8).foldl State.enterService s).fullService := by
  have hready := (diesReady_iff s).mpr h
  exact if_neg (by simp [hphase, hready])

theorem foldl_enterService (s : State) :
    ∃ ds, (List.range 8).foldl State.enterService s = s.withDies ds ∧
      ∀ d, d < 8 → (ds.getD d Die.reset).inService = s.hub.diemask.getLsbD d := by
  refine Tbl.foldl_range_put (wr := s.withDies) (Q := fun d x => x.inService = s.hub.diemask.getLsbD d) Die.reset (fun ds d => ?_) 8 s.dies
  cases hbit : s.hub.diemask.getLsbD d with
  | true => exact ⟨_, if_pos hbit, rfl⟩
  | false => exact ⟨_, if_neg (ne_true_of_eq_false hbit), rfl⟩

theorem mem_writtenLow (s : State) (n : Nat) : n ∈ s.writtenLow ↔ 128 * n < 2 ^ 32 ∧ ∃ e ∈ s.mem, e.1 / 128 = n := by
  simp only [State.writtenLow, List.mem_filter, List.mem_map, decide_eq_true_eq, and_comm (a := ∃ _, _)]
  rfl

/-! ### Channels and eyes (R351, R352) -/

theorem isChan_of_lt {n chan : Nat} (hn : n < 16) (hc : chan < 32) : isChan n chan = true := by simp [isChan, hn, hc]

/-- A stack with the eye of a lane as the monitor has seen it. -/
def Stack.seen (k : Stack) (pc lane : Nat) (eye : Byte × Byte) : Stack := { k with eyes := k.eyes.put (eyeKey pc lane) eye }

theorem setEye_wide {s : State} {n : Nat} {width : Byte} (pc lane : Nat) (height : Byte) (h : (s.stack n).thresh ≤ width) :
    s.setEye n pc lane height width = s.setStack n ((s.stack n).seen pc lane (height, width)) := if_pos h

theorem setEye_low {s : State} {n : Nat} {width : Byte} (pc lane : Nat) (height : Byte) (h : width < (s.stack n).thresh) :
    s.setEye n pc lane height width =
      let k := s.stack n
      let t := s.setStack n { k.seen pc lane (height, width) with eyestat := k.eyestat ||| (1 <<< pc) }
      if !k.eyestat.getLsbD pc && k.ien then t.interrupt 20 else t := if_neg (Nat.not_le.mpr h)

/-- The monitor keeps the eye that it sees; a width below the threshold sets the bit of its pseudo-channel, and vector 20 tells of a
bit that it sets. -/
theorem setEye_spec (s : State) (n pc lane : Nat) (eye : Byte × Byte) :
    let k := s.stack n
    let low := eye.2 < k.thresh
    let t := s.setEye n pc lane eye.1 eye.2
    Unmoved s t ∧
      t.stack n = { k.seen pc lane eye with eyestat := if low then k.eyestat ||| (1 <<< pc) else k.eyestat } ∧
      (low → k.eyestat.getLsbD pc = false → k.ien = true → 20 ∈ t.hub.vectors) ∧
      (¬low ∨ k.eyestat.getLsbD pc = true ∨ k.ien = false → t.hub = s.hub) := by
  intro k low t
  by_cases hlow : low
  · have hset := setEye_low pc lane eye.1 hlow
    rw [if_pos hlow]
    by_cases hraise : (!k.eyestat.getLsbD pc && k.ien) = true
    · have ht : t = _ := hset.trans (if_pos hraise)
      rw [ht]
      refine ⟨(setStack_unmoved ..).trans (interrupt_unmoved ..), stack_setStack_same .., fun _ _ _ => interrupt_vectors .., fun h => ?_⟩
      obtain ⟨hbit, hien⟩ := Bool.and_eq_true_iff.mp hraise
      rcases h with h | h | h
      · exact absurd hlow h
      · rw [h] at hbit
        cases hbit
      · rw [h] at hien
        cases hien
    · have ht : t = _ := hset.trans (if_neg hraise)
      rw [ht]
      refine ⟨setStack_unmoved .., stack_setStack_same .., fun _ hbit hien => absurd ?_ hraise, fun _ => rfl⟩
      rw [hbit, hien]
      rfl
  · have ht : t = _ := setEye_wide pc lane eye.1 (BitVec.not_lt.mp hlow)
    rw [ht, if_neg hlow]
    exact ⟨setStack_unmoved .., stack_setStack_same .., fun h => absurd h hlow, fun _ => rfl⟩

theorem bump_stack (s : State) (n : Nat) : s.bump.stack n = s.stack n := rfl

theorem bump_bump_unmoved (s : State) : Unmoved s s.bump.bump := (bump_unmoved s).trans (bump_unmoved s.bump)

/-- A repaired lane: its spare's eye is seen, or none is left and the channel goes to half width. -/
theorem repairLane_spec (s : State) (n chan lane : Nat) :
    let k := s.stack n
    let pc := 32 * (lane / 32 % 2) + chan
    let low (eye : Byte × Byte) := eye.2 < k.thresh
    let t := s.repairLane n chan lane
    Unmoved s t ∧
      (t.hbms = (s.channelWidth n chan true).hbms ∧ t.hub = s.hub ∨ ∃ eye : Byte × Byte,
        t.stack n = { k with
          spares := k.spares.put (eyeKey pc lane) (k.spares.getD (eyeKey pc lane) 0 + 1), eyes := k.eyes.put (eyeKey pc lane) eye
          eyestat := if low eye then k.eyestat ||| (1 <<< pc) else k.eyestat } ∧
        (low eye → k.eyestat.getLsbD pc = false → k.ien = true → 20 ∈ t.hub.vectors) ∧
        (¬low eye ∨ k.eyestat.getLsbD pc = true ∨ k.ien = false → t.hub = s.hub)) := by
  intro k pc low t
  by_cases hspare : Config.pick 13 s.fresh % 2 = 1
  · let spared : State := s.setStack n { k with spares := k.spares.put (eyeKey pc lane) (k.spares.getD (eyeKey pc lane) 0 + 1) }
    let eye : Byte × Byte := (BitVec.ofNat 8 (Config.pick 12 s.fresh), BitVec.ofNat 8 (Config.pick 12 (s.fresh + 1)))
    have ht : t = (spared.setEye n pc lane eye.1 eye.2).bump.bump := congrArg (fun u : State => u.bump.bump) (if_pos hspare)
    obtain ⟨hmoved, hstack, hraise, hquiet⟩ := setEye_spec spared n pc lane eye
    have hspared : spared.stack n = { k with spares := k.spares.put (eyeKey pc lane) (k.spares.getD (eyeKey pc lane) 0 + 1) } :=
      stack_setStack_same ..
    rw [hspared] at hstack hraise hquiet
    have hspare_moved : Unmoved s spared := setStack_unmoved ..
    rw [ht]
    refine ⟨hspare_moved.trans (hmoved.trans (bump_bump_unmoved _)), .inr ⟨eye, ?_⟩⟩
    rw [bump_stack, bump_stack, State.bump_hub, State.bump_hub]
    exact ⟨hstack, hraise, hquiet⟩
  · have ht : t = (s.channelWidth n chan true).bump.bump := congrArg (fun u : State => u.bump.bump) (if_neg hspare)
    have hwidth_moved : Unmoved s (s.channelWidth n chan true) := setStack_unmoved ..
    rw [ht]
    exact ⟨hwidth_moved.trans (bump_bump_unmoved _), .inl ⟨rfl, rfl⟩⟩

/-! ### The events of a channel -/

theorem exec_channelWidthChange {n chan : Nat} (hn : n < 16) (hc : chan < 32) (h thermal : Bool) (s : State) :
    exec (.channelWidthChange n chan h thermal) s =
      .next (if thermal && h then (s.channelWidth n chan h).machineFault 6 (dieOfStack n) 0 else s.channelWidth n chan h) :=
  if_neg (by simp [isChan_of_lt hn hc])

theorem exec_eyeactRetrain {n chan : Nat} (hn : n < 16) (hc : chan < 32) (s : State) : exec (.eyeactRetrain n chan) s = .next s :=
  if_neg (by simp [isChan_of_lt hn hc])

theorem exec_eyeactRepair {n chan lane : Nat} (hn : n < 16) (hc : chan < 32) (hl : lane < 64) (s : State) :
    exec (.eyeactRepair n chan lane) s = .next (s.repairLane n chan lane) :=
  if_neg (by simp [isChan_of_lt hn hc, hl])

theorem exec_eyeactHalfWidth {n chan : Nat} (hn : n < 16) (hc : chan < 32) (s : State) :
    exec (.eyeactHalfWidth n chan) s = .next (s.channelWidth n chan true) :=
  if_neg (by simp [isChan_of_lt hn hc])

theorem exec_eyeactFullWidth {n chan : Nat} (hn : n < 16) (hc : chan < 32) (able : Bool) (s : State) :
    exec (.eyeactFullWidth n chan able) s = .next (if able then s.channelWidth n chan false else s) :=
  if_neg (by simp [isChan_of_lt hn hc])

theorem exec_periodicRetrain {n : Nat} (hn : n < 16) {s : State} (h : (s.stack n).rtint ≠ 0) :
    exec (.periodicRetrain n) s = .next s :=
  (if_neg (Nat.not_le.mpr hn)).trans (if_neg h)

theorem exec_hbmRefresh {n : Nat} (hn : n < 16) (bank : Nat) (s : State) : exec (.hbmRefresh n bank) s = .next s :=
  if_neg (Nat.not_le.mpr hn)

theorem exec_eyeMarginLow {n bit : Nat} (hn : n < 16) (hb : bit < 2048) (eye : Eye) (s : State) :
    exec (.eyeMarginLow n bit eye) s = .next (s.setEye n (bit / 32) bit eye.height eye.width) :=
  if_neg (by omega)

theorem exec_hingeLinkFail {die : Nat} (hd : die < 8) (s : State) :
    exec (.hingeLinkFail die) s =
      .next (((s.setDie die { s.die die with inService := false }).setHub
        { s.hub with diemask := s.hub.diemask &&& ~~~(1#8 <<< die) }).machineFault 4 die 0) :=
  if_neg (Nat.not_le.mpr hd)

/-! ### The obligation -/

/-- What module reset leaves. -/
theorem exec_moduleReset_spec (s : State) :
    ∃ t, exec .moduleReset s = .next t ∧ (s.hub.linseg = 1920 → SameMemory s t) ∧
    t = State.remap { State.reset with
      mem := s.mem, tags := s.tags, poison := s.poison, agenda := s.agenda, upsets := s.upsets, fresh := s.fresh
      hub := { Hub.reset with vectors := s.hub.vectors, hostReads := s.hub.hostReads } } s.hub.linseg ∧
    t.floes = [] ∧ t.packs = [] ∧ t.cores = [] ∧ t.dies = [] ∧ t.hbms = [] ∧
    t.pend = [] ∧ t.fences = [] ∧ t.copies = [] ∧ t.drains = [] ∧ t.seracs = [] ∧ t.issue = [] ∧ t.issuing = none ∧
    t.hub = { Hub.reset with vectors := s.hub.vectors, hostReads := s.hub.hostReads } := by
  obtain ⟨m, g, p, hmap⟩ := remap_eq s.resetRegs s.hub.linseg
  have hreset : s.moduleReset = { s.resetRegs with mem := m, tags := g, poison := p } := hmap
  refine ⟨s.moduleReset, rfl, fun hlin => ?_, rfl, ?_⟩
  · have hstay : s.moduleReset = s.resetRegs := remap_same hlin
    rw [hstay]
    exact ⟨rfl, rfl, rfl⟩
  · rw [hreset]
    exact ⟨rfl, rfl, rfl, rfl, rfl, rfl, rfl, rfl, rfl, rfl, rfl, rfl, rfl⟩

/-- A bring-up reads its manifest: an error for each check that fails, or reduced service. -/
theorem bringUp_spec {s : State} {v : Word} {trained : Byte} {ok : Bool} (h : s.hub.booting = some (v, trained, ok)) :
    let dies := s.bootDies v trained
    let t := s.bringUp
    t.hub.booting = none ∧ (t.hub.linseg = s.hub.linseg → SameMemory s t) ∧ t.floes = s.floes ∧ t.packs = s.packs ∧
      (¬s.ManifestFine v → t.hub.bootPhase = 4 ∧ t.hub.bootErr = 1) ∧
      (s.ManifestFine v → ok = false → t.hub.bootPhase = 4 ∧ t.hub.bootErr = 2) ∧
      (s.ManifestFine v → ok = true → dies = 0 → t.hub.bootPhase = 4 ∧ t.hub.bootErr = 3) ∧
      (s.ManifestFine v → ok = true → dies ≠ 0 → t.hub.bootPhase = 2 ∧ t.hub.diemask = dies ∧
        t.hub.linseg.toNat = min 1920 (leNat (((s.manifestBytes v).drop 0x14).take 2)) ∧
        (∀ k, k < 16 → (t.stack k).trainedAt.isSome = true) ∧
        ∀ d, d < 8 → ((t.die d).inService = true ↔ dies.getLsbD d = true ∧ ∀ k, k < d → dies.getLsbD k = false)) := by
  intro dies t
  let u := s.setHub { s.hub with booting := none }
  have hbooting : t.hub.booting = none := bringUp_booting s
  have hread : t = u.bootRead v trained ok := bringUp_eq h
  have failed {err : Byte} (ht : t = u.bootFail err) :
      (t.hub.linseg = s.hub.linseg → SameMemory s t) ∧ t.floes = s.floes ∧ t.packs = s.packs ∧ t.hub.bootPhase = 4 ∧ t.hub.bootErr = err := by
    rw [ht]
    exact ⟨fun _ => ⟨rfl, rfl, rfl⟩, rfl, rfl, rfl, rfl⟩
  by_cases hfine : s.ManifestFine v
  · cases ok with
    | false =>
      obtain ⟨hmem, hfloes, hpacks, herr⟩ := failed (hread.trans (bootRead_badImage (s := u) trained hfine))
      exact ⟨hbooting, hmem, hfloes, hpacks, fun hn => absurd hfine hn, fun _ _ => herr, fun _ hn => absurd hn Bool.false_ne_true,
        fun _ hn => absurd hn Bool.false_ne_true⟩
    | true =>
      by_cases hdies : dies = 0
      · obtain ⟨hmem, hfloes, hpacks, herr⟩ := failed (hread.trans (bootRead_noDie (s := u) hfine hdies))
        exact ⟨hbooting, hmem, hfloes, hpacks, fun hn => absurd hfine hn, fun _ hn => absurd hn.symm Bool.false_ne_true, fun _ _ _ => herr,
          fun _ _ hn => absurd hdies hn⟩
      · have hup := bootRead_up_spec (s := u) hfine hdies
        rw [← hread] at hup
        obtain ⟨hmem, hfloes, hpacks, hserve⟩ := hup
        exact ⟨hbooting, hmem, hfloes, hpacks, fun hn => absurd hfine hn, fun _ hn => absurd hn.symm Bool.false_ne_true, fun _ _ hn => absurd hn hdies,
          fun _ _ _ => hserve⟩
  · obtain ⟨hmem, hfloes, hpacks, herr⟩ := failed (hread.trans (bootRead_noManifest (s := u) trained ok hfine))
    exact ⟨hbooting, hmem, hfloes, hpacks, fun _ => herr, fun hn => absurd hn hfine, fun hn => absurd hn hfine, fun hn => absurd hn hfine⟩

/-- Full service starts when the stacks of every die in DIEMASK are ready, and not before. -/
theorem exec_bootFull_spec {s : State} (hphase : s.hub.bootPhase = 2) :
    (¬s.DiesReady → exec .bootFull s = .fault .notDue) ∧
    (s.DiesReady → ∃ t, exec .bootFull s = .next t ∧ Unmoved s t ∧ t.hub = { s.hub with bootPhase := 3, neve := t.hub.neve } ∧
      (∀ n, t.hub.neve.getD n false = true ↔ s.hub.neve.getD n false = true ∨ 128 * n < 2 ^ 32 ∧ ∃ e ∈ s.mem, e.1 / 128 = n) ∧
      ∀ d, d < 8 → (t.die d).inService = s.hub.diemask.getLsbD d) := by
  refine ⟨exec_bootFull_notReady, fun hready => ?_⟩
  obtain ⟨ds, hds, hserve⟩ := foldl_enterService s
  refine ⟨(s.withDies ds).fullService, ?_, ⟨rfl, rfl, rfl, rfl, rfl, rfl⟩, rfl, fun n => ?_, hserve⟩
  · rw [exec_bootFull_ready hphase hready, hds]
  · exact (Tbl.getD_foldl_mark ..).trans (or_congr_right (mem_writtenLow s n))

/-- A failed link takes its die out of service and nothing else. -/
theorem exec_hingeLinkFail_spec (s : State) {die : Nat} (hd : die < 8) :
    ∃ t, exec (.hingeLinkFail die) s = .next t ∧ (t.die die).inService = false ∧ t.hub.diemask = s.hub.diemask &&& ~~~(1#8 <<< die) ∧
      21 ∈ t.hub.vectors ∧ Unmoved s t ∧ (∀ d, d ≠ die → t.die d = s.die d) ∧
      (s.hub.mflog.msb = false → t.hub.mflog = BitVec.ofNat 64 (2 ^ 63 + 2 ^ 48 * 4 + 2 ^ 40 * die)) := by
  let u := s.setDie die { s.die die with inService := false }
  let t := (u.setHub { s.hub with diemask := s.hub.diemask &&& ~~~(1#8 <<< die) }).machineFault 4 die 0
  have hdies (d : Nat) : t.die d = if d = die then { s.die die with inService := false } else s.die d :=
    (die_of_dies ((machineFault_dies _ 4 die 0).trans (State.setHub_dies u _)) d).trans (die_setDie s die d _)
  have hmoved : Unmoved s t := (setDie_unmoved s die _).trans ((setHub_unmoved u _).trans (machineFault_unmoved _ 4 die 0))
  refine ⟨t, exec_hingeLinkFail hd s, ?_, rfl, machineFault_vectors _ 4 die 0, hmoved, fun d hne => ?_, fun hvalid => ?_⟩
  · rw [hdies, if_pos rfl]
  · rw [hdies, if_neg hne]
  · exact machineFault_mflog hvalid 4 die 0

/-- Settles O57: reset and bring-up by what each leaves of the state, the events of a channel by the eye that the monitor sees, a
failed link by its die. -/
theorem bootAndChannelEvents : Obligations.BootAndChannelEvents := by
  unfold Obligations.BootAndChannelEvents
  refine ⟨exec_moduleReset_spec, fun s v trained ok => ⟨s.moduleReset, rfl, rfl⟩, tick_booting,
    fun s v trained ok h => bringUp_spec h, fun s hphase => ?_, fun s n chan lane hn hc hl => ?_, fun s die hd => exec_hingeLinkFail_spec s hd⟩
  · have hspec := exec_bootFull_spec hphase
    simp only [State.DiesReady, stackReady_iff] at hspec
    exact hspec
  · intro k half
    have hlane : lane / 32 % 2 = lane / 32 := by omega
    have hrepair := repairLane_spec s n chan lane
    rw [hlane] at hrepair
    refine ⟨fun h => exec_channelWidthChange hn hc h false s,
      ⟨_, exec_channelWidthChange hn hc true true s, rfl, machineFault_vectors .., (setStack_unmoved ..).trans (machineFault_unmoved ..)⟩,
      exec_eyeactRetrain hn hc s, ⟨_, exec_eyeactRepair hn hc hl s, hrepair⟩, exec_eyeactHalfWidth hn hc s,
      fun able => exec_eyeactFullWidth hn hc able s, exec_periodicRetrain hn, fun bank => exec_hbmRefresh hn bank s,
      fun bit width height hb => ?_⟩
    intro pc seen
    have hexec := exec_eyeMarginLow hn hb ⟨width, height⟩ s
    refine ⟨fun hwide => hexec.trans (congrArg _ (setEye_wide pc bit height hwide)), fun hlow => ?_⟩
    obtain ⟨hmoved, hstack, hraise, hquiet⟩ := setEye_spec s n pc bit (height, width)
    rw [if_pos hlow] at hstack
    exact ⟨_, hexec, hmoved, hstack, hraise hlow, fun h => hquiet (.inr h)⟩

end Sys2Proof.Machine
end

section
/-! SUPPORT. What the proofs about runs and synchronising words share: floes read after an update, frontiers after a merge (R21), and the
updates that leave every floe and memory as they stand. -/

namespace Sys2Proof.Tbl
variable {α β : Type}

/-- A table whose values are replaced, each at its own key. -/
theorem find?_map {g : Nat × α → Nat × β} (hg : ∀ e, (g e).1 = e.1) (t : Tbl α) (k : Nat) :
    find? (t.map g) k = (find? t k).map fun v => (g (k, v)).2 := by
  induction t with
  | nil => rfl
  | cons e t ih =>
    obtain ⟨k', v⟩ := e
    have hk : g (k', v) = (k', (g (k', v)).2) := Prod.ext (hg _) rfl
    rw [List.map_cons, hk]
    by_cases h : k' = k
    · subst h
      simp [find?]
    · simp [find?, h, ih]

end Sys2Proof.Tbl

namespace Sys2Proof.Machine
open Sys2Proof

/-! ### Floes read after an update -/

theorem find?_setFloe (s : State) (k : Nat) (f : Floe) : (s.setFloe k f).floes.find? k = some f := Tbl.find?_put_same ..

theorem setFloe_setFloe (s : State) (k : Nat) (f g : Floe) : (s.setFloe k f).setFloe k g = s.setFloe k g := by
  simp [State.setFloe, Tbl.put_put]

theorem modFloe_of_find {s : State} {k : Nat} {f : Floe} (h : s.floes.find? k = some f) (g : Floe → Floe) :
    s.modFloe k g = s.setFloe k (g f) := by
  simp [State.modFloe, h]

/-! ### Updates that leave every floe as it stands -/

/-- Floes and memory are as they were. -/
def FloesStand (s t : State) : Prop := t.floes = s.floes ∧ SameMemory s t

theorem FloesStand.refl (s : State) : FloesStand s s := ⟨rfl, .refl s⟩

theorem FloesStand.trans {s t u : State} (h : FloesStand s t) (k : FloesStand t u) : FloesStand s u :=
  ⟨k.1.trans h.1, h.2.trans k.2⟩

theorem FloesStand.ite {s t u : State} {c : Prop} [Decidable c] (h : FloesStand s t) (k : FloesStand s u) :
    FloesStand s (if c then t else u) := by
  split
  · exact h
  · exact k

theorem FloesStand.foldl {α : Type} {g : State → α → State} (hg : ∀ s e, FloesStand s (g s e)) (l : List α) (s : State) :
    FloesStand s (l.foldl g s) :=
  foldl_keeps (P := FloesStand s) (fun _ _ h => h.trans (hg _ _)) l (.refl s)

theorem setCore_floesStand (s : State) (c : Nat) (x : Core) : FloesStand s (s.setCore c x) := ⟨rfl, setCore_sameMemory s c x⟩
theorem setDie_floesStand (s : State) (d : Nat) (x : Die) : FloesStand s (s.setDie d x) := ⟨rfl, setDie_sameMemory s d x⟩
theorem setPack_floesStand (s : State) (k : Nat) (p : Pack) : FloesStand s (s.setPack k p) := ⟨rfl, setPack_sameMemory s k p⟩
theorem putField_floesStand (s : State) (x : Field) : FloesStand s (s.putField x) := ⟨rfl, setHub_sameMemory ..⟩
theorem putRedirect_floesStand (s : State) (d : Nat) (id : PackId) (r : Option Redirect) : FloesStand s (s.putRedirect d id r) :=
  setDie_floesStand ..

theorem modPack_floesStand (s : State) (k : Nat) (g : Pack → Pack) : FloesStand s (s.modPack k g) := by
  unfold State.modPack
  split
  · exact setPack_floesStand ..
  · exact .refl s

theorem pinBanks_floesStand (s : State) (core : Nat) : FloesStand s (s.pinBanks core) := .ite (.refl s) (setCore_floesStand ..)

theorem dropPack_floesStand (s : State) (key : Nat) : FloesStand s (s.dropPack key) := by
  unfold State.dropPack
  split
  · exact .refl s
  · rename_i p hp
    have hcore := setCore_floesStand s (coreOf key)
      (p.banks.foldl (fun c b => c.setBank b ⟨.free, false, s.firn (coreOf key)⟩) (s.core (coreOf key)))
    have hpacks {u : State} (h : FloesStand s u) : FloesStand s { u with packs := u.packs.del key } := h
    exact ((hpacks hcore).trans (.ite (.refl _) (setDie_floesStand ..))).trans (pinBanks_floesStand ..)

theorem reapPack_floesStand (s : State) (key : Nat) (p : Pack) : FloesStand s (s.reapPack key p) := by
  unfold State.reapPack
  refine .ite (.refl s) ?_
  have hredirect (u : State) : FloesStand u (match u.redirect p.id with
      | some (d, _) => u.putRedirect d p.id none
      | none => u) := by
    split
    · exact putRedirect_floesStand ..
    · exact .refl u
  have hdrop := (dropPack_floesStand s key).trans (hredirect _)
  dsimp only
  split
  · exact hdrop
  · exact hdrop.trans (putField_floesStand ..)

/-- Packs that retire leave every floe and memory alone (R126). -/
theorem reap_floesStand (s : State) : FloesStand s s.reap := .foldl (fun _ _ => reapPack_floesStand ..) _ s

/-! ### Frontiers -/

/-- The lanes of a frontier, with others, are none where every part is empty. -/
theorem lanes_eq_zero (fr : List Entry) (m : Mask) :
    fr.foldl (fun m e => m ||| e.mask) m = 0 ↔ m = 0 ∧ ∀ e ∈ fr, e.mask = 0 := by
  induction fr generalizing m with
  | nil => simp
  | cons e fr ih =>
    rw [List.foldl_cons, ih, List.forall_mem_cons, ← and_assoc]
    exact and_congr_left' BitVec.or_eq_zero_iff

/-- A floe with a lane in its frontier is live. -/
theorem live_ne_zero {f : Floe} {e : Entry} (he : e ∈ f.frontier) (hm : e.mask ≠ 0) : f.live ≠ 0 :=
  fun h => hm (((lanes_eq_zero f.frontier _).mp h).2 e he)

/-- A mask that is not empty has a lane. -/
theorem exists_lane {m : Mask} (h : m ≠ 0) : ∃ l, has m l = true := by
  by_contra hnone
  push Not at hnone
  exact h (BitVec.eq_of_getLsbD_eq fun i _ => by simpa [has] using hnone i)

theorem has_or (a b : Mask) (l : Nat) : has (a ||| b) l = (has a l || has b l) := by simp [has]

theorem stands_nil (l : Nat) (pc : BitVec 48) : stands [] l pc ↔ False := by simp [stands]

theorem stands_cons (e : Entry) (fr : List Entry) (l : Nat) (pc : BitVec 48) :
    stands (e :: fr) l pc ↔ (e.pc = pc ∧ has e.mask l = true) ∨ stands fr l pc := by simp [stands]

theorem stands_append (fr gr : List Entry) (l : Nat) (pc : BitVec 48) :
    stands (fr ++ gr) l pc ↔ stands fr l pc ∨ stands gr l pc := by
  induction fr with
  | nil => simp [stands_nil]
  | cons e fr ih => simp [stands_cons, ih, or_assoc]

/-- Changes that keep the word address and the lanes of each entry. -/
theorem stands_map {g : Entry → Entry} (hpc : ∀ e, (g e).pc = e.pc) (hmask : ∀ e, (g e).mask = e.mask) (fr : List Entry) (l : Nat)
    (pc : BitVec 48) : stands (fr.map g) l pc ↔ stands fr l pc := by
  simp [stands, hpc, hmask]

/-- R21: adding an entry adds its lanes at its word address. -/
theorem stands_addEntry (fr : List Entry) (e : Entry) (l : Nat) (pc : BitVec 48) :
    stands (addEntry fr e) l pc ↔ stands fr l pc ∨ (e.pc = pc ∧ has e.mask l = true) := by
  induction fr with
  | nil => simp [addEntry, stands_cons, stands_nil]
  | cons x fr ih =>
    unfold addEntry
    split
    · rename_i hmerge
      rw [stands_cons, stands_cons, hmerge.1]
      simp only [has_or, Bool.or_eq_true]
      tauto
    · rw [stands_cons, stands_cons, ih]
      tauto

theorem stands_foldl_addEntry (fr acc : List Entry) (l : Nat) (pc : BitVec 48) :
    stands (fr.foldl addEntry acc) l pc ↔ stands acc l pc ∨ stands fr l pc := by
  induction fr generalizing acc with
  | nil => simp [stands_nil]
  | cons e fr ih => rw [List.foldl_cons, ih, stands_addEntry, stands_cons, or_assoc]

/-- R21: a merge moves no lane. -/
theorem stands_mergeFrontier (fr : List Entry) (l : Nat) (pc : BitVec 48) : stands (mergeFrontier fr) l pc ↔ stands fr l pc := by
  simp [mergeFrontier, stands_foldl_addEntry, stands_nil]

/-- Every entry may issue. -/
def AllEligible (fr : List Entry) : Prop := ∀ e ∈ fr, e.flags = 0

/-- An eligible entry that joins eligible ones with distinct word addresses merges with the one at its own, if there is one. -/
theorem addEntry_eligible {fr : List Entry} {e : Entry} (hfr : AllEligible fr) (hnodup : (fr.map (·.pc)).Nodup) (he : e.flags = 0) :
    AllEligible (addEntry fr e) ∧ ((addEntry fr e).map (·.pc)).Nodup ∧ ∀ pc ∈ (addEntry fr e).map (·.pc), pc ∈ fr.map (·.pc) ∨ pc = e.pc := by
  induction fr with
  | nil => simp [addEntry, AllEligible, he]
  | cons x fr ih =>
    obtain ⟨hx, hrest⟩ := List.forall_mem_cons.mp hfr
    obtain ⟨hfresh, hnodup⟩ := List.nodup_cons.mp hnodup
    unfold addEntry
    split
    · refine ⟨List.forall_mem_cons.mpr ⟨hx, hrest⟩, List.nodup_cons.mpr ⟨hfresh, hnodup⟩, fun pc hpc => .inl hpc⟩
    · rename_i hother
      have hne : x.pc ≠ e.pc := fun h => hother ⟨h, hx.trans he.symm, .inl hx⟩
      obtain ⟨hall, hdistinct, hpcs⟩ := ih hrest hnodup
      refine ⟨List.forall_mem_cons.mpr ⟨hx, hall⟩, List.nodup_cons.mpr ⟨fun hmem => ?_, hdistinct⟩, fun pc hpc => ?_⟩
      · exact (hpcs _ hmem).elim hfresh hne
      · rcases List.mem_cons.mp hpc with rfl | hpc
        · exact .inl List.mem_cons_self
        · exact (hpcs _ hpc).imp_left (List.mem_cons_of_mem _)

theorem foldl_addEntry_eligible {fr acc : List Entry} (hacc : AllEligible acc) (hnodup : (acc.map (·.pc)).Nodup) (hfr : AllEligible fr) :
    AllEligible (fr.foldl addEntry acc) ∧ ((fr.foldl addEntry acc).map (·.pc)).Nodup := by
  induction fr generalizing acc with
  | nil => exact ⟨hacc, hnodup⟩
  | cons e fr ih =>
    obtain ⟨he, hrest⟩ := List.forall_mem_cons.mp hfr
    obtain ⟨hall, hdistinct, -⟩ := addEntry_eligible hacc hnodup he
    exact ih hall hdistinct hrest

/-- R21: eligible entries merge to eligible ones with distinct word addresses. -/
theorem mergeFrontier_eligible {fr : List Entry} (h : AllEligible fr) :
    AllEligible (mergeFrontier fr) ∧ ((mergeFrontier fr).map (·.pc)).Nodup :=
  foldl_addEntry_eligible (by simp [AllEligible]) (by simp) h

end Sys2Proof.Machine
end

section
/-! PROOF of O49: deadlines, run boundaries, PREEMPT, the entry that issues, and the clock of a partition. -/

namespace Sys2Proof.Machine
open Sys2Proof

/-! ### Deadlines (R131, R234) -/

/-- An entry that waits for w at a deadline that has come goes on `step` bytes after its word address. -/
def Entry.endWait (w : Wait) (step : BitVec 48) (e : Entry) : Entry :=
  if e.flags &&& 8 ≠ 0 ∧ e.wait = w then { e with pc := e.pc + step, flags := e.flags &&& ~~~(8 : BitVec 8), wait := .none } else e

theorem wakeSleep_eq (fr : List Entry) : wakeSleep fr = fr.map (Entry.endWait .sleep 0) := by
  unfold wakeSleep
  refine List.map_congr_left fun e _ => ?_
  simp [Entry.endWait, flagBlocked]

theorem wake_eq (w : Wait) (fr : List Entry) : wake (· == w) fr = fr.map (Entry.endWait w 8) := by
  unfold wake
  refine List.map_congr_left fun e _ => ?_
  simp [Entry.endWait, flagBlocked]

/-- Some entry waits for w. -/
theorem any_waits {w : Wait} {fr : List Entry} (h : ∃ e ∈ fr, e.flags &&& 8 ≠ 0 ∧ e.wait = w) :
    (fr.any fun e => e.flags &&& flagBlocked != 0 && e.wait == w) = true := by
  obtain ⟨e, he, hflag, hwait⟩ := h
  exact List.any_eq_true.mpr ⟨e, he, by simpa [flagBlocked, hwait] using hflag⟩

theorem exec_sleepDeadline {s : State} {k : Nat} {f : Floe} (hfloe : s.floes.find? k = some f)
    (hdue : f.deadline.toNat ≤ (s.firn (coreOf k)).toNat) (hwait : ∃ e ∈ f.frontier ++ f.intFrontier, e.flags &&& 8 ≠ 0 ∧ e.wait = .sleep) :
    exec (.sleepDeadline k) s = .next (s.setFloe k { f with
      frontier := f.frontier.map (Entry.endWait .sleep 0), intFrontier := f.intFrontier.map (Entry.endWait .sleep 0) }) := by
  change execSleepDeadline k s = _
  simp only [execSleepDeadline, hfloe, any_waits hwait, Bool.not_true, Bool.false_or, decide_eq_true_eq, if_neg (Nat.not_lt.mpr hdue),
    wakeSleep_eq]

theorem exec_lwaitDeadline {s : State} {k : Nat} {f : Floe} (hfloe : s.floes.find? k = some f)
    (hdue : f.deadline.toNat ≤ (s.firn (coreOf k)).toNat) (hsync : s.hub.resync.getLsbD (dieOf (coreOf k)) = false)
    (hwait : ∃ e ∈ f.frontier ++ f.intFrontier, e.flags &&& 8 ≠ 0 ∧ e.wait = .lwait) :
    exec (.lwaitDeadline k) s = .next (s.setFloe k { f with
      frontier := f.frontier.map (Entry.endWait .lwait 8), intFrontier := f.intFrontier.map (Entry.endWait .lwait 8) }) := by
  change execLwaitDeadline k s = _
  simp only [execLwaitDeadline, State.deadline, hsync, hfloe, any_waits hwait, Bool.not_true, Bool.false_eq_true, Bool.false_or, if_false,
    decide_eq_true_eq, if_neg (Nat.not_lt.mpr hdue), Floe.wake, wake_eq]

/-! ### A run ends (R28, R31) -/

/-- Floe g is f but for its system registers: SysRegs and the registers that a trap entry writes. -/
def SysDiffers (f g : Floe) : Prop := ∃ sys xpc xcause xmask xaddr xinfo,
  g = { f with sys := sys, xpc := xpc, xcause := xcause, xmask := xmask, xaddr := xaddr, xinfo := xinfo }

/-- The writes that a run has held back change system registers only (R31). -/
theorem applySys_differs (f : Floe) : SysDiffers { f with sysPend := [] } f.applySys := by
  have hpend {g : Floe} (h : SysDiffers f g) : SysDiffers { f with sysPend := [] } { g with sysPend := [] } := by
    obtain ⟨sys, xpc, xcause, xmask, xaddr, xinfo, rfl⟩ := h
    exact ⟨_, _, _, _, _, _, rfl⟩
  refine hpend (List.foldlRecOn _ _ ⟨_, _, _, _, _, _, rfl⟩ fun g hg e _ => ?_)
  obtain ⟨sys, xpc, xcause, xmask, xaddr, xinfo, rfl⟩ := hg
  dsimp only
  split_ifs <;> exact ⟨_, _, _, _, _, _, rfl⟩

theorem applyOwners_floesStand (s : State) (key : Nat) (f : Floe) : FloesStand s (s.applyOwners key f) := by
  unfold State.applyOwners
  split
  · exact .refl s
  · exact .foldl (fun s e => .ite (setCore_floesStand ..) (.refl s)) _ s

/-- A floe whose run r has just ended (R28, R31). -/
def Floe.afterRun (f : Floe) (r : Run) (now : Word) : Floe :=
  { f.applySys with
    run := none, yielded := r.yielded, waitFrom := now
    frontier := setSbwait (if f.applySys.sbar.isSome then r.sbar else 0) (setSywait r.sync (f.applySys.frontier ++ r.entry)) }

/-- The end of a run changes its own floe and no memory. -/
theorem endRun_eq (s : State) (key : Nat) (f : Floe) (r : Run) :
    ∃ u now, FloesStand s u ∧ s.endRun key f r = u.setFloe key (f.afterRun r now) :=
  ⟨_, _, ((applyOwners_floesStand s key f).trans (setCore_floesStand ..)).trans (modPack_floesStand ..), rfl⟩

/-! ### Synchronising instructions at a boundary -/

/-- An entry that does not wait with SYWAIT. -/
def Entry.unsync (e : Entry) : Entry := { e with flags := e.flags &&& ~~~flagSywait }

theorem unsync_eligible {e : Entry} (h : e.flags = 0) : e.unsync.flags = 0 := by
  simp [Entry.unsync, h]

theorem or_and_not_self (a b : BitVec 8) : (a ||| b) &&& ~~~b = a &&& ~~~b := by
  ext i hi
  cases ha : a[i] <;> cases hb : b[i] <;> simp [ha, hb]

theorem map_unsync_setSywait (m : Mask) (fr : List Entry) : (setSywait m fr).map Entry.unsync = fr.map Entry.unsync := by
  unfold setSywait
  rw [List.map_map]
  refine List.map_congr_left fun e _ => ?_
  dsimp only [Function.comp]
  split
  · simp only [Entry.unsync, or_and_not_self]
  · rfl

theorem setSbwait_zero (fr : List Entry) : setSbwait 0 fr = fr := by simp [setSbwait]

/-- A floe without records or causes waits for none. -/
theorem clearSywait_of_none {f : Floe} (hsyncs : f.syncs = []) (htraps : f.traps = []) :
    f.clearSywait = { f with frontier := f.frontier.map Entry.unsync } := by
  simp [Floe.clearSywait, Floe.syncsNow, hsyncs, htraps, Entry.unsync]

theorem syncAll_of_none {s : State} {key : Nat} {f : Floe} (hfloe : s.floes.find? key = some f) (hsyncs : f.syncs = []) :
    s.syncAll key = s.setFloe key f.clearSywait := by
  simp [State.syncAll, hfloe, Floe.syncsNow, hsyncs, modFloe_of_find hfloe]

/-! ### Traps and halts at a boundary -/

theorem disown_of_none {f : Floe} (h : f.traps = []) : f.disown = f :=
  congrArg (fun l => ({ f with traps := l } : Floe)) (show f.traps.map _ = f.traps by rw [h]; rfl)

theorem dropVoid_of_none {f : Floe} (h : f.traps = []) : f.dropVoid = f :=
  congrArg (fun l => ({ f with traps := l } : Floe)) (show f.traps.filter _ = f.traps by rw [h]; rfl)

/-- A run without a cause and without HALT stops nothing. -/
theorem stops_of_none (s : State) (key : Nat) {r : Run} (hlate : r.late = none) (htrap : r.trap = none) (hhalt : r.halt = none) :
    s.stops key r = s := by
  simp [State.stops, hlate, htrap, hhalt]

/-- A run with a word cause takes its trap. -/
theorem stops_of_trap {s : State} {key : Nat} {f : Floe} {r : Run} {t : Trap} (hfloe : s.floes.find? key = some f) (htraps : f.traps = [])
    (hlate : r.late = none) (htrap : r.trap = some t) (hhalt : r.halt = none) : s.stops key r = takeTrap s key f t r.mask r.prio := by
  simp [State.stops, hfloe, hlate, htrap, hhalt, disown_of_none htraps]

/-! ### The frontier at a boundary -/

theorem wake_of_eligible (test : Wait → Bool) {fr : List Entry} (h : AllEligible fr) : wake test fr = fr := by
  unfold wake
  refine (List.map_congr_left fun e he => ?_).trans (List.map_id _)
  simp [h e he]

/-- A boundary at which every entry may issue merges them. -/
theorem settle_of_eligible {f : Floe} (h : AllEligible f.frontier) : f.settle = { f with frontier := mergeFrontier f.frontier } := by
  refine congrArg (fun fr => ({ f with frontier := fr } : Floe)) ?_
  refine (List.map_congr_left fun e he => ?_).trans (List.map_id _)
  simp [(mergeFrontier_eligible h).1 e he, flagRcwait]

theorem wakeJoins_of_eligible (p : Option Pack) {f : Floe} (h : AllEligible f.frontier) : f.wakeJoins p = f := by
  unfold Floe.wakeJoins
  split
  · rfl
  · dsimp only
    rw [wake_of_eligible _ h]

theorem mergeFrontier_live {f : Floe} (h : ∃ e ∈ f.frontier, e.mask ≠ 0) : ({ f with frontier := mergeFrontier f.frontier } : Floe).live ≠ 0 := by
  obtain ⟨e, he, hmask⟩ := h
  obtain ⟨l, hl⟩ := exists_lane hmask
  obtain ⟨x, hx, -, hxl⟩ := (stands_mergeFrontier f.frontier l e.pc).mpr ⟨e, he, rfl, hl⟩
  refine live_ne_zero (e := x) hx fun hzero => ?_
  rw [hzero, has_zero] at hxl
  cases hxl

/-- A live floe without causes whose entries may all issue merges its frontier, and nothing else of it changes. -/
theorem quiet_of_eligible {s : State} {key : Nat} {f : Floe} (ended start : Mask) (hfloe : s.floes.find? key = some f)
    (hhalted : f.halted = false) (htraps : f.traps = []) (hall : AllEligible f.frontier) (hlive : ∃ e ∈ f.frontier, e.mask ≠ 0) :
    s.quiet key ended start = s.setFloe key { f with frontier := mergeFrontier f.frontier } := by
  have hvoid : f.dropVoid = f := dropVoid_of_none htraps
  have hnext : f.nextTrap ended start = none := by simp [Floe.nextTrap, htraps]
  unfold State.quiet
  rw [hfloe]
  dsimp only
  rw [if_neg (by simp [hhalted]), hvoid, hnext]
  dsimp only
  rw [wakeJoins_of_eligible _ hall, settle_of_eligible hall, if_neg (mergeFrontier_live hlive)]

/-- What such a boundary leaves once the packs that are done have retired. -/
theorem reap_quiet_of_eligible {s : State} {key : Nat} {f : Floe} (ended start : Mask) (hfloe : s.floes.find? key = some f)
    (hhalted : f.halted = false) (htraps : f.traps = []) (hall : AllEligible f.frontier) (hlive : ∃ e ∈ f.frontier, e.mask ≠ 0) :
    (s.quiet key ended start).reap.floes.find? key = some { f with frontier := mergeFrontier f.frontier } ∧
      SameMemory s (s.quiet key ended start).reap := by
  obtain ⟨hfloes, hmem⟩ := reap_floesStand (s.quiet key ended start)
  rw [quiet_of_eligible ended start hfloe hhalted htraps hall hlive] at hfloes hmem ⊢
  exact ⟨by rw [hfloes, find?_setFloe], (setFloe_sameMemory ..).trans hmem⟩

/-- The entry that a run without a cause or a SLEEP leaves, and one that a word cause ended. -/
theorem entry_of_plain {r : Run} (hmask : r.mask ≠ 0) (htrap : r.trap = none) (hslept : r.slept = false) :
    r.entry = [⟨r.pc, r.prio, 0, r.mask, .none, 0, 0⟩] := by
  simp only [Run.entry, if_neg hmask, htrap, hslept, Bool.false_eq_true, if_false]

theorem mem_entry {r : Run} (hmask : r.mask ≠ 0) : ∃ e ∈ r.entry, e.mask = r.mask := by
  unfold Run.entry
  rw [if_neg hmask]
  exact ⟨_, List.mem_singleton_self _, rfl⟩

/-! ### A run boundary -/

/-- The floe of a run r that has ended, as its boundary finds it when none of its synchronising instructions is pending. -/
def Floe.atBoundary (f : Floe) (r : Run) (now : Word) : Floe := (f.afterRun r now).clearSywait

/-- Beside its system registers and its run, only its frontier has changed: it holds the entry that the run leaves. -/
theorem atBoundary_differs {f : Floe} {r : Run} (now : Word) (hsyncs : f.syncs = []) (htraps : f.traps = []) (hsbar : f.sbar = none ∨ r.sbar = 0) :
    SysDiffers { f with
      sysPend := [], run := none, yielded := r.yielded, waitFrom := now
      frontier := (f.frontier ++ r.entry).map Entry.unsync } (f.atBoundary r now) ∧ (f.atBoundary r now).sys = f.applySys.sys := by
  obtain ⟨sys, xpc, xcause, xmask, xaddr, xinfo, happly⟩ := applySys_differs f
  have hbar : (if f.sbar.isSome then r.sbar else 0) = 0 := by
    rcases hsbar with h | h
    · simp [h]
    · simp [h]
  have hclear : f.atBoundary r now = { f.afterRun r now with frontier := (f.afterRun r now).frontier.map Entry.unsync } := by
    refine clearSywait_of_none ?_ ?_
    · simp only [Floe.afterRun, happly, hsyncs]
    · simp only [Floe.afterRun, happly, htraps]
  rw [hclear, Floe.afterRun, happly]
  simp only [hbar, setSbwait_zero, map_unsync_setSywait, and_true]
  exact ⟨_, _, _, _, _, _, rfl⟩

/-- R28: the boundary of a run that has ended, down to the traps and halts. -/
theorem syncAll_endRun (s : State) (key : Nat) {f : Floe} {r : Run} (hsyncs : f.syncs = []) :
    ∃ u now, FloesStand s u ∧ (s.endRun key f r).syncAll key = u.setFloe key (f.atBoundary r now) := by
  obtain ⟨u, now, hu, hend⟩ := endRun_eq s key f r
  obtain ⟨_, _, _, _, _, _, happly⟩ := applySys_differs f
  have hrecords : (f.afterRun r now).syncs = [] := by simp only [Floe.afterRun, happly, hsyncs]
  exact ⟨u, now, hu, by rw [hend, syncAll_of_none (find?_setFloe ..) hrecords, setFloe_setFloe, Floe.atBoundary]⟩

/-- A boundary takes place once the run has ended and each of its accesses has returned what it returns. -/
theorem exec_runBoundary {s : State} {k : Nat} {f : Floe} {r : Run} (hfloe : s.floes.find? k = some f) (hhalted : f.halted = false)
    (hrun : f.run = some r) (hended : r.ended = true) (hheld : r.held = false)
    (hopen : ∀ e ∈ s.pend, e.2.floe = k → e.2.seq = f.seq → e.2.snap = none) : exec (.runBoundary k) s = .next (s.runOver k f r) := by
  have hclosed : s.openAccess k f.seq = false := by
    refine List.any_eq_false.mpr fun e he => ?_
    simp only [Bool.and_eq_true, beq_iff_eq, Option.isSome_iff_ne_none]
    rintro ⟨⟨hkey, hseq⟩, hsnap⟩
    exact hsnap (hopen e he hkey hseq)
  change execRunBoundary k s = _
  simp only [execRunBoundary, hfloe, hhalted, hrun, hended, hheld, hclosed, Bool.not_true, Bool.or_self, Bool.false_eq_true, if_false]

/-- R21, R28, R31: a run that has ended leaves its lanes in the frontier, which merges. -/
theorem runOver_plain {s : State} {k : Nat} {f : Floe} {r : Run} (hhalted : f.halted = false) (hmask : r.mask ≠ 0)
    (htraps : f.traps = []) (hsyncs : f.syncs = []) (hhalt : r.halt = none) (hlate : r.late = none) (hslept : r.slept = false)
    (hsbar : f.sbar = none ∨ r.sbar = 0) (htrap : r.trap = none) (hall : AllEligible f.frontier) :
    ∃ g, (s.runOver k f r).floes.find? k = some g ∧ g.run = none ∧ g.v = f.v ∧ g.s = f.s ∧ g.p = f.p ∧
      g.sys = f.applySys.sys ∧ g.sysPend = [] ∧ g.handler = f.handler ∧ AllEligible g.frontier ∧
      (g.frontier.map (·.pc)).Nodup ∧ SameMemory s (s.runOver k f r) ∧
      ∀ l pc, stands g.frontier l pc ↔ stands f.frontier l pc ∨ pc = r.pc ∧ has r.mask l = true := by
  obtain ⟨u, now, ⟨-, hmem⟩, hsync⟩ := syncAll_endRun s k (r := r) hsyncs
  obtain ⟨⟨sys, xpc, xcause, xmask, xaddr, xinfo, hg⟩, hsys⟩ := atBoundary_differs now hsyncs htraps hsbar
  have hentry := entry_of_plain hmask htrap hslept
  have hover : s.runOver k f r = ((u.setFloe k (f.atBoundary r now)).quiet k r.mask r.began).reap := by
    rw [State.runOver, hsync, stops_of_none _ _ hlate htrap hhalt]
  have hfrontier : (f.atBoundary r now).frontier = (f.frontier ++ r.entry).map Entry.unsync := by rw [hg]
  have heligible : AllEligible (f.atBoundary r now).frontier := by
    rw [hfrontier, hentry]
    intro e he
    obtain ⟨x, hx, rfl⟩ := List.mem_map.mp he
    rcases List.mem_append.mp hx with hx | hx
    · exact unsync_eligible (hall x hx)
    · rw [List.mem_singleton.mp hx]
      exact unsync_eligible rfl
  have hlive : ∃ e ∈ (f.atBoundary r now).frontier, e.mask ≠ 0 := by
    rw [hfrontier, hentry]
    exact ⟨_, List.mem_map_of_mem (List.mem_append_right _ (List.mem_singleton_self _)), hmask⟩
  obtain ⟨hfind, hkept⟩ := reap_quiet_of_eligible r.mask r.began (find?_setFloe u k (f.atBoundary r now)) (by rw [hg]; exact hhalted)
    (by rw [hg]; exact htraps) heligible hlive
  obtain ⟨hmerged, hnodup⟩ := mergeFrontier_eligible heligible
  rw [hover]
  refine ⟨_, hfind, by rw [hg], by rw [hg], by rw [hg], by rw [hg], hsys, by rw [hg], by rw [hg], hmerged, hnodup,
    (hmem.trans (setFloe_sameMemory ..)).trans hkept, fun l pc => ?_⟩
  rw [stands_mergeFrontier, hfrontier, stands_map (g := Entry.unsync) (fun _ => rfl) (fun _ => rfl), stands_append, hentry, stands_cons]
  simp only [stands_nil, or_false, eq_comm (a := pc)]

/-- R304, R305: a run that a word cause has ended takes its trap. -/
theorem runOver_trap {s : State} {k : Nat} {f : Floe} {r : Run} {x : Trap} (hhalted : f.halted = false) (hmask : r.mask ≠ 0)
    (htraps : f.traps = []) (hsyncs : f.syncs = []) (hhalt : r.halt = none) (hlate : r.late = none)
    (hsbar : f.sbar = none ∨ r.sbar = 0) (htrap : r.trap = some x) (hhandler : f.handler = false) :
    ∃ g, (s.runOver k f r).floes.find? k = some g ∧ g.run = none ∧ g.handler = true ∧ g.v = f.v ∧ g.s = f.s ∧
      g.xpc = x.pc ∧ g.xcause = (if x.host then 0x200 else 0) ||| x.cause.setWidth 10 ∧ g.xmask = x.mask ∧ g.xaddr = x.addr ∧
      g.xinfo = x.info ∧ g.preg 14 = r.mask ∧ g.trapPrio = r.prio ∧ (∃ m, g.frontier = [⟨f.xbase, 255, 0, m, .none, 0, 0⟩] ∧ g.preg 15 = m) ∧
      SameMemory s (s.runOver k f r) := by
  obtain ⟨u, now, ⟨-, hmem⟩, hsync⟩ := syncAll_endRun s k (r := r) hsyncs
  obtain ⟨⟨sys, xpc, xcause, xmask, xaddr, xinfo, hg⟩, -⟩ := atBoundary_differs now hsyncs htraps hsbar
  have hstops : ((s.endRun k f r).syncAll k).stops k r = takeTrap (u.setFloe k (f.atBoundary r now)) k (f.atBoundary r now) x r.mask r.prio := by
    rw [hsync, stops_of_trap (find?_setFloe ..) (by rw [hg]; exact htraps) hlate htrap hhalt]
  have hlive : (f.atBoundary r now).live ≠ 0 := by
    obtain ⟨e, he, hm⟩ := mem_entry hmask
    refine live_ne_zero (e := e.unsync) ?_ (fun h => hmask (hm.symm.trans h))
    rw [hg]
    exact List.mem_map_of_mem (List.mem_append_right _ he)
  have hfloes := takeTrap_floe (u.setFloe k (f.atBoundary r now)) k (f.atBoundary r now) x r.mask r.prio
  rw [if_neg (by rw [hg]; simp [hhandler]), if_neg hlive] at hfloes
  have hfind := (congrArg (Tbl.find? · k) hfloes).trans (Tbl.find?_put_same ..)
  obtain ⟨hfind, hkept⟩ := reap_quiet_of_eligible r.mask r.began hfind (by rw [hg]; exact hhalted) (by rw [hg]; exact htraps)
    (by simp [AllEligible]) ⟨_, List.mem_singleton_self _, hlive⟩
  rw [State.runOver, hstops]
  refine ⟨_, hfind, by rw [hg], rfl, by rw [hg], by rw [hg], rfl, rfl, rfl, rfl, rfl, ?_, rfl, ⟨(f.atBoundary r now).live, by rw [hg]; rfl, ?_⟩,
    ((hmem.trans (setFloe_sameMemory ..)).trans (takeTrap_sameMemory ..)).trans hkept⟩
  · simp [Floe.preg, Tbl.getD_set]
  · simp [Floe.preg, Tbl.getD_set]

/-! ### PREEMPT (R298, R305) -/

/-- The floe that PREEMPT leaves: in its handler, with no lanes of a trapping entry. -/
def Floe.preempted (f : Floe) : Floe :=
  { f.disown with
    preempt := false, xpc := 0, xcause := 0x41, xmask := 0, xaddr := 0, xinfo := 0, intFrontier := f.frontier
    trapPrio := topPrio f.frontier, loaded := none, handler := true, p := (f.p.set 0 14 0).set 0 15 f.live
    frontier := if f.live = 0 then [] else [⟨f.xbase, 255, 0, f.live, .none, 0, 0⟩] }

theorem exec_preempt {s : State} {k : Nat} {f : Floe} (hfloe : s.floes.find? k = some f) (hpreempt : f.preempt = true)
    (hhalted : f.halted = false) (hhandler : f.handler = false) (hrun : f.run = none)
    (hdrained : ∀ e ∈ s.pend, e.2.floe = k → e.2.seq ≠ f.seq) (hmma : s.mmaFlying f = false) :
    exec (.preempt k) s = .next (s.setFloe k f.preempted) := by
  have hstores : (s.pend.any fun e => e.2.floe == k && e.2.seq == f.seq) = false := by
    refine List.any_eq_false.mpr fun e he => ?_
    simp only [Bool.and_eq_true, beq_iff_eq, not_and]
    exact hdrained e he
  change execPreempt k s = _
  simp only [execPreempt, hfloe, hpreempt, hhalted, hhandler, hrun, hstores, hmma, Option.isSome_none, Bool.not_true, Bool.not_false,
    Bool.or_self, Bool.false_eq_true, if_false]
  have hhandler' : f.disown.handler = false := hhandler
  simp only [takeTrap, hhandler', Bool.false_eq_true, if_false]
  rfl

/-! ### The entry that issues (R22) -/

/-- The entry that issues of two. -/
def pickOf : Option Entry → Entry → Option Entry
  | none, e => some e
  | some x, e => if x.prio.toNat < e.prio.toNat ∨ (x.prio = e.prio ∧ e.pc.toNat < x.pc.toNat) then some e else some x

/-- Entry x does not issue before entry e. -/
def Entry.After (x e : Entry) : Prop := x.prio ≤ e.prio ∧ (x.prio = e.prio → e.pc ≤ x.pc)

theorem Entry.After.refl (e : Entry) : e.After e := ⟨BitVec.le_refl _, fun _ => BitVec.le_refl _⟩

theorem Entry.After.trans {x y z : Entry} (h : x.After y) (k : y.After z) : x.After z := by
  obtain ⟨hprio, hpc⟩ := h
  obtain ⟨kprio, kpc⟩ := k
  refine ⟨BitVec.le_trans hprio kprio, fun heq => ?_⟩
  have hxy : x.prio = y.prio := BitVec.le_antisymm hprio (heq ▸ kprio)
  exact BitVec.le_trans (kpc (hxy.symm.trans heq)) (hpc hxy)

/-- The one picked of two is one of them, and the other does not issue before it. -/
theorem pickOf_spec (x e : Entry) :
    (pickOf (some x) e = some e ∧ x.After e) ∨ (pickOf (some x) e = some x ∧ e.After x) := by
  by_cases hlt : x.prio.toNat < e.prio.toNat ∨ (x.prio = e.prio ∧ e.pc.toNat < x.pc.toNat)
  · refine .inl ⟨if_pos hlt, ?_⟩
    rcases hlt with hprio | ⟨hprio, hpc⟩
    · exact ⟨BitVec.le_def.mpr hprio.le, fun heq => absurd hprio (heq ▸ Nat.lt_irrefl _)⟩
    · exact ⟨hprio ▸ BitVec.le_refl _, fun _ => BitVec.le_def.mpr hpc.le⟩
  · refine .inr ⟨if_neg hlt, ?_⟩
    obtain ⟨hprio, hpc⟩ := not_or.mp hlt
    exact ⟨BitVec.le_def.mpr (Nat.not_lt.mp hprio), fun heq => BitVec.le_def.mpr (Nat.not_lt.mp fun h => hpc ⟨heq.symm, h⟩)⟩

/-- The entry picked of a list and an earlier one is one of them, and none of them issues before it. -/
theorem foldl_pickOf_spec (fr : List Entry) (x : Entry) :
    ∃ e ∈ x :: fr, fr.foldl pickOf (some x) = some e ∧ ∀ y ∈ x :: fr, y.After e := by
  induction fr generalizing x with
  | nil => exact ⟨x, List.mem_singleton_self _, rfl, fun y hy => List.mem_singleton.mp hy ▸ .refl x⟩
  | cons z fr ih =>
    rw [List.foldl_cons]
    rcases pickOf_spec x z with ⟨hpick, hafter⟩ | ⟨hpick, hafter⟩
    · obtain ⟨e, he, hfold, hall⟩ := ih z
      rw [hpick]
      exact ⟨e, List.mem_cons_of_mem _ he, hfold, List.forall_mem_cons.mpr ⟨hafter.trans (hall z List.mem_cons_self), hall⟩⟩
    · obtain ⟨e, he, hfold, hall⟩ := ih x
      obtain ⟨hx, hrest⟩ := List.forall_mem_cons.mp hall
      rw [hpick]
      refine ⟨e, ?_, hfold, List.forall_mem_cons.mpr ⟨hx, List.forall_mem_cons.mpr ⟨hafter.trans hx, hrest⟩⟩⟩
      rcases List.mem_cons.mp he with rfl | he
      · exact List.mem_cons_self
      · exact List.mem_cons_of_mem _ (List.mem_cons_of_mem _ he)

theorem pickEntry_eq (fr : List Entry) : pickEntry fr = (fr.filter (·.flags == 0)).foldl pickOf none := by
  unfold pickEntry
  congr 1
  funext m e
  cases m <;> rfl

/-- R22: the entry that issues may issue, and no other that may comes before it. -/
theorem pickEntry_spec {fr : List Entry} {e : Entry} (h : pickEntry fr = some e) :
    e ∈ fr ∧ e.flags = 0 ∧ ∀ x ∈ fr, x.flags = 0 → x.After e := by
  rw [pickEntry_eq] at h
  have hmem {y : Entry} : y ∈ fr.filter (·.flags == 0) ↔ y ∈ fr ∧ y.flags = 0 := by simp
  cases hfr : fr.filter (·.flags == 0) with
  | nil =>
    rw [hfr] at h
    cases h
  | cons x t =>
    obtain ⟨y, hy, hfold, hall⟩ := foldl_pickOf_spec t x
    rw [hfr] at h
    obtain rfl := Option.some.inj (hfold.symm.trans h)
    rw [← hfr] at hy hall
    exact ⟨(hmem.mp hy).1, (hmem.mp hy).2, fun z hz hflags => hall z (hmem.mpr ⟨hz, hflags⟩)⟩

/-- R27: a run that starts is that of the entry that issues. -/
theorem startRun_spec {s : State} {f g : Floe} {r : Run} (hrun : f.run = none) (h : State.startRun s f = some (g, r, true)) :
    ∃ e, pickEntry (mergeFrontier f.frontier) = some e ∧ r = Run.start e s.fresh f.sys ∧ g.run = some r := by
  simp only [State.startRun, hrun, Option.map_eq_some_iff, Prod.mk.injEq] at h
  obtain ⟨e, hpick, rfl, rfl, -⟩ := h
  exact ⟨e, hpick, rfl, rfl⟩

/-! ### The clock of a partition (R293, R294) -/

theorem mem_insertFloe {s : State} {e x : Nat × Floe} {l : List (Nat × Floe)} (h : x ∈ s.insertFloe e l) : x = e ∨ x ∈ l := by
  induction l with
  | nil => exact .inl (List.mem_singleton.mp h)
  | cons y t ih =>
    unfold State.insertFloe at h
    split at h
    · exact List.mem_cons.mp h
    · rcases List.mem_cons.mp h with rfl | h
      · exact .inr List.mem_cons_self
      · exact (ih h).imp_right (List.mem_cons_of_mem _)

/-- The order of a clock holds the ready floes only. -/
theorem mem_foldl_insertFloe {s : State} {x : Nat × Floe} (l acc : List (Nat × Floe))
    (h : x ∈ l.foldl (fun l e => s.insertFloe e l) acc) : x ∈ acc ∨ x ∈ l := by
  induction l generalizing acc with
  | nil => exact .inl h
  | cons e l ih =>
    rcases ih _ h with h | h
    · exact (mem_insertFloe h).symm.imp_right fun h => List.mem_cons.mpr (.inl h)
    · exact .inr (List.mem_cons_of_mem _ h)

theorem mem_candidates {s : State} {core part : Nat} {x : Nat × Floe} (h : x ∈ s.candidates core part) : x ∈ s.readyFloes core part := by
  have hcand (h : x ∈ (s.readyFloes core part).foldl (fun l e => s.insertFloe e l) []) : x ∈ s.readyFloes core part :=
    (mem_foldl_insertFloe _ _ h).resolve_left List.not_mem_nil
  unfold State.candidates at h
  dsimp only at h
  split at h
  · exact hcand (List.mem_of_mem_take h)
  · exact hcand (List.mem_filter.mp h).1

/-- A clock adds to the floes that issue candidates only, and gives words to at most three. -/
theorem choose_spec (s : State) (part now : Nat) (l : List (Nat × Floe)) (acc : List Nat × Tbl Nat) (hacc : acc.1.length ≤ 3) :
    (s.choose part now l acc).1.length ≤ 3 ∧ ∀ k ∈ (s.choose part now l acc).1, k ∈ acc.1 ∨ ∃ e ∈ l, e.1 = k := by
  induction l generalizing acc with
  | nil => exact ⟨hacc, fun k hk => .inl hk⟩
  | cons e l ih =>
    obtain ⟨done, pipes⟩ := acc
    have hskip : (s.choose part now l (done, pipes)).1.length ≤ 3 ∧
        ∀ k ∈ (s.choose part now l (done, pipes)).1, k ∈ done ∨ ∃ x ∈ e :: l, x.1 = k := by
      obtain ⟨hlen, hmem⟩ := ih (done, pipes) hacc
      exact ⟨hlen, fun k hk => (hmem k hk).imp_right fun ⟨x, hx, hk⟩ => ⟨x, List.mem_cons_of_mem _ hx, hk⟩⟩
    unfold State.choose
    split
    · exact ⟨hacc, fun k hk => .inl hk⟩
    · rename_i hroom
      split
      · exact hskip
      · split
        · exact hskip
        · rename_i allowed n hasks _ p hfree
          obtain ⟨hlen, hmem⟩ := ih (done ++ [e.1], pipes.put (4 * part + p) (now + n)) (by simp only [List.length_append, List.length_singleton]; omega)
          refine ⟨hlen, fun k hk => ?_⟩
          rcases hmem k hk with hk | ⟨x, hx, hk⟩
          · rcases List.mem_append.mp hk with hk | hk
            · exact .inl hk
            · exact .inr ⟨e, List.mem_cons_self, (List.mem_singleton.mp hk).symm⟩
          · exact .inr ⟨x, List.mem_cons_of_mem _ hx, hk⟩

/-- What a clock counts of a floe (R293). -/
def Floe.uncounted (f : Floe) : Floe := { f with readyFor := 0, waitFrom := 0, yielded := false }

/-- A floe in mid-run that may issue but is not ready has a next word that cannot be fetched. -/
theorem lost_of_not_ready {s : State} {key : Nat} {f : Floe} (hmay : s.mayIssue key f = true) (hready : s.ready key f = false) :
    ∃ r, f.run = some r ∧ ∀ w, (s.fetch key f r).2 ≠ .word w := by
  unfold State.ready at hready
  rw [hmay, Bool.true_and] at hready
  cases hrun : f.run with
  | none => simp [hrun] at hready
  | some r =>
    refine ⟨r, rfl, fun w hw => ?_⟩
    simp [hrun, hw] at hready

/-- R22, R294: a clock of a partition. -/
theorem exec_issueClock_spec (s : State) {core part : Nat} (hcore : core < 320) (hpart : part < 4) :
    ∃ t done lost, exec (.issueClock core part) s = .next t ∧ t.issue = s.issue ++ done ++ lost ∧ done.length ≤ 3 ∧
      (∀ k ∈ done, ∃ f, (k, f) ∈ s.floes ∧ coreOf k = core ∧ f.part = part ∧ s.ready k f = true) ∧
      (∀ k ∈ lost, ∃ f r, (k, f) ∈ s.floes ∧ coreOf k = core ∧ f.part = part ∧ f.run = some r ∧ s.mayIssue k f = true ∧
        ∀ w, (s.fetch k f r).2 ≠ .word w) ∧ SameMemory s t ∧ t.packs = s.packs ∧ t.pend = s.pend ∧
      t.floes.map (fun e => (e.1, e.2.uncounted)) = s.floes.map fun e => (e.1, e.2.uncounted) := by
  have hrange : ¬(320 ≤ core ∨ 4 ≤ part) := by omega
  let now := max ((s.core core).clock.getD part 0 + 1) (2 * (s.firn core).toNat)
  obtain ⟨hlen, hdone⟩ := choose_spec s part now (s.candidates core part) ([], (s.core core).pipes) (Nat.zero_le _)
  refine ⟨_, (s.choose part now (s.candidates core part) ([], (s.core core).pipes)).1, _, if_neg hrange, rfl, hlen, fun k hk => ?_,
    fun k hk => ?_, ⟨rfl, rfl, rfl⟩, rfl, rfl, ?_⟩
  · obtain ⟨⟨k, f⟩, he, rfl⟩ := (hdone k hk).resolve_left List.not_mem_nil
    have hready := List.mem_filter.mp (mem_candidates he)
    simp only [Bool.and_eq_true, beq_iff_eq] at hready
    obtain ⟨hmem, ⟨hkcore, hkpart⟩, hkready⟩ := hready
    exact ⟨f, hmem, hkcore, hkpart, hkready⟩
  · obtain ⟨⟨k, f⟩, he, rfl⟩ := List.mem_map.mp hk
    have hlost := List.mem_filter.mp he
    simp only [Bool.and_eq_true, beq_iff_eq, Bool.not_eq_true'] at hlost
    obtain ⟨hmem, ⟨⟨hkcore, hkpart⟩, hmay⟩, hready⟩ := hlost
    obtain ⟨r, hrun, hfetch⟩ := lost_of_not_ready hmay hready
    exact ⟨f, r, hmem, hkcore, hkpart, hrun, hmay, hfetch⟩
  · dsimp only
    rw [List.map_map]
    refine List.map_congr_left fun e _ => ?_
    dsimp only [Function.comp]
    split_ifs <;> rfl

/-! ### The obligation -/

/-- Settles O49: deadlines by the entries that they wake, a boundary by the frontier or the trap that it leaves, PREEMPT by the floe in its
handler, the entry that issues as the first of all in R22's order, a clock by the floes that it chooses. -/
theorem runEvents : Obligations.RunEvents := by
  unfold Obligations.RunEvents
  refine ⟨fun s k f hfloe hdue => ?_, ?_, ?_, ?_, fun s core part hcore hpart => exec_issueClock_spec s hcore hpart⟩
  · exact ⟨fun hwait => exec_sleepDeadline hfloe hdue hwait, fun hsync hwait => exec_lwaitDeadline hfloe hdue hsync hwait⟩
  · intro s k f r hfloe hhalted hrun hended hheld hmask hopen htraps hsyncs hhalt hlate hslept hsbar
    have hexec := exec_runBoundary hfloe hhalted hrun hended hheld hopen
    refine ⟨fun htrap hall => ?_, fun x htrap hhandler => ?_⟩
    · obtain ⟨g, hg⟩ := runOver_plain (s := s) (k := k) hhalted hmask htraps hsyncs hhalt hlate hslept hsbar htrap hall
      exact ⟨_, g, hexec, hg⟩
    · obtain ⟨g, hg⟩ := runOver_trap (s := s) (k := k) hhalted hmask htraps hsyncs hhalt hlate hsbar htrap hhandler
      exact ⟨_, g, hexec, hg⟩
  · intro s k f hfloe hpreempt hhalted hhandler hrun hdrained hmma
    refine ⟨f.preempted, exec_preempt hfloe hpreempt hhalted hhandler hrun hdrained hmma, rfl, rfl, rfl, rfl, rfl, ?_, ?_, rfl, rfl, rfl, rfl⟩
    · simp [Floe.preempted, Floe.preg, Tbl.getD_set]
    · simp [Floe.preempted, Floe.preg, Tbl.getD_set]
  · intro s f g r hrun hstart
    obtain ⟨e, hpick, rfl, hg⟩ := startRun_spec hrun hstart
    obtain ⟨he, hflags, hfirst⟩ := pickEntry_spec hpick
    exact ⟨e, he, hflags, rfl, rfl, rfl, rfl, rfl, rfl, hg, hfirst⟩

end Sys2Proof.Machine
end

section
/-! PROOF of O46: a fetch that meets poisoned data on a page that may not be executed. -/

namespace Sys2Proof.Machine
open Sys2Proof

/-- XINFO of the trap that the run of the floe at a key is to take. -/
def State.trapInfo (s : State) (key : Nat) : Option Word :=
  (((s.floes.find? key).bind (·.run)).bind (·.trap)).map (·.info)

theorem trapInfo_wordTraps (s : State) (w : Issue) (f : Floe) (r : Run) (t : Trap) :
    (wordTraps s w f r t).trapInfo w.floe = some t.info := by
  simp [State.trapInfo, wordTraps, wordDone]

/-- What a fetch reports of a word on a page that may not be executed: the word, but a free choice where its data is poisoned. -/
def State.protectedWord (s : State) (die pa : Nat) : Word :=
  if s.poisonedAt die pa then BitVec.ofNat 64 (Config.pick 16 s.fresh) else wordOfBytes (s.pbytes pa 8)

/-- A fetch that a page does not allow. -/
theorem fetch_protect {s s1 : State} {key : Nat} {g : Floe} {r : Run} {p : Pack} {pa e : Nat} {leaf : Word}
    (hden : r.deniedFetch &&& r.mask = 0) (hpack : s.packs.find? g.pack = some p)
    (hlook : s.lookup .words (coreOf key) g.ctx (s.rootOf p) (r.pc.setWidth 64) (fetchOk g.handler) = (s1, .ok pa leaf e))
    (hleaf : fetchOk g.handler leaf = false) : s.fetch key g r = (s1, .protect (s1.protectedWord (dieOf (coreOf key)) pa)) := by
  simp [State.fetch, hden, hpack, hlook, hleaf, State.protectedWord]

theorem startRun_run {s : State} {f g : Floe} {r : Run} {new : Bool} (h : s.startRun f = some (g, r, new)) : g.run = some r := by
  unfold State.startRun at h
  cases hrun : f.run with
  | some q =>
    simp only [hrun, Option.some.injEq, Prod.mk.injEq] at h
    obtain ⟨rfl, rfl, -⟩ := h
    exact hrun
  | none =>
    simp only [hrun, Option.map_eq_some_iff, Prod.mk.injEq] at h
    obtain ⟨e, -, rfl, rfl, -⟩ := h
    rfl

/-- A floe as a word of its run r begins to issue. -/
def State.issuer (s : State) (key : Nat) (g : Floe) (r : Run) : Floe :=
  { g.keepCkpts r with readyFor := 0, reported := false, yielded := false, waitFrom := s.firn (coreOf key) }

theorem issuer_run (s : State) (key : Nat) (g : Floe) (r : Run) : (s.issuer key g r).run = g.run := by
  unfold State.issuer Floe.keepCkpts
  split <;> rfl

/-- R341: a fetch that a page does not allow takes PROTECTION. -/
theorem issueStep_protect {s s1 : State} {key : Nat} {f g : Floe} {r : Run} {new : Bool} {w : Word}
    (hfloe : s.floes.find? key = some f) (hmay : s.mayIssue key f = true) (hrun : s.startRun f = some (g, r, new))
    (hfetch : s.fetch key g r = (s1, .protect w)) :
    ∃ t x, x.floe = key ∧
      issueStep s key = .next (wordTraps t x (s.issuer key g r) r ⟨0x21, r.pc, r.mask, r.pc.setWidth 64, w, false⟩) := by
  have hgrun : (s.issuer key g r).run = some r := (issuer_run s key g r).trans (startRun_run hrun)
  refine ⟨{ s1 with
      floes := s1.floes.put key (s.issuer key g r), issuing := some ⟨key, r.pc, 0, s.fresh + if new then 1 else 0⟩
      fresh := s1.fresh + if new then 2 else 1 }, ⟨key, r.pc, 0, s.fresh + if new then 1 else 0⟩, rfl, ?_⟩
  simp only [issueStep, State.issueNext, hfloe, hmay, hrun, hfetch, Bool.not_true, Bool.false_eq_true, if_false]
  change (match State.begin { s1 with
    floes := s1.floes.put key (s.issuer key g r), issuing := some ⟨key, r.pc, 0, s.fresh + if new then 1 else 0⟩
    fresh := s1.fresh + if new then 2 else 1 } (.protect w) with
      | .done t => Host.Outcome.next t
      | .word i t => _) = _
  simp [State.begin, context, hgrun, trapWord, wordTraps, wordDone]

/-- What the statement claims of a fetch that meets a poisoned line on a page that does not allow it: that the choice which is free to
the device (R309, R341) is the word in memory. -/
theorem pick_of_stepRunsWord (h : Obligations.StepRunsWord) {s s1 : State} {key pa e : Nat} {rest : List Nat} {f g : Floe} {p : Pack}
    {r : Run} {new : Bool} {leaf : Word} (hissue : s.issue = key :: rest) (hfloe : s.floes.find? key = some f)
    (hmay : ({ s with issue := rest } : State).mayIssue key f = true)
    (hrun : ({ s with issue := rest } : State).startRun f = some (g, r, new)) (hpack : s.packs.find? g.pack = some p)
    (hden : r.deniedFetch &&& r.mask = 0)
    (hlook : ({ s with issue := rest } : State).lookup .words (coreOf key) g.ctx (s.rootOf p) (r.pc.setWidth 64) (fetchOk g.handler) =
      (s1, .ok pa leaf e))
    (hleaf : fetchOk g.handler leaf = false) (hpoison : s1.poisonedAt (dieOf (coreOf key)) pa = true) :
    BitVec.ofNat 64 (Config.pick 16 s1.fresh) = wordOfBytes (s1.pbytes pa 8) := by
  have hclaim := (h s key rest f p g r new s1 pa leaf e hissue hfloe hmay hrun hpack hden hlook).2 hleaf
  have hfetch := fetch_protect (s := { s with issue := rest }) hden hpack hlook hleaf
  obtain ⟨t, x, hx, htrap⟩ := issueStep_protect (s := { s with issue := rest }) hfloe hmay hrun hfetch
  have hstep : step s = issueStep { s with issue := rest } key := by
    unfold step
    rw [hissue]
  have hinfo := congrArg (State.trapInfo · key) (Host.Outcome.next.inj (htrap.symm.trans (hstep.symm.trans hclaim)))
  have hleft := trapInfo_wordTraps t x (State.issuer { s with issue := rest } key g r) r
    ⟨0x21, r.pc, r.mask, r.pc.setWidth 64, s1.protectedWord (dieOf (coreOf key)) pa, false⟩
  rw [hx] at hleft
  have hword := Option.some.inj (hleft.symm.trans (hinfo.trans (trapInfo_wordTraps ..)))
  rwa [State.protectedWord, if_pos hpoison] at hword

/-! ### Two states that refute the statement -/

/-- The loaded program, whose page may not be executed, and whose line of the first word is poisoned; the word's low byte is b. -/
def dataPage (b : Byte) : State :=
  ((State.reset.loadTables.loadFloe.setBytes loadTable (natLe 8 0x813)).setPoison (lineOf loadEntry) true).setByte loadEntry b

/-- The floe of the loaded program, its first run, and the floe in it. -/
def dataFloe : Floe := Floe.placed loadDesc 0 0 0 0 0 loadDesc.saveBase
def dataRun : Run := Run.start ⟨0x30000, 255, 0, allLanes, .none, 0, 0⟩ 0 dataFloe.sys
def dataFloeRuns : Floe := { dataFloe with frontier := [], run := some dataRun }

/-- What the fetch of the floe finds. -/
def dataLookup (b : Byte) : State × TrRes :=
  ({ dataPage b with issue := [] } : State).lookup .words 0 0 0x10000 0x30000 (fetchOk false)

/-- The floe may issue, and its fetch finds a poisoned line on a page that does not allow it. -/
theorem dataPage_fetch {b : Byte} (hb : b = 0 ∨ b = 1) :
    ((dataPage b).issue = [0] ∧ (dataPage b).floes.find? 0 = some dataFloe ∧ ((dataPage b).packs.find? 0).map (dataPage b).rootOf = some 0x10000) ∧
      (({ dataPage b with issue := [] } : State).mayIssue 0 dataFloe = true ∧
        ({ dataPage b with issue := [] } : State).startRun dataFloe = some (dataFloeRuns, dataRun, true)) ∧
      (dataLookup b).2 = .ok 0x30000 0x813 0 ∧ (dataLookup b).1.poisonedAt 0 0x30000 = true ∧ (dataLookup b).1.fresh = 0 ∧
      wordOfBytes ((dataLookup b).1.pbytes 0x30000 8) = b.setWidth 64 := by
  rcases hb with rfl | rfl
  · decide +kernel
  · decide +kernel

/-- Where the statement holds, the free choice is the low byte in memory. -/
theorem pick_eq_lowByte (h : Obligations.StepRunsWord) {b : Byte} (hb : b = 0 ∨ b = 1) :
    BitVec.ofNat 64 (Config.pick 16 0) = b.setWidth 64 := by
  obtain ⟨⟨hissue, hfloe, hroot⟩, ⟨hmay, hrun⟩, hok, hpoison, hfresh, hword⟩ := dataPage_fetch hb
  obtain ⟨p, hpack, hroot⟩ := Option.map_eq_some_iff.mp hroot
  have hlook : ({ dataPage b with issue := [] } : State).lookup .words 0 0 ((dataPage b).rootOf p) 0x30000 (fetchOk false) =
      ((dataLookup b).1, .ok 0x30000 0x813 0) := by
    rw [hroot, ← hok]
    rfl
  have hpick := pick_of_stepRunsWord h hissue hfloe hmay hrun hpack (by decide) hlook (by decide) hpoison
  rwa [hfresh, hword] at hpick

/-- Refutes O46: where the page of a fetch does not allow it and its line is poisoned, XINFO is a free choice of the device (R309, R341)
and not the word in memory. Two states whose words differ would fix it at both. -/
theorem not_stepRunsWord : ¬ Obligations.StepRunsWord := by
  intro h
  have h0 := pick_eq_lowByte h (b := 0) (.inl rfl)
  have h1 := pick_eq_lowByte h (b := 1) (.inr rfl)
  exact absurd (h0.symm.trans h1) (by decide)

end Sys2Proof.Machine
end

section
/-! SUPPORT. Barrier objects as the scratchpad holds them: what is read after an event, and what an event leaves alone. -/

namespace Sys2Proof.Machine
open Sys2Proof

/-! ### Bytes of a scratchpad read after they are put -/

theorem padAddr_add (banks : List Nat) {o i : Nat} (ho : o % 16 = 0) (hi : i < 16) : padAddr banks (o + i) = padAddr banks o + i := by
  have hbank : (o + i) / 65536 = o / 65536 := by omega
  have hbyte : (o + i) % 65536 = o % 65536 + i := by omega
  rw [padAddr, padAddr, hbank, hbyte, Nat.add_assoc]

/-- Consecutive bytes put from scratchpad address a on. -/
theorem foldl_setPadByte (bs : List Byte) (a j : Nat) (c : Core) :
    ((bs.zipIdx j).foldl (fun c e => c.setPadByte (a + e.2) e.1) c) =
      { c with spad := (bs.zipIdx j).foldl (fun t e => t.set 0 (e.2 + a) e.1) c.spad } := by
  induction bs generalizing c j with
  | nil => rfl
  | cons b bs ih =>
    rw [List.zipIdx_cons, List.foldl_cons, ih, List.foldl_cons, Core.setPadByte, Nat.add_comm a j]

/-- A core with the bytes of an object put at an aligned offset. -/
theorem foldl_setPadByte_padAddr (banks : List Nat) {o : Nat} (ho : o % 16 = 0) {bs : List Byte} (hlen : bs.length ≤ 16) (c : Core) :
    bs.zipIdx.foldl (fun c e => c.setPadByte (padAddr banks (o + e.2)) e.1) c =
      bs.zipIdx.foldl (fun c e => c.setPadByte (padAddr banks o + e.2) e.1) c := by
  refine List.foldl_ext _ _ c fun c e he => ?_
  have hlt : e.2 < bs.length := by
    have := List.snd_lt_of_mem_zipIdx he
    omega
  rw [padAddr_add banks ho (by omega)]

/-- The sixteen bytes read at an aligned offset are those that have been put there. -/
theorem padBytes_padPut (s : State) (key : Nat) (p : Pack) {o : Nat} (ho : o % 16 = 0) {bs : List Byte} (hlen : bs.length = 16) :
    (s.padPut key p o bs).padBytes key p o 16 = bs := by
  have hcore : (s.padPut key p o bs).core (coreOf key) =
      { s.core (coreOf key) with
        spad := bs.zipIdx.foldl (fun t e => t.set 0 (e.2 + padAddr p.banks o) e.1) (s.core (coreOf key)).spad } := by
    unfold State.padPut
    dsimp only
    rw [foldl_setPadByte_padAddr p.banks ho (by omega), foldl_setPadByte]
    simp [State.core]
  refine List.ext_getElem (by simp [State.padBytes, padRead, hlen]) fun i hi hi' => ?_
  have hi16 : i < 16 := by omega
  simp only [State.padBytes, padRead, List.getElem_map, List.getElem_range, hcore, Core.padByte]
  rw [Tbl.getD_foldl_set, padAddr_add p.banks ho hi16, if_pos (by omega)]
  rw [show padAddr p.banks o + i - (0 + padAddr p.banks o) = i by omega]
  exact (List.getElem_eq_getD 0).symm

/-! ### The image of an object (R192) -/

theorem leNat_map_range (n v : Nat) : leNat ((List.range n).map fun i => BitVec.ofNat 8 (v / 256 ^ i)) = v % 256 ^ n := by
  induction n generalizing v with
  | zero => simp [leNat, Nat.mod_one]
  | succ n ih =>
    have hshift : (List.range n).map ((fun i => BitVec.ofNat 8 (v / 256 ^ i)) ∘ Nat.succ) =
        (List.range n).map fun i => BitVec.ofNat 8 (v / 256 / 256 ^ i) :=
      List.map_congr_left fun i _ => by simp only [Function.comp, Nat.div_div_eq_div_mul, Nat.pow_succ, Nat.mul_comm, Nat.succ_eq_add_one]
    have hrest := ih (v / 256)
    rw [leNat] at hrest
    rw [List.range_succ_eq_map, List.map_cons, List.map_map, hshift, leNat, List.foldr_cons, hrest]
    rw [BitVec.toNat_ofNat, Nat.pow_zero, Nat.div_one, show 256 ^ (n + 1) = 256 * 256 ^ n from Nat.pow_succ', Nat.mod_mul]

/-- Bytes of a number denote it. -/
theorem leNat_natLe (n v : Nat) : leNat (natLe n v) = v % 256 ^ n := leNat_map_range n v

/-- The counts of an object fit their fields. -/
def BarObj.Fits (b : BarObj) : Prop := b.pend < 65536 ∧ b.exp < 65536

theorem objOf_fits (bs : List Byte) : (objOf bs).Fits := ⟨Nat.mod_lt _ (by decide), Nat.mod_lt _ (by decide)⟩

/-- An event leaves counts that fit (R193). -/
theorem event_fits {b : BarObj} (h : b.Fits) (dArr dExp : Nat) (dBytes : BitVec 32) : (b.event dArr dExp dBytes).Fits := by
  obtain ⟨hpend, hexp⟩ := h
  unfold BarObj.event
  dsimp only
  split
  · exact ⟨lt_of_le_of_lt (Nat.sub_le _ _) hexp, lt_of_le_of_lt (Nat.sub_le _ _) hexp⟩
  · exact ⟨lt_of_le_of_lt (Nat.sub_le _ _) hpend, lt_of_le_of_lt (Nat.sub_le _ _) hexp⟩

theorem image_length (b : BarObj) : b.image.length = 16 := by simp [BarObj.image, natLe]

/-- An object is what its image says. -/
theorem objOf_image {b : BarObj} (h : b.Fits) : objOf b.image = b := by
  obtain ⟨exp, pend, bytes, phase, w3⟩ := b
  obtain ⟨hpend, hexp⟩ := h
  dsimp only at hpend hexp
  have hbytes := bytes.isLt
  have hphase := phase.isLt
  have hw3 := w3.isLt
  have hmod : (pend % 65536 + 2 ^ 16 * (exp % 65536) + 2 ^ 32 * bytes.toNat + 2 ^ 64 * phase.toNat + 2 ^ 96 * w3.toNat) % 256 ^ 16 =
      pend + 2 ^ 16 * exp + 2 ^ 32 * bytes.toNat + 2 ^ 64 * phase.toNat + 2 ^ 96 * w3.toNat := by
    rw [Nat.mod_eq_of_lt hpend, Nat.mod_eq_of_lt hexp]
    omega
  simp only [objOf, BarObj.image, leNat_natLe, hmod, bitsAt, BarObj.mk.injEq]
  refine ⟨by omega, by omega, BitVec.eq_of_toNat_eq ?_, BitVec.eq_of_toNat_eq ?_, BitVec.eq_of_toNat_eq ?_⟩ <;>
    rw [BitVec.toNat_ofNat] <;> omega

/-! ### Events (R193) -/

/-- R193: an object after an event on it. -/
theorem obj_barEvent (s : State) (key : Nat) (p : Pack) {o : Nat} (ho : o % 16 = 0) (dArr dExp : Nat) (dBytes : BitVec 32) :
    (s.barEvent key p o dArr dExp dBytes).obj key p o = (s.obj key p o).event dArr dExp dBytes := by
  have hfits := event_fits (objOf_fits (s.padBytes key p o 16)) dArr dExp dBytes
  have hput (b : BarObj) (h : b.Fits) : ((s.padPut key p o b.image).markObj key p o true).obj key p o = b := by
    have hbytes : ((s.padPut key p o b.image).markObj key p o true).padBytes key p o 16 = (s.padPut key p o b.image).padBytes key p o 16 := by
      simp [State.padBytes, State.markObj, padRead, State.core, Core.padByte]
    rw [State.obj, hbytes, padBytes_padPut s key p ho (image_length b), objOf_image h]
  have hobj := hput ((s.obj key p o).event dArr dExp dBytes) hfits
  unfold State.barEvent State.putObj
  dsimp only
  split
  · exact hobj
  · exact hobj

/-- Floe g is f but for what its entries wait for. -/
def WaitsDiffer (f g : Floe) : Prop := ∃ fr ir, g = { f with frontier := fr, intFrontier := ir }

theorem find?_eachFloe {s : State} {k : Nat} {f : Floe} (pack : Nat) {g : Floe → Floe} (hg : ∀ f, WaitsDiffer f (g f))
    (h : s.floes.find? k = some f) : ∃ f', (s.eachFloe pack g).floes.find? k = some f' ∧ WaitsDiffer f f' := by
  have hfind : (s.eachFloe pack g).floes.find? k = some (if f.pack = pack then g f else f) := by
    unfold State.eachFloe
    dsimp only
    rw [Tbl.find?_map (fun e => by split <;> rfl), h, Option.map_some]
    split <;> rfl
  refine ⟨_, hfind, ?_⟩
  split
  · exact hg f
  · exact ⟨_, _, rfl⟩

/-- An event on an object wakes entries; it changes no other part of a floe, no pack and no memory. -/
theorem barEvent_keeps {s : State} {k : Nat} {f : Floe} (h : s.floes.find? k = some f) (key : Nat) (p : Pack) (o dArr dExp : Nat)
    (dBytes : BitVec 32) :
    ∃ f', (s.barEvent key p o dArr dExp dBytes).floes.find? k = some f' ∧ WaitsDiffer f f' ∧
      SameMemory s (s.barEvent key p o dArr dExp dBytes) := by
  unfold State.barEvent State.putObj
  dsimp only
  split
  · exact ⟨f, h, ⟨_, _, rfl⟩, rfl, rfl, rfl⟩
  · obtain ⟨f', hfind, hf'⟩ := find?_eachFloe (s := (s.padPut key p o ((s.obj key p o).event dArr dExp dBytes).image).markObj key p o true) key
      (fun f => ⟨_, _, rfl⟩) h
    exact ⟨f', hfind, hf', rfl, rfl, rfl⟩

end Sys2Proof.Machine
end

section
/-! PROOF of O32: records of synchronising words, and the events and signatures of complete memberships. -/

namespace Sys2Proof.Machine
open Sys2Proof

/-! ### A boundary meets a record (R25, R197) -/

/-- The causes that a boundary raises for a record x: one for each entry with lanes that have executed its word. -/
def SyncRec.causes (x : SyncRec) (f : Floe) (t : Trap) (fill : Bool) : List BTrap :=
  (f.frontier.filter fun e => e.mask &&& x.done != 0).map fun e => ⟨t, .sywait (e.mask &&& x.done), true, fill, true⟩

/-- A broken membership raises SYNC_MASK. -/
theorem syncStep_bad {s : State} {key : Nat} {f : Floe} {x : SyncRec} (hfloe : s.floes.find? key = some f) (hfailed : x.failed = none)
    (hbad : x.bad = true) :
    s.syncStep key x = s.setFloe key { f.dropSync x with
      traps := f.traps ++ x.causes f ⟨0x30, x.addr, (f.frontier.filter fun e => e.mask &&& x.done != 0).foldl (fun m e => m ||| e.mask) 0,
        x.addr.setWidth 64, x.word, false⟩ false } := by
  have hfull : x.full = false := by simp [SyncRec.full, hbad]
  simp only [State.syncStep, hfloe, hfailed, hfull, hbad, Bool.true_or, Bool.false_eq_true, if_true, if_false, modFloe_of_find hfloe]
  rfl

/-- An event that failed raises its cause. -/
theorem syncStep_failed {s : State} {key : Nat} {f : Floe} {x : SyncRec} {cause : BitVec 8} {addr info : Word}
    (hfloe : s.floes.find? key = some f) (hfailed : x.failed = some (cause, addr, info)) :
    s.syncStep key x = s.setFloe key { f.dropSync x with traps := f.traps ++ x.causes f ⟨cause, x.addr, 0, addr, info, false⟩ true } := by
  simp only [State.syncStep, hfloe, hfailed, modFloe_of_find hfloe]
  rfl

/-! ### A word joins its record (R25) -/

/-- The record that a synchronising word makes. -/
def Ctx.record (c : Ctx) (member : Mask) (op : SyncOp) : SyncRec :=
  ⟨c.pc, member, c.act, c.word, some op, c.act &&& ~~~member != 0, c.f.handler, none⟩

/-- A record of the word's membership. -/
def Ctx.Records (c : Ctx) (x : SyncRec) : Prop := x.addr = c.pc ∧ x.handler = c.f.handler

/-- The word with its floe's records replaced, and the lanes of ACTIVE among those that have executed a synchronising word. -/
def Ctx.synced (c : Ctx) (xs : List SyncRec) : Ctx :=
  { c with f := { c.f with syncs := xs }, r := { c.r with sync := c.r.sync ||| c.act } }

/-- The floe of a synchronising word as the moment of its membership finds it. -/
def Ctx.synFloe (c : Ctx) (xs : List SyncRec) : Floe := { (c.synced xs).f with run := some (c.synced xs).r }

theorem sync_idle {c : Ctx} (h : c.act = 0) (member : Mask) (op : SyncOp) : c.sync member op = c := if_pos h

theorem not_bad_and_closed {act member : Mask} (hbad : (act &&& ~~~member != 0) = false) (hopen : (member &&& ~~~act != 0) = false) :
    member = act := by
  simp only [bne_eq_false_iff_eq] at hbad hopen
  ext i hi
  have h1 := congrArg (·.getLsbD i) hbad
  have h2 := congrArg (·.getLsbD i) hopen
  simp only [BitVec.getLsbD_and, BitVec.getLsbD_not, hi] at h1 h2
  rw [← BitVec.getLsbD_eq_getElem hi, ← BitVec.getLsbD_eq_getElem hi]
  cases ha : act.getLsbD i <;> cases hm : member.getLsbD i <;> simp_all

/-- Without a record of its own, a word finds none. -/
theorem no_record {c : Ctx} (hnew : ∀ x ∈ c.f.syncs, ¬c.Records x) :
    c.f.syncs.find? (fun x => x.addr == c.pc && x.handler == c.handler) = none ∧
      c.f.syncs.any (fun x => x.addr == c.pc && x.handler == c.handler) = false := by
  have hother : ∀ x ∈ c.f.syncs, ¬(x.addr == c.pc && x.handler == c.handler) = true := by
    intro x hx
    simp only [Bool.and_eq_true, beq_iff_eq]
    exact hnew x hx
  exact ⟨List.find?_eq_none.mpr hother, List.any_eq_false.mpr hother⟩

/-- It makes one, and where ACTIVE is its whole membership, the moment comes at the word. -/
theorem sync_new {c : Ctx} (hact : c.act ≠ 0) (hnew : ∀ x ∈ c.f.syncs, ¬c.Records x) (hroom : (c.f.syncs.filter SyncRec.open?).length < 64)
    (member : Mask) (op : SyncOp) :
    c.sync member op =
      if member = c.act then (c.synced (c.f.syncs ++ [c.record member op])).via fun s => s.syncMoment c.key (c.record member op)
      else c.synced (c.f.syncs ++ [c.record member op]) := by
  obtain ⟨hnone, hany⟩ := no_record hnew
  have hfull : (c.record member op).full = true ↔ member = c.act := by
    simp only [Ctx.record, SyncRec.full, SyncRec.open?, Bool.and_eq_true, Bool.not_eq_true']
    constructor
    · exact fun h => not_bad_and_closed h.1 h.2
    · rintro rfl
      simp
  have hroom' : ¬syncLimit ≤ (c.f.syncs.filter SyncRec.open?).length := Nat.not_le.mpr hroom
  unfold Ctx.sync
  simp only [if_neg hact, hnone, hany, hroom', decide_false, Bool.false_eq_true, if_false, Bool.false_or]
  change (if ((c.record member op).full && true) = true then _ else _) = _
  rw [Bool.and_true]
  by_cases h : member = c.act
  · rw [if_pos (hfull.mpr h), if_pos h]
    rfl
  · rw [if_neg (fun hf => h (hfull.mp hf)), if_neg h]
    rfl

/-- R25: beyond 64 incomplete memberships the record is broken. -/
theorem sync_beyond {c : Ctx} (hact : c.act ≠ 0) (hnew : ∀ x ∈ c.f.syncs, ¬c.Records x)
    (hfull : 64 ≤ (c.f.syncs.filter SyncRec.open?).length) (member : Mask) (op : SyncOp) :
    c.sync member op = c.synced (c.f.syncs ++ [{ c.record c.act op with bad := true }]) := by
  obtain ⟨hnone, hany⟩ := no_record hnew
  have hlimit : syncLimit ≤ (c.f.syncs.filter SyncRec.open?).length := hfull
  unfold Ctx.sync
  simp only [if_neg hact, hnone, hany, hlimit, decide_true, Bool.false_eq_true, if_true, if_false, Bool.true_or]
  rfl

/-- The record x of a word after the lanes of ACTIVE have joined it. -/
def Ctx.joins (c : Ctx) (member : Mask) (op : SyncOp) (x : SyncRec) : SyncRec :=
  { x with
    done := x.done ||| c.act, word := c.word, op := some op
    bad := x.bad || x.member != member || c.act &&& ~~~x.member != 0 }

/-- A membership that is broken, incomplete or failed has no moment. -/
theorem joins_no_moment {c : Ctx} {member : Mask} (op : SyncOp) {x : SyncRec}
    (h : x.bad = true ∨ x.member ≠ member ∨ c.act &&& ~~~member ≠ 0 ∨ member &&& ~~~(x.done ||| c.act) ≠ 0 ∨ x.failed ≠ none) :
    ((c.joins member op x).full && (c.joins member op x).failed.isNone) = false := by
  by_cases hmember : x.member = member
  · subst hmember
    rcases h with h | h | h | h | h
    · simp [Ctx.joins, SyncRec.full, h]
    · exact absurd rfl h
    · simp only [Ctx.joins, SyncRec.full, bne_iff_ne.mpr h, Bool.or_true, Bool.not_true, Bool.false_and]
    · simp only [Ctx.joins, SyncRec.full, SyncRec.open?, bne_iff_ne.mpr h, Bool.not_true, Bool.and_false, Bool.false_and]
    · simp [Ctx.joins, Option.isNone_eq_false_iff.mpr (Option.isSome_iff_ne_none.mpr h)]
  · simp [Ctx.joins, SyncRec.full, hmember]

theorem mask_and_not_or (m n : Mask) : m &&& ~~~(n ||| m) = 0 := by
  ext i hi
  cases hm : m[i] <;> simp [hm]

/-- R25: the lanes of ACTIVE join the record of their word. -/
theorem sync_again {c : Ctx} (hact : c.act ≠ 0) {member : Mask} (op : SyncOp) (hmine : ∃ x ∈ c.f.syncs, c.Records x)
    (hstands : ∀ x ∈ c.f.syncs, c.Records x → x.bad = true ∨ x.member ≠ member ∨ c.act &&& ~~~member ≠ 0 ∨
      member &&& ~~~(x.done ||| c.act) ≠ 0 ∨ x.failed ≠ none) :
    ∃ xs, c.sync member op = c.synced xs ∧ xs.length = c.f.syncs.length ∧
      ∀ y ∈ xs, c.Records y → c.act &&& ~~~y.done = 0 ∧ y.op = some op ∧ (y.member ≠ member → y.bad = true) := by
  have hrecords (x : SyncRec) : (x.addr == c.pc && x.handler == c.handler) = true ↔ c.Records x := by
    simp [Ctx.Records, Ctx.handler]
  have hany : c.f.syncs.any (fun x => x.addr == c.pc && x.handler == c.handler) = true := by
    obtain ⟨x, hx, hmine⟩ := hmine
    exact List.any_eq_true.mpr ⟨x, hx, (hrecords x).mpr hmine⟩
  obtain ⟨x, hfind⟩ := Option.isSome_iff_exists.mp (List.find?_isSome.mpr (List.any_eq_true.mp hany))
  have hx := (hrecords x).mp (by simpa using List.find?_some hfind)
  have hquiet := joins_no_moment (c := c) op (hstands x (List.mem_of_find?_eq_some hfind) hx)
  refine ⟨c.f.syncs.map fun z => if z.addr == c.pc && z.handler == c.handler then c.joins member op x else z, ?_, List.length_map _,
    fun y hy hmine => ?_⟩
  · unfold Ctx.sync
    simp only [if_neg hact, hfind, hany, if_true]
    change (if ((c.joins member op x).full && (c.joins member op x).failed.isNone) = true then _ else _) = _
    rw [if_neg (by simp [hquiet])]
    rfl
  · obtain ⟨z, hz, rfl⟩ := List.mem_map.mp hy
    by_cases hzmine : (z.addr == c.pc && z.handler == c.handler) = true
    · rw [if_pos hzmine]
      refine ⟨mask_and_not_or _ _, rfl, fun hmember => ?_⟩
      simp only [Ctx.joins] at hmember ⊢
      simp [hmember]
    · rw [if_neg hzmine] at hmine
      exact absurd ((hrecords z).mpr hmine) hzmine

/-! ### The moment of a membership (R197) -/

/-- A word goes on with the floe that an operation on the state has left it. -/
theorem via_eq {c : Ctx} {g : State → State} {t : State} {f' : Floe} {q : Run}
    (ht : g (c.s.setFloe c.key { c.f with run := some c.r }) = t) (hfind : t.floes.find? c.key = some f') (hrun : f'.run = some q) :
    c.via g = { c with s := t, f := f', r := q } := by
  subst ht
  unfold Ctx.via
  unfold State.setFloe at hfind ⊢
  simp only [hfind, hrun, Option.getD_some]

theorem retire_via {s : State} {w : Issue} {f : Floe} {r : Run} {h : Hdr} {xs : List SyncRec} {g : State → State} {t : State} {f' : Floe}
    {q : Run} (ht : g (s.setFloe w.floe ((ctxOf s w f r h).synFloe xs)) = t) (hfind : t.floes.find? w.floe = some f')
    (hrun : f'.run = some q) :
    retire (((ctxOf s w f r h).synced xs).via g) = wordDone t w { f' with run := some (nextRun w q h.s) } := by
  rw [via_eq ht hfind hrun]
  rfl

theorem syncMoment_made {u v : State} {key : Nat} {f f' : Floe} {x : SyncRec} (hfloe : u.floes.find? key = some f)
    (hevent : u.syncEvent key f x = .made v) (hfind : v.floes.find? key = some f') :
    u.syncMoment key x = v.setFloe key (f'.dropSync x).clearSywait := by
  simp only [State.syncMoment, hfloe, hevent, modFloe_of_find hfind]

/-- A record of a failed event. -/
def SyncRec.fails (x : SyncRec) (cause : BitVec 8) (addr info : Word) : SyncRec := { x with failed := some (cause, addr, info) }

theorem syncMoment_fail {u v : State} {key : Nat} {f f' : Floe} {x : SyncRec} {cause : BitVec 8} {addr info : Word}
    (hfloe : u.floes.find? key = some f) (hevent : u.syncEvent key f x = .fail v cause addr info) (hfind : v.floes.find? key = some f') :
    u.syncMoment key x = v.setFloe key { f' with
      syncs := f'.syncs.map fun y => if y.addr == x.addr && y.handler == x.handler then y.fails cause addr info else y } := by
  simp only [State.syncMoment, hfloe, hevent, modFloe_of_find hfind]
  rfl

/-- The records of a floe beside a new one. -/
theorem filter_append_record {c : Ctx} (hnew : ∀ x ∈ c.f.syncs, ¬c.Records x) (member : Mask) (op : SyncOp) :
    (c.f.syncs ++ [c.record member op]).filter (fun y => !(y.addr == (c.record member op).addr && y.handler == (c.record member op).handler)) =
      c.f.syncs := by
  rw [List.filter_append, List.filter_eq_self.mpr, List.filter_eq_nil_iff.mpr, List.append_nil]
  · intro y hy
    rw [List.mem_singleton.mp hy]
    simp
  · intro y hy
    have := hnew y hy
    simp only [Bool.not_eq_true', Bool.and_eq_false_iff, beq_eq_false_iff_ne]
    exact not_and_or.mp this

theorem map_append_record {c : Ctx} (hnew : ∀ x ∈ c.f.syncs, ¬c.Records x) (member : Mask) (op : SyncOp) (g : SyncRec → SyncRec) :
    (c.f.syncs ++ [c.record member op]).map (fun y =>
        if y.addr == (c.record member op).addr && y.handler == (c.record member op).handler then g y else y) =
      c.f.syncs ++ [g (c.record member op)] := by
  rw [List.map_append, List.map_singleton, if_pos (by simp)]
  refine congrArg (· ++ _) ((List.map_congr_left fun y hy => if_neg ?_).trans (List.map_id _))
  simp only [Bool.and_eq_true, beq_iff_eq]
  exact hnew y hy

/-- A word whose lanes of ACTIVE are all that its membership names, which no lane has executed before. -/
structure Ctx.Alone (c : Ctx) (member : Mask) : Prop where
  act : c.act ≠ 0
  new : ∀ x ∈ c.f.syncs, ¬c.Records x
  room : (c.f.syncs.filter SyncRec.open?).length < 64
  all : member = c.act

/-- The run of such a word, its floe and the state, as the moment finds them. -/
def Ctx.momentRun (c : Ctx) : Run := { c.r with sync := c.r.sync ||| c.act }
def Ctx.momentFloe (c : Ctx) (op : SyncOp) : Floe := c.synFloe (c.f.syncs ++ [c.record c.act op])
def Ctx.moment (c : Ctx) (op : SyncOp) : State := c.s.setFloe c.key (c.momentFloe op)

theorem find?_moment (c : Ctx) (op : SyncOp) : (c.moment op).floes.find? c.key = some (c.momentFloe op) := find?_setFloe ..

theorem sync_alone {c : Ctx} {member : Mask} (h : c.Alone member) (op : SyncOp) :
    c.sync member op = (c.synced (c.f.syncs ++ [c.record c.act op])).via fun s => s.syncMoment c.key (c.record c.act op) := by
  obtain ⟨hact, hnew, hroom, rfl⟩ := h
  rw [sync_new hact hnew hroom, if_pos rfl]

theorem wordDone_setFloe (s : State) (w : Issue) (f g : Floe) : wordDone (s.setFloe w.floe f) w g = wordDone s w g := by
  simp [wordDone, State.setFloe, Tbl.put_put]

/-- A word completes when its floe's run stands where it did. -/
theorem completes_wordDone {s v : State} {w : Issue} {g : Floe} {r q : Run} {stop : Bool} (hmem : SameMemory s v)
    (hcount : q.count = r.count) (htrap : q.trap = r.trap) (hrun : g.run = some (nextRun w q stop)) :
    Completes s (wordDone v w g) w r :=
  ⟨⟨rfl, g, _, Tbl.find?_put_same .., hrun, rfl, congrArg (· + 1) hcount, htrap⟩, hmem⟩

section
variable {s : State} {w : Issue} {f : Floe} {r : Run} {h : Hdr} {c : Ctx} {member : Mask} {op : SyncOp} {v : State} {f' : Floe} {q : Run}

/-- R197: at the moment of a membership whose event takes place, the record goes. -/
theorem sync_made (hc : ctxOf s w f r h = c) (halone : c.Alone member)
    (hevent : (c.moment op).syncEvent w.floe (c.momentFloe op) (c.record c.act op) = .made v) (hfind : v.floes.find? w.floe = some f')
    (hsyncs : f'.syncs = (c.momentFloe op).syncs) (hrun : f'.run = some q) (hcount : q.count = r.count) (htrap : q.trap = r.trap)
    (hmem : SameMemory s v) :
    ∃ g, retire (c.sync member op) = wordDone v w g ∧ Completes s (wordDone v w g) w r ∧
      ∃ fr, g = { f' with syncs := f.syncs, frontier := fr, run := some (nextRun w q h.s) } := by
  subst hc
  have hmoment := syncMoment_made (find?_moment (ctxOf s w f r h) op) hevent hfind
  have hdrop : (f'.dropSync ((ctxOf s w f r h).record (ctxOf s w f r h).act op)).syncs = f.syncs := by
    unfold Floe.dropSync
    rw [hsyncs]
    exact filter_append_record halone.new _ op
  refine ⟨{ (f'.dropSync ((ctxOf s w f r h).record (ctxOf s w f r h).act op)).clearSywait with run := some (nextRun w q h.s) }, ?_,
    completes_wordDone hmem hcount htrap rfl,
    (f'.dropSync ((ctxOf s w f r h).record (ctxOf s w f r h).act op)).clearSywait.frontier, ?_⟩
  · rw [sync_alone halone, retire_via hmoment (find?_setFloe ..) (by exact hrun), wordDone_setFloe]
  · rw [← hdrop]
    rfl

/-- R197: where the event fails, the record keeps the cause. -/
theorem sync_fail {cause : BitVec 8} {addr info : Word} (hc : ctxOf s w f r h = c) (halone : c.Alone member)
    (hevent : (c.moment op).syncEvent w.floe (c.momentFloe op) (c.record c.act op) = .fail v cause addr info)
    (hfind : v.floes.find? w.floe = some f') (hsyncs : f'.syncs = (c.momentFloe op).syncs) (hrun : f'.run = some q) :
    retire (c.sync member op) = wordDone v w { f' with
      syncs := f.syncs ++ [(c.record c.act op).fails cause addr info], run := some (nextRun w q h.s) } := by
  subst hc
  have hmoment := syncMoment_fail (find?_moment (ctxOf s w f r h) op) hevent hfind
  have hmap := map_append_record halone.new (ctxOf s w f r h).act op (SyncRec.fails · cause addr info)
  rw [hsyncs] at hmoment
  rw [sync_alone halone, retire_via hmoment (find?_setFloe ..) (by exact hrun), wordDone_setFloe]
  exact congrArg (fun l => wordDone v w { f' with syncs := l, run := some (nextRun w q h.s) }) hmap

end

/-! ### Arrivals and drops (R193, R195) -/

theorem arriveAt_made {u : State} {key : Nat} {f : Floe} {p : Pack} {bar : Word} {n : Nat} {isDrop : Bool}
    (hpack : u.packs.find? f.pack = some p) (hpad : p.inPad bar.toNat 16 = true)
    (hshort : (u.obj f.pack p bar.toNat).short n (if isDrop then n else 0) = false) :
    u.arriveAt key f bar n isDrop = .made ((u.barEvent f.pack p bar.toNat n (if isDrop then n else 0) 0).modFloe key Floe.arrived) := by
  simp only [State.arriveAt, hpack, hpad, hshort, Bool.not_true, Bool.false_eq_true, if_false]

theorem short_eq_false {b : BarObj} {m n : Nat} (hpend : m ≤ b.pend) (hexp : n ≤ b.exp) : b.short m n = false := by
  simp [BarObj.short, hpend, hexp]

theorem short_eq_true {b : BarObj} {m n : Nat} (h : b.pend < m ∨ b.exp < n) : b.short m n = true := by
  simp [BarObj.short, h]

/-- R194: counts that cannot take an arrival or drop fail it. -/
theorem arriveAt_short {u : State} {key : Nat} {f : Floe} {p : Pack} {bar : Word} {n : Nat} {isDrop : Bool}
    (hpack : u.packs.find? f.pack = some p) (hpad : p.inPad bar.toNat 16 = true)
    (hshort : (u.obj f.pack p bar.toNat).short n (if isDrop then n else 0) = true) :
    u.arriveAt key f bar n isDrop = .fail u 0x32 bar (if isDrop then 4 else 3) := by
  simp only [State.arriveAt, hpack, hpad, hshort, Bool.not_true, Bool.false_eq_true, if_true, if_false]

theorem obj_of_cores {s t : State} (h : t.cores = s.cores) (key : Nat) (p : Pack) (o : Nat) : t.obj key p o = s.obj key p o := by
  simp [State.obj, State.padBytes, State.core, h]

section
variable {s : State} {w : Issue} {f : Floe} {r : Run} {h : Hdr} {c : Ctx} {member : Mask} {op : SyncOp} {p : Pack} {o : Word} {b : BarObj}
  {isDrop : Bool}

/-- An arrival or drop of the lanes of ACTIVE that the counts of its object take. -/
theorem sync_arrives (hc : ctxOf s w f r h = c) (hobj : GoodObj c p o b) (halone : c.Alone member)
    (hevent : (c.moment op).syncEvent w.floe (c.momentFloe op) (c.record c.act op) =
      (c.moment op).arriveAt w.floe (c.momentFloe op) o (popc c.act) isDrop)
    (hfits : b.short (popc c.act) (if isDrop then popc c.act else 0) = false) :
    ∃ t g, retire (c.sync member op) = t ∧ Completes s t w r ∧ t.floes.find? w.floe = some g ∧ g.syncs = f.syncs ∧
      g.arrivals = f.arrivals + 1 ∧ t.obj f.pack p o.toNat = b.event (popc c.act) (if isDrop then popc c.act else 0) 0 := by
  obtain ⟨hpack, haligned, hpad, hb, -⟩ := hobj
  subst hc
  have hb' : ((ctxOf s w f r h).moment op).obj f.pack p o.toNat = b := hb
  have hmade := arriveAt_made (u := (ctxOf s w f r h).moment op) (key := w.floe) (f := (ctxOf s w f r h).momentFloe op) hpack hpad
    ((congrArg (BarObj.short · _ _) hb').trans hfits)
  obtain ⟨f', hfind, ⟨fr, ir, rfl⟩, hmem⟩ := barEvent_keeps (find?_moment (ctxOf s w f r h) op) f.pack p o.toNat (popc (ctxOf s w f r h).act)
    (if isDrop then popc (ctxOf s w f r h).act else 0) 0
  rw [modFloe_of_find (by exact hfind)] at hmade
  obtain ⟨g, hretire, hcompletes, fr', hg⟩ := sync_made rfl halone (hevent.trans hmade) (find?_setFloe ..) rfl rfl rfl rfl hmem
  refine ⟨_, g, hretire, hcompletes, Tbl.find?_put_same .., by rw [hg], by rw [hg]; rfl, ?_⟩
  rw [← hb', ← obj_barEvent _ _ _ haligned]
  exact obj_of_cores rfl ..

/-- One that they do not take. -/
theorem sync_short (hc : ctxOf s w f r h = c) (hobj : GoodObj c p o b) (halone : c.Alone member)
    (hevent : (c.moment op).syncEvent w.floe (c.momentFloe op) (c.record c.act op) =
      (c.moment op).arriveAt w.floe (c.momentFloe op) o (popc c.act) isDrop)
    (hshort : b.short (popc c.act) (if isDrop then popc c.act else 0) = true) :
    retire (c.sync member op) = wordDone s w { f with
      syncs := f.syncs ++ [(c.record c.act op).fails 0x32 o (if isDrop then 4 else 3)]
      run := some { nextRun w r h.s with sync := r.sync ||| c.act } } := by
  obtain ⟨hpack, haligned, hpad, hb, -⟩ := hobj
  subst hc
  have hb' : ((ctxOf s w f r h).moment op).obj f.pack p o.toNat = b := hb
  have hfail := arriveAt_short (u := (ctxOf s w f r h).moment op) (key := w.floe) (f := (ctxOf s w f r h).momentFloe op) hpack hpad
    ((congrArg (BarObj.short · _ _) hb').trans hshort)
  rw [sync_fail rfl halone (hevent.trans hfail) (find?_moment ..) rfl rfl]
  exact wordDone_setFloe ..

end

/-- The event of a complete membership at an object. -/
theorem syncEvent_arrive {u : State} {key : Nat} {f : Floe} {x : SyncRec} {bar : Word} (hop : x.op = some (.arrive bar))
    (hquiet : u.lanesBusy key f.seq x.member = false) : u.syncEvent key f x = u.arriveAt key f bar (popc x.member) false := by
  simp only [State.syncEvent, SyncRec.what, hop, hquiet, Bool.false_eq_true, if_false]

theorem syncEvent_drop {u : State} {key : Nat} {f : Floe} {x : SyncRec} {bar : Word} (hop : x.op = some (.drop bar)) :
    u.syncEvent key f x = u.arriveAt key f bar (popc x.member) true := by
  simp only [State.syncEvent, SyncRec.what, hop]

/-! ### Signatures (R200, R201, R202) -/

/-- A join register just put is the one put, with DONE brought up to date. -/
theorem join_putJoin (p : Pack) (j : JReg) (x : Join) : ∃ done, (p.putJoin j x).join j = { x with done := done } :=
  ⟨Pack.doneOf { p with joins := p.joins.set j.toNat x j.isLt } j, by simp [Pack.putJoin, Pack.join]⟩

/-- Whether a join register can count n lanes that sign with JSIGN. -/
def Join.Takes (x : Join) (n : Nat) : Prop :=
  x.expected ≠ 0 ∧ (x.count = 0 ∨ x.rec? = some SignRec.jsign) ∧ x.count.toNat + n ≤ x.expected.toNat

/-- The code of a mismatch of R202 where it cannot. -/
def Join.code (x : Join) : Nat := if x.expected = 0 then 1 else if x.count ≠ 0 ∧ x.rec? ≠ some SignRec.jsign then 2 else 3

theorem sign_mismatch {u : State} {pack key n : Nat} {j : JReg} {p : Pack} {g : Mask} {pc : BitVec 48} {word : Word}
    (hpack : u.packs.find? pack = some p) (hnot : ¬(p.join j).Takes n) :
    u.sign pack j key n SignRec.jsign g pc word = (none, (p.join j).code) := by
  unfold State.sign Join.code
  simp only [hpack]
  by_cases hexp : (p.join j).expected = 0
  · rw [if_pos hexp, if_pos hexp]
  · rw [if_neg hexp, if_neg hexp]
    by_cases hrec : (p.join j).count ≠ 0 ∧ (p.join j).rec? ≠ some SignRec.jsign
    · rw [if_pos hrec, if_pos hrec]
    · have hsame : (p.join j).count = 0 ∨ (p.join j).rec? = some SignRec.jsign := by tauto
      have hmany : (p.join j).expected.toNat < (p.join j).count.toNat + n :=
        Nat.lt_of_not_le fun hle => hnot ⟨hexp, hsame, hle⟩
      rw [if_neg hrec, if_neg hrec, if_pos hmany]

/-- A join register x as n lanes that sign with JSIGN leave it (R201). -/
def Join.Signed (x y : Join) (n : Nat) : Prop :=
  y.expected = x.expected ∧
    (x.count.toNat + n = x.expected.toNat → y.count = 0 ∧ y.gen = x.gen + 1 ∧ y.rec? = none) ∧
    (x.count.toNat + n < x.expected.toNat → y.count.toNat = x.count.toNat + n ∧ y.gen = x.gen ∧ y.rec? = some SignRec.jsign)

/-- A completed generation wakes entries; it changes no other part of a floe, no pack and no memory. -/
theorem joinWake_keeps {s : State} {k : Nat} {f : Floe} (h : s.floes.find? k = some f) (pack : Nat) (j : JReg) :
    ∃ f', (s.joinWake pack j).floes.find? k = some f' ∧ WaitsDiffer f f' ∧ (s.joinWake pack j).packs = s.packs ∧
      SameMemory s (s.joinWake pack j) := by
  unfold State.joinWake
  split
  · exact ⟨f, h, ⟨_, _, rfl⟩, rfl, .refl s⟩
  · obtain ⟨f', hfind, hf'⟩ := find?_eachFloe pack (fun f => ⟨_, _, rfl⟩) h
    exact ⟨f', hfind, hf', rfl, rfl, rfl, rfl⟩

/-- The join register that n more lanes leave. -/
def Join.sign (x : Join) (n : Nat) : Join :=
  if x.count.toNat + n == x.expected.toNat then { x with count := 0, gen := x.gen + 1, rec? := none }
  else { x with count := BitVec.ofNat 11 (x.count.toNat + n), rec? := some SignRec.jsign }

theorem sign_signed (x : Join) (n : Nat) (done : BitVec 16) : x.Signed { x.sign n with done := done } n := by
  have hlt := x.expected.isLt
  unfold Join.sign
  split
  · rename_i heq
    have heq := beq_iff_eq.mp heq
    exact ⟨rfl, fun _ => ⟨rfl, rfl, rfl⟩, fun h => by omega⟩
  · rename_i hne
    have hne := fun h => hne (beq_iff_eq.mpr h)
    refine ⟨rfl, fun h => absurd h hne, fun h => ⟨?_, rfl, rfl⟩⟩
    rw [BitVec.toNat_ofNat, Nat.mod_eq_of_lt (by omega)]

/-- A pack as n lanes sign its register j: the MMA groups of a generation that completes go to the end. -/
def Pack.passMmas (p : Pack) (j : JReg) (n : Nat) : Pack :=
  let mine (m : Mma) : Bool := m.join == j && m.gen == (p.join j).gen
  { p with mmas := if (p.join j).count.toNat + n == (p.join j).expected.toNat
      then p.mmas.filter (!mine ·) ++ p.mmas.filter mine
      else p.mmas }

/-- The pack that they leave, where they sign with JSIGN. -/
def Pack.sign (p : Pack) (j : JReg) (n : Nat) : Pack := (p.passMmas j n).putJoin j ((p.join j).sign n)

theorem sign_join (p : Pack) (j : JReg) (n : Nat) : (p.join j).Signed ((p.sign j n).join j) n := by
  obtain ⟨done, hjoin⟩ := join_putJoin (p.passMmas j n) j ((p.join j).sign n)
  rw [Pack.sign, hjoin]
  exact sign_signed (p.join j) n done

/-- R201: a signature that the register counts. -/
theorem sign_made {u : State} {pack key n : Nat} {j : JReg} {p : Pack} {f : Floe} {g : Mask} {pc : BitVec 48} {word : Word}
    (hfloe : u.floes.find? key = some f) (hpack : u.packs.find? pack = some p) (htakes : (p.join j).Takes n) :
    ∃ v f', u.sign pack j key n SignRec.jsign g pc word = (some v, 0) ∧ v.floes.find? key = some f' ∧
      WaitsDiffer { f with signed := f.signed.put j.toNat ⟨(p.join j).gen, g, pc, word, true⟩ } f' ∧ SameMemory u v ∧
      v.packs.find? pack = some (p.sign j n) := by
  obtain ⟨hexp, hrec, hle⟩ := htakes
  have hrec' : ¬((p.join j).count ≠ 0 ∧ (p.join j).rec? ≠ some SignRec.jsign) := by tauto
  let v : State := (u.setPack pack (p.sign j n)).setFloe key
    { f with signed := f.signed.put j.toNat ⟨(p.join j).gen, g, pc, word, true⟩ }
  have hsign : u.sign pack j key n SignRec.jsign g pc word =
      (some (if (p.join j).count.toNat + n == (p.join j).expected.toNat then v.joinWake pack j else v), 0) := by
    unfold State.sign
    simp only [hpack, if_neg hexp, if_neg hrec', if_neg (Nat.not_lt.mpr hle)]
    rw [modFloe_of_find (by exact hfloe)]
    rfl
  have hfind : v.floes.find? key = some { f with signed := f.signed.put j.toNat ⟨(p.join j).gen, g, pc, word, true⟩ } := find?_setFloe ..
  have hpacks : v.packs.find? pack = some (p.sign j n) := Tbl.find?_put_same ..
  obtain ⟨f', hwake, hf', hwpacks, hmem⟩ := joinWake_keeps hfind pack j
  split at hsign
  · exact ⟨_, f', hsign, hwake, hf', hmem, hwpacks ▸ hpacks⟩
  · exact ⟨_, _, hsign, hfind, ⟨_, _, rfl⟩, ⟨rfl, rfl, rfl⟩, hpacks⟩

/-- R202: of the floe that signs, a failed signature changes at most what it has signed. -/
theorem joinFail_floe {u : State} {pack key : Nat} (j : JReg) {p : Pack} {f : Floe} (hfloe : u.floes.find? key = some f)
    (hpack : u.packs.find? pack = some p) :
    ∃ signed, (u.joinFail pack j key).floes.find? key = some { f with signed := signed } := by
  unfold State.joinFail
  simp only [hpack]
  rw [State.setPack_floes, Tbl.find?_map (fun e => by split; rfl; split; rfl; split <;> rfl), hfloe, Option.map_some]
  dsimp only
  split
  · exact ⟨f.signed, rfl⟩
  · split
    · exact ⟨f.signed, rfl⟩
    · rw [if_pos rfl]
      exact ⟨_, rfl⟩

/-- It clears the count of the register. -/
theorem joinFail_pack {u : State} {pack : Nat} (key : Nat) (j : JReg) {p : Pack} (hpack : u.packs.find? pack = some p) :
    ∃ p', (u.joinFail pack j key).packs.find? pack = some p' ∧ (p'.join j).count = 0 ∧ (p'.join j).rec? = none ∧
      (p'.join j).gen = (p.join j).gen := by
  obtain ⟨done, hjoin⟩ := join_putJoin { p with mmas := p.mmas.filter fun m => !(m.join == j && m.gen == (p.join j).gen) } j
    { p.join j with count := 0, rec? := none }
  refine ⟨_, ?_, by rw [hjoin], by rw [hjoin], by rw [hjoin]⟩
  unfold State.joinFail
  simp only [hpack]
  exact Tbl.find?_put_same ..

theorem joinFail_sameMemory (u : State) (pack key : Nat) (j : JReg) : SameMemory u (u.joinFail pack j key) := by
  unfold State.joinFail
  split
  · exact .refl u
  · exact ⟨rfl, rfl, rfl⟩

/-- The signature of a complete membership (R201). -/
theorem syncEvent_signs {u v : State} {key k : Nat} {f : Floe} {x : SyncRec} {j : JReg} (hop : x.op = some (.jsign j))
    (hquiet : u.lanesBusy key f.seq x.member = false)
    (hsign : u.sign f.pack j key (popc x.member) SignRec.jsign x.member x.addr x.word = (some v, k)) :
    u.syncEvent key f x = .made v := by
  simp only [State.syncEvent, SyncRec.what, hop, hquiet, hsign, Bool.false_eq_true, if_false]

theorem syncEvent_mismatches {u : State} {key k : Nat} {f : Floe} {x : SyncRec} {j : JReg} (hop : x.op = some (.jsign j))
    (hquiet : u.lanesBusy key f.seq x.member = false)
    (hsign : u.sign f.pack j key (popc x.member) SignRec.jsign x.member x.addr x.word = (none, k)) :
    u.syncEvent key f x = .fail (u.joinFail f.pack j key) 0x31 (x.addr.setWidth 64) (joinInfo k j) := by
  simp only [State.syncEvent, SyncRec.what, hop, hquiet, hsign, Bool.false_eq_true, if_false]

section
variable {s : State} {w : Issue} {f : Floe} {r : Run} {h : Hdr} {c : Ctx} {member : Mask} {p : Pack} {j : JReg}

/-- R200, R201: ACTIVE signs. -/
theorem sync_signs (hc : ctxOf s w f r h = c) (hpack : c.pack? = some p) (halone : c.Alone member)
    (hquiet : s.lanesBusy w.floe f.seq c.act = false) (htakes : (p.join j).Takes (popc c.act)) :
    ∃ t g, retire (c.sync member (.jsign j)) = t ∧ Completes s t w r ∧ t.floes.find? w.floe = some g ∧ g.syncs = f.syncs ∧
      g.signed.find? j.toNat = some ⟨(p.join j).gen, c.act, w.pc, w.word, true⟩ ∧
      ∃ p', t.packs.find? f.pack = some p' ∧ (p.join j).Signed (p'.join j) (popc c.act) := by
  subst hc
  obtain ⟨v, f', hsign, hfind, ⟨fr, ir, rfl⟩, hmem, hpacks⟩ :=
    sign_made (g := (ctxOf s w f r h).act) (pc := w.pc) (word := w.word) (find?_moment (ctxOf s w f r h) (.jsign j)) hpack htakes
  have hevent := syncEvent_signs (u := (ctxOf s w f r h).moment (.jsign j)) (f := (ctxOf s w f r h).momentFloe (.jsign j))
    (x := (ctxOf s w f r h).record (ctxOf s w f r h).act (.jsign j)) rfl hquiet hsign
  obtain ⟨g, hretire, hcompletes, fr', hg⟩ := sync_made rfl halone hevent hfind rfl rfl rfl rfl hmem
  refine ⟨_, g, hretire, hcompletes, Tbl.find?_put_same .., by rw [hg], ?_, p.sign j _, hpacks, sign_join p j _⟩
  rw [hg]
  exact Tbl.find?_put_same ..

/-- R202: ACTIVE does not sign. -/
theorem sync_mismatches (hc : ctxOf s w f r h = c) (hpack : c.pack? = some p) (halone : c.Alone member)
    (hquiet : s.lanesBusy w.floe f.seq c.act = false) (hnot : ¬(p.join j).Takes (popc c.act)) :
    ∃ t g p', retire (c.sync member (.jsign j)) = t ∧ Completes s t w r ∧ t.floes.find? w.floe = some g ∧
      g.syncs = f.syncs ++ [(c.record c.act (.jsign j)).fails 0x31 (w.pc.setWidth 64) (joinInfo (p.join j).code j)] ∧
      t.packs.find? f.pack = some p' ∧ (p'.join j).count = 0 ∧ (p'.join j).rec? = none ∧ (p'.join j).gen = (p.join j).gen := by
  subst hc
  have hpack' : ((ctxOf s w f r h).moment (.jsign j)).packs.find? f.pack = some p := hpack
  have hevent := syncEvent_mismatches (u := (ctxOf s w f r h).moment (.jsign j)) (f := (ctxOf s w f r h).momentFloe (.jsign j))
    (x := (ctxOf s w f r h).record (ctxOf s w f r h).act (.jsign j)) (key := w.floe) rfl hquiet (sign_mismatch hpack' hnot)
  obtain ⟨signed, hfind⟩ := joinFail_floe j (find?_moment (ctxOf s w f r h) (.jsign j)) hpack'
  obtain ⟨p', hpacks, hjoin⟩ := joinFail_pack w.floe j hpack'
  exact ⟨_, _, p', sync_fail (q := (ctxOf s w f r h).momentRun) rfl halone hevent hfind rfl rfl,
    completes_wordDone (q := (ctxOf s w f r h).momentRun) (joinFail_sameMemory ((ctxOf s w f r h).moment _) ..) rfl rfl rfl,
    Tbl.find?_put_same .., rfl, hpacks, hjoin⟩

end

/-! ### Hardware barriers (R198, R199) -/

/-- A field read after it is replaced. -/
theorem fieldOf_putField {s : State} {id : PackId} {fd x : Field} (h : s.fieldOf id = some fd) (hinst : x.inst = fd.inst)
    (hnode : x.node = fd.node) : (s.putField x).fieldOf id = some x := by
  have hid := List.find?_some h
  simp only [Bool.and_eq_true, beq_iff_eq] at hid
  obtain ⟨hfinst, hfnode⟩ := hid
  have hsame : ((fun f : Field => f.inst == id.inst && f.node == id.node) ∘ fun f => if f.inst == x.inst && f.node == x.node then x else f) =
      fun f => f.inst == id.inst && f.node == id.node := by
    funext f
    dsimp only [Function.comp]
    split
    · rename_i heq
      simp only [Bool.and_eq_true, beq_iff_eq] at heq
      rw [heq.1, heq.2]
    · rfl
  unfold State.putField State.fieldOf
  rw [State.setHub_hub, List.find?_map, hsame]
  unfold State.fieldOf at h
  rw [h, Option.map_some, if_pos (by simp [hinst, hnode])]

/-- A barrier stands where it is looked for. -/
theorem bar_stands (f : Field) (lv : SbarLevel) (place index : Nat) :
    (f.bar lv place index).level = lv ∧ (f.bar lv place index).place = place ∧ (f.bar lv place index).index = index := by
  unfold Field.bar
  cases hfind : f.bars.find? fun b => b.level == lv && b.place == place && b.index == index with
  | none => exact ⟨rfl, rfl, rfl⟩
  | some b =>
    have hb := List.find?_some hfind
    simp only [Bool.and_eq_true, beq_iff_eq] at hb
    exact ⟨hb.1.1, hb.1.2, hb.2⟩

/-- A barrier read after it is replaced. -/
theorem bar_putBar (f : Field) {b : HwBar} {lv : SbarLevel} {place index : Nat} (hlevel : b.level = lv) (hplace : b.place = place)
    (hindex : b.index = index) : (f.putBar b).bar lv place index = b := by
  subst hlevel hplace hindex
  have hother : (f.bars.filter fun x => !(x.level == b.level && x.place == b.place && x.index == b.index)).find?
      (fun x => x.level == b.level && x.place == b.place && x.index == b.index) = none := by
    refine List.find?_eq_none.mpr fun x hx => ?_
    have hx := (List.mem_filter.mp hx).2
    rw [Bool.not_eq_true'] at hx
    rw [hx]
    exact Bool.false_ne_true
  unfold Field.bar Field.putBar
  rw [List.find?_append, hother]
  simp

/-- Floe g is f but for what its entries wait for and its hardware barrier. -/
def BarDiffers (f g : Floe) : Prop :=
  ∃ fr ir ld bar, g = { f with frontier := fr, intFrontier := ir, loaded := ld, sbar := bar }

/-- R198: a floe that has arrived in a generation no longer waits once it is released. -/
theorem sbarRelease_floe {s : State} {key : Nat} {x : Floe} {p : Pack} {fd : Field} {b : HwBar} {ix : BitVec 5}
    (hfloe : s.floes.find? key = some x) (hpack : s.packs.find? x.pack = some p) (hinst : fd.inst = p.id.inst) (hnode : fd.node = p.id.node)
    (harrived : floeCode p.id.k x.findex ∈ b.arrived) (hsbar : x.sbar = some (b.level, ix, b.gen)) (hindex : b.index = ix.toNat) :
    ∃ g, (s.sbarRelease fd b).floes.find? key = some g ∧ BarDiffers x g ∧ g.sbar = none := by
  unfold State.sbarRelease
  dsimp only
  rw [Tbl.find?_map (fun e => by split; exact (apply_ite Prod.fst ..).trans (ite_self _); rfl), hfloe, Option.map_some]
  simp only [hpack, hsbar, hinst, hnode, hindex, beq_self_eq_true, List.contains_iff_mem.mpr harrived, Bool.and_self, if_true]
  exact ⟨_, rfl, ⟨_, _, _, _, rfl⟩, rfl⟩

/-- The open generation of a hardware barrier as a floe arrives in it (R198). -/
def State.arrivedBar (s : State) (key : Nat) (x : Floe) (p : Pack) (fd : Field) (lv : SbarLevel) (index : Nat) : HwBar :=
  let place := sbarPlace lv (coreOf key)
  let b := fd.bar lv place index
  { b with
    arrived := if b.arrived.contains (floeCode p.id.k x.findex) then b.arrived else b.arrived ++ [floeCode p.id.k x.findex]
    members := if b.arrived.isEmpty && lv == .quad then s.quadFloes fd place else b.members }

theorem mem_arrivedBar (s : State) (key : Nat) (x : Floe) (p : Pack) (fd : Field) (lv : SbarLevel) (index : Nat) :
    floeCode p.id.k x.findex ∈ (s.arrivedBar key x p fd lv index).arrived := by
  unfold State.arrivedBar
  dsimp only
  split
  · rename_i h
    exact List.contains_iff_mem.mp h
  · exact List.mem_append_right _ (List.mem_singleton_self _)

/-- The floe and its field after the floe has arrived, before the generation is checked. -/
def State.arriveBar (s : State) (key : Nat) (x : Floe) (p : Pack) (fd : Field) (lv : SbarLevel) (ix : BitVec 5) : State :=
  (s.putField (fd.putBar (s.arrivedBar key x p fd lv ix.toNat))).setFloe key
    { x with sbar := some (lv, ix, (fd.bar lv (sbarPlace lv (coreOf key)) ix.toNat).gen) }

/-- A hardware barrier in its next generation. -/
def HwBar.next (b : HwBar) : HwBar := { b with gen := b.gen + 1, arrived := [], members := [] }

/-- R198: a generation that is full releases its floes, and the next one opens; one of the pod waits for the pod. -/
theorem sbarCheck_eq {s : State} {id : PackId} {fd : Field} {b : HwBar} {lv : SbarLevel} {place index : Nat}
    (hfield : s.fieldOf id = some fd) (hbar : fd.bar lv place index = b) :
    s.sbarCheck id.inst id.node lv place index =
      if lv = .pod || !s.sbarFull fd b then s else (s.putField (fd.putBar b.next)).sbarRelease fd b := by
  subst hbar
  unfold State.sbarCheck
  rw [show s.hub.fields.find? (fun f => f.inst == id.inst && f.node == id.node) = some fd from hfield]
  rfl

section
variable {u : State} {key : Nat} {x : Floe} {p : Pack} {fd : Field}

theorem sbarArrive_eq (hfloe : u.floes.find? key = some x) (hpack : u.packs.find? x.pack = some p) (hfield : u.fieldOf p.id = some fd)
    (level : SbarLevel) (ix : BitVec 5) :
    u.sbarArrive key level ix.toNat =
      (u.arriveBar key x p fd level ix).sbarCheck p.id.inst p.id.node level (sbarPlace level (coreOf key)) ix.toNat := by
  simp only [State.sbarArrive, hfloe, hpack, hfield, BitVec.ofNat_toNat, BitVec.setWidth_eq]
  rfl

/-- R198: one arrival of a floe at a hardware barrier. -/
theorem sbarArrive_spec (hfloe : u.floes.find? key = some x) (hpack : u.packs.find? x.pack = some p) (hfield : u.fieldOf p.id = some fd)
    (level : SbarLevel) (ix : BitVec 5) :
    ∃ g fd', (u.sbarArrive key level ix.toNat).floes.find? key = some g ∧ BarDiffers x g ∧ SameMemory u (u.sbarArrive key level ix.toNat) ∧
      (u.sbarArrive key level ix.toNat).fieldOf p.id = some fd' ∧
      let old := fd.bar level (sbarPlace level (coreOf key)) ix.toNat
      let new := fd'.bar level (sbarPlace level (coreOf key)) ix.toNat
      (new.gen = old.gen ∧ floeCode p.id.k x.findex ∈ new.arrived ∧ g.sbar = some (level, ix, old.gen) ∨
        level ≠ .pod ∧ new.gen = old.gen + 1 ∧ new.arrived = [] ∧ g.sbar = none) := by
  let b := u.arrivedBar key x p fd level ix.toNat
  obtain ⟨hlevel, hplace, hindex⟩ : b.level = level ∧ b.place = sbarPlace level (coreOf key) ∧ b.index = ix.toNat := bar_stands ..
  have harrived : floeCode p.id.k x.findex ∈ b.arrived := mem_arrivedBar ..
  have hafter : (u.arriveBar key x p fd level ix).fieldOf p.id = some (fd.putBar b) := fieldOf_putField hfield rfl rfl
  have hbar := bar_putBar fd hlevel hplace hindex
  rw [sbarArrive_eq hfloe hpack hfield, sbarCheck_eq hafter hbar]
  split
  · refine ⟨_, _, find?_setFloe .., ⟨_, _, _, _, rfl⟩, ⟨rfl, rfl, rfl⟩, hafter, .inl ?_⟩
    rw [hbar]
    exact ⟨rfl, harrived, rfl⟩
  · rename_i hfull
    simp only [Bool.or_eq_true, decide_eq_true_eq, not_or] at hfull
    have hid := List.find?_some hfield
    simp only [Bool.and_eq_true, beq_iff_eq] at hid
    have hnext := bar_putBar (fd.putBar b) (b := b.next) hlevel hplace hindex
    obtain ⟨g, hfind, ⟨fr, ir, ld, bar, hg⟩, hnone⟩ := sbarRelease_floe
      (s := (u.arriveBar key x p fd level ix).putField ((fd.putBar b).putBar b.next)) (fd := fd.putBar b) (b := b)
      (find?_setFloe (u.putField (fd.putBar b)) ..) hpack hid.1 hid.2 harrived (by rw [hlevel]; rfl) hindex
    refine ⟨g, _, hfind, ⟨fr, ir, ld, bar, hg⟩, ⟨rfl, rfl, rfl⟩, fieldOf_putField hafter rfl rfl, .inr ⟨hfull.1, ?_⟩⟩
    rw [hnext]
    exact ⟨rfl, rfl, hnone⟩

end

/-- The arrival of a complete membership at its hardware barrier: the floe that then arrives. -/
theorem syncEvent_sbar {u : State} {key : Nat} {f : Floe} {q : Run} {x : SyncRec} {level : SbarLevel} {ix : BitVec 5}
    (hfloe : u.floes.find? key = some f) (hrun : f.run = some q) (hop : x.op = some (.sbar level ix)) (hsbar : f.sbar = none)
    (hquiet : u.lanesBusy key f.seq x.member = false) :
    ∃ fr m, u.syncEvent key f x =
      .made ((u.setFloe key { f.arrived with frontier := fr, run := some { q with sbar := m } }).sbarArrive key level ix.toNat) := by
  refine ⟨setSbwait x.done f.frontier, q.sbar ||| (x.done &&& q.mask), ?_⟩
  simp only [State.syncEvent, SyncRec.what, hop, hsbar, hquiet, Option.isSome_none, Bool.or_self, Bool.false_eq_true, if_false,
    modFloe_of_find hfloe, hrun, Option.map_some]
  rfl

/-- R198: the floe of ACTIVE arrives at a hardware barrier. -/
theorem sync_arrives_sbar {s : State} {w : Issue} {f : Floe} {r : Run} {h : Hdr} {c : Ctx} {member : Mask} {p : Pack} {fd : Field}
    {level : SbarLevel} {ix : BitVec 5} (hc : ctxOf s w f r h = c) (hpack : c.pack? = some p) (hfield : s.fieldOf p.id = some fd)
    (halone : c.Alone member) (hquiet : s.lanesBusy w.floe f.seq c.act = false) (hsbar : f.sbar = none) :
    ∃ t g, retire (c.sync member (.sbar level ix)) = t ∧ Completes s t w r ∧ t.floes.find? w.floe = some g ∧ g.syncs = f.syncs ∧
      g.arrivals = f.arrivals + 1 ∧ ∃ fd', t.fieldOf p.id = some fd' ∧
        let old := fd.bar level (sbarPlace level (coreOf w.floe)) ix.toNat
        let new := fd'.bar level (sbarPlace level (coreOf w.floe)) ix.toNat
        (new.gen = old.gen ∧ floeCode p.id.k f.findex ∈ new.arrived ∧ g.sbar = some (level, ix, old.gen) ∨
          level ≠ .pod ∧ new.gen = old.gen + 1 ∧ new.arrived = [] ∧ g.sbar = none) := by
  subst hc
  obtain ⟨fr, m, hevent⟩ := syncEvent_sbar (q := (ctxOf s w f r h).momentRun)
    (x := (ctxOf s w f r h).record (ctxOf s w f r h).act (.sbar level ix)) (find?_moment (ctxOf s w f r h) (.sbar level ix)) rfl rfl hsbar hquiet
  obtain ⟨f', fd', hfind, ⟨fr', ir, ld, bar, rfl⟩, hmem, hfield', hbar⟩ := sbarArrive_spec
    (find?_setFloe ((ctxOf s w f r h).moment (.sbar level ix)) w.floe
      { ((ctxOf s w f r h).momentFloe (.sbar level ix)).arrived with
        frontier := fr, run := some { (ctxOf s w f r h).momentRun with sbar := m } }) hpack hfield level ix
  obtain ⟨g, hretire, hcompletes, fr'', hg⟩ := sync_made rfl halone hevent hfind rfl rfl rfl rfl hmem
  refine ⟨_, g, hretire, hcompletes, Tbl.find?_put_same .., by rw [hg], by rw [hg]; rfl, fd', hfield', ?_⟩
  rw [hg]
  exact hbar

/-! ### The words -/

theorem exec_jsign {s : State} {w : Issue} {f : Floe} {r : Run} {h : Hdr} {j : JReg} {q : PReg} (hi : Issues s w f r)
    (ho : operandsOk s f (.jsign h j q) = true) :
    exec (.jsign h j q) s = .next (retire ((ctxOf s w f r h).sync ((ctxOf s w f r h).p .a q) (.jsign j))) :=
  onWord_ok hi ho h _

/-- R194: a good object passes the checks of a barrier word. -/
theorem onObj_good {c : Ctx} {p : Pack} {bar : Word} {b : BarObj} (hact : c.act ≠ 0) (hobj : GoodObj c p bar b)
    (k : Pack → Nat → BarObj → State) : c.onObj bar false k = k p bar.toNat b := by
  obtain ⟨hpack, haligned, hpad, hb, hfault⟩ := hobj
  simp only [Ctx.onObj, if_neg hact, hpack, haligned, hpad, hb, hfault, ne_eq, not_true_eq_false, if_false, Bool.not_true,
    Bool.false_eq_true, decide_false, Bool.and_false]

theorem onObj_idle {c : Ctx} (hact : c.act = 0) (bar : Word) (init : Bool) (k : Pack → Nat → BarObj → State) :
    c.onObj bar init k = retire c := if_pos hact

theorem exec_bararr {s : State} {w : Issue} {f : Floe} {r : Run} {h : Hdr} {q : PReg} {sa : SReg} {off : BitVec 13} {p : Pack} {b : BarObj}
    (hi : Issues s w f r) (hact : (ctxOf s w f r h).act ≠ 0) (hobj : GoodObj (ctxOf s w f r h) p ((ctxOf s w f r h).addr1 sa off) b)
    (ho : operandsOk s f (.bararr h q sa off) = true) :
    exec (.bararr h q sa off) s =
      .next (retire ((ctxOf s w f r h).sync ((ctxOf s w f r h).p .d q) (.arrive ((ctxOf s w f r h).addr1 sa off)))) :=
  (onWord_ok hi ho h _).trans (congrArg _ (onObj_good hact hobj _))

theorem exec_bardrop {s : State} {w : Issue} {f : Floe} {r : Run} {h : Hdr} {q : PReg} {sa : SReg} {off : BitVec 13} {p : Pack} {b : BarObj}
    (hi : Issues s w f r) (hact : (ctxOf s w f r h).act ≠ 0) (hobj : GoodObj (ctxOf s w f r h) p ((ctxOf s w f r h).addr1 sa off) b)
    (ho : operandsOk s f (.bardrop h q sa off) = true) :
    exec (.bardrop h q sa off) s =
      .next (retire ((ctxOf s w f r h).sync ((ctxOf s w f r h).p .d q) (.drop ((ctxOf s w f r h).addr1 sa off)))) :=
  (onWord_ok hi ho h _).trans (congrArg _ (onObj_good hact hobj _))

/-- SBAR names a barrier that the launch allocated, or raises BAR_FAULT (R198). -/
theorem exec_sbar {s : State} {w : Issue} {f : Floe} {r : Run} {h : Hdr} {level : SbarLevel} {ix : BitVec 5} {q : PReg} {p : Pack} {fd : Field}
    (hi : Issues s w f r) (hact : (ctxOf s w f r h).act ≠ 0) (hpack : (ctxOf s w f r h).pack? = some p) (hfield : s.fieldOf p.id = some fd)
    (ho : operandsOk s f (.sbar h level ix q) = true) :
    exec (.sbar h level ix q) s = .next (if fd.desc.bars level ≤ ix.toNat
      then wordTraps s w f r ⟨0x32, w.pc, (ctxOf s w f r h).act, 0, 6, false⟩
      else retire ((ctxOf s w f r h).sync ((ctxOf s w f r h).p .a q) (.sbar level ix))) := by
  change execSbar h level ix q s = _
  unfold execSbar
  rw [onWord_ok hi ho, if_neg hact, hpack, Option.bind_some, ctxOf_s, hfield]
  rfl

/-- R32: with ACTIVE empty the words pass. -/
theorem exec_sync_idle {s : State} {w : Issue} {f : Floe} {r : Run} {h : Hdr} (hi : Issues s w f r) (hact : activeOf w f r h = 0)
    (j : JReg) (q : PReg) (sa : SReg) (off : BitVec 13) (level : SbarLevel) (ix : BitVec 5) {i : Instr}
    (hmem : i ∈ [Instr.jsign h j q, .bararr h q sa off, .bardrop h q sa off, .sbar h level ix q]) (ho : operandsOk s f i = true) :
    exec i s = .next (wordDone s w (passed w f r h)) := by
  have hpass : retire (ctxOf s w f r h) = wordDone s w (passed w f r h) := rfl
  simp only [List.mem_cons, List.not_mem_nil, or_false] at hmem
  rcases hmem with rfl | rfl | rfl | rfl
  · rw [exec_jsign hi ho, sync_idle hact, hpass]
  · exact (onWord_ok hi ho h _).trans (congrArg _ (onObj_idle hact ..))
  · exact (onWord_ok hi ho h _).trans (congrArg _ (onObj_idle hact ..))
  · exact (onWord_ok hi ho h _).trans (congrArg _ (if_pos hact))

/-- R25: how a word joins its record, where its moment does not come. -/
theorem joins_record {s : State} {w : Issue} {f : Floe} {r : Run} {h : Hdr} {c : Ctx} {i : Instr} {member : Mask} {op : SyncOp}
    (hc : ctxOf s w f r h = c) (hact : c.act ≠ 0) (hexec : exec i s = .next (retire (c.sync member op))) :
    let q' : Run := { nextRun w r h.s with sync := r.sync ||| c.act }
    ((∀ x ∈ f.syncs, ¬c.Records x) → (f.syncs.filter SyncRec.open?).length < 64 → member ≠ c.act →
      exec i s = .next (wordDone s w { f with syncs := f.syncs ++ [c.record member op], run := some q' })) ∧
    ((∀ x ∈ f.syncs, ¬c.Records x) → 64 ≤ (f.syncs.filter SyncRec.open?).length →
      exec i s = .next (wordDone s w { f with syncs := f.syncs ++ [{ c.record c.act op with bad := true }], run := some q' })) ∧
    ((∃ x ∈ f.syncs, c.Records x) →
      (∀ x ∈ f.syncs, c.Records x → x.bad = true ∨ x.member ≠ member ∨ c.act &&& ~~~member ≠ 0 ∨
        member &&& ~~~(x.done ||| c.act) ≠ 0 ∨ x.failed ≠ none) →
      ∃ xs, exec i s = .next (wordDone s w { f with syncs := xs, run := some q' }) ∧ xs.length = f.syncs.length ∧
        ∀ y ∈ xs, c.Records y → c.act &&& ~~~y.done = 0 ∧ y.op = some op ∧ (y.member ≠ member → y.bad = true)) := by
  subst hc
  refine ⟨fun hnew hroom hmember => ?_, fun hnew hfull => ?_, fun hmine hstands => ?_⟩
  · rw [hexec, sync_new hact hnew hroom, if_neg hmember]
    rfl
  · rw [hexec, sync_beyond hact hnew hfull]
    rfl
  · obtain ⟨xs, hsync, hlen, hxs⟩ := sync_again hact op hmine hstands
    rw [hexec, hsync]
    exact ⟨xs, rfl, hlen, hxs⟩

/-! ### The obligation -/

/-- Settles O32: records by what a boundary raises for them, words by the records that they make and join, complete memberships by
their event or signature. -/
theorem synchronisingWords : Obligations.SynchronisingWords := by
  unfold Obligations.SynchronisingWords
  refine ⟨fun s key f x hfloe => ⟨syncStep_bad hfloe, fun cause addr info => syncStep_failed hfloe⟩, ?_, ?_⟩
  · intro h q j sa off level ix s w f r hi hact i hmem ho
    exact exec_sync_idle hi hact j q sa off level ix hmem ho
  intro h q j sa off level ix s w f r p b fd hi hact c o mine many q' record Joins n Now Takes quiet arr drop
  have hrecord {i : Instr} {member : Mask} {op : SyncOp}
      (hexec : operandsOk s f i = true → exec i s = .next (retire (c.sync member op))) : Joins i member op :=
    fun ho => joins_record rfl hact (hexec ho)
  have halone {member : Mask} (hnew : ∀ x ∈ f.syncs, ¬mine x) (hroom : many < 64) (hall : member = c.act) : c.Alone member :=
    ⟨hact, hnew, hroom, hall⟩
  refine ⟨hrecord fun ho => exec_jsign hi ho, fun hpack ho hnew hroom hall hquiet => ⟨fun hfits => ?_, fun hnot => ?_⟩, fun hobj => ?_,
    fun hpack hfield hindex => ⟨hrecord fun ho => ?_, fun ho hnew hroom hall hquiet hsbar => ?_⟩, fun hpack hfield hindex ho => ?_⟩
  · obtain ⟨t, g, hretire, hdone⟩ := sync_signs rfl hpack (halone hnew hroom hall) hquiet hfits
    exact ⟨t, g, (exec_jsign hi ho).trans (congrArg _ hretire), hdone⟩
  · obtain ⟨t, g, p', hretire, hdone⟩ := sync_mismatches rfl hpack (halone hnew hroom hall) hquiet hnot
    exact ⟨t, g, p', (exec_jsign hi ho).trans (congrArg _ hretire), hdone⟩
  · refine ⟨hrecord fun ho => exec_bararr hi hact hobj ho, hrecord fun ho => exec_bardrop hi hact hobj ho,
      fun ho hnew hroom hall hquiet => ?_, fun ho hnew hroom hall => ?_⟩
    · have hevent := syncEvent_arrive (u := c.moment (.arrive o)) (f := c.momentFloe (.arrive o)) (x := c.record c.act (.arrive o)) rfl hquiet
      have hexec := exec_bararr hi hact hobj ho
      refine ⟨fun hfits => ?_, fun hshort => hexec.trans (congrArg _ ?_)⟩
      · obtain ⟨t, g, hretire, hdone⟩ := sync_arrives rfl hobj (halone hnew hroom hall) hevent (short_eq_false hfits (Nat.zero_le _))
        exact ⟨t, g, hexec.trans (congrArg _ hretire), hdone⟩
      · exact sync_short rfl hobj (halone hnew hroom hall) hevent (short_eq_true (.inl hshort))
    · have hevent := syncEvent_drop (u := c.moment (.drop o)) (key := w.floe) (f := c.momentFloe (.drop o)) (x := c.record c.act (.drop o)) rfl
      have hexec := exec_bardrop hi hact hobj ho
      refine ⟨fun hpend hexp => ?_, fun hshort => hexec.trans (congrArg _ ?_)⟩
      · obtain ⟨t, g, hretire, hdone⟩ := sync_arrives rfl hobj (halone hnew hroom hall) hevent (short_eq_false hpend hexp)
        exact ⟨t, g, hexec.trans (congrArg _ hretire), hdone⟩
      · exact sync_short rfl hobj (halone hnew hroom hall) hevent (short_eq_true hshort)
  · rw [exec_sbar hi hact hpack hfield ho, if_neg (Nat.not_le.mpr hindex)]
  · obtain ⟨t, g, hretire, hdone⟩ := sync_arrives_sbar rfl hpack hfield (halone hnew hroom hall) hquiet hsbar
    refine ⟨t, g, ?_, hdone⟩
    rw [exec_sbar hi hact hpack hfield ho, if_neg (Nat.not_le.mpr hindex)]
    exact congrArg _ hretire
  · rw [exec_sbar hi hact hpack hfield ho, if_pos hindex]

end Sys2Proof.Machine
end

section
/-! SUPPORT. The fields of a word (spec 04, R95 to R98): what a field holds is the code of what the decoder reads from it, and of nothing
else. Every lemma puts the encoded field on the left and the field of the word on the right. -/

namespace Sys2Proof

/-! ### Concatenated fields (R95) -/

/-- A field that is made of two parts. The word's own width need not be written as a sum. -/
theorem append_eq_iff {n m : Nat} {x : BitVec (n + m)} {a : BitVec n} {b : BitVec m} :
    @Eq (no_index (BitVec (n + m))) (no_index (a ++ b)) x ↔ a = bitsAt x m n ∧ b = bitsAt x 0 m := by
  unfold bitsAt
  constructor
  · rintro rfl
    exact ⟨BitVec.extractLsb'_append_eq_left.symm, BitVec.extractLsb'_append_eq_right.symm⟩
  · rintro ⟨rfl, rfl⟩
    exact (BitVec.extractLsb'_append_extractLsb'_eq_extractLsb' (by omega)).trans BitVec.extractLsb'_eq_self

/-- Bits of a part are bits of the whole. -/
@[simp] theorem bitsAt_bitsAt {l k m lo len : Nat} (x : BitVec l) (h : lo + len ≤ m) :
    bitsAt (bitsAt x k m) lo len = bitsAt x (k + lo) len := by
  unfold bitsAt
  ext i hi
  simp [Nat.add_assoc]
  omega

@[simp] theorem bitAt_bitsAt {l k m i : Nat} (x : BitVec l) (h : i < m) : bitAt (bitsAt x k m) i = bitAt x (k + i) := by
  simp [bitAt, bitsAt, h]

@[simp] theorem bit1_eq_iff {l i : Nat} {x : BitVec l} {b : Bool} : bit1 b = bitsAt x i 1 ↔ bitAt x i = b := by
  have hbit : bitsAt x i 1 = bit1 (bitAt x i) := by
    ext j hj
    obtain rfl : j = 0 := by omega
    simp [bitsAt, bitAt, bit1]
  rw [hbit]
  cases b <;> cases bitAt x i <;> decide

@[simp] theorem zero_eq_iff {l i : Nat} {x : BitVec l} : 0#1 = bitsAt x i 1 ↔ bitAt x i = false := bit1_eq_iff (b := false)

@[simp] theorem zero_eq_bit1_iff {b : Bool} : 0#1 = bit1 b ↔ b = false := by cases b <;> decide

/-! ### Register numbers, unused and zero fields (R96) -/

theorem reg10_eq_iff {n : Nat} (hn : n ≤ 10) {x : BitVec 10} {r : BitVec n} : reg10 r = x ↔ x.toNat < 2 ^ n ∧ x.setWidth n = r := by
  have hle : 2 ^ n ≤ 2 ^ 10 := Nat.pow_le_pow_right (by decide) hn
  have hr := r.isLt
  simp only [reg10, BitVec.toNat_eq, BitVec.toNat_setWidth]
  constructor
  · intro h
    rw [Nat.mod_eq_of_lt (by omega)] at h
    exact ⟨h ▸ hr, by rw [← h, Nat.mod_eq_of_lt hr]⟩
  · rintro ⟨hlt, h⟩
    rw [← h, Nat.mod_eq_of_lt hlt, Nat.mod_eq_of_lt (by omega)]

@[simp] theorem fS_eq_some {x : BitVec 10} {r : SReg} : fS x = some r ↔ reg10 r = x := by
  simp [reg10_eq_iff, fS]
@[simp] theorem fP_eq_some {x : BitVec 10} {r : PReg} : fP x = some r ↔ reg10 r = x := by
  simp [reg10_eq_iff, fP]
@[simp] theorem fT_eq_some {x : BitVec 10} {r : TReg} : fT x = some r ↔ reg10 r = x := by
  simp [reg10_eq_iff, fT]
@[simp] theorem fA_eq_some {x : BitVec 10} {r : AReg} : fA x = some r ↔ reg10 r = x := by
  simp [reg10_eq_iff, fA]
@[simp] theorem fJ_eq_some {x : BitVec 10} {r : JReg} : fJ x = some r ↔ reg10 r = x := by
  simp [reg10_eq_iff, fJ]

@[simp] theorem fNone_eq_some {x : BitVec 10} {u : Unit} : fNone x = some u ↔ unused = x := by
  rw [fNone, unused, Option.ite_none_right_eq_some, eq_comm]
  exact and_iff_left rfl
@[simp] theorem fZero_eq_some {n : Nat} {x : BitVec n} {u : Unit} : fZero x = some u ↔ 0#n = x := by
  rw [fZero, Option.ite_none_right_eq_some, eq_comm]
  exact and_iff_left rfl

@[simp] theorem noFields_eq_some {w : FWord} {u : Unit} :
    noFields w = some u ↔ unused = w.d ∧ unused = w.a ∧ unused = w.b ∧ unused = w.c := by
  simp [noFields, Option.bind_eq_some_iff]

@[simp] theorem barFields_eq_some {w : MWord} {u : Unit} : barFields w = some u ↔ unused = w.vb ∧ 0 = w.sz := by
  simp [barFields, Option.bind_eq_some_iff]

/-! ### Vector operands and their class code (R97) -/

@[simp] theorem classCode_eq_some {c : BitVec 10} {u : Bool × Bool} : classCode c = some u ↔ classOf u.1 u.2 = c := by
  constructor
  · intro h
    unfold classCode at h
    split at h <;> cases h
    all_goals exact BitVec.eq_of_toNat_eq (Eq.symm ‹c.toNat = _›)
  · rintro rfl
    obtain ⟨_ | _, _ | _⟩ := u <;> rfl

@[simp] theorem fVS_eq_some {u : Bool} {x : BitVec 10} {a : VS} : fVS u x = some a ↔ a.isS = u ∧ a.field = x := by
  cases u <;> cases a <;> simp [fVS, VS.isS, VS.field, @eq_comm _ x]

@[simp] theorem classA_eq_some {w : FWord} {a : VS} : classA w = some a ↔
    classOf a.isS false = w.c ∧ unused = w.b ∧ a.field = w.a := by
  cases a <;> simp [classA, Option.bind_eq_some_iff, VS.isS]

/-! ### Enumerated fields -/

@[simp] theorem ITy.code_eq_iff {c : BitVec 2} {t : ITy} : t.code = c ↔ ITy.ofCode c = t := by revert c; cases t <;> decide
@[simp] theorem FTy.code_eq_iff {c : BitVec 2} {t : FTy} : t.code = c ↔ FTy.ofCode c = t := by revert c; cases t <;> decide
@[simp] theorem Tier.code_eq_iff {c : BitVec 2} {t : Tier} : t.code = c ↔ Tier.ofCode c = t := by revert c; cases t <;> decide
@[simp] theorem RMode.code_eq_iff {c : BitVec 2} {t : RMode} : t.code = c ↔ RMode.ofCode c = t := by revert c; cases t <;> decide
@[simp] theorem RTy.code_eq_iff {c : BitVec 3} {t : RTy} : t.code = c ↔ RTy.ofCode c = t := by revert c; cases t <;> decide
@[simp] theorem ChkKind.code_eq_iff {c : BitVec 2} {t : ChkKind} : t.code = c ↔ ChkKind.ofCode c = t := by revert c; cases t <;> decide
@[simp] theorem Level.code_eq_iff {c : BitVec 2} {t : Level} : t.code = c ↔ Level.ofCode c = t := by revert c; cases t <;> decide
@[simp] theorem ICond.ofCode_eq_some {c : BitVec 4} {t : ICond} : ICond.ofCode c = some t ↔ t.code = c := by revert c; cases t <;> decide
@[simp] theorem FCond.ofCode_eq_some {c : BitVec 4} {t : FCond} : FCond.ofCode c = some t ↔ t.code = c := by revert c; cases t <;> decide
@[simp] theorem Fmt.ofCode_eq_some {c : BitVec 5} {t : Fmt} : Fmt.ofCode c = some t ↔ t.code = c := by revert c; cases t <;> decide
@[simp] theorem MxFmt.ofCode_eq_some {c : BitVec 5} {t : MxFmt} : MxFmt.ofCode c = some t ↔ t.code = c := by revert c; cases t <;> decide
@[simp] theorem ROp.ofCode_eq_some {c : BitVec 3} {t : ROp} : ROp.ofCode c = some t ↔ t.code = c := by revert c; cases t <;> decide
@[simp] theorem Vote.ofCode_eq_some {c : BitVec 2} {t : Vote} : Vote.ofCode c = some t ↔ t.code = c := by revert c; cases t <;> decide
@[simp] theorem Ord3.ofCode_eq_some {c : BitVec 2} {t : Ord3} : Ord3.ofCode c = some t ↔ t.code = c := by revert c; cases t <;> decide
@[simp] theorem Scope.ofCode_eq_some {c : BitVec 3} {t : Scope} : Scope.ofCode c = some t ↔ t.code = c := by revert c; cases t <;> decide
@[simp] theorem Sz.ofCode_eq_some {c : BitVec 3} {t : Sz} : Sz.ofCode c = some t ↔ t.code = c := by revert c; cases t <;> decide
@[simp] theorem ATy.ofCode_eq_some {c : BitVec 3} {t : ATy} : ATy.ofCode c = some t ↔ t.code = c := by revert c; cases t <;> decide
@[simp] theorem ReconOp.ofCode_eq_some {c : BitVec 4} {t : ReconOp} : ReconOp.ofCode c = some t ↔ c = t.code := by
  revert c; cases t <;> decide
@[simp] theorem SbarLevel.ofCode_eq_some {c : BitVec 3} {t : SbarLevel} : SbarLevel.ofCode c = some t ↔ t.code = c := by
  revert c; cases t <;> decide

/-! ### MOD, format and POL fields (R98, R103) -/

@[simp] theorem mFull_eq_some {m : BitVec 8} {full : Bool} : mFull m = some full ↔ fullField full = bitsAt m 4 2 := by
  unfold mFull
  generalize bitsAt m 4 2 = c
  revert c
  cases full <;> decide

@[simp] theorem mW_eq_some {m : BitVec 8} {wide : Bool} : mW m = some wide ↔ wField wide = m := by
  revert m; cases wide <;> decide

@[simp] theorem mInt_eq_some {m : BitVec 8} {x : IntMod} : mInt m = some x ↔ x.field = m := by
  obtain ⟨ty, sat⟩ := x
  simp [mInt, IntMod.field, Option.bind_eq_some_iff, append_eq_iff]
  tauto

@[simp] theorem mCmp_eq_some {m : BitVec 8} {x : ITy × ICond} : mCmp m = some x ↔ x.1.code ++ (0#2 ++ x.2.code) = m := by
  obtain ⟨ty, cond⟩ := x
  simp [mCmp, Option.bind_eq_some_iff, append_eq_iff]
  tauto

@[simp] theorem fpMod_field_eq_iff {m : BitVec 8} {x : FpMod} {nc : Bool} : x.field nc = m ↔ mFp m = x ∧ bitAt m 1 = nc := by
  obtain ⟨ty, tier, rm, q⟩ := x
  simp [mFp, FpMod.field, append_eq_iff]
  tauto

@[simp] theorem mCv_eq_some {m : BitVec 8} {x : CvMod} : mCv m = some x ↔ x.field = m := by
  obtain ⟨sr, sat, full, rm, q⟩ := x
  simp [mCv, CvMod.field, Option.bind_eq_some_iff, append_eq_iff, -Bool.exists_bool]
  tauto

@[simp] theorem fE_eq_some {c : BitVec 10} {f : MxFmt} : fE c = some f ↔ 0#5 ++ f.code = c := by
  simp [fE, Option.bind_eq_some_iff, append_eq_iff]

@[simp] theorem pol_eq_iff {m : MemOp} {level : BitVec 2} {p : BitVec 7} :
    m.pol level = p ↔ level = bitsAt p 5 2 ∧ m.order.code = bitsAt p 3 2 ∧ m.scope.code = bitsAt p 0 3 := by
  simp [MemOp.pol, append_eq_iff]

/-- The return field of an atomic stands where other words have their level (R103, R183). -/
@[simp] theorem ret_eq_iff {p : BitVec 7} {ret : Bool} :
    (if ret then 0#2 else 1#2) = bitsAt p 5 2 ↔ bitAt p 6 = false ∧ ret = !bitAt p 5 := by
  rw [← bitAt_bitsAt (k := 5) (m := 2) (i := 1) p (by decide), ← bitAt_bitsAt (k := 5) (m := 2) (i := 0) p (by decide)]
  generalize bitsAt p 5 2 = c
  revert c
  cases ret <;> decide

@[simp] theorem mMem_eq_some {w : MWord} {m : MemOp} :
    mMem w = some m ↔ m.pol m.level.code = w.pol ∧ m.sa = w.sa ∧ m.vb = w.vb ∧ m.off = w.off := by
  obtain ⟨level, order, scope, sa, vb, off⟩ := m
  simp [mMem, Option.bind_eq_some_iff]
  tauto

end Sys2Proof
end

section
/-! SUPPORT. The operand shapes of the words (spec 04, R96 to R105): a shape reads the operands of a word exactly where the fields of the
word hold their codes. A field that a shape does not use holds the code of no register, or zero. -/
namespace Sys2Proof

/-- The operand fields of an F word, in the order of `encF`. -/
def FWord.args (w : FWord) : BitVec 8 × BitVec 10 × BitVec 10 × BitVec 10 × BitVec 10 := (w.mod, w.d, w.a, w.b, w.c)
/-- The operand fields of an I word, in the order of `encI`. -/
def IWord.args (w : IWord) : BitVec 10 × BitVec 8 × BitVec 32 := (w.d, w.mod, w.imm)
/-- The operand fields of an M word. -/
def MWord.args (w : MWord) : BitVec 7 × BitVec 7 × BitVec 10 × BitVec 13 × BitVec 3 × BitVec 10 :=
  (w.pol, w.sa, w.vb, w.off, w.sz, w.d)

variable {α : Type} {i : α}

section
variable {w : FWord}
theorem dS3_eq_some {k} : dS3 w k = some i ↔
    ∃ m d a b, (m.field, reg10 d, reg10 a, reg10 b, unused) = w.args ∧ k w.hdr m d a b = i := by
  simp [dS3, FWord.args, Option.bind_eq_some_iff, and_assoc, -Bool.exists_bool]
theorem dS4_eq_some {k} : dS4 w k = some i ↔
    ∃ m d a b c, (m.field, reg10 d, reg10 a, reg10 b, reg10 c) = w.args ∧ k w.hdr m d a b c = i := by
  simp [dS4, FWord.args, Option.bind_eq_some_iff, and_assoc, -Bool.exists_bool]
theorem dS2_eq_some {k} : dS2 w k = some i ↔
    ∃ m d a, (m.field, reg10 d, reg10 a, unused, unused) = w.args ∧ k w.hdr m d a = i := by
  simp [dS2, FWord.args, Option.bind_eq_some_iff, and_assoc, -Bool.exists_bool]
theorem dSCMP_eq_some {k} : dSCMP w k = some i ↔
    ∃ ty cond p a b, (ty.code ++ (0#2 ++ cond.code), reg10 p, reg10 a, reg10 b, unused) = w.args ∧
      k w.hdr ty cond p a b = i := by
  simp [dSCMP, FWord.args, Option.bind_eq_some_iff, append_eq_iff, and_assoc, -Bool.exists_bool]
theorem dP3_eq_some {k} : dP3 w k = some i ↔
    ∃ d a b, (0, reg10 d, reg10 a, reg10 b, unused) = w.args ∧ k w.hdr d a b = i := by
  simp [dP3, FWord.args, Option.bind_eq_some_iff, and_assoc, -Bool.exists_bool]
theorem dP2_eq_some {k} : dP2 w k = some i ↔
    ∃ d a, (0, reg10 d, reg10 a, unused, unused) = w.args ∧ k w.hdr d a = i := by
  simp [dP2, FWord.args, Option.bind_eq_some_iff, and_assoc, -Bool.exists_bool]
theorem dPSET_eq_some {k} : dPSET w k = some i ↔
    ∃ d a, (0, reg10 d, reg10 a, unused, unused) = w.args ∧ k w.hdr d a = i := by
  simp [dPSET, FWord.args, Option.bind_eq_some_iff, and_assoc, -Bool.exists_bool]
theorem dPGET_eq_some {k} : dPGET w k = some i ↔
    ∃ d a, (0, reg10 d, reg10 a, unused, unused) = w.args ∧ k w.hdr d a = i := by
  simp [dPGET, FWord.args, Option.bind_eq_some_iff, and_assoc, -Bool.exists_bool]
theorem dV3_eq_some {k} : dV3 w k = some i ↔
    ∃ m d a b, (m.field, d, a.field, b.field, classOf a.isS b.isS) = w.args ∧ k w.hdr m d a b = i := by
  simp [dV3, FWord.args, Option.bind_eq_some_iff, and_assoc, -Bool.exists_bool]
  grind
theorem dV4_eq_some {k} : dV4 w k = some i ↔ ∃ m d a b c, (m.field, d, a, b, c) = w.args ∧ k w.hdr m d a b c = i := by
  simp [dV4, FWord.args, Option.bind_eq_some_iff, and_assoc, -Bool.exists_bool]
theorem dV2_eq_some {k} : dV2 w k = some i ↔
    ∃ m d a, (m.field, d, a.field, unused, classOf a.isS false) = w.args ∧ k w.hdr m d a = i := by
  simp [dV2, FWord.args, Option.bind_eq_some_iff, and_assoc, -Bool.exists_bool]
  grind
theorem dVCMP_eq_some {k} : dVCMP w k = some i ↔
    ∃ ty cond p a b, (ty.code ++ (0#2 ++ cond.code), reg10 p, a.field, b.field, classOf a.isS b.isS) = w.args ∧
      k w.hdr ty cond p a b = i := by
  simp [dVCMP, FWord.args, Option.bind_eq_some_iff, append_eq_iff, and_assoc, -Bool.exists_bool]
  grind
theorem dF3_eq_some {k} : dF3 w k = some i ↔
    ∃ m d a b, (m.field false, d, a.field, b.field, classOf a.isS b.isS) = w.args ∧ k w.hdr m d a b = i := by
  simp [dF3, FWord.args, Option.bind_eq_some_iff, and_assoc, -Bool.exists_bool]
  grind
theorem dFFMA_eq_some {k} : dFFMA w k = some i ↔
    ∃ m nc d a b c, (m.field nc, d, a, b, c) = w.args ∧ k w.hdr m nc d a b c = i := by
  simp [dFFMA, FWord.args, and_assoc, -Bool.exists_bool]
theorem dF2_eq_some {k} : dF2 w k = some i ↔
    ∃ m d a, (m.field false, d, a.field, unused, classOf a.isS false) = w.args ∧ k w.hdr m d a = i := by
  simp [dF2, FWord.args, Option.bind_eq_some_iff, and_assoc, -Bool.exists_bool]
  grind
theorem dFCLASS_eq_some {k} : dFCLASS w k = some i ↔
    ∃ ty full d a, (ty.code ++ (fullField full ++ 0#4), d, a.field, unused, classOf a.isS false) = w.args ∧
      k w.hdr ty full d a = i := by
  simp [dFCLASS, FWord.args, Option.bind_eq_some_iff, append_eq_iff, and_assoc, -Bool.exists_bool]
  grind
theorem dFCMP_eq_some {k} : dFCMP w k = some i ↔
    ∃ ty full cond p a b, (ty.code ++ (fullField full ++ cond.code), reg10 p, a.field, b.field, classOf a.isS b.isS) = w.args ∧
      k w.hdr ty full cond p a b = i := by
  simp [dFCMP, FWord.args, Option.bind_eq_some_iff, append_eq_iff, and_assoc, -Bool.exists_bool]
  grind
theorem dCVT_eq_some {k} : dCVT w k = some i ↔
    ∃ m dst src d a, (m.field, d, a.field, src.code ++ dst.code, classOf a.isS false) = w.args ∧
      k w.hdr m dst src d a = i := by
  simp [dCVT, FWord.args, Option.bind_eq_some_iff, append_eq_iff, and_assoc, -Bool.exists_bool]
  grind
theorem dMXSCALE_eq_some {k} : dMXSCALE w k = some i ↔
    ∃ full fmt d a, (0#2 ++ (fullField full ++ 0#4), d, a, unused, 0#5 ++ fmt.code) = w.args ∧
      k w.hdr full fmt d a = i := by
  simp [dMXSCALE, FWord.args, Option.bind_eq_some_iff, append_eq_iff, and_assoc, -Bool.exists_bool]
  grind
theorem dMXQ_eq_some {k} : dMXQ w k = some i ↔
    ∃ sr sat full q pack fmt d a b, (bit1 sr ++ (bit1 sat ++ (fullField full ++ (0#2 ++ (bit1 pack ++ bit1 q)))), d, a, b, 0#5 ++ fmt.code) =
      w.args ∧ k w.hdr sr sat full q pack fmt d a b = i := by
  simp [dMXQ, FWord.args, Option.bind_eq_some_iff, append_eq_iff, and_assoc, -Bool.exists_bool]
  grind
theorem dMXDQ_eq_some {k} : dMXDQ w k = some i ↔
    ∃ full q pack fmt d a b, (0#2 ++ (fullField full ++ (0#2 ++ (bit1 pack ++ bit1 q))), d, a, b, 0#5 ++ fmt.code) = w.args ∧
      k w.hdr full q pack fmt d a b = i := by
  simp [dMXDQ, FWord.args, Option.bind_eq_some_iff, append_eq_iff, and_assoc, -Bool.exists_bool]
  grind
theorem dVRFL_eq_some {k} : dVRFL w k = some i ↔
    ∃ wide d a, (wField wide, reg10 d, a, unused, unused) = w.args ∧ k w.hdr wide d a = i := by
  simp [dVRFL, FWord.args, Option.bind_eq_some_iff, and_assoc, -Bool.exists_bool]
theorem dVRLN_eq_some {k} : dVRLN w k = some i ↔
    ∃ wide d a b, (wField wide, reg10 d, a, reg10 b, unused) = w.args ∧ k w.hdr wide d a b = i := by
  simp [dVRLN, FWord.args, Option.bind_eq_some_iff, and_assoc, -Bool.exists_bool]
theorem dVWLN_eq_some {k} : dVWLN w k = some i ↔
    ∃ wide d a b, (wField wide, d, reg10 a, reg10 b, unused) = w.args ∧ k w.hdr wide d a b = i := by
  simp [dVWLN, FWord.args, Option.bind_eq_some_iff, and_assoc, -Bool.exists_bool]
theorem dVBCST_eq_some {k} : dVBCST w k = some i ↔
    ∃ wide d a b, (wField wide, d, a, reg10 b, unused) = w.args ∧ k w.hdr wide d a b = i := by
  simp [dVBCST, FWord.args, Option.bind_eq_some_iff, and_assoc, -Bool.exists_bool]
theorem dVSHFL_eq_some {k} : dVSHFL w k = some i ↔
    ∃ wide xor d a b, (0#1 ++ (bit1 wide ++ (0#1 ++ (bit1 xor ++ 0#4))), d, a, b, unused) = w.args ∧
      k w.hdr wide xor d a b = i := by
  simp [dVSHFL, FWord.args, Option.bind_eq_some_iff, append_eq_iff, and_assoc, -Bool.exists_bool]
theorem dVROT_eq_some {k} : dVROT w k = some i ↔
    ∃ wide g d a b, (0#1 ++ (bit1 wide ++ (g ++ 0#4)), d, a, reg10 b, unused) = w.args ∧ k w.hdr wide g d a b = i := by
  simp [dVROT, FWord.args, Option.bind_eq_some_iff, append_eq_iff, and_assoc, -Bool.exists_bool]
theorem dVRED_eq_some {k} : dVRED w k = some i ↔
    ∃ ty op q d a, (ty.code ++ (op.code ++ (0#1 ++ bit1 q)), d, a, unused, unused) = w.args ∧
      k w.hdr ty op q d a = i := by
  simp [dVRED, FWord.args, Option.bind_eq_some_iff, append_eq_iff, and_assoc, -Bool.exists_bool]
  grind
theorem dVVOTE_eq_some {k} : dVVOTE w k = some i ↔
    ∃ mode d a, (0#6 ++ mode.code, reg10 d, reg10 a, unused, unused) = w.args ∧ k w.hdr mode d a = i := by
  simp [dVVOTE, FWord.args, Option.bind_eq_some_iff, append_eq_iff, and_assoc, -Bool.exists_bool]
theorem dVLANE_eq_some {k} : dVLANE w k = some i ↔
    ∃ gid d, (0#7 ++ bit1 gid, d, unused, unused, unused) = w.args ∧ k w.hdr gid d = i := by
  simp [dVLANE, FWord.args, Option.bind_eq_some_iff, append_eq_iff, and_assoc, -Bool.exists_bool]
theorem dBGET_eq_some {k} : dBGET w k = some i ↔
    ∃ wide d a, (wField wide, d, a, unused, unused) = w.args ∧ k w.hdr wide d a = i := by
  simp [dBGET, FWord.args, Option.bind_eq_some_iff, and_assoc, -Bool.exists_bool]
theorem dBCLR_eq_some {k} : dBCLR w k = some i ↔
    ∃ wide d, (wField wide, d, unused, unused, unused) = w.args ∧ k w.hdr wide d = i := by
  simp [dBCLR, FWord.args, Option.bind_eq_some_iff, and_assoc, -Bool.exists_bool]
theorem dBMAXR_eq_some {k} : dBMAXR w k = some i ↔
    ∃ wide d a b, (wField wide, d, a, b, unused) = w.args ∧ k w.hdr wide d a b = i := by
  simp [dBMAXR, FWord.args, Option.bind_eq_some_iff, and_assoc, -Bool.exists_bool]
theorem dBCHK_eq_some {k} : dBCHK w k = some i ↔
    ∃ ty kind p a, (ty.code ++ (0#4 ++ kind.code), reg10 p, a, unused, unused) = w.args ∧ k w.hdr ty kind p a = i := by
  simp [dBCHK, FWord.args, Option.bind_eq_some_iff, append_eq_iff, and_assoc, -Bool.exists_bool]
theorem dU_A_eq_some {k} : dU_A w k = some i ↔ ∃ a, (0, unused, reg10 a, unused, unused) = w.args ∧ k w.hdr a = i := by
  simp [dU_A, FWord.args, Option.bind_eq_some_iff, and_assoc, -Bool.exists_bool]
theorem dU_D_eq_some {k} : dU_D w k = some i ↔ ∃ d, (0, reg10 d, unused, unused, unused) = w.args ∧ k w.hdr d = i := by
  simp [dU_D, FWord.args, Option.bind_eq_some_iff, and_assoc, -Bool.exists_bool]
theorem dU_DA_eq_some {k} : dU_DA w k = some i ↔
    ∃ d a, (0, reg10 d, reg10 a, unused, unused) = w.args ∧ k w.hdr d a = i := by
  simp [dU_DA, FWord.args, Option.bind_eq_some_iff, and_assoc, -Bool.exists_bool]
theorem dU_AB_eq_some {k} : dU_AB w k = some i ↔
    ∃ a b, (0, unused, reg10 a, reg10 b, unused) = w.args ∧ k w.hdr a b = i := by
  simp [dU_AB, FWord.args, Option.bind_eq_some_iff, and_assoc, -Bool.exists_bool]
theorem dMMA_eq_some {k} : dMMA w k = some i ↔
    ∃ tier q d a b j, (0#2 ++ (tier.code ++ (0#3 ++ bit1 q)), reg10 d, reg10 a, reg10 b, reg10 j) = w.args ∧
      k w.hdr tier q d a b j = i := by
  simp [dMMA, FWord.args, Option.bind_eq_some_iff, append_eq_iff, and_assoc, -Bool.exists_bool]
theorem dA_D_eq_some {k} : dA_D w k = some i ↔ ∃ d, (0, reg10 d, unused, unused, unused) = w.args ∧ k w.hdr d = i := by
  simp [dA_D, FWord.args, Option.bind_eq_some_iff, and_assoc, -Bool.exists_bool]
theorem dACCMOV_eq_some {k} : dACCMOV w k = some i ↔
    ∃ d a b, (0, d, reg10 a, reg10 b, unused) = w.args ∧ k w.hdr d a b = i := by
  simp [dACCMOV, FWord.args, Option.bind_eq_some_iff, and_assoc, -Bool.exists_bool]
theorem dACCBND_eq_some {k} : dACCBND w k = some i ↔
    ∃ d a, (0, d, reg10 a, unused, unused) = w.args ∧ k w.hdr d a = i := by
  simp [dACCBND, FWord.args, Option.bind_eq_some_iff, and_assoc, -Bool.exists_bool]
theorem dACCSPILL_eq_some {k} : dACCSPILL w k = some i ↔
    ∃ a b, (0, unused, reg10 a, reg10 b, unused) = w.args ∧ k w.hdr a b = i := by
  simp [dACCSPILL, FWord.args, Option.bind_eq_some_iff, and_assoc, -Bool.exists_bool]
theorem dACCFILL_eq_some {k} : dACCFILL w k = some i ↔
    ∃ mcode ncode d a, (0#5 ++ (bit1 mcode ++ ncode), reg10 d, reg10 a, unused, unused) = w.args ∧
      k w.hdr mcode ncode d a = i := by
  simp [dACCFILL, FWord.args, Option.bind_eq_some_iff, append_eq_iff, and_assoc, -Bool.exists_bool]
theorem dTCFG_eq_some {k} : dTCFG w k = some i ↔
    ∃ d a, (0, reg10 d, reg10 a, unused, unused) = w.args ∧ k w.hdr d a = i := by
  simp [dTCFG, FWord.args, Option.bind_eq_some_iff, and_assoc, -Bool.exists_bool]
theorem dT_D_eq_some {k} : dT_D w k = some i ↔ ∃ d, (0, reg10 d, unused, unused, unused) = w.args ∧ k w.hdr d = i := by
  simp [dT_D, FWord.args, Option.bind_eq_some_iff, and_assoc, -Bool.exists_bool]
theorem dJDECL_eq_some {k} : dJDECL w k = some i ↔
    ∃ d a, (0, reg10 d, reg10 a, unused, unused) = w.args ∧ k w.hdr d a = i := by
  simp [dJDECL, FWord.args, Option.bind_eq_some_iff, and_assoc, -Bool.exists_bool]
theorem dJSIGN_eq_some {k} : dJSIGN w k = some i ↔
    ∃ d a, (0, reg10 d, reg10 a, unused, unused) = w.args ∧ k w.hdr d a = i := by
  simp [dJSIGN, FWord.args, Option.bind_eq_some_iff, and_assoc, -Bool.exists_bool]
theorem dJ_D_eq_some {k} : dJ_D w k = some i ↔ ∃ d, (0, reg10 d, unused, unused, unused) = w.args ∧ k w.hdr d = i := by
  simp [dJ_D, FWord.args, Option.bind_eq_some_iff, and_assoc, -Bool.exists_bool]
theorem dROW2_eq_some {k} : dROW2 w k = some i ↔
    ∃ d a c, (0, reg10 d, reg10 a, unused, reg10 c) = w.args ∧ k w.hdr d a c = i := by
  simp [dROW2, FWord.args, Option.bind_eq_some_iff, and_assoc, -Bool.exists_bool]
theorem dROW3_eq_some {k} : dROW3 w k = some i ↔
    ∃ d a b c, (0, reg10 d, reg10 a, reg10 b, reg10 c) = w.args ∧ k w.hdr d a b c = i := by
  simp [dROW3, FWord.args, Option.bind_eq_some_iff, and_assoc, -Bool.exists_bool]
theorem dBRX_eq_some {k} : dBRX w k = some i ↔
    ∃ prio a, (prio, unused, a, unused, unused) = w.args ∧ k w.hdr prio a = i := by
  simp [dBRX, FWord.args, Option.bind_eq_some_iff, and_assoc, -Bool.exists_bool]
theorem dNONE_eq_some {k} : dNONE w k = some i ↔ (0, unused, unused, unused, unused) = w.args ∧ k w.hdr = i := by
  simp [dNONE, FWord.args, Option.bind_eq_some_iff, and_assoc, -Bool.exists_bool]
theorem dPRIO_eq_some {k} : dPRIO w k = some i ↔ ∃ n, (n, unused, unused, unused, unused) = w.args ∧ k w.hdr n = i := by
  simp [dPRIO, FWord.args, Option.bind_eq_some_iff, and_assoc, -Bool.exists_bool]
theorem dMFSR_eq_some {k} : dMFSR w k = some i ↔ ∃ d x, (0, reg10 d, x, unused, unused) = w.args ∧ k w.hdr d x = i := by
  simp [dMFSR, FWord.args, Option.bind_eq_some_iff, and_assoc, -Bool.exists_bool]
theorem dMTSR_eq_some {k} : dMTSR w k = some i ↔ ∃ x a, (0, x, reg10 a, unused, unused) = w.args ∧ k w.hdr x a = i := by
  simp [dMTSR, FWord.args, Option.bind_eq_some_iff, and_assoc, -Bool.exists_bool]
theorem dSBAR_eq_some {k} : dSBAR w k = some i ↔
    ∃ level b a, (b ++ level.code, unused, reg10 a, unused, unused) = w.args ∧ k w.hdr level b a = i := by
  simp [dSBAR, FWord.args, Option.bind_eq_some_iff, append_eq_iff, and_assoc, -Bool.exists_bool]
end

section
variable {w : IWord}
theorem dBRA_eq_some {k} : dBRA w k = some i ↔ ∃ prio imm, (unused, prio, imm) = w.args ∧ k w.hdr prio imm = i := by
  simp [dBRA, IWord.args, Option.bind_eq_some_iff, and_assoc, -Bool.exists_bool]
theorem dBRC_eq_some {k} : dBRC w k = some i ↔
    ∃ prio p imm, (reg10 p, prio, imm) = w.args ∧ k w.hdr prio p imm = i := by
  simp [dBRC, IWord.args, Option.bind_eq_some_iff, and_assoc, -Bool.exists_bool]
theorem dCALL_eq_some {k} : dCALL w k = some i ↔ ∃ prio d imm, (d, prio, imm) = w.args ∧ k w.hdr prio d imm = i := by
  simp [dCALL, IWord.args, and_assoc, -Bool.exists_bool]
theorem dIMM_eq_some {k} : dIMM w k = some i ↔ ∃ imm, (unused, 0, imm) = w.args ∧ k w.hdr imm = i := by
  simp [dIMM, IWord.args, Option.bind_eq_some_iff, and_assoc, -Bool.exists_bool]
theorem dSI_eq_some {k} : dSI w k = some i ↔ ∃ d imm, (reg10 d, 0, imm) = w.args ∧ k w.hdr d imm = i := by
  simp [dSI, IWord.args, Option.bind_eq_some_iff, and_assoc, -Bool.exists_bool]
theorem dSCMPI_eq_some {k} : dSCMPI w k = some i ↔
    ∃ cond p a imm, (reg10 a, p ++ cond.code, imm) = w.args ∧ k w.hdr cond p a imm = i := by
  simp [dSCMPI, IWord.args, Option.bind_eq_some_iff, append_eq_iff, and_assoc, -Bool.exists_bool]
  grind
theorem dVI_eq_some {k} : dVI w k = some i ↔ ∃ d imm, (d, 0, imm) = w.args ∧ k w.hdr d imm = i := by
  simp [dVI, IWord.args, Option.bind_eq_some_iff, and_assoc, -Bool.exists_bool]
theorem dMTSRI_eq_some {k} : dMTSRI w k = some i ↔ ∃ x imm, (x, 0, imm) = w.args ∧ k w.hdr x imm = i := by
  simp [dMTSRI, IWord.args, Option.bind_eq_some_iff, and_assoc, -Bool.exists_bool]
theorem dBUDI_eq_some {k} : dBUDI w k = some i ↔ ∃ imm, (unused, 0, 0#16 ++ imm) = w.args ∧ k w.hdr imm = i := by
  simp [dBUDI, IWord.args, Option.bind_eq_some_iff, append_eq_iff, and_assoc, -Bool.exists_bool]
end

section
variable {w : MWord}
theorem dLD_eq_some {k} : dLD w k = some i ↔
    ∃ m sz d, (m.pol m.level.code, m.sa, m.vb, m.off, sz.code, d) = w.args ∧ k w.hdr m sz d = i := by
  simp [dLD, MWord.args, Option.bind_eq_some_iff, and_assoc, -Bool.exists_bool]
theorem dLDU_eq_some {k} : dLDU w k = some i ↔
    ∃ m sz d, (m.pol m.level.code, m.sa, m.vb, m.off, sz.code, reg10 d) = w.args ∧ k w.hdr m sz d = i := by
  simp [dLDU, MWord.args, Option.bind_eq_some_iff, and_assoc, -Bool.exists_bool]
theorem dPREF_eq_some {k} : dPREF w k = some i ↔
    ∃ m, (m.pol m.level.code, m.sa, m.vb, m.off, 0, unused) = w.args ∧ k w.hdr m = i := by
  simp [dPREF, MWord.args, Option.bind_eq_some_iff, and_assoc, -Bool.exists_bool]
theorem dLDV_eq_some {k} : dLDV w k = some i ↔
    ∃ m d, (m.pol m.level.code, m.sa, m.vb, m.off, 5, d) = w.args ∧ k w.hdr m d = i := by
  simp [dLDV, MWord.args, Option.bind_eq_some_iff, and_assoc, -Bool.exists_bool]
  grind
theorem dBARINIT_eq_some {k} : dBARINIT w k = some i ↔
    ∃ scope d sa off, (0#4 ++ scope.code, sa, unused, off, 0, reg10 d) = w.args ∧ k w.hdr scope d sa off = i := by
  simp [dBARINIT, MWord.args, Option.bind_eq_some_iff, append_eq_iff, and_assoc, -Bool.exists_bool]
  grind
theorem dBARP_eq_some {k} : dBARP w k = some i ↔
    ∃ d sa off, (0, sa, unused, off, 0, reg10 d) = w.args ∧ k w.hdr d sa off = i := by
  simp [dBARP, MWord.args, Option.bind_eq_some_iff, and_assoc, -Bool.exists_bool]
  grind
theorem dBARS_eq_some {k} : dBARS w k = some i ↔
    ∃ d sa off, (0, sa, unused, off, 0, reg10 d) = w.args ∧ k w.hdr d sa off = i := by
  simp [dBARS, MWord.args, Option.bind_eq_some_iff, and_assoc, -Bool.exists_bool]
  grind
theorem dTLD_eq_some {k} : dTLD w k = some i ↔
    ∃ m d, (m.pol m.level.code, m.sa, m.vb, m.off, 0, reg10 d) = w.args ∧ k w.hdr m d = i := by
  simp [dTLD, MWord.args, Option.bind_eq_some_iff, and_assoc, -Bool.exists_bool]
theorem dACCLD_eq_some {k} : dACCLD w k = some i ↔
    ∃ m d, (m.pol m.level.code, m.sa, m.vb, m.off, 0, reg10 d) = w.args ∧ k w.hdr m d = i := by
  simp [dACCLD, MWord.args, Option.bind_eq_some_iff, and_assoc, -Bool.exists_bool]
theorem dCPYKICK_eq_some {k} : dCPYKICK w k = some i ↔
    ∃ queue scope d sa off, (0#4 ++ scope.code, sa, unused, off, 0#1 ++ queue, reg10 d) = w.args ∧
      k w.hdr queue scope d sa off = i := by
  simp [dCPYKICK, MWord.args, Option.bind_eq_some_iff, append_eq_iff, and_assoc, -Bool.exists_bool]
  grind
end

/-- A select has no saturating form. -/
theorem dVSEL_eq_some {w : FWord} {k} : dVSEL w k = some i ↔
    ∃ ty d a b p, (IntMod.field ⟨ty, false⟩, d, a, b, reg10 p) = w.args ∧ k w.hdr ty d a b p = i := by
  simp [dVSEL, FWord.args, Option.bind_eq_some_iff, and_assoc]
  constructor
  · rintro ⟨⟨ty, sat⟩, hmod, rfl, hk⟩
    exact ⟨ty, hmod, hk⟩
  · rintro ⟨ty, hmod, hk⟩
    exact ⟨⟨ty, false⟩, hmod, rfl, hk⟩

theorem dFENCE_eq_some {w : FWord} {k} : dFENCE w k = some i ↔
    ∃ sc scope, (0#3 ++ ((if sc then 2#2 else 1#2) ++ scope.code), unused, unused, unused, unused) = w.args ∧
      k w.hdr sc scope = i := by
  have hcodes : ∀ c : BitVec 2, c = 0 ∨ c = 1 ∨ c = 2 ∨ c = 3 := by decide
  rcases hcodes (bitsAt w.mod 3 2) with h | h | h | h <;>
    simp [dFENCE, FWord.args, Option.bind_eq_some_iff, append_eq_iff, h] <;> grind

/-- One shape for the three actions, which MOD tells apart (R191). -/
theorem dCACHE_eq_some {w : FWord} {k0 k1 k2 : Hdr → SReg → α} : dCACHE w k0 k1 k2 = some i ↔
    ∃ a, ((0, unused, reg10 a, unused, unused) = w.args ∧ k0 w.hdr a = i) ∨
      ((1, unused, reg10 a, unused, unused) = w.args ∧ k1 w.hdr a = i) ∨
      ((2, unused, reg10 a, unused, unused) = w.args ∧ k2 w.hdr a = i) := by
  have h0 : 0#8 = w.mod ↔ 0#6 = bitsAt w.mod 2 6 ∧ 0#2 = bitsAt w.mod 0 2 := append_eq_iff (a := 0#6) (b := 0#2)
  have h1 : 1#8 = w.mod ↔ 0#6 = bitsAt w.mod 2 6 ∧ 1#2 = bitsAt w.mod 0 2 := append_eq_iff (a := 0#6) (b := 1#2)
  have h2 : 2#8 = w.mod ↔ 0#6 = bitsAt w.mod 2 6 ∧ 2#2 = bitsAt w.mod 0 2 := append_eq_iff (a := 0#6) (b := 2#2)
  have hcodes : ∀ c : BitVec 2, c = 0 ∨ c = 1 ∨ c = 2 ∨ c = 3 := by decide
  rcases hcodes (bitsAt w.mod 0 2) with h | h | h | h <;>
    simp [dCACHE, FWord.args, Option.bind_eq_some_iff, h, h0, h1, h2] <;> grind

/-- POL holds the return bit where other words have their level, so that the level of an atomic is fixed. -/
theorem dATOM_eq_some {w : MWord} {k} : dATOM w k = some i ↔
    ∃ m ty ret d, m.level = .near ∧ (m.pol (if ret then 0 else 1), m.sa, m.vb, m.off, ty.code, d) = w.args ∧
      k w.hdr m ty ret d = i := by
  simp [dATOM, MWord.args, Option.bind_eq_some_iff, and_assoc, -Bool.exists_bool]
  constructor
  · rintro ⟨m, -, hord, hscope, hsa, hvb, hoff, ty, hty, hret, hk⟩
    exact ⟨{ m with level := .near }, rfl, hret, hord, hscope, hsa, hvb, hoff, ty, hty, hk⟩
  · rintro ⟨⟨level, order, scope, sa, vb, off⟩, rfl, hret, hord, hscope, hsa, hvb, hoff, ty, hty, hk⟩
    exact ⟨⟨_, order, scope, sa, vb, off⟩, rfl, hord, hscope, hsa, hvb, hoff, ty, hty, hret, hk⟩

/-- The operation of RECON stands in POL and in SZ. -/
theorem dRECON_eq_some {w : MWord} {k} : dRECON w k = some i ↔
    ∃ m op d, m.level = .near ∧ (m.pol (0#1 ++ bitsAt op.code 3 1), m.sa, m.vb, m.off, bitsAt op.code 0 3, d) = w.args ∧
      k w.hdr m op d = i := by
  simp [dRECON, MWord.args, Option.bind_eq_some_iff, append_eq_iff, and_assoc]
  constructor
  · rintro ⟨m, -, hord, hscope, hsa, hvb, hoff, hzero, op, hhigh, hlow, hk⟩
    exact ⟨{ m with level := .near }, rfl, hzero, op, hhigh.symm, hord, hscope, hsa, hvb, hoff, hlow.symm, hk⟩
  · rintro ⟨⟨level, order, scope, sa, vb, off⟩, rfl, hzero, op, hhigh, hord, hscope, hsa, hvb, hoff, hlow, hk⟩
    exact ⟨⟨_, order, scope, sa, vb, off⟩, rfl, hord, hscope, hsa, hvb, hoff, hzero, op, hhigh.symm, hlow.symm, hk⟩

/-- SZ tells the store from the sum. -/
theorem dACCST_eq_some {w : MWord} {k0 k1 : Hdr → MemOp → AReg → α} : dACCST w k0 k1 = some i ↔
    ∃ m d, ((m.pol m.level.code, m.sa, m.vb, m.off, 0, reg10 d) = w.args ∧ k0 w.hdr m d = i) ∨
      ((m.pol m.level.code, m.sa, m.vb, m.off, 1, reg10 d) = w.args ∧ k1 w.hdr m d = i) := by
  have hcodes : ∀ c : BitVec 3, c = 0 ∨ c = 1 ∨ c = 2 ∨ c = 3 ∨ c = 4 ∨ c = 5 ∨ c = 6 ∨ c = 7 := by decide
  rcases hcodes w.sz with h | h | h | h | h | h | h | h <;>
    simp [dACCST, MWord.args, Option.bind_eq_some_iff, and_assoc, h]
end Sys2Proof
end

section
/-! PROOF of O44, O45 and O43: the encoder and the decoder are inverse to each other (spec 04, R95 to R102). -/
namespace Sys2Proof
open Machine

/-! ### Forms -/

theorem FWord.pack_eq_iff {f : FWord} {w : Word} : f.pack = w ↔ 0 = bitsAt w 61 2 ∧ FWord.unpack w = f := by
  obtain ⟨s, op, gn, gp, mod, d, a, b, c⟩ := f
  simp [FWord.pack, FWord.unpack, append_eq_iff]
  grind
theorem IWord.pack_eq_iff {f : IWord} {w : Word} : f.pack = w ↔ 2 = bitsAt w 61 2 ∧ IWord.unpack w = f := by
  obtain ⟨s, op, gp, gn, d, mod, imm⟩ := f
  simp [IWord.pack, IWord.unpack, append_eq_iff]
  grind
theorem MWord.pack_eq_iff {f : MWord} {w : Word} : f.pack = w ↔ 3 = bitsAt w 61 2 ∧ MWord.unpack w = f := by
  obtain ⟨s, op, gn, gp, d, sa, vb, pol, sz, off⟩ := f
  simp [MWord.pack, MWord.unpack, append_eq_iff]
  grind
theorem SlotWord.pack_eq_iff {f : SlotWord} {w : BitVec 30} : f.pack = w ↔ SlotWord.unpack w = f := by
  obtain ⟨op, mod3, d, a⟩ := f
  simp [SlotWord.pack, SlotWord.unpack, append_eq_iff]
  grind
theorem packPair_eq_iff {s : Bool} {y x : BitVec 30} {w : Word} : packPair s y x = w ↔
    1 = bitsAt w 61 2 ∧ bitAt w 60 = false ∧ bitAt w 63 = s ∧ y = bitsAt w 30 30 ∧ x = bitsAt w 0 30 := by
  simp [packPair, append_eq_iff]
  grind

theorem FWord.decode_pack (f : FWord) : decode f.pack = decodeF f := by
  obtain ⟨hform, hf⟩ := FWord.pack_eq_iff.mp (rfl : f.pack = f.pack)
  rw [decode, ← hform, hf]
  rfl
theorem IWord.decode_pack (f : IWord) : decode f.pack = decodeI f := by
  obtain ⟨hform, hf⟩ := IWord.pack_eq_iff.mp (rfl : f.pack = f.pack)
  rw [decode, ← hform, hf]
  rfl
theorem MWord.decode_pack (f : MWord) : decode f.pack = decodeM f := by
  obtain ⟨hform, hf⟩ := MWord.pack_eq_iff.mp (rfl : f.pack = f.pack)
  rw [decode, ← hform, hf]
  rfl
theorem decode_packPair (s : Bool) (y x : BitVec 30) : decode (packPair s y x) = decodeP (packPair s y x) := by
  have hform := (packPair_eq_iff.mp (rfl : packPair s y x = packPair s y x)).1
  rw [decode, ← hform]
  rfl

/-- Every word is of one of the four forms. -/
theorem form_cases (w : Word) :
    (∃ f : FWord, w = f.pack) ∨ 1#2 = bitsAt w 61 2 ∨ (∃ f : IWord, w = f.pack) ∨ ∃ f : MWord, w = f.pack := by
  have hforms : ∀ c : BitVec 2, 0 = c ∨ 1 = c ∨ 2 = c ∨ 3 = c := by decide
  rcases hforms (bitsAt w 61 2) with h | h | h | h
  · exact .inl ⟨_, (FWord.pack_eq_iff.mpr ⟨h, rfl⟩).symm⟩
  · exact .inr (.inl h)
  · exact .inr (.inr (.inl ⟨_, (IWord.pack_eq_iff.mpr ⟨h, rfl⟩).symm⟩))
  · exact .inr (.inr (.inr ⟨_, (MWord.pack_eq_iff.mpr ⟨h, rfl⟩).symm⟩))

/-! ### Rows -/
theorem word_eq_ok {x : Option Instr} {i : Instr} : word x = .ok i ↔ x = some i ∧ i.legal = true := by
  cases x with
  | none => simp [word]
  | some j => cases hj : j.legal <;> simp [word, hj] <;> grind

theorem ctl_eq_ok {s : Bool} {x : Option Instr} {i : Instr} : ctl s x = .ok i ↔ s = true ∧ x = some i ∧ i.legal = true := by
  cases s <;> simp [ctl, word_eq_ok]

section
variable {h : Hdr} {w : Word} {i : Instr}

section
variable {op : BitVec 9} {mod : BitVec 8} {d a b c : BitVec 10}
  {x : BitVec 8 → BitVec 10 → BitVec 10 → BitVec 10 → BitVec 10 → Option Instr}

theorem decode_encF (hw : encF op h mod d a b c = some w)
    (hrow : ∀ mod d a b c, decodeF ⟨h.s, op, h.gn, h.gp, mod, d, a, b, c⟩ = word (x mod d a b c)) (hx : x mod d a b c = some i)
    (hwf : i.legal = true) : decode w = .ok i := by
  cases hw
  rw [FWord.decode_pack, hrow]
  exact word_eq_ok.mpr ⟨hx, hwf⟩

theorem decode_encF_ctl (hw : encF op h mod d a b c = some w)
    (hrow : ∀ mod d a b c, decodeF ⟨h.s, op, h.gn, h.gp, mod, d, a, b, c⟩ = ctl h.s (x mod d a b c)) (hx : x mod d a b c = some i)
    (hwf : i.legal = true) (hs : h.s = true) : decode w = .ok i := by
  cases hw
  rw [FWord.decode_pack, hrow]
  exact ctl_eq_ok.mpr ⟨hs, hx, hwf⟩

end

section
variable {op : BitVec 7} {d : BitVec 10} {mod : BitVec 8} {imm : BitVec 32} {x : BitVec 10 → BitVec 8 → BitVec 32 → Option Instr}

theorem decode_encI (hw : encI op h d mod imm = some w)
    (hrow : ∀ d mod imm, decodeI ⟨h.s, op, h.gp, h.gn, d, mod, imm⟩ = word (x d mod imm)) (hx : x d mod imm = some i)
    (hwf : i.legal = true) : decode w = .ok i := by
  cases hw
  rw [IWord.decode_pack, hrow]
  exact word_eq_ok.mpr ⟨hx, hwf⟩

theorem decode_encI_ctl (hw : encI op h d mod imm = some w)
    (hrow : ∀ d mod imm, decodeI ⟨h.s, op, h.gp, h.gn, d, mod, imm⟩ = ctl h.s (x d mod imm)) (hx : x d mod imm = some i)
    (hwf : i.legal = true) (hs : h.s = true) : decode w = .ok i := by
  cases hw
  rw [IWord.decode_pack, hrow]
  exact ctl_eq_ok.mpr ⟨hs, hx, hwf⟩

end

section
variable {op : BitVec 7} {d : BitVec 10} {m : MemOp} {sa : SReg} {off : BitVec 13} {pol : BitVec 7} {sz : BitVec 3}
  {x : BitVec 10 → BitVec 7 → BitVec 10 → BitVec 7 → BitVec 3 → BitVec 13 → Option Instr}

theorem decode_encM (hw : encM op h d m pol sz = some w)
    (hrow : ∀ d sa vb pol sz off, decodeM ⟨h.s, op, h.gn, h.gp, d, sa, vb, pol, sz, off⟩ = word (x d sa vb pol sz off))
    (hx : x d m.sa m.vb pol sz m.off = some i) (hwf : i.legal = true) : decode w = .ok i := by
  cases hw
  rw [MWord.decode_pack, hrow]
  exact word_eq_ok.mpr ⟨hx, hwf⟩

theorem decode_encB (hw : encB op h d sa off pol sz = some w)
    (hrow : ∀ d sa vb pol sz off, decodeM ⟨h.s, op, h.gn, h.gp, d, sa, vb, pol, sz, off⟩ = word (x d sa vb pol sz off))
    (hx : x d sa unused pol sz off = some i) (hwf : i.legal = true) : decode w = .ok i :=
  decode_encM (m := ⟨.near, .rlx, .core, sa, unused, off⟩) hw hrow hx hwf

theorem decode_encB_ctl (hw : encB op h d sa off pol sz = some w)
    (hrow : ∀ d sa vb pol sz off, decodeM ⟨h.s, op, h.gn, h.gp, d, sa, vb, pol, sz, off⟩ = ctl h.s (x d sa vb pol sz off))
    (hx : x d sa unused pol sz off = some i) (hwf : i.legal = true) (hs : h.s = true) : decode w = .ok i := by
  cases hw
  exact (MWord.decode_pack _).trans ((hrow ..).trans (ctl_eq_ok.mpr ⟨hs, hx, hwf⟩))

end
end

/-! ### Slots -/
section
variable {w : SlotWord} {x : Slot}

def SlotWord.args (w : SlotWord) : BitVec 3 × BitVec 10 × BitVec 10 := (w.mod3, w.d, w.a)

theorem slotV_eq_some {k} : slotV w k = some x ↔ ∃ ty d a, (ty.code ++ 0#1, d, a) = w.args ∧ k ty d a = x := by
  simp [slotV, SlotWord.args, Option.bind_eq_some_iff, append_eq_iff]
theorem slotF_eq_some {k} : slotF w k = some x ↔ ∃ ty full d a, (ty.code ++ bit1 full, d, a) = w.args ∧ k ty full d a = x := by
  simp [slotF, SlotWord.args, append_eq_iff, -Bool.exists_bool]
theorem slotS_eq_some {k} : slotS w k = some x ↔ ∃ d a, (0, reg10 d, reg10 a) = w.args ∧ k d a = x := by
  simp [slotS, SlotWord.args, Option.bind_eq_some_iff, and_assoc]
theorem slotP_eq_some {k} : slotP w k = some x ↔ ∃ d a, (0, reg10 d, reg10 a) = w.args ∧ k d a = x := by
  simp [slotP, SlotWord.args, Option.bind_eq_some_iff, and_assoc]

theorem SlotWord.pack_eq_of_args {op : BitVec 7} {n : Nat} {mod3 : BitVec 3} {d a : BitVec 10} (hn : w.op.toNat = n) (hop : op.toNat = n)
    (hargs : (mod3, d, a) = w.args) : SlotWord.pack ⟨op, mod3, d, a⟩ = w.pack := by
  cases hargs
  cases BitVec.eq_of_toNat_eq (hop.trans hn.symm)
  rfl

theorem encSlot_of_decodeSlot (h : decodeSlot w = some (some x)) : encSlot x = w.pack := by
  unfold decodeSlot at h
  split at h
  case h_28 => cases h
  all_goals
    rw [Option.some.injEq] at h
    simp only [slotV_eq_some, slotF_eq_some, slotS_eq_some, slotP_eq_some] at h
    casesm* ∃ _, _, _ ∧ _
    subst x
    exact SlotWord.pack_eq_of_args ‹w.op.toNat = _› rfl ‹_ = w.args›

theorem SlotWord.unpack_pack (f : SlotWord) : SlotWord.unpack f.pack = f := SlotWord.pack_eq_iff.mp rfl

theorem decodeSlot_encSlot (x : Slot) : decodeSlot (SlotWord.unpack (encSlot x)) = some (some x) := by
  cases x with
  | vadd ty d a | vsub ty d a | vmul ty d a | vand ty d a | vor ty d a | vxor ty d a | vmin ty d a | vmax ty d a | vmov ty d a
  | vshl ty d a | vshr ty d a =>
    rw [encSlot, SlotWord.unpack_pack]
    exact congrArg some (slotV_eq_some.mpr ⟨_, _, _, rfl, rfl⟩)
  | fadd ty full d a | fsub ty full d a | fmul ty full d a | fmin ty full d a | fmax ty full d a =>
    rw [encSlot, SlotWord.unpack_pack]
    exact congrArg some (slotF_eq_some.mpr ⟨_, _, _, _, rfl, rfl⟩)
  | sadd d a | ssub d a | sand d a | sor d a | sxor d a | smov d a | sshl d a | sshr d a =>
    rw [encSlot, SlotWord.unpack_pack]
    exact congrArg some (slotS_eq_some.mpr ⟨_, _, rfl, rfl⟩)
  | pand d a | por d a | pmov d a =>
    rw [encSlot, SlotWord.unpack_pack]
    exact congrArg some (slotP_eq_some.mpr ⟨_, _, rfl, rfl⟩)

theorem slotWord_fields (x : Slot) : let w := SlotWord.unpack (encSlot x)
    (slotFile w.op, w.d.toNat, w.a.toNat) = (x.file, x.regs) := by
  cases x <;> simp [encSlot, SlotWord.unpack_pack, slotFile, Slot.file, Slot.regs, reg10] <;> omega
end

theorem encode_ofSlots (s : Bool) (x y : Slot) : encode (ofSlots s x y) = encP s x y := by cases x <;> rfl
theorem legal_ofSlots (s : Bool) (x y : Slot) : (ofSlots s x y).legal = x.pairOk y := by cases x <;> rfl
theorem ofSlots_of_slotsOf {i : Instr} {s : Bool} {x y : Slot} (h : slotsOf i = some (s, x, y)) : i = ofSlots s x y := by
  cases i <;> cases h <;> rfl

theorem decodeP_eq_ok {w : Word} {i : Instr} : decodeP w = .ok i ↔ ∃ x y, bitAt w 60 = false ∧
    encSlot y = bitsAt w 30 30 ∧ encSlot x = bitsAt w 0 30 ∧ i = ofSlots (bitAt w 63) x y ∧ i.legal = true := by
  constructor
  · intro h
    simp only [decodeP] at h
    split at h
    next x y h60 hx hy =>
      split at h
      · cases h
      obtain ⟨hxy, hlegal⟩ := word_eq_ok.mp h
      cases x with
      | none => cases hxy
      | some x =>
        cases y with
        | none => cases hxy
        | some y =>
          cases hxy
          exact ⟨x, y, h60, (encSlot_of_decodeSlot hy).trans (SlotWord.pack_eq_iff.mpr rfl),
            (encSlot_of_decodeSlot hx).trans (SlotWord.pack_eq_iff.mpr rfl), rfl, hlegal⟩
    next => cases h
  · rintro ⟨x, y, h60, hy, hx, rfl, hlegal⟩
    have hok := hlegal
    simp only [legal_ofSlots, Slot.pairOk, Bool.and_eq_true, Bool.not_eq_true'] at hok
    obtain ⟨-, hbank⟩ := hok
    obtain ⟨hxfile, hxregs⟩ := Prod.mk.inj (slotWord_fields x)
    obtain ⟨hyfile, hyregs⟩ := Prod.mk.inj (slotWord_fields y)
    rw [← hxregs, ← hyregs, ← hxfile, ← hyfile] at hbank
    simp only [decodeP, ← hx, ← hy, h60, decodeSlot_encSlot, hbank]
    exact word_eq_ok.mpr ⟨rfl, hlegal⟩

theorem decode_encP {i : Instr} {w : Word} {s : Bool} {x y : Slot} (hi : slotsOf i = some (s, x, y)) (hw : encP s x y = some w)
    (hwf : i.legal = true) : decode w = .ok i := by
  cases hw
  obtain ⟨-, h60, h63, hy, hx⟩ := packPair_eq_iff.mp (rfl : packPair s (encSlot y) (encSlot x) = _)
  rw [decode_packPair, decodeP_eq_ok]
  exact ⟨x, y, h60, hy, hx, h63.symm ▸ ofSlots_of_slotsOf hi, hwf⟩

theorem encode_of_decodeP {w : Word} {i : Instr} (hform : 1 = bitsAt w 61 2) (h : decodeP w = .ok i) :
    i.legal = true ∧ encode i = some w := by
  obtain ⟨x, y, h60, hy, hx, rfl, hlegal⟩ := decodeP_eq_ok.mp h
  rw [encode_ofSlots, encP]
  exact ⟨hlegal, congrArg some (packPair_eq_iff.mpr ⟨hform, h60, rfl, hy, hx⟩)⟩

theorem encF_eq_pack {w : FWord} {op : BitVec 9} {n : Nat} {mod : BitVec 8} {d a b c : BitVec 10} (hn : w.op.toNat = n) (hop : op.toNat = n)
    (hargs : (mod, d, a, b, c) = w.args) : encF op w.hdr mod d a b c = some w.pack := by
  cases hargs
  cases BitVec.eq_of_toNat_eq (hop.trans hn.symm)
  rfl

theorem encI_eq_pack {w : IWord} {op : BitVec 7} {n : Nat} {d : BitVec 10} {mod : BitVec 8} {imm : BitVec 32} (hn : w.op.toNat = n)
    (hop : op.toNat = n) (hargs : (d, mod, imm) = w.args) : encI op w.hdr d mod imm = some w.pack := by
  cases hargs
  cases BitVec.eq_of_toNat_eq (hop.trans hn.symm)
  rfl

theorem encM_eq_pack {w : MWord} {op : BitVec 7} {n : Nat} {sa pol : BitVec 7} {d vb : BitVec 10} {sz : BitVec 3}
    {off : BitVec 13} (hn : w.op.toNat = n) (hop : op.toNat = n) (hargs : (pol, sa, vb, off, sz, d) = w.args) :
    some (MWord.pack ⟨w.hdr.s, op, w.hdr.gn, w.hdr.gp, d, sa, vb, pol, sz, off⟩) = some w.pack := by
  cases hargs
  cases BitVec.eq_of_toNat_eq (hop.trans hn.symm)
  rfl

/-! ### The operation table, read from the word and from the instruction -/

/-- Each row of the map names its opcode, and its shape fixes the operand fields: the rest of the word is the header. -/
theorem encode_of_decodeF {w : FWord} {i : Instr} (h : decodeF w = .ok i) :
    i.legal = true ∧ encode i = some w.pack := by
  unfold decodeF at h
  split at h
  all_goals
    simp only [word_eq_ok, ctl_eq_ok, dS3_eq_some, dS4_eq_some, dS2_eq_some, dSCMP_eq_some, dP3_eq_some, dP2_eq_some,
      dPSET_eq_some, dPGET_eq_some, dV3_eq_some, dV4_eq_some, dV2_eq_some, dVCMP_eq_some, dVSEL_eq_some, reduceCtorEq,
      dF3_eq_some, dFFMA_eq_some, dF2_eq_some, dFCMP_eq_some, dFCLASS_eq_some, dCVT_eq_some, dMXSCALE_eq_some, dMXQ_eq_some,
      dMXDQ_eq_some, dVRFL_eq_some, dVRLN_eq_some, dVWLN_eq_some, dVBCST_eq_some, dVSHFL_eq_some, dVROT_eq_some,
      dVRED_eq_some, dVVOTE_eq_some, dVLANE_eq_some, dBGET_eq_some, dBCLR_eq_some, dBMAXR_eq_some, dBCHK_eq_some,
      dU_A_eq_some, dMMA_eq_some, dA_D_eq_some, dACCMOV_eq_some, dACCBND_eq_some, dACCSPILL_eq_some, dACCFILL_eq_some,
      dTCFG_eq_some, dT_D_eq_some, dJDECL_eq_some, dJSIGN_eq_some, dJ_D_eq_some, dU_DA_eq_some, dROW2_eq_some, dROW3_eq_some,
      dBRX_eq_some, dNONE_eq_some, dPRIO_eq_some, dMFSR_eq_some, dMTSR_eq_some, dU_D_eq_some, dU_AB_eq_some, dFENCE_eq_some,
      dCACHE_eq_some, dSBAR_eq_some] at h
  all_goals
    casesm* ∃ _, _, _ ∧ _, _ ∨ _
    all_goals
      subst i
      exact ⟨‹_›, encF_eq_pack ‹w.op.toNat = _› rfl ‹_ = w.args›⟩

theorem encode_of_decodeI {w : IWord} {i : Instr} (h : decodeI w = .ok i) :
    i.legal = true ∧ encode i = some w.pack := by
  unfold decodeI at h
  split at h
  all_goals
    simp only [word_eq_ok, ctl_eq_ok, dBRA_eq_some, dBRC_eq_some, dCALL_eq_some, dIMM_eq_some, dSI_eq_some, dSCMPI_eq_some,
      dVI_eq_some, dMTSRI_eq_some, dBUDI_eq_some, reduceCtorEq] at h
  all_goals
    casesm* ∃ _, _, _ ∧ _, _ ∨ _
    all_goals
      subst i
      exact ⟨‹_›, encI_eq_pack ‹w.op.toNat = _› rfl ‹_ = w.args›⟩

theorem encode_of_decodeM {w : MWord} {i : Instr} (h : decodeM w = .ok i) :
    i.legal = true ∧ encode i = some w.pack := by
  unfold decodeM at h
  split at h
  all_goals
    simp only [word_eq_ok, ctl_eq_ok, dLD_eq_some, dLDU_eq_some, dPREF_eq_some, dATOM_eq_some, dLDV_eq_some, dRECON_eq_some,
      dBARINIT_eq_some, dBARP_eq_some, dBARS_eq_some, dTLD_eq_some, dACCLD_eq_some, dACCST_eq_some, dCPYKICK_eq_some,
      reduceCtorEq] at h
  all_goals
    casesm* ∃ _, _, _ ∧ _, _ ∨ _
    all_goals
      subst i
      exact ⟨‹_›, encM_eq_pack ‹w.op.toNat = _› rfl ‹_ = w.args›⟩

/-- Each word of the table is packed with the opcode of its row, and the shape of that row reads its operands back. The events have no
word. -/
theorem decode_encode {i : Instr} {w : Word} (hwf : i.legal = true) (hw : encode i = some w) : decode w = .ok i := by
  cases i with
  | sadd h m d a b | ssub h m d a b | smul h m d a b | smulh h m d a b | sand h m d a b | sor h m d a b | sxor h m d a b
  | sshl h m d a b | sshr h m d a b | ssar h m d a b | smin h m d a b | smax h m d a b | sbfe h m d a b =>
    exact decode_encF hw (fun _ _ _ _ _ => rfl) (dS3_eq_some.mpr ⟨_, _, _, _, rfl, rfl⟩) hwf
  | smad h m d a b c | ssel h m d a b c =>
    exact decode_encF hw (fun _ _ _ _ _ => rfl) (dS4_eq_some.mpr ⟨_, _, _, _, _, rfl, rfl⟩) hwf
  | snot h m d a | smov h m d a | sclz h m d a | spopc h m d a =>
    exact decode_encF hw (fun _ _ _ _ _ => rfl) (dS2_eq_some.mpr ⟨_, _, _, rfl, rfl⟩) hwf
  | scmp h ty cond p a b =>
    exact decode_encF hw (fun _ _ _ _ _ => rfl) (dSCMP_eq_some.mpr ⟨_, _, _, _, _, rfl, rfl⟩) hwf
  | pand h d a b | por h d a b | pxor h d a b | pandn h d a b =>
    exact decode_encF hw (fun _ _ _ _ _ => rfl) (dP3_eq_some.mpr ⟨_, _, _, rfl, rfl⟩) hwf
  | pnot h d a | pmov h d a =>
    exact decode_encF hw (fun _ _ _ _ _ => rfl) (dP2_eq_some.mpr ⟨_, _, rfl, rfl⟩) hwf
  | pset h d a =>
    exact decode_encF hw (fun _ _ _ _ _ => rfl) (dPSET_eq_some.mpr ⟨_, _, rfl, rfl⟩) hwf
  | pget h d a | ppopc h d a | pfirst h d a =>
    exact decode_encF hw (fun _ _ _ _ _ => rfl) (dPGET_eq_some.mpr ⟨_, _, rfl, rfl⟩) hwf
  | vadd h m d a b | vsub h m d a b | vmul h m d a b | vmulh h m d a b | vmin h m d a b | vmax h m d a b | vand h m d a b
  | vor h m d a b | vxor h m d a b | vshl h m d a b | vshr h m d a b | vsar h m d a b | vbfe h m d a b =>
    exact decode_encF hw (fun _ _ _ _ _ => rfl) (dV3_eq_some.mpr ⟨_, _, _, _, rfl, rfl⟩) hwf
  | vmad h m d a b c | vbfi h m d a b c =>
    exact decode_encF hw (fun _ _ _ _ _ => rfl) (dV4_eq_some.mpr ⟨_, _, _, _, _, rfl, rfl⟩) hwf
  | vabs h m d a | vneg h m d a | vnot h m d a | vclz h m d a | vpopc h m d a | vmov h m d a =>
    exact decode_encF hw (fun _ _ _ _ _ => rfl) (dV2_eq_some.mpr ⟨_, _, _, rfl, rfl⟩) hwf
  | vcmp h ty cond p a b =>
    exact decode_encF hw (fun _ _ _ _ _ => rfl) (dVCMP_eq_some.mpr ⟨_, _, _, _, _, rfl, rfl⟩) hwf
  | vsel h ty d a b p =>
    exact decode_encF hw (fun _ _ _ _ _ => rfl) (dVSEL_eq_some.mpr ⟨_, _, _, _, _, rfl, rfl⟩) hwf
  | fadd h m d a b | fsub h m d a b | fmul h m d a b | fmin h m d a b | fmax h m d a b | fdiv h m d a b | fldexp h m d a b =>
    exact decode_encF hw (fun _ _ _ _ _ => rfl) (dF3_eq_some.mpr ⟨_, _, _, _, rfl, rfl⟩) hwf
  | ffma h m nc d a b c =>
    exact decode_encF (x := fun mod d a b c => dFFMA ⟨h.s, 0x0A3, h.gn, h.gp, mod, d, a, b, c⟩ .ffma) hw
      (fun _ _ _ _ _ => rfl) (dFFMA_eq_some.mpr ⟨_, _, _, _, _, _, rfl, rfl⟩) hwf
  | fabs h m d a | fneg h m d a | frcp h m d a | frsq h m d a | fsqrt h m d a | fexp2 h m d a | flog2 h m d a | frnd h m d a =>
    exact decode_encF hw (fun _ _ _ _ _ => rfl) (dF2_eq_some.mpr ⟨_, _, _, rfl, rfl⟩) hwf
  | fcmp h ty full cond p a b =>
    exact decode_encF hw (fun _ _ _ _ _ => rfl) (dFCMP_eq_some.mpr ⟨_, _, _, _, _, _, rfl, rfl⟩) hwf
  | fclass h ty full d a =>
    exact decode_encF hw (fun _ _ _ _ _ => rfl) (dFCLASS_eq_some.mpr ⟨_, _, _, _, rfl, rfl⟩) hwf
  | cvt h m dst src d a | cvtpk h m dst src d a =>
    exact decode_encF hw (fun _ _ _ _ _ => rfl) (dCVT_eq_some.mpr ⟨_, _, _, _, _, rfl, rfl⟩) hwf
  | mxscale h full fmt d a =>
    exact decode_encF hw (fun _ _ _ _ _ => rfl) (dMXSCALE_eq_some.mpr ⟨_, _, _, _, rfl, rfl⟩) hwf
  | mxq h sr sat full q pack fmt d a b =>
    exact decode_encF hw (fun _ _ _ _ _ => rfl) (dMXQ_eq_some.mpr ⟨_, _, _, _, _, _, _, _, _, rfl, rfl⟩) hwf
  | mxdq h full q pack fmt d a b =>
    exact decode_encF hw (fun _ _ _ _ _ => rfl) (dMXDQ_eq_some.mpr ⟨_, _, _, _, _, _, _, rfl, rfl⟩) hwf
  | vrfl h w d a =>
    exact decode_encF hw (fun _ _ _ _ _ => rfl) (dVRFL_eq_some.mpr ⟨_, _, _, rfl, rfl⟩) hwf
  | vrln h w d a b =>
    exact decode_encF hw (fun _ _ _ _ _ => rfl) (dVRLN_eq_some.mpr ⟨_, _, _, _, rfl, rfl⟩) hwf
  | vwln h w d a b =>
    exact decode_encF hw (fun _ _ _ _ _ => rfl) (dVWLN_eq_some.mpr ⟨_, _, _, _, rfl, rfl⟩) hwf
  | vbcst h w d a b =>
    exact decode_encF hw (fun _ _ _ _ _ => rfl) (dVBCST_eq_some.mpr ⟨_, _, _, _, rfl, rfl⟩) hwf
  | vshfl h w xor d a b =>
    exact decode_encF hw (fun _ _ _ _ _ => rfl) (dVSHFL_eq_some.mpr ⟨_, _, _, _, _, rfl, rfl⟩) hwf
  | vrot h w g d a b =>
    exact decode_encF hw (fun _ _ _ _ _ => rfl) (dVROT_eq_some.mpr ⟨_, _, _, _, _, rfl, rfl⟩) hwf
  | vred h ty op q d a | vscan h ty op q d a =>
    exact decode_encF hw (fun _ _ _ _ _ => rfl) (dVRED_eq_some.mpr ⟨_, _, _, _, _, rfl, rfl⟩) hwf
  | vvote h mode d a =>
    exact decode_encF hw (fun _ _ _ _ _ => rfl) (dVVOTE_eq_some.mpr ⟨_, _, _, rfl, rfl⟩) hwf
  | vlane h gid d =>
    exact decode_encF hw (fun _ _ _ _ _ => rfl) (dVLANE_eq_some.mpr ⟨_, _, rfl, rfl⟩) hwf
  | bget h w d a | bset h w d a =>
    exact decode_encF hw (fun _ _ _ _ _ => rfl) (dBGET_eq_some.mpr ⟨_, _, _, rfl, rfl⟩) hwf
  | bclr h w d | bunb h w d =>
    exact decode_encF hw (fun _ _ _ _ _ => rfl) (dBCLR_eq_some.mpr ⟨_, _, rfl, rfl⟩) hwf
  | bmaxr h w d a b =>
    exact decode_encF hw (fun _ _ _ _ _ => rfl) (dBMAXR_eq_some.mpr ⟨_, _, _, _, rfl, rfl⟩) hwf
  | bchk h ty kind p a =>
    exact decode_encF hw (fun _ _ _ _ _ => rfl) (dBCHK_eq_some.mpr ⟨_, _, _, _, rfl, rfl⟩) hwf
  | bud h a | keydrop h a | frsave h a | frload h a | cpycan h a =>
    exact decode_encF hw (fun _ _ _ _ _ => rfl) (dU_A_eq_some.mpr ⟨_, rfl, rfl⟩) hwf
  | mma h tier q d a b j =>
    exact decode_encF_ctl hw (fun _ _ _ _ _ => rfl) (dMMA_eq_some.mpr ⟨_, _, _, _, _, _, rfl, rfl⟩) hwf hwf
  | accz h d =>
    exact decode_encF hw (fun _ _ _ _ _ => rfl) (dA_D_eq_some.mpr ⟨_, rfl, rfl⟩) hwf
  | accmov h d a b =>
    exact decode_encF hw (fun _ _ _ _ _ => rfl) (dACCMOV_eq_some.mpr ⟨_, _, _, rfl, rfl⟩) hwf
  | accbnd h d a =>
    exact decode_encF hw (fun _ _ _ _ _ => rfl) (dACCBND_eq_some.mpr ⟨_, _, rfl, rfl⟩) hwf
  | accspill h a b =>
    exact decode_encF hw (fun _ _ _ _ _ => rfl) (dACCSPILL_eq_some.mpr ⟨_, _, rfl, rfl⟩) hwf
  | accfill h mcode ncode d a =>
    exact decode_encF hw (fun _ _ _ _ _ => rfl) (dACCFILL_eq_some.mpr ⟨_, _, _, _, rfl, rfl⟩) hwf
  | tcfg h d a =>
    exact decode_encF hw (fun _ _ _ _ _ => rfl) (dTCFG_eq_some.mpr ⟨_, _, rfl, rfl⟩) hwf
  | tzero h d =>
    exact decode_encF hw (fun _ _ _ _ _ => rfl) (dT_D_eq_some.mpr ⟨_, rfl, rfl⟩) hwf
  | jdecl h d a =>
    exact decode_encF hw (fun _ _ _ _ _ => rfl) (dJDECL_eq_some.mpr ⟨_, _, rfl, rfl⟩) hwf
  | jsign h d a =>
    exact decode_encF hw (fun _ _ _ _ _ => rfl) (dJSIGN_eq_some.mpr ⟨_, _, rfl, rfl⟩) hwf
  | jwait h d =>
    exact decode_encF_ctl hw (fun _ _ _ _ _ => rfl) (dJ_D_eq_some.mpr ⟨_, rfl, rfl⟩) hwf hwf
  | keyq h d a | rowstat h d a | cpystat h d a =>
    exact decode_encF hw (fun _ _ _ _ _ => rfl) (dU_DA_eq_some.mpr ⟨_, _, rfl, rfl⟩) hwf
  | rowcpy h d a c | rowfil h d a c | rownot h d a c | rowrdx h d a c =>
    exact decode_encF hw (fun _ _ _ _ _ => rfl) (dROW2_eq_some.mpr ⟨_, _, _, rfl, rfl⟩) hwf
  | rowand h d a b c | rowor h d a b c | rowxor h d a b c | rowmaj h d a b c =>
    exact decode_encF hw (fun _ _ _ _ _ => rfl) (dROW3_eq_some.mpr ⟨_, _, _, _, rfl, rfl⟩) hwf
  | brx h prio a | ret h prio a =>
    exact decode_encF_ctl hw (fun _ _ _ _ _ => rfl) (dBRX_eq_some.mpr ⟨_, _, rfl, rfl⟩) hwf (Bool.and_eq_true_iff.mp hwf).1
  | exit h | reconv h | yield h | rft h =>
    exact decode_encF_ctl hw (fun _ _ _ _ _ => rfl) (dNONE_eq_some.mpr ⟨rfl, rfl⟩) hwf hwf
  | nop h | halt h =>
    exact decode_encF hw (fun _ _ _ _ _ => rfl) (dNONE_eq_some.mpr ⟨rfl, rfl⟩) hwf
  | prio h n =>
    exact decode_encF hw (fun _ _ _ _ _ => rfl) (dPRIO_eq_some.mpr ⟨_, rfl, rfl⟩) hwf
  | mfsr h d x =>
    exact decode_encF hw (fun _ _ _ _ _ => rfl) (dMFSR_eq_some.mpr ⟨_, _, rfl, rfl⟩) hwf
  | mtsr h x a =>
    exact decode_encF hw (fun _ _ _ _ _ => rfl) (dMTSR_eq_some.mpr ⟨_, _, rfl, rfl⟩) hwf
  | firnrd h d =>
    exact decode_encF hw (fun _ _ _ _ _ => rfl) (dU_D_eq_some.mpr ⟨_, rfl, rfl⟩) hwf
  | lwait h a =>
    exact decode_encF_ctl hw (fun _ _ _ _ _ => rfl) (dU_A_eq_some.mpr ⟨_, rfl, rfl⟩) hwf hwf
  | seed h a b =>
    exact decode_encF hw (fun _ _ _ _ _ => rfl) (dU_AB_eq_some.mpr ⟨_, _, rfl, rfl⟩) hwf
  | bkpt h n =>
    exact decode_encF_ctl hw (fun _ _ _ _ _ => rfl) (dPRIO_eq_some.mpr ⟨_, rfl, rfl⟩) hwf hwf
  | fence h sc scope =>
    exact decode_encF hw (fun _ _ _ _ _ => rfl) (dFENCE_eq_some.mpr ⟨_, _, rfl, rfl⟩) hwf
  | cacheDrop h a =>
    exact decode_encF hw (fun _ _ _ _ _ => rfl) (dCACHE_eq_some.mpr ⟨_, .inl ⟨rfl, rfl⟩⟩) hwf
  | cacheClean h a =>
    exact decode_encF hw (fun _ _ _ _ _ => rfl) (dCACHE_eq_some.mpr ⟨_, .inr (.inl ⟨rfl, rfl⟩)⟩) hwf
  | cacheInval h a =>
    exact decode_encF hw (fun _ _ _ _ _ => rfl) (dCACHE_eq_some.mpr ⟨_, .inr (.inr ⟨rfl, rfl⟩)⟩) hwf
  | sbar h level b a =>
    exact decode_encF hw (fun _ _ _ _ _ => rfl) (dSBAR_eq_some.mpr ⟨_, _, _, rfl, rfl⟩) hwf
  | bra h prio imm =>
    exact decode_encI_ctl hw (fun _ _ _ => rfl) (dBRA_eq_some.mpr ⟨_, _, rfl, rfl⟩) hwf hwf
  | brc h prio p imm =>
    exact decode_encI_ctl hw (fun _ _ _ => rfl) (dBRC_eq_some.mpr ⟨_, _, _, rfl, rfl⟩) hwf hwf
  | call h prio d imm =>
    exact decode_encI_ctl hw (fun _ _ _ => rfl) (dCALL_eq_some.mpr ⟨_, _, _, rfl, rfl⟩) hwf (Bool.and_eq_true_iff.mp hwf).1
  | trap h imm =>
    exact decode_encI_ctl hw (fun _ _ _ => rfl) (dIMM_eq_some.mpr ⟨_, rfl, rfl⟩) hwf hwf
  | sleep h imm =>
    exact decode_encI hw (fun _ _ _ => rfl) (dIMM_eq_some.mpr ⟨_, rfl, rfl⟩) hwf
  | smovi h d imm | smovih h d imm | saddi h d imm | sandi h d imm | sori h d imm | sxori h d imm | sshli h d imm
  | sshri h d imm | ssari h d imm | smuli h d imm =>
    exact decode_encI hw (fun _ _ _ => rfl) (dSI_eq_some.mpr ⟨_, _, rfl, rfl⟩) hwf
  | scmpi h cond p a imm =>
    exact decode_encI hw (fun _ _ _ => rfl) (dSCMPI_eq_some.mpr ⟨_, _, _, _, rfl, rfl⟩) hwf
  | vmovi h d imm | vaddi h d imm | vandi h d imm | vori h d imm | vshli h d imm | vshri h d imm | fmovi h d imm =>
    exact decode_encI hw (fun _ _ _ => rfl) (dVI_eq_some.mpr ⟨_, _, rfl, rfl⟩) hwf
  | mtsri h x imm =>
    exact decode_encI hw (fun _ _ _ => rfl) (dMTSRI_eq_some.mpr ⟨_, _, rfl, rfl⟩) hwf
  | budi h imm =>
    exact decode_encI hw (fun _ _ _ => rfl) (dBUDI_eq_some.mpr ⟨_, rfl, rfl⟩) hwf
  | ld h m sz d | st h m sz d | lds h m sz d | sts h m sz d =>
    exact decode_encM hw (fun _ _ _ _ _ _ => rfl) (dLD_eq_some.mpr ⟨_, _, _, rfl, rfl⟩) hwf
  | ldu h m sz d | stu h m sz d | ldsp h m sz d =>
    exact decode_encM hw (fun _ _ _ _ _ _ => rfl) (dLDU_eq_some.mpr ⟨_, _, _, rfl, rfl⟩) hwf
  | pref h m =>
    exact decode_encM hw (fun _ _ _ _ _ _ => rfl) (dPREF_eq_some.mpr ⟨_, rfl, rfl⟩) hwf
  | atomAdd h m ty ret d | atomSub h m ty ret d | atomMin h m ty ret d | atomMax h m ty ret d | atomAnd h m ty ret d
  | atomOr h m ty ret d | atomXor h m ty ret d | atomXchg h m ty ret d | atomCas h m ty ret d | atomsAdd h m ty ret d
  | atomsSub h m ty ret d | atomsMin h m ty ret d | atomsMax h m ty ret d | atomsAnd h m ty ret d | atomsOr h m ty ret d
  | atomsXor h m ty ret d | atomsXchg h m ty ret d | atomsCas h m ty ret d =>
    have hnear : m.level = .near := by
      simp only [Instr.legal, Bool.and_eq_true, beq_iff_eq] at hwf
      tauto
    exact decode_encM hw (fun _ _ _ _ _ _ => rfl) (dATOM_eq_some.mpr ⟨_, _, _, _, hnear, rfl, rfl⟩) hwf
  | ldv h m d | stv h m d =>
    exact decode_encM hw (fun _ _ _ _ _ _ => rfl) (dLDV_eq_some.mpr ⟨_, _, rfl, rfl⟩) hwf
  | recon h m op d =>
    have hnear : m.level = .near := by
      simp only [Instr.legal, Bool.and_eq_true, beq_iff_eq] at hwf
      tauto
    exact decode_encM hw (fun _ _ _ _ _ _ => rfl) (dRECON_eq_some.mpr ⟨_, _, _, hnear, rfl, rfl⟩) hwf
  | barinit h scope d sa off =>
    exact decode_encB hw (fun _ _ _ _ _ _ => rfl) (dBARINIT_eq_some.mpr ⟨_, _, _, _, rfl, rfl⟩) hwf
  | bararr h d sa off | bardrop h d sa off =>
    exact decode_encB hw (fun _ _ _ _ _ _ => rfl) (dBARP_eq_some.mpr ⟨_, _, _, rfl, rfl⟩) hwf
  | barexp h d sa off | bartest h d sa off | keycut h d sa off =>
    exact decode_encB hw (fun _ _ _ _ _ _ => rfl) (dBARS_eq_some.mpr ⟨_, _, _, rfl, rfl⟩) hwf
  | barwait h d sa off =>
    exact decode_encB_ctl hw (fun _ _ _ _ _ _ => rfl) (dBARS_eq_some.mpr ⟨_, _, _, rfl, rfl⟩) hwf hwf
  | tld h m d | tst h m d | tldk h m d =>
    exact decode_encM hw (fun _ _ _ _ _ _ => rfl) (dTLD_eq_some.mpr ⟨_, _, rfl, rfl⟩) hwf
  | accld h m d =>
    exact decode_encM hw (fun _ _ _ _ _ _ => rfl) (dACCLD_eq_some.mpr ⟨_, _, rfl, rfl⟩) hwf
  | accst h m d =>
    exact decode_encM hw (fun _ _ _ _ _ _ => rfl) (dACCST_eq_some.mpr ⟨_, _, .inl ⟨rfl, rfl⟩⟩) hwf
  | accstAdd h m d =>
    exact decode_encM hw (fun _ _ _ _ _ _ => rfl) (dACCST_eq_some.mpr ⟨_, _, .inr ⟨rfl, rfl⟩⟩) hwf
  | cpykick h queue scope d sa off =>
    exact decode_encB hw (fun _ _ _ _ _ _ => rfl) (dCPYKICK_eq_some.mpr ⟨_, _, _, _, _, rfl, rfl⟩) hwf
  | saddSlot s d a y | ssubSlot s d a y | sandSlot s d a y | sorSlot s d a y | sxorSlot s d a y | smovSlot s d a y
  | sshlSlot s d a y | sshrSlot s d a y | pandSlot s d a y | porSlot s d a y | pmovSlot s d a y => exact decode_encP rfl hw hwf
  | vaddSlot s ty d a y | vsubSlot s ty d a y | vmulSlot s ty d a y | vandSlot s ty d a y | vorSlot s ty d a y
  | vxorSlot s ty d a y | vminSlot s ty d a y | vmaxSlot s ty d a y | vmovSlot s ty d a y | vshlSlot s ty d a y
  | vshrSlot s ty d a y => exact decode_encP rfl hw hwf
  | faddSlot s ty full d a y | fsubSlot s ty full d a y | fmulSlot s ty full d a y | fminSlot s ty full d a y
  | fmaxSlot s ty full d a y => exact decode_encP rfl hw hwf
  | _ => cases hw

theorem encode_decode {w : Word} {i : Instr} (h : decode w = .ok i) : i.legal = true ∧ encode i = some w := by
  rcases form_cases w with ⟨f, rfl⟩ | hform | ⟨f, rfl⟩ | ⟨f, rfl⟩
  · exact encode_of_decodeF (f.decode_pack.symm.trans h)
  · refine encode_of_decodeP hform ?_
    rwa [decode, ← hform] at h
  · exact encode_of_decodeI (f.decode_pack.symm.trans h)
  · exact encode_of_decodeM (f.decode_pack.symm.trans h)

/-- Settles O44: row by row, the fields of the encoded word are read back by the shape of the row, which the word's legality lets
through; every row of the table names a word. -/
theorem decodeOfEncode : Obligations.DecodeOfEncode := by
  unfold Obligations.DecodeOfEncode
  exact ⟨fun i w hwf hw => decode_encode hwf hw, fun i => by cases i <;> rfl⟩

/-- Settles O45: every word is of one of the four forms, and in each form the operation table is read backwards. -/
theorem encodeOfDecode : Obligations.EncodeOfDecode := by
  unfold Obligations.EncodeOfDecode
  intro w i h
  exact encode_decode h

/-- Settles O43: each worked word is evaluated. -/
theorem wordsDecode : Obligations.WordsDecode := by
  unfold Obligations.WordsDecode
  exact ⟨rfl, rfl, rfl, rfl, rfl, rfl, rfl, rfl, rfl, rfl⟩

end Sys2Proof
end

section
/-! PROOF of O19: operand errors, trap entry, and a trap in handler mode (spec 04, R106; 10, R236; 15, R305, R306). -/
namespace Sys2Proof.Machine
open Sys2Proof

/-! ### Operand errors (R106) -/

/-- Every word of the table checks its operand rules before anything else. -/
theorem exec_eq_onWord {i : Instr} (hi : (encode i).isSome = true) (s : State) : ∃ h k, exec i s = onWord i h s k := by
  cases i with
  | issueClock | runBoundary | loadResponse | mmaFire | mmaComplete | sleepDeadline | lwaitDeadline | firnSyncBeat | firnSkew
  | podFirnSample | l1LeaseExpiry | leaseHorizonReached | directoryRecall | pageWalk | translationLeaseExpiry
  | walkAheadRenewal | faultQueueEntryWrite | fqrespRetry | fqrespDeny | cpykickQueueEvent | latchRequestStart | latchPieceIssue
  | latchPieceLand | ldspCopyLand | accstAddApply | seracFork | seracRowStep | seracJoin | packSaveComplete | packPlacement
  | packRestorePlacement | preempt | sliceExpiry | nodeRelease | nodeComplete | watchdogIssueReport | watchdogStallReport
  | carveOutInterval | bankGate | bankReady | powerStateEntry | dieWake | boostInterval | permitRefill | moduleReset
  | bootctlWrite | bootFull | eyeMarginLow | periodicRetrain | channelWidthChange | hingeLinkFail | hostCxlMemWrite
  | hostCxlMemRead | hostSnoop | poolBackInvalidate | peerAccess | podBarrierArrival | podBarrierCompletion | trigger
  | ctxctlPreempt | ctxctlEnd | contextEndRelease | eyeactRetrain | eyeactRepair | eyeactHalfWidth | eyeactFullWidth
  | mpolicyWrite | cxlwinWrite | hbmmapWrite | mmioRegisterWrite | storePerformed | cxlPortTraining | hbmRefresh => cases hi
  | _ => exact ⟨_, _, rfl⟩

/-! ### Trap entry (R305) -/

theorem takeTrap_enters {f : Floe} (hf : f.handler = false) (s : State) (key : Nat) (t : Trap) (mask : Mask) (prio : BitVec 8) :
    takeTrap s key f t mask prio = s.setFloe key
      { f with
        xpc := t.pc, xcause := (if t.host then 0x200 else 0) ||| t.cause.setWidth 10, xmask := t.mask, xaddr := t.addr
        xinfo := t.info, intFrontier := f.frontier, trapPrio := prio, loaded := none, handler := true
        p := (f.p.set 0 14 mask).set 0 15 f.live
        frontier := if f.live = 0 then [] else [{ pc := f.xbase, prio := 255, flags := 0, mask := f.live }] } :=
  if_neg (by simp [hf])

/-! ### A trap in handler mode (R306, R236) -/

/-- What HALTLOG records of a halted floe. -/
def haltReport (key : Nat) (f : Floe) (cause : BitVec 8) (hfault : Bool) : Word :=
  logValid ||| (if hfault then 0x4000000000000000 else 0) ||| (cause.setWidth 64 <<< 54) |||
    (f.ctx.setWidth 64 <<< 40) ||| (BitVec.ofNat 64 (coreOf key) <<< 31) ||| (BitVec.ofNat 64 (key % 64) <<< 25)

theorem and_logValid_ne_zero {x : Word} (h : x.msb = true) : x &&& logValid ≠ 0 := by
  intro hz
  have hbit : (x &&& logValid).msb = true := by rw [BitVec.msb_and, h]; rfl
  rw [hz] at hbit
  cases hbit

theorem reportHalt_free {s : State} (key : Nat) (f : Floe) (cause : BitVec 8) (hf : Bool) (addr : Word)
    (h : s.hub.haltlog &&& logValid = 0) : reportHalt s key f cause hf addr =
      { s with hub := { s.hub with haltlog := haltReport key f cause hf, haltaddr := addr, vectors := s.hub.vectors ++ [19] } } := by
  unfold reportHalt
  dsimp only
  rw [if_pos h]
  rfl

/-- A field of b bits at bit k reaches no bit from k + b up. -/
theorem getLsbD_ofNat_shiftLeft {n b k i : Nat} (hn : n < 2 ^ b) (hi : k + b ≤ i) : (BitVec.ofNat 64 n <<< k).getLsbD i = false := by
  rw [BitVec.getLsbD_shiftLeft, BitVec.getLsbD_ofNat]
  have hbit : n.testBit (i - k) = false := Nat.testBit_lt_two_pow (hn.trans_le (Nat.pow_le_pow_right (by decide) (by omega)))
  simp [hbit]

/-- The fields for the context, the core and the floe lie below bit 54. -/
theorem haltReport_getLsbD {key : Nat} (hkey : key < 20480) (f : Floe) (cause : BitVec 8) {i : Nat} (hi : 54 ≤ i) :
    (haltReport key f cause true).getLsbD i = (decide (i = 63) || decide (i = 62) || (decide (i < 64) && cause.getLsbD (i - 54))) := by
  have hcore : (BitVec.ofNat 64 (coreOf key) <<< 31).getLsbD i = false :=
    getLsbD_ofNat_shiftLeft (b := 9) (by unfold coreOf; omega) (by omega)
  have hfloe : (BitVec.ofNat 64 (key % 64) <<< 25).getLsbD i = false := getLsbD_ofNat_shiftLeft (b := 6) (by omega) (by omega)
  have hctx : (f.ctx.setWidth 64 <<< 40).getLsbD i = false := by
    simp only [BitVec.getLsbD_shiftLeft, BitVec.getLsbD_setWidth]
    rw [BitVec.getLsbD_of_ge f.ctx (i - 40) (by omega)]
    simp
  have hvalid : logValid.getLsbD i = decide (i = 63) := by
    rw [show logValid = BitVec.twoPow 64 63 by decide, BitVec.getLsbD_twoPow]
    simp [eq_comm]
  have hhfault : (0x4000000000000000 : Word).getLsbD i = decide (i = 62) := by
    rw [show (0x4000000000000000 : Word) = BitVec.twoPow 64 62 by decide, BitVec.getLsbD_twoPow]
    simp [eq_comm]
  simp only [haltReport, if_true, BitVec.getLsbD_or, hcore, hfloe, hctx, hvalid, BitVec.getLsbD_shiftLeft,
    BitVec.getLsbD_setWidth, Bool.or_false]
  have : ¬ i < 54 := by omega
  have : i - 54 < 64 ∨ ¬ i < 64 := by omega
  grind

theorem takeTrap_halts {f : Floe} (hf : f.handler = true) (s : State) (key : Nat) (t : Trap) (mask : Mask) (prio : BitVec 8) :
    takeTrap s key f t mask prio = reportHalt (s.setFloe key { f with halted := true }) key f t.cause true t.wordAddr :=
  if_pos hf

/-- Settles O19: the operand rules come first in every word; trap entry is the floe that `takeTrap` writes; and in handler mode the
report is HALTLOG's own bits, with VALID, HFAULT and the cause at their places. -/
theorem trapsAndEntry : Obligations.TrapsAndEntry := by
  unfold Obligations.TrapsAndEntry
  refine ⟨?_, ?_, ?_⟩
  · intro i s w f r hissues hword hbad
    obtain ⟨h, k, hexec⟩ := exec_eq_onWord hword s
    rw [hexec, onWord_bad hissues hbad]
  · intro s key f t mask prio hf
    refine ⟨_, takeTrap_enters hf .., rfl, rfl, rfl, rfl, rfl, rfl, rfl, rfl, ?_, ?_, ?_, rfl, rfl, rfl, rfl, rfl, rfl, rfl⟩
    · simp [Floe.preg, Tbl.getD_set]
    · simp [Floe.preg, Tbl.getD_set]
    · intro k h14 h15
      simp [Floe.preg, Tbl.getD_set, h14, h15]
  · intro s key f t mask prio hf hkey
    rw [takeTrap_halts hf]
    cases hmsb : s.hub.haltlog.msb with
    | true =>
      refine ⟨s.hub.haltlog, s.hub.haltaddr, ?_, fun _ => ⟨rfl, rfl⟩, nofun⟩
      exact reportHalt_kept _ _ _ _ _ (and_logValid_ne_zero hmsb)
    | false =>
      refine ⟨haltReport key f t.cause true, t.wordAddr, ?_, nofun, fun _ => ⟨?_, ?_, ?_⟩⟩
      · exact reportHalt_free _ _ _ _ _ (and_logValid_eq_zero hmsb)
      · rw [BitVec.msb_eq_getLsbD_last, haltReport_getLsbD hkey _ _ (by decide)]
        rfl
      · rw [haltReport_getLsbD hkey _ _ (by decide)]
        rfl
      · ext i hi
        rw [BitVec.getElem_setWidth, BitVec.getLsbD_ushiftRight, haltReport_getLsbD hkey _ _ (by omega)]
        have hbit : i < 8 ∧ 54 + i ≠ 63 ∧ 54 + i ≠ 62 ∧ 54 + i < 64 := by omega
        simp [hbit]
end Sys2Proof.Machine
end

section
/-! SUPPORT. The values of a slot (spec 05, R137; 06, R145, R155): the exact integer results that Put reduces, in W bits, and the
lanes of a floating-point slot. -/
namespace Sys2Proof.Machine
open Sys2Proof

/-! ### W result bits -/

theorem putBits_eq (ty : ITy) (v : Int) : putBits ty false v = (v % 2 ^ ty.bits).toNat := rfl

theorem intVal_emod (n : Nat) (signed : Bool) (c : Nat) : intVal n signed c % 2 ^ n = ((c % 2 ^ n : Nat) : Int) := by
  unfold intVal
  dsimp only
  split <;> simp

/-- Put undoes Val. -/
theorem putBits_intVal {ty : ITy} {x : Nat} (hx : x < 2 ^ ty.bits) : putBits ty false (intVal ty.bits ty.signed x) = x := by
  rw [putBits_eq, intVal_emod, Nat.mod_eq_of_lt hx]
  rfl

section
variable {ty : ITy} {x y : Nat}

theorem putBits_and (hx : x < 2 ^ ty.bits) (hy : y < 2 ^ ty.bits) : putBits ty false (iop .and ty false x y 0 y) = x &&& y := by
  simp only [iop, Nat.mod_eq_of_lt hx, Nat.mod_eq_of_lt hy]
  exact putBits_intVal (Nat.and_lt_two_pow x hy)

theorem putBits_or (hx : x < 2 ^ ty.bits) (hy : y < 2 ^ ty.bits) : putBits ty false (iop .or ty false x y 0 y) = x ||| y := by
  simp only [iop, Nat.mod_eq_of_lt hx, Nat.mod_eq_of_lt hy]
  exact putBits_intVal (Nat.or_lt_two_pow hx hy)

theorem putBits_xor (hx : x < 2 ^ ty.bits) (hy : y < 2 ^ ty.bits) : putBits ty false (iop .xor ty false x y 0 y) = x ^^^ y := by
  simp only [iop, Nat.mod_eq_of_lt hx, Nat.mod_eq_of_lt hy]
  exact putBits_intVal (Nat.xor_lt_two_pow hx hy)

/-- A shift by W or more leaves no bit. -/
theorem putBits_shl : putBits ty false (iop .shl ty false x y 0 y) = putBits ty false (valOf ty x * 2 ^ y) := by
  simp only [iop, shlVal, Bool.false_eq_true, if_false]
  split
  next hy =>
    have hdvd : (2 : Int) ^ ty.bits ∣ valOf ty x * 2 ^ y := (pow_dvd_pow 2 hy).mul_left _
    rw [putBits_eq, putBits_eq, Int.emod_eq_zero_of_dvd hdvd]
    rfl
  next => rfl

theorem putBits_shr (hx : x < 2 ^ ty.bits) : putBits ty false (iop .shr ty false x y 0 y) = x / 2 ^ y := by
  have hshift : (if ty.bits ≤ y then 0 else x / 2 ^ y) = x / 2 ^ y := by
    split
    next hy => exact (Nat.div_eq_of_lt (hx.trans_le (Nat.pow_le_pow_right (by decide) hy))).symm
    next => rfl
  simp only [iop, Nat.mod_eq_of_lt hx, hshift]
  exact putBits_intVal ((Nat.div_le_self _ _).trans_lt hx)

end

/-- The lanes of an operand hold W bits. -/
theorem Lanes.val_lt (x : Lanes) (wide : Bool) (l : Fin 64) : x.val wide l < 2 ^ (if wide then 64 else 32) := by
  have hlo := x.lo.val[l].isLt
  have hhi := x.hi.val[l].isLt
  unfold Lanes.val
  cases wide
  · exact hlo
  · simp only [if_true]
    omega

theorem Ctx.lane_lt (c : Ctx) (ty : ITy) (pos : Pos) (a : VS) (l : Fin 64) : c.lane ty.wide pos a l < 2 ^ ty.bits :=
  Lanes.val_lt _ _ _

/-! ### Uniform shifts (R137) -/

theorem shlW_eq (x k : Word) : shlW x k = BitVec.ofNat 64 (x.toNat * 2 ^ k.toNat) := by
  apply BitVec.eq_of_toNat_eq
  unfold shlW
  split
  next hk =>
    have hdvd : 2 ^ 64 ∣ x.toNat * 2 ^ k.toNat := (pow_dvd_pow 2 hk).mul_left _
    rw [BitVec.toNat_ofNat, Nat.mod_eq_zero_of_dvd hdvd]
    rfl
  next => rw [BitVec.toNat_shiftLeft, Nat.shiftLeft_eq, BitVec.toNat_ofNat]

theorem shrW_eq (x k : Word) : shrW x k = BitVec.ofNat 64 (x.toNat / 2 ^ k.toNat) := by
  have hlt : x.toNat / 2 ^ k.toNat < 2 ^ 64 := (Nat.div_le_self _ _).trans_lt x.isLt
  apply BitVec.eq_of_toNat_eq
  rw [BitVec.toNat_ofNat, Nat.mod_eq_of_lt hlt]
  unfold shrW
  split
  next hk => exact (Nat.div_eq_of_lt (x.isLt.trans_le (Nat.pow_le_pow_right (by decide) hk))).symm
  next => rw [BitVec.toNat_ushiftRight, Nat.shiftRight_eq_div_pow]

/-! ### Lanes of a floating-point slot (R155) -/

/-- An operand that a slot does not have counts as zeros with bound 0x0000. -/
theorem elements_bcast_zero (ty : FTy) (A B : Lanes) (l : Fin 64) :
    elements ty A B (bcast 0) l = ops3 ty (A.val ty.wide l) (B.val ty.wide l) 0 (A.bnd l) (B.bnd l) 0 := by
  have hval : (bcast 0).val ty.wide l = 0 := by cases h : ty.wide <;> simp [bcast, Lanes.val]
  have hbnd : (bcast 0).bnd l = 0 := by simp [bcast, Lanes.bnd]
  rw [elements, hval, hbnd]

theorem tieredLanes_two (c : Ctx) (op : TOp) (ty : FTy) (md : RMode) (checked : Bool) (t : Tier) (A B : Lanes) :
    tieredLanes c op ty md checked t A B (bcast 0) =
      tieredOuts c.env checked c.act ty op md t
        (fun l => ops3 ty (A.val ty.wide l) (B.val ty.wide l) 0 (A.bnd l) (B.bnd l) 0) fun l => [A.bnd l, B.bnd l] := by
  have hbnd : ∀ l, (bcast 0).bnd l = 0 := fun l => by simp [bcast, Lanes.bnd]
  have hzero : isU 0 = false := rfl
  simp only [tieredLanes, tieredOuts, elements_bcast_zero, laneOut, hbnd, List.any_cons, List.any_nil, hzero, Bool.or_false]

/-- The result of a floating-point slot that delivers the lanes and the tier of `p`. -/
def fpRes (d : VReg) (wide : Bool) (p : Outs × Option (Tier × Bool)) : SlotRes :=
  { fp := some (d, regsOf wide, p.1), auto := p.2.map (·.1), tier := (p.2.map (·.1)).getD .full, up := p.2.any (·.2) }

theorem tieredSlot_eq (c : Ctx) (op : TOp) (ty : FTy) (full : Bool) (d a : VReg) :
    tieredSlot c op ty full d a = fpRes d ty.wide (tieredPair c op ty full d a) := by
  have hels : (elements ty (c.lanes ty.wide .d (.v d)) (c.lanes ty.wide .a (.v a)) (bcast 0)) = _ :=
    funext fun l => elements_bcast_zero ty _ _ l
  cases full <;> simp only [tieredSlot, tieredPair, tieredLanes_two, hels] <;> rfl

theorem minmaxSlot_eq (c : Ctx) (isMax : Bool) (ty : FTy) (d a : VReg) :
    minmaxSlot c isMax ty d a = fpRes d ty.wide (minmaxPair c isMax ty d a, none) := by
  simp only [minmaxSlot, minmaxPair, elements_bcast_zero]
  rfl

/-- A floating-point slot is of the vector file, and its result is what `slotFp` says. -/
theorem slotRes_of_slotFp {c : Ctx} {x : Slot} {p : Outs × Option (Tier × Bool)} (h : slotFp c x = some p) :
    ∃ d : VReg, x.regs.1 = d.toNat ∧ x.file = 0 ∧ slotRes c x = fpRes d x.wide p := by
  cases x with
  | fadd ty full d a | fsub ty full d a | fmul ty full d a =>
    obtain rfl := Option.some.inj h
    exact ⟨d, rfl, rfl, tieredSlot_eq ..⟩
  | fmin ty full d a | fmax ty full d a =>
    obtain rfl := Option.some.inj h
    exact ⟨d, rfl, rfl, minmaxSlot_eq ..⟩
  | _ => cases h

theorem slotRes_of_slotFp_none {c : Ctx} {x : Slot} (h : slotFp c x = none) :
    (slotRes c x).fp = none ∧ (slotRes c x).auto = none := by
  cases x with
  | fadd | fsub | fmul | fmin | fmax => cases h
  | _ => exact ⟨rfl, rfl⟩

theorem slotRes_breach (c : Ctx) (x : Slot) : (slotRes c x).breach = slotBreach c x := by
  cases h : slotFp c x with
  | none => simp [SlotRes.breach, slotBreach, slotLanes, h, (slotRes_of_slotFp_none h).1]
  | some p =>
    obtain ⟨d, -, -, hres⟩ := slotRes_of_slotFp h
    simp [SlotRes.breach, slotBreach, slotLanes, h, hres, fpRes]

theorem slotRes_breachBound (c : Ctx) (x : Slot) : (slotRes c x).breachBound = (slotLanes c x).elim 0 Outs.breachBound := by
  cases h : slotFp c x with
  | none => simp [SlotRes.breachBound, slotLanes, h, (slotRes_of_slotFp_none h).1]
  | some p =>
    obtain ⟨d, -, -, hres⟩ := slotRes_of_slotFp h
    simp [SlotRes.breachBound, slotLanes, h, hres, fpRes]

theorem slotRes_auto (c : Ctx) (x : Slot) : (slotRes c x).auto.map tierCode = slotTier c x := by
  cases h : slotFp c x with
  | none => simp [slotTier, h, (slotRes_of_slotFp_none h).2]
  | some p =>
    obtain ⟨d, -, -, hres⟩ := slotRes_of_slotFp h
    simp [slotTier, h, hres, fpRes, Function.comp_def]

/-- The tier of the trap's INFO: a breaching slot is a floating-point one. -/
theorem slotRes_tier {c : Ctx} {x : Slot} (h : slotBreach c x ≠ 0) : tierCode (slotRes c x).tier = (slotTier c x).getD 1 := by
  cases hfp : slotFp c x with
  | none => simp [slotBreach, slotLanes, hfp] at h
  | some p =>
    obtain ⟨d, -, -, hres⟩ := slotRes_of_slotFp hfp
    cases ht : p.2 <;> simp [slotTier, hfp, hres, fpRes, ht, tierCode]

end Sys2Proof.Machine
end

section
/-! PROOF of O8: a P word reads both slots, then writes them in order (spec 04, R99; 05, R137, R139; 06, R145, R146, R149, R155). -/
namespace Sys2Proof.Machine
open Sys2Proof

/-! ### Sticky bits and LASTTIER -/

theorem sysAfter_none (f : Floe) : sysAfter f 0#5 0#5 none = f.sys := by
  unfold sysAfter
  split <;> simp

/-- What two parts of a word do to the flag registers joins. -/
theorem sysAfter_with (f : Floe) (v : Tbl VRow) (s : Tbl Word) (p : Tbl Mask) (fl fl' bits bits' : BitVec 5)
    (t t' : Option (BitVec 2)) : sysAfter { f with v := v, s := s, p := p, sys := sysAfter f fl bits t } fl' bits' t' =
      sysAfter f (fl ||| fl') (bits ||| bits') (t'.or t) := by
  unfold sysAfter
  cases f.handler <;> cases t' <;> simp [BitVec.or_assoc]

theorem stick_eq (c : Ctx) (b : BitVec 5) : c.stick b = { c with f := { c.f with sys := sysAfter c.f 0 b none } } := by
  unfold Ctx.stick sysAfter
  split <;> simp

theorem stick_zero (c : Ctx) : c.stick 0#5 = c := by simp [stick_eq, sysAfter_none]

theorem tierTo_eq (c : Ctx) (t : BitVec 2) : c.tierTo t = { c with f := { c.f with sys := sysAfter c.f 0 0 (some t) } } := by
  unfold Ctx.tierTo sysAfter
  split <;> simp

/-! ### What a write keeps of the registers that the run has written -/

theorem writeS_sOld (f : Floe) (r : Run) (n d : Nat) (x : Word) {k : Nat} (hk : k ≠ d) :
    (writeS f r n d x).2.sOld.find? k = r.sOld.find? k := by
  unfold writeS
  split
  · rfl
  · dsimp only
    split <;> simp [Tbl.find?_put, hk]

theorem setV_vOld (c : Ctx) (d : Nat) (m : Mask) (x : VRow) {k : Nat} (hk : k ≠ d) :
    (c.setV d m x).r.vOld.find? k = c.r.vOld.find? k := by
  obtain ⟨t, o, hw, -, hold⟩ := writeV_eq c.f c.r c.num d m x
  rw [Ctx.setV, hw]
  exact hold k hk

theorem setLanes_vOld (c : Ctx) (wide : Bool) (d : VReg) (m : Mask) (val : Fin 64 → Nat) (bnd : Fin 64 → Bound) {k : Nat}
    (hk : k < d.toNat ∨ d.toNat + regsOf wide ≤ k) : (c.setLanes wide d m val bnd).r.vOld.find? k = c.r.vOld.find? k := by
  unfold Ctx.setLanes
  cases wide with
  | false =>
    simp only [regsOf, Bool.false_eq_true, if_false] at hk ⊢
    exact setV_vOld _ _ _ _ (by omega)
  | true =>
    simp only [regsOf, if_true] at hk ⊢
    rw [setV_vOld _ _ _ _ (by omega), setV_vOld _ _ _ _ (by omega)]

theorem finish_vOld (c : Ctx) (d n : Nat) (o : Outs) {k : Nat} (hk : k < d ∨ d + n ≤ k) :
    (c.finish d n o).r.vOld.find? k = c.r.vOld.find? k := by
  obtain ⟨t, v, he, -, hold⟩ := putOuts_eq c d n c.act o
  have hr : (c.finish d n o).r = (c.putOuts d n c.act o).r := by
    unfold Ctx.finish Ctx.flag Ctx.stick
    dsimp only
    split <;> split <;> split <;> rfl
  rw [hr, he]
  exact hold k hk

/-! ### What one slot writes -/

/-- Writing back `b` leaves c but for registers as W says, for the run's record of the vector registers in `vs` and the uniform ones in
`ss`, and for flags and sticky bits. -/
def SlotPuts (c : Ctx) (b : SlotRes) (fl bits : BitVec 5) (vs ss : List Nat) (W : Run → Floe → Floe → Prop) : Prop :=
  ∃ v s p vo so po, c.putSlot b =
      { c with
        f := { c.f with v := v, s := s, p := p, sys := sysAfter c.f fl bits none }
        r := { c.r with vOld := vo, sOld := so, pOld := po } } ∧
    W c.r c.f { c.f with v := v, s := s, p := p } ∧
    (∀ j, j ∉ vs → vo.find? j = c.r.vOld.find? j) ∧ ∀ j, j ∉ ss → so.find? j = c.r.sOld.find? j

theorem SlotPuts.imp {c : Ctx} {b : SlotRes} {fl bits : BitVec 5} {vs ss : List Nat} {W W' : Run → Floe → Floe → Prop}
    (h : SlotPuts c b fl bits vs ss W) (hW : ∀ r g k, W r g k → W' r g k) : SlotPuts c b fl bits vs ss W' := by
  obtain ⟨v, s, p, vo, so, po, he, hw, hold⟩ := h
  exact ⟨v, s, p, vo, so, po, he, hW _ _ _ hw, hold⟩

theorem lt_or_le_of_not_mem_slotV {x : Slot} (hfile : x.file = 0) {j : Nat} (hj : j ∉ slotV x) :
    j < x.regs.1 ∨ x.regs.1 + regsOf x.wide ≤ j := by
  unfold slotV at hj
  cases hw : x.wide <;> simp [hfile, hw] at hj <;> simp [regsOf] <;> omega

theorem putSlot_vec (c : Ctx) (wide : Bool) (d : VReg) (val : Fin 64 → Nat) (bnd : Fin 64 → Bound) (bits : BitVec 5) :
    c.putSlot { vec := some (d, wide, (List.finRange 64).map fun l => (val l, bnd l)), bits := bits } =
      (c.setLanes wide d c.act val bnd).stick bits := by
  have hget : ∀ l : Fin 64, ((List.finRange 64).map fun l => (val l, bnd l)).getD l.val (0, 0) = (val l, bnd l) := by simp
  simp only [Ctx.putSlot, hget, Bool.false_eq_true, if_false]
  exact stick_zero _

theorem slotPuts_vec (c : Ctx) (x : Slot) (wide : Bool) (d : VReg) (val : Fin 64 → Nat) (bnd : Fin 64 → Bound) (bits : BitVec 5)
    (hfile : x.file = 0) (hd : x.regs.1 = d.toNat) (hwide : x.wide = wide) :
    SlotPuts c { vec := some (d, wide, (List.finRange 64).map fun l => (val l, bnd l)), bits := bits } 0 bits (slotV x) (slotS x)
      fun r g k => k.s = g.s ∧ k.p = g.p ∧
        LanesWritten g k r c.act d.toNat (regsOf wide) (fun j l => wordOf (val l) j) fun _ => bnd := by
  obtain ⟨t, o, he, hl⟩ := setLanes_eq c wide d c.act val bnd
  refine ⟨t, c.f.s, c.f.p, o, c.r.sOld, c.r.pOld, ?_, ⟨rfl, rfl, hl⟩, fun j hj => ?_, fun _ _ => rfl⟩
  · rw [putSlot_vec, he, stick_eq]
    rfl
  · have hr := lt_or_le_of_not_mem_slotV hfile hj
    rw [hd, hwide] at hr
    have hold := setLanes_vOld c wide d c.act val bnd hr
    rwa [he] at hold

theorem slotPuts_uni (c : Ctx) (x : Slot) (d : SReg) (val : Word) (hfile : x.file = 1) (hd : x.regs.1 = d.toNat) :
    SlotPuts c { uni := some (d, val) } 0 0 (slotV x) (slotS x) fun r g k =>
      k.v = g.v ∧ k.p = g.p ∧ ∀ j, (j ≠ d.toNat ∨ d = 0 → k.sreg j = g.sreg j) ∧
        (j = d.toNat → d ≠ 0 → k.sreg j = val ∨ (r.sOld.find? j).isSome ∧ k.sreg j = g.sreg j) := by
  obtain ⟨t, o, he, hk⟩ := writeS_eq c.f c.r c.num d.toNat val
  have hz : d = 0 ↔ d.toNat = 0 := BitVec.toNat_eq
  refine ⟨c.f.v, t, c.f.p, c.r.vOld, o, c.r.pOld, ?_, ⟨rfl, rfl, fun j => ?_⟩, fun _ _ => rfl, fun j hj => ?_⟩
  · simp [Ctx.putSlot, Ctx.setS, he, stick_zero, sysAfter_none]
  · simp only [ne_eq, hz]
    exact hk j
  · have hne : j ≠ d.toNat := by
      rintro rfl
      simp [slotS, hfile, hd] at hj
    have hold := writeS_sOld c.f c.r c.num d.toNat val hne
    rwa [he] at hold

theorem slotPuts_pred (c : Ctx) (x : Slot) (d : PReg) (val : Mask) :
    SlotPuts c { pred := some (d, val) } 0 0 (slotV x) (slotS x) fun _ g k =>
      k.v = g.v ∧ k.s = g.s ∧
        ∀ j, k.preg j = if j = d.toNat ∧ d ≠ 0 then (g.preg j &&& ~~~c.act) ||| (val &&& c.act) else g.preg j := by
  obtain ⟨t, o, he, hk⟩ := writeP_eq c.f c.r d.toNat c.act val
  have hz : d ≠ 0 ↔ d.toNat ≠ 0 := not_congr BitVec.toNat_eq
  refine ⟨c.f.v, c.f.s, t, c.r.vOld, c.r.sOld, o, ?_, ⟨rfl, rfl, fun j => ?_⟩, fun _ _ => rfl, fun _ _ => rfl⟩
  · simp [Ctx.putSlot, Ctx.setP, he, stick_zero, sysAfter_none]
  · simp only [hz]
    exact hk j

theorem slotPuts_fp (c : Ctx) (x : Slot) (d : VReg) (p : Outs × Option (Tier × Bool)) (hfile : x.file = 0)
    (hd : x.regs.1 = d.toNat) :
    SlotPuts c (fpRes d x.wide p) (Outs.flags p.1).bits (p.1.sticky ||| if p.2.any (·.2) then stickyTIERUP else 0)
      (slotV x) (slotS x) fun r g k =>
        k.s = g.s ∧ k.p = g.p ∧ LanesWritten g k r c.act d.toNat (regsOf x.wide)
          (fun j l => BitVec.ofNat 32 ((p.1[l].regs.getD j (0, 0)).1)) fun j l => (p.1[l].regs.getD j (0, 0)).2 := by
  obtain ⟨t, v, he, hl⟩ := finish_eq c d.toNat (regsOf x.wide) p.1
  refine ⟨t, c.f.s, c.f.p, v, c.r.sOld, c.r.pOld, ?_, ⟨rfl, rfl, hl⟩, fun j hj => ?_, fun _ _ => rfl⟩
  · have hput : c.putSlot (fpRes d x.wide p) =
        (c.finish d.toNat (regsOf x.wide) p.1).stick (if p.2.any (·.2) then stickyTIERUP else 0) :=
      congrArg (Ctx.stick · _) (stick_zero _)
    rw [hput, stick_eq, he]
    dsimp only
    rw [sysAfter_with]
    simp
  · have hr := lt_or_le_of_not_mem_slotV hfile hj
    rw [hd] at hr
    have hold := finish_vOld c d.toNat (regsOf x.wide) p.1 hr
    rwa [he] at hold

/-! ### Every slot -/

theorem slotFlags_of_slotFp_none {c : Ctx} {x : Slot} (h : slotFp c x = none) : slotFlags c x = 0#5 := by
  rw [slotFlags, slotLanes, h]
  rfl

theorem slotBits_of_slotFp_none {c : Ctx} {x : Slot} (h : slotFp c x = none) : slotBits c x = slotUnb c x := by
  simp [slotBits, slotLanes, h]

section
variable {c₀ c : Ctx} {x : Slot}

/-- A slot that is neither of the integer vector file nor floating-point touches no flag and no sticky bit. -/
theorem SlotPuts.of_no_flags {b : SlotRes} {vs ss : List Nat} {W : Run → Floe → Floe → Prop} (hfp : slotFp c₀ x = none)
    (hunb : slotUnb c₀ x = 0#5) (h : SlotPuts c b 0#5 0#5 vs ss W) : SlotPuts c b (slotFlags c₀ x) (slotBits c₀ x) vs ss W := by
  rwa [slotFlags_of_slotFp_none hfp, slotBits_of_slotFp_none hfp, hunb]

/-- A slot of the integer vector file: its operation gives, in W bits, f of its operands. -/
theorem slotPuts_int (hact : c.act = c₀.act) {op : IOp} {ty : ITy} {d a : VReg} {f : Nat → Nat → Nat} (hfile : x.file = 0)
    (hd : x.regs.1 = d.toNat) (hwide : x.wide = ty.wide) (hfp : slotFp c₀ x = none)
    (hunb : slotUnb c₀ x = (vecSlot c₀ op ty d a).bits)
    (hf : ∀ p q, p < 2 ^ ty.bits → q < 2 ^ ty.bits → putBits ty false (iop op ty false p q 0 q) = f p q) :
    SlotPuts c (vecSlot c₀ op ty d a) (slotFlags c₀ x) (slotBits c₀ x) (slotV x) (slotS x) fun r g k =>
      k.s = g.s ∧ k.p = g.p ∧ LanesWritten g k r c₀.act d.toNat (regsOf ty.wide)
        (fun j l => wordOf (f (c₀.lane ty.wide .d (.v d) l) (c₀.lane ty.wide .a (.v a) l)) j)
        fun _ l => intBound [c₀.laneB ty.wide .d (.v d) l, c₀.laneB ty.wide .a (.v a) l] := by
  have hvec : vecSlot c₀ op ty d a =
      { vec := some (d, ty.wide, (List.finRange 64).map fun l =>
          (f (c₀.lane ty.wide .d (.v d) l) (c₀.lane ty.wide .a (.v a) l),
            intBound [c₀.laneB ty.wide .d (.v d) l, c₀.laneB ty.wide .a (.v a) l]))
        bits := (vecSlot c₀ op ty d a).bits } := by
    simp only [← hf _ _ (c₀.lane_lt ty .d (.v d) _) (c₀.lane_lt ty .a (.v a) _)]
    rfl
  rw [slotFlags_of_slotFp_none hfp, slotBits_of_slotFp_none hfp, hunb, hvec, ← hact]
  exact slotPuts_vec c x ty.wide d _ _ _ hfile hd hwide

theorem slotPuts_of_slotFp (hact : c.act = c₀.act) {p : Outs × Option (Tier × Bool)} {d : VReg} (hd : x.regs.1 = d.toNat)
    (hfp : slotFp c₀ x = some p) (hunb : slotUnb c₀ x = 0#5) :
    SlotPuts c (slotRes c₀ x) (slotFlags c₀ x) (slotBits c₀ x) (slotV x) (slotS x) fun r g k =>
      ∃ o, slotLanes c₀ x = some o ∧ k.s = g.s ∧ k.p = g.p ∧ LanesWritten g k r c₀.act d.toNat (regsOf x.wide)
        (fun j l => BitVec.ofNat 32 ((o[l].regs.getD j (0, 0)).1)) fun j l => (o[l].regs.getD j (0, 0)).2 := by
  obtain ⟨e, he, hfile, hres⟩ := slotRes_of_slotFp hfp
  obtain rfl : e = d := BitVec.eq_of_toNat_eq (he.symm.trans hd)
  have hlanes : slotLanes c₀ x = some p.1 := by rw [slotLanes, hfp]; rfl
  have hflags : slotFlags c₀ x = (Outs.flags p.1).bits := by rw [slotFlags, hlanes]; rfl
  have hbits : slotBits c₀ x = (p.1.sticky ||| if p.2.any (·.2) then stickyTIERUP else 0) := by
    simp [slotBits, hlanes, hfp, hunb]
  rw [hres, hflags, hbits, ← hact]
  exact (slotPuts_fp c x e p hfile hd).imp fun _ _ _ hw => ⟨p.1, hlanes, hw⟩

/-- Writing back the result of a slot whose operands were read in c₀. -/
theorem slotPuts_slotRes (hact : c.act = c₀.act) (x : Slot) :
    SlotPuts c (slotRes c₀ x) (slotFlags c₀ x) (slotBits c₀ x) (slotV x) (slotS x) fun r g k => SlotWrites c₀ r g k x := by
  cases x with
  | vadd ty d a | vsub ty d a | vmul ty d a | vmin ty d a | vmax ty d a =>
    exact slotPuts_int hact rfl rfl rfl rfl rfl fun _ _ _ _ => rfl
  | vand ty d a => exact slotPuts_int hact rfl rfl rfl rfl rfl fun _ _ => putBits_and
  | vor ty d a => exact slotPuts_int hact rfl rfl rfl rfl rfl fun _ _ => putBits_or
  | vxor ty d a => exact slotPuts_int hact rfl rfl rfl rfl rfl fun _ _ => putBits_xor
  | vshl ty d a =>
    exact slotPuts_int (f := fun x y => putBits ty false (valOf ty x * 2 ^ y)) hact rfl rfl rfl rfl rfl fun _ _ _ _ => putBits_shl
  | vshr ty d a => exact slotPuts_int hact rfl rfl rfl rfl rfl fun _ _ hx _ => putBits_shr hx
  | vmov ty d a =>
    refine .of_no_flags rfl rfl ((slotPuts_vec c (.vmov ty d a) ty.wide d _ _ _ rfl rfl rfl).imp fun _ _ _ hw => ?_)
    rwa [hact] at hw
  | fadd ty full d a | fsub ty full d a | fmul ty full d a | fmin ty full d a | fmax ty full d a =>
    exact (slotPuts_of_slotFp (d := d) hact rfl rfl rfl).imp fun _ _ _ hw => hw
  | sadd d a | ssub d a | sand d a | sor d a | sxor d a | smov d a => exact .of_no_flags rfl rfl (slotPuts_uni c _ d _ rfl rfl)
  | sshl d a =>
    refine .of_no_flags rfl rfl ((slotPuts_uni c (.sshl d a) d _ rfl rfl).imp fun _ _ _ hw => ?_)
    rwa [shlW_eq] at hw
  | sshr d a =>
    refine .of_no_flags rfl rfl ((slotPuts_uni c (.sshr d a) d _ rfl rfl).imp fun _ _ _ hw => ?_)
    rwa [shrW_eq] at hw
  | pand d a | por d a | pmov d a =>
    refine .of_no_flags rfl rfl ((slotPuts_pred c _ d _).imp fun _ _ _ hw => ?_)
    rwa [hact] at hw

end
/-! ### The word -/

theorem activeOf_no_guard (w : Issue) (f : Floe) (r : Run) (m : Bool) : activeOf w f r ⟨m, false, 0⟩ = r.mask := by
  have hguard : readP f r w.number .guard (BitVec.toNat 0#3) = BitVec.allOnes 64 := by
    rw [show readP f r w.number .guard (BitVec.toNat 0#3) = allLanes from rfl]
    decide
  exact (congrArg (r.mask &&& ·) hguard).trans BitVec.and_allOnes

theorem exec_of_slotsOf {i : Instr} {m : Bool} {x y : Slot} (h : slotsOf i = some (m, x, y)) (s : State) :
    exec i s = onWord i ⟨m, false, 0⟩ s fun c => pairWord c x y := by
  cases i with
  | saddSlot | ssubSlot | sandSlot | sorSlot | sxorSlot | smovSlot | sshlSlot | sshrSlot | pandSlot | porSlot | pmovSlot
  | vaddSlot | vsubSlot | vmulSlot | vandSlot | vorSlot | vxorSlot | vminSlot | vmaxSlot | vmovSlot | vshlSlot | vshrSlot
  | faddSlot | fsubSlot | fmulSlot | fminSlot | fmaxSlot =>
    cases h
    rfl
  | _ => cases h

theorem slotTier_eq (c₀ c : Ctx) (x : Slot) :
    c.slotTier (slotRes c₀ x) = { c with f := { c.f with sys := sysAfter c.f 0 0 (slotTier c₀ x) } } := by
  rw [← slotRes_auto, Ctx.slotTier]
  cases (slotRes c₀ x).auto with
  | none => simp [sysAfter_none]
  | some t => exact tierTo_eq c _

/-- LASTTIER after both slots: slot 1's tier where it has one, else slot 0's. -/
theorem slotTier_slotTier (c : Ctx) (x y : Slot) : (c.slotTier (slotRes c x)).slotTier (slotRes c y) =
    { c with f := { c.f with sys := sysAfter c.f 0 0 ((slotTier c y).or (slotTier c x)) } } := by
  rw [slotTier_eq c c x, slotTier_eq]
  dsimp only
  rw [sysAfter_with]
  rfl

theorem sysAfter_bmode (f : Floe) (fl bits : BitVec 5) (t : Option (BitVec 2)) : (sysAfter f fl bits t).bmode = f.sys.bmode := by
  unfold sysAfter
  split <;> rfl

/-- Slot 0 and then slot 1 write back results of operands that were read before either. -/
theorem putSlot_putSlot {c₀ c : Ctx} (hact : c.act = c₀.act) (x y : Slot) :
    ∃ g k r₁ vo so po, (c.putSlot (slotRes c₀ x)).putSlot (slotRes c₀ y) =
        { c with
          f := { c.f with
            v := k.v, s := k.s, p := k.p
            sys := sysAfter c.f (slotFlags c₀ x ||| slotFlags c₀ y) (slotBits c₀ x ||| slotBits c₀ y) none }
          r := { c.r with vOld := vo, sOld := so, pOld := po } } ∧
      SlotWrites c₀ c.r c.f g x ∧ SlotWrites c₀ r₁ g k y ∧
      (∀ j, j ∉ slotV x → r₁.vOld.find? j = c.r.vOld.find? j) ∧ ∀ j, j ∉ slotS x → r₁.sOld.find? j = c.r.sOld.find? j := by
  obtain ⟨v, u, p, vo, so, po, hx, hwx, hv, hs⟩ := slotPuts_slotRes hact x
  obtain ⟨v', u', p', vo', so', po', hy, hwy, -⟩ := slotPuts_slotRes (c₀ := c₀)
    (c := { c with
      f := { c.f with v := v, s := u, p := p, sys := sysAfter c.f (slotFlags c₀ x) (slotBits c₀ x) none }
      r := { c.r with vOld := vo, sOld := so, pOld := po } }) hact y
  refine ⟨{ c.f with v := v, s := u, p := p }, { c.f with v := v', s := u', p := p' },
    { c.r with vOld := vo, sOld := so, pOld := po }, vo', so', po', ?_, hwx, hwy, hv, hs⟩
  dsimp only at hy
  rw [sysAfter_with] at hy
  rw [hx, hy]
  rfl

section
variable {s : State} {w : Issue} {f : Floe} {r : Run} {m : Bool} {c : Ctx} (hc : c = ctxOf s w f r ⟨m, false, 0⟩) (x y : Slot)
include hc

/-- A P word once LASTTIER is written: the trap of a breach, or both write-backs. -/
theorem pairWord_eq :
    let c₁ := { c with f := { f with sys := sysAfter f 0 0 ((slotTier c y).or (slotTier c x)) } }
    pairWord c x y =
      if slotBreach c x ||| slotBreach c y ≠ 0 ∧ f.sys.bmode.getLsbD 2 = true then
        if slotBreach c x ≠ 0 then
          breachTrap c₁ (slotBreach c x ||| slotBreach c y) ((slotLanes c x).elim 0 Outs.breachBound) (tierCode (slotRes c x).tier)
        else
          breachTrap c₁ (slotBreach c x ||| slotBreach c y) ((slotLanes c y).elim 0 Outs.breachBound) (tierCode (slotRes c y).tier)
      else retire ((c₁.putSlot (slotRes c x)).putSlot (slotRes c y)) := by
  intro c₁
  have hf : c.f = f := hc ▸ rfl
  have htrap : c₁.env.trap = f.sys.bmode.getLsbD 2 := congrArg (·.getLsbD 2) (sysAfter_bmode f 0 0 _)
  have hc₁ : (c.slotTier (slotRes c x)).slotTier (slotRes c y) = c₁ := by rw [slotTier_slotTier, hf]
  simp only [pairWord, slotRes_breach, slotRes_breachBound, hc₁, htrap, Bool.and_eq_true, decide_eq_true_eq]

theorem pairWord_writes (hno : slotBreach c x ||| slotBreach c y = 0 ∨ f.sys.bmode.getLsbD 2 = false) :
    ∃ g k r₁ q, pairWord c x y = wordDone s w { f with
        v := k.v, s := k.s, p := k.p, run := some q
        sys := sysAfter f (slotFlags c x ||| slotFlags c y) (slotBits c x ||| slotBits c y) ((slotTier c y).or (slotTier c x)) } ∧
      RunMoves w r q m ∧ SlotWrites c r f g x ∧ SlotWrites c r₁ g k y ∧
      (∀ j, j ∉ slotV x → r₁.vOld.find? j = r.vOld.find? j) ∧ ∀ j, j ∉ slotS x → r₁.sOld.find? j = r.sOld.find? j := by
  have hwrites : ¬(slotBreach c x ||| slotBreach c y ≠ 0 ∧ f.sys.bmode.getLsbD 2 = true) := by
    rintro ⟨hbreach, htrap⟩
    exact hno.elim hbreach fun h => Bool.false_ne_true (h.symm.trans htrap)
  obtain ⟨g, k, r₁, vo, so, po, hput, hx, hy, hold⟩ := putSlot_putSlot (c₀ := c)
    (c := { c with f := { f with sys := sysAfter f 0 0 ((slotTier c y).or (slotTier c x)) } }) rfl x y
  dsimp only at hput
  rw [sysAfter_with] at hput
  rw [pairWord_eq hc, if_neg hwrites, hput]
  subst hc
  refine ⟨g, k, r₁, { r with
    pc := w.pc + 8, count := r.count + 1, ended := r.ended || m || r.count + 1 == 32, vOld := vo, sOld := so, pOld := po },
    (retire_ctx ..).trans ?_, rfl, hx, hy, hold⟩
  simp

theorem pairWord_traps (hbreach : slotBreach c x ||| slotBreach c y ≠ 0) (htrap : f.sys.bmode.getLsbD 2 = true) :
    let z := if slotBreach c x ≠ 0 then x else y
    pairWord c x y = wordTraps s w { f with sys := sysAfter f 0 0 ((slotTier c y).or (slotTier c x)) } r
      ⟨0x10, w.pc, slotBreach c x ||| slotBreach c y, 0,
        ((slotLanes c z).elim 0 Outs.breachBound).setWidth 64 ||| (((slotTier c z).getD 1).setWidth 64 <<< 16), false⟩ := by
  intro z
  rw [pairWord_eq hc, if_pos ⟨hbreach, htrap⟩]
  by_cases hx : slotBreach c x ≠ 0
  · rw [if_pos hx, slotRes_tier hx, show z = x from if_pos hx, hc]
    rfl
  · have hy : slotBreach c y ≠ 0 := by
      rintro hy
      simp [not_not.mp hx, hy] at hbreach
    rw [if_neg hx, slotRes_tier hy, show z = y from if_neg hx, hc]
    rfl

end

/-- Settles O8: the word's context is the one that both slots read, their results are written in order, and the flag registers join. -/
theorem slotPairResults : Obligations.SlotPairResults := by
  unfold Obligations.SlotPairResults
  intro i m x y s w f r hslots hissues hok c breach tier
  rw [exec_of_slotsOf hslots, onWord_ok hissues hok]
  refine ⟨activeOf_no_guard w f r m, fun hno => ?_, fun hbreach htrap => ?_⟩
  · obtain ⟨g, k, r₁, q, hpair, hrest⟩ := pairWord_writes (c := c) rfl x y hno
    exact ⟨g, k, r₁, q, congrArg Host.Outcome.next hpair, hrest⟩
  · exact congrArg Host.Outcome.next (pairWord_traps (c := c) rfl x y hbreach htrap)

end Sys2Proof.Machine
end

section
/-! SUPPORT. Lanes of a mask: which lanes a condition picks, the lanes as a list, and the lowest one. -/
namespace Sys2Proof.Machine
open Sys2Proof

/-- The sum of 2^l over the lanes l below n that meet a condition. -/
def laneSum (p : Nat → Bool) (n : Nat) : Nat := (List.range n).foldl (fun k l => if p l then k + 2 ^ l else k) 0

theorem laneSum_succ (p : Nat → Bool) (n : Nat) : laneSum p (n + 1) = if p n then laneSum p n + 2 ^ n else laneSum p n := by
  simp only [laneSum, List.range_succ, List.foldl_append, List.foldl_cons, List.foldl_nil]

theorem laneSum_lt (p : Nat → Bool) (n : Nat) : laneSum p n < 2 ^ n := by
  induction n with
  | zero => exact Nat.one_pos
  | succ n ih =>
    rw [laneSum_succ, pow_succ]
    split <;> omega

theorem testBit_laneSum (p : Nat → Bool) (n l : Nat) : (laneSum p n).testBit l = (decide (l < n) && p l) := by
  induction n with
  | zero => simp [laneSum]
  | succ n ih =>
    have hor : laneSum p n + 2 ^ n = 2 ^ n ||| laneSum p n := by
      simpa [Nat.add_comm] using Nat.two_pow_add_eq_or_of_lt (laneSum_lt p n) 1
    have hcases : l < n + 1 ↔ n = l ∨ l < n := by omega
    rw [laneSum_succ]
    split
    next hp =>
      rw [hor, Nat.testBit_or, Nat.testBit_two_pow, ih]
      by_cases hl : n = l
      · subst hl; simp [hp]
      · simp [hcases, hl]
    next hp =>
      rw [ih]
      by_cases hl : n = l
      · subst hl; simp [hp]
      · simp [hcases, hl]

/-- The lanes below 64 that meet the condition belong to the mask, and no other. -/
@[simp] theorem has_maskWhere (p : Nat → Bool) (l : Nat) : has (maskWhere p) l = (decide (l < 64) && p l) := by
  have hmask : maskWhere p = BitVec.ofNat 64 (laneSum p 64) := rfl
  rw [has, hmask, BitVec.getLsbD_ofNat, testBit_laneSum]
  cases decide (l < 64) <;> rfl

/-- A mask has only lanes below 64. -/
theorem lt_of_has {m : Mask} {l : Nat} (h : has m l = true) : l < 64 := by
  by_contra hl
  rw [has, BitVec.getLsbD_of_ge m l (by omega)] at h
  cases h

theorem mask_ext {m n : Mask} (h : ∀ l, l < 64 → has m l = has n l) : m = n := BitVec.eq_of_getLsbD_eq h

theorem maskWhere_congr {p q : Nat → Bool} (h : ∀ l, l < 64 → p l = q l) : maskWhere p = maskWhere q :=
  mask_ext fun l hl => by simp only [has_maskWhere, h l hl]

theorem maskWhere_eq_zero {p : Nat → Bool} : maskWhere p = 0 ↔ ∀ l, l < 64 → p l = false := by
  refine ⟨fun h l hl => ?_, fun h => mask_ext fun l hl => ?_⟩
  · have hlane := has_maskWhere p l
    rw [h, has_zero, decide_eq_true hl] at hlane
    exact hlane.symm
  · rw [has_maskWhere, h l hl, has_zero, Bool.and_false]

/-- A condition that is the same for every lane takes all lanes of a mask or none. -/
theorem maskWhere_has_and (m : Mask) (b : Bool) : (maskWhere fun l => has m l && b) = if b = true then m else 0 :=
  mask_ext fun l hl => by
    rw [has_maskWhere, decide_eq_true hl]
    cases b
    · exact (Bool.and_false _).trans (has_zero l).symm
    · exact Bool.and_true _

theorem mem_lanesOf {m : Mask} {l : Nat} : l ∈ lanesOf m ↔ has m l = true := by
  simp only [lanesOf, List.mem_filter, List.mem_range, and_iff_right_iff_imp]
  exact lt_of_has

theorem has_lowest {m : Mask} (h : m ≠ 0) : has m (lowest m) = true := by
  obtain ⟨l, hl⟩ := exists_lane h
  have hne : lanesOf m ≠ [] := List.ne_nil_of_mem (mem_lanesOf.mpr hl)
  have hmem : lowest m ∈ lanesOf m := by
    rw [lowest, List.headD_eq_head?_getD, List.head?_eq_some_head hne]
    exact List.head_mem hne
  exact mem_lanesOf.mp hmem

theorem has_and (a b : Mask) (l : Nat) : has (a &&& b) l = (has a l && has b l) := BitVec.getLsbD_and

theorem lowest_eq_find? (m : Mask) : lowest m = ((List.range 64).find? (has m)).getD 64 := by
  rw [lowest, lanesOf, List.headD_eq_head?_getD, List.head?_filter]

theorem popc_eq_countP (m : Mask) : popc m = (List.range 64).countP (has m) := List.countP_eq_length_filter.symm

end Sys2Proof.Machine
end

section
/-! PROOF of O1 and O3: uniform words write the value of their row (spec 05, R132, R133, R135, R136). -/
namespace Sys2Proof.Machine
open Sys2Proof

/-! ### Values of W bits (R132) -/

theorem intVal_mod (n : Nat) (signed : Bool) (x : Nat) : intVal n signed (x % 2 ^ n) = intVal n signed x := by
  simp only [intVal, Nat.mod_mod]

theorem valOf_and (ty : ITy) (a b : Nat) : valOf ty ((a % 2 ^ ty.bits) &&& (b % 2 ^ ty.bits)) = valOf ty (a &&& b) := by
  rw [← Nat.and_mod_two_pow]
  exact intVal_mod ..

theorem valOf_or (ty : ITy) (a b : Nat) : valOf ty ((a % 2 ^ ty.bits) ||| (b % 2 ^ ty.bits)) = valOf ty (a ||| b) := by
  rw [← Nat.or_mod_two_pow]
  exact intVal_mod ..

theorem valOf_xor (ty : ITy) (a b : Nat) : valOf ty ((a % 2 ^ ty.bits) ^^^ (b % 2 ^ ty.bits)) = valOf ty (a ^^^ b) := by
  rw [← Nat.xor_mod_two_pow]
  exact intVal_mod ..

theorem bits_cases (ty : ITy) : ty.bits = 32 ∨ ty.bits = 64 := by cases ty <;> decide

/-- The complement of a register within W bits. -/
theorem valOf_not (ty : ITy) (x : Word) : valOf ty (2 ^ ty.bits - 1 - x.toNat % 2 ^ ty.bits) = valOf ty (~~~x).toNat := by
  have hx := x.isLt
  have hmod : (~~~x).toNat % 2 ^ ty.bits = 2 ^ ty.bits - 1 - x.toNat % 2 ^ ty.bits := by
    rw [BitVec.toNat_not]
    rcases bits_cases ty with h | h <;> rw [h] <;> omega
  rw [← hmod]
  exact intVal_mod ..

/-- A right shift by W or more leaves no bit. -/
theorem shr_eq_div (w a amt : Nat) : (if w ≤ amt then 0 else a % 2 ^ w / 2 ^ amt) = a % 2 ^ w / 2 ^ amt := by
  split
  next h => exact (Nat.div_eq_of_lt ((Nat.mod_lt _ (Nat.two_pow_pos w)).trans_le (Nat.pow_le_pow_right (by decide) h))).symm
  next => rfl

/-- Under saturation Put clamps the value to the range of its type. -/
theorem putBits_sat (ty : ITy) (v : Int) :
    putBits ty true v = intBits ty.bits (min (max v (intMin ty.bits ty.signed)) (intMax ty.bits ty.signed)) := rfl

/-- Every left shift by 64 or more carries a value other than 0 beyond the range of its type. -/
theorem clamp_shl (ty : ITy) (v : Int) {amt : Nat} (h : 64 ≤ amt) :
    min (max (v * 2 ^ amt) (intMin ty.bits ty.signed)) (intMax ty.bits ty.signed) =
      min (max (v * 2 ^ 64) (intMin ty.bits ty.signed)) (intMax ty.bits ty.signed) := by
  have hmin : -(2 : Int) ^ 64 ≤ intMin ty.bits ty.signed ∧ intMin ty.bits ty.signed ≤ intMax ty.bits ty.signed ∧
      intMax ty.bits ty.signed ≤ 2 ^ 64 := by cases ty <;> decide
  have hpow : (2 : Int) ^ 64 ≤ 2 ^ amt := pow_le_pow_right₀ (by decide) h
  rcases lt_trichotomy v 0 with hv | rfl | hv
  · have hlow : v * 2 ^ amt ≤ -2 ^ 64 := by nlinarith
    have hlow' : v * 2 ^ 64 ≤ -2 ^ 64 := by omega
    rw [max_eq_right (by omega), max_eq_right (by omega)]
  · rw [zero_mul, zero_mul]
  · have hhigh : 2 ^ 64 ≤ v * 2 ^ amt := by nlinarith
    have hhigh' : 2 ^ 64 ≤ v * 2 ^ 64 := by omega
    rw [min_eq_right (le_max_of_le_left (by omega)), min_eq_right (le_max_of_le_left (by omega))]

/-- The shift amounts that matter give what every amount gives (R133). -/
theorem put_shlVal (m : IntMod) (a amt : Nat) : put m (shlVal m.ty m.sat (valOf m.ty a) amt) = put m (valOf m.ty a * 2 ^ amt) := by
  obtain ⟨ty, sat⟩ := m
  refine congrArg (extBits ty) ?_
  cases sat with
  | false => exact putBits_shl (y := amt)
  | true =>
    simp only [shlVal, if_true, putBits_sat]
    by_cases h : 64 ≤ amt
    · rw [show Nat.min amt 64 = 64 from min_eq_right h, clamp_shl ty _ h]
    · rw [show Nat.min amt 64 = amt from min_eq_left (by omega)]

/-! ### F-form words (R133, R135) -/

/-- A uniform ALU word whose row gives the same value as the model's operation. -/
theorem writesUniform_of_uniOp {i : Instr} {h : Hdr} {op : IOp} {m : IntMod} {d a b e : SReg} {val : Ctx → Word}
    (hexec : ∀ s, exec i s = onRegs i h s fun c => uniOp c op m d a b e)
    (hval : ∀ c, put m (iop op m.ty m.sat (c.nat .a a) (c.nat .b b) (c.nat .c e) (c.nat .b b)) = val c) : WritesUniform i h d val := by
  refine writesUniform_of_once fun s => (hexec s).trans ?_
  simp only [← hval]
  rfl

/-- Settles O1: each row is Put of the model's operation; the logical operations, the complement and the shifts are first brought from W
bits to the register. -/
theorem uniformAluResults : Obligations.UniformAluResults := by
  unfold Obligations.UniformAluResults
  intro h m d a b e W V
  have hsel (c : Ctx) : put m (valOf m.ty (if c.sr .c e ≠ 0 then c.sr .a a else c.sr .b b).toNat) =
      put m (if c.sr .c e ≠ 0 then V c .a a else V c .b b) := by split <;> rfl
  refine ⟨?add, ?sub, ?mul, ?mulh, ?mad, ?and, ?or, ?xor, ?not, ?shl, ?shr, ?sar, ?min, ?max, ?sel, ?mov, ?clz, ?popc, ?bfe⟩
  case add | sub | mul | mulh | mad | sar | min | max | mov | clz | popc | bfe =>
    exact writesUniform_of_uniOp (fun _ => rfl) fun _ => rfl
  case and => exact writesUniform_of_uniOp (fun _ => rfl) fun _ => congrArg (put m) (valOf_and ..)
  case or => exact writesUniform_of_uniOp (fun _ => rfl) fun _ => congrArg (put m) (valOf_or ..)
  case xor => exact writesUniform_of_uniOp (fun _ => rfl) fun _ => congrArg (put m) (valOf_xor ..)
  case not => exact writesUniform_of_uniOp (fun _ => rfl) fun _ => congrArg (put m) (valOf_not ..)
  case shl => exact writesUniform_of_uniOp (fun _ => rfl) fun _ => put_shlVal ..
  case shr => exact writesUniform_of_uniOp (fun _ => rfl) fun _ => congrArg (put m ∘ valOf m.ty) (shr_eq_div ..)
  case sel =>
    refine writesUniform_of_once fun s => ?_
    simp only [← hsel]
    rfl

/-! ### Immediates (R136) -/

/-- A uniform word that writes a value which its row gives in another form. -/
theorem writesUniform_of_uni {i : Instr} {h : Hdr} {d : SReg} {x val : Ctx → Word}
    (hexec : ∀ s, exec i s = onRegs i h s fun c => c.uni d (x c)) (hval : ∀ c, x c = val c) : WritesUniform i h d val :=
  writesUniform_of_once (funext hval ▸ hexec)

/-- The two halves of a register joined. -/
theorem append_low_eq (imm : BitVec 32) (x : Word) :
    (imm.setWidth 64 <<< 32) ||| (x.setWidth 32).setWidth 64 = imm ++ x.setWidth 32 := by
  ext i hi
  simp only [BitVec.getElem_or, BitVec.getElem_shiftLeft, BitVec.getElem_setWidth, BitVec.getLsbD_setWidth]
  grind

/-- A shift amount read as 64 bits, sign-extended, is the amount itself, or both are 64 or more. -/
theorem signExtend_amount (imm : BitVec 32) :
    (imm.signExtend 64).toNat = imm.toNat ∨ 64 ≤ (imm.signExtend 64).toNat ∧ 64 ≤ imm.toNat := by
  cases hmsb : imm.msb with
  | false => exact .inl (by rw [BitVec.signExtend_eq_setWidth_of_msb_false hmsb, BitVec.toNat_setWidth_of_le (by decide)])
  | true =>
    have himm : 2 ^ 31 ≤ imm.toNat := BitVec.le_toNat_of_msb_true hmsb
    have hext : (imm.signExtend 64).toNat = imm.toNat + (2 ^ 64 - 2 ^ 32) := by
      rw [BitVec.toNat_signExtend, BitVec.toNat_setWidth_of_le (by decide), hmsb, if_pos rfl]
    omega

/-- A shift whose result no longer changes from 64 on may read its amount sign-extended. -/
theorem shift_signExtend {f : Nat → Word} {y : Word} (hf : ∀ k, 64 ≤ k → f k = y) (imm : BitVec 32) :
    f (imm.signExtend 64).toNat = f imm.toNat := by
  rcases signExtend_amount imm with h | ⟨h, h'⟩
  · rw [h]
  · rw [hf _ h, hf _ h']

theorem shiftLeft_eq_ofNat (x : Word) (k : Nat) : x <<< k = BitVec.ofNat 64 (x.toNat * 2 ^ k) := by
  apply BitVec.eq_of_toNat_eq
  rw [BitVec.toNat_shiftLeft, Nat.shiftLeft_eq, BitVec.toNat_ofNat]

theorem ushiftRight_eq_ofNat (x : Word) (k : Nat) : x >>> k = BitVec.ofNat 64 (x.toNat / 2 ^ k) := by
  apply BitVec.eq_of_toNat_eq
  rw [BitVec.toNat_ushiftRight, Nat.shiftRight_eq_div_pow, BitVec.toNat_ofNat,
    Nat.mod_eq_of_lt ((Nat.div_le_self _ _).trans_lt x.isLt)]

theorem sshiftRight_eq_ofInt (x : Word) (k : Nat) : x.sshiftRight k = BitVec.ofInt 64 (x.toInt / 2 ^ k) := by
  rw [BitVec.sshiftRight, Int.shiftRight_eq_div_pow]
  norm_cast

/-- An arithmetic shift by 64 or more leaves the sign in every bit. -/
theorem sshiftRight_of_le {k : Nat} (hk : 64 ≤ k) (x : Word) : x.sshiftRight k = if x.msb then BitVec.allOnes 64 else 0 := by
  cases h : x.msb with
  | true => simp [BitVec.sshiftRight_eq_of_msb_true h, BitVec.ushiftRight_eq_zero hk]
  | false => simp [BitVec.sshiftRight_eq_of_msb_false h, BitVec.ushiftRight_eq_zero hk]

/-- Settles O3: the rows are the model's own operations on 64 bits; a shift reads its amount sign-extended, which changes none below 64. -/
theorem uniformImmediateResults : Obligations.UniformImmediateResults := by
  unfold Obligations.UniformImmediateResults
  intro h d imm x
  refine ⟨?movi, ?movih, ?add, ?and, ?or, ?xor, ?shl, ?shr, ?sar, ?mul⟩
  case movi | add | and | or | xor | mul => exact writesUniform_of_uni (fun _ => rfl) fun _ => rfl
  case movih => exact writesUniform_of_uni (fun _ => rfl) fun _ => append_low_eq ..
  case shl => exact writesUniform_of_uni (fun _ => rfl) fun c =>
    (shift_signExtend (fun _ hk => BitVec.shiftLeft_eq_zero hk) imm).trans (shiftLeft_eq_ofNat (c.sr .d d) _)
  case shr => exact writesUniform_of_uni (fun _ => rfl) fun c =>
    (shift_signExtend (fun _ hk => BitVec.ushiftRight_eq_zero hk) imm).trans (ushiftRight_eq_ofNat (c.sr .d d) _)
  case sar => exact writesUniform_of_uni (fun _ => rfl) fun c =>
    (shift_signExtend (fun _ hk => sshiftRight_of_le hk _) imm).trans (sshiftRight_eq_ofInt (c.sr .d d) _)

end Sys2Proof.Machine
end

section
/-! PROOF of O4 and O5: predicate logic, compares and votes (spec 05, R134, R136, R138; 06, R142; 07, R166). -/
namespace Sys2Proof.Machine
open Sys2Proof

/-- A word that writes to the bits of ACTIVE a value which its row gives in another form. -/
theorem writesPred_of_eq {i : Instr} {h : Hdr} {d : PReg} {x val : Ctx → Mask}
    (hexec : ∀ s, exec i s = onRegs i h s fun c => c.setP d c.act (x c)) (hval : ∀ c, x c = val c) : WritesPred i h d val :=
  writesPred_of_setP (funext hval ▸ hexec)

theorem has_and_eq (a b : Mask) : has (a &&& b) = fun l => has a l && has b l := funext (has_and a b)

/-- Settles O4: the rows are the model's own operations; a count of lanes and a lowest lane are those of the list of all lanes. -/
theorem predicateResults : Obligations.PredicateResults := by
  unfold Obligations.PredicateResults
  intro h d a b x
  refine ⟨?and, ?or, ?xor, ?andn, ?not, ?mov, ?set, ?get, ?popc, ?first⟩
  case and | or | xor | andn | not | mov | set => exact writesPred_of_setP fun _ => rfl
  case get => exact writesUniform_of_once fun _ => rfl
  case popc =>
    refine writesUniform_of_uni (fun _ => rfl) fun c => congrArg (BitVec.ofNat 64) ?_
    rw [popc_eq_countP, has_and_eq]
  case first =>
    refine writesUniform_of_uni (fun _ => rfl) fun c => congrArg (BitVec.ofNat 64) ?_
    rw [lowest_eq_find?, has_and_eq]

theorem valOf_mod (ty : ITy) (x : Nat) : valOf ty (x % 2 ^ ty.bits) = valOf ty x := intVal_mod ..

/-- The outcome of a vote as a condition on the lanes of ACTIVE whose bit is 1 (R166). -/
theorem vote_eq (mode : Vote) (n act : Mask) :
    (if (match mode with
      | .any => n != 0
      | .all => n == act
      | .uni => n == 0 || n == act) then allLanes else 0) =
    match mode with
    | .any => if n ≠ 0 then allLanes else 0
    | .all => if n = act then allLanes else 0
    | .uni => if n = 0 ∨ n = act then allLanes else 0 := by
  cases mode <;> simp

/-- Settles O5: a compare reads the W low bits of its operands, of which the type's integer is a function; a vote is its condition. -/
theorem compareResults : Obligations.CompareResults := by
  unfold Obligations.CompareResults
  intro h ty k d q a b x y imm mode
  refine ⟨?scmp, ?scmpi, ?vcmp, ?vvote⟩
  case scmp =>
    refine writesPred_of_eq (fun _ => rfl) fun c => ?_
    rw [valOf_mod, valOf_mod]
    rfl
  case scmpi | vcmp => exact writesPred_of_setP fun _ => rfl
  case vvote => exact writesPred_of_eq (fun _ => rfl) fun c => vote_eq mode _ _

end Sys2Proof.Machine
end

section
/-! PROOF of O16: transfers of control (spec 05, R122 to R125). -/
namespace Sys2Proof.Machine
open Sys2Proof

/-! ### A word that ends its run (R29) -/

/-- Retiring a word that has left its floe as g and its run as q, and ends the run whatever its marker. -/
theorem retire_endRun (s : State) (w : Issue) (f : Floe) (r : Run) (h : Hdr) (g : Floe) (q : Run) :
    retire ({ ctxOf s w f r h with f := g, r := q } : Ctx).endRun = wordDone s w { g with run := some (nextRun w q true) } := by
  have hended (b c : Bool) : (true || b || c) = (q.ended || true || c) := by simp
  rw [nextRun, ← hended h.s]
  rfl

/-! ### Targets (R101, R125) -/

theorem branchTarget_eq (c : Ctx) (imm : BitVec 32) : c.branchTarget imm = c.pc.setWidth 64 + 8 * imm.signExtend 64 := by
  rw [Ctx.branchTarget, ← BitVec.mul_twoPow_eq_shiftLeft, mul_comm]
  rfl

/-- The two registers of a pair, joined. -/
theorem shiftLeft_or_eq_ofNat (lo hi : Lane) :
    (hi.setWidth 64 <<< 32) ||| lo.setWidth 64 = BitVec.ofNat 64 (lo.toNat + 4294967296 * hi.toNat) := by
  have hlo := lo.isLt
  have hhi := hi.isLt
  apply BitVec.eq_of_toNat_eq
  have hjoin : hi.toNat <<< 32 ||| lo.toNat = lo.toNat + 4294967296 * hi.toNat := by
    rw [← Nat.shiftLeft_add_eq_or_of_lt hlo, Nat.shiftLeft_eq, Nat.add_comm, Nat.mul_comm]
  rw [BitVec.toNat_or, BitVec.toNat_shiftLeft, BitVec.toNat_setWidth_of_le (by decide), BitVec.toNat_setWidth_of_le (by decide),
    Nat.shiftLeft_eq, Nat.mod_eq_of_lt (by omega), ← Nat.shiftLeft_eq, hjoin, BitVec.toNat_ofNat, Nat.mod_eq_of_lt (by omega)]

theorem getD_toList (x : Vector Lane 64) (l : Fin 64) : x.toList.getD l.val 0 = x[l] := by
  simp [List.getD_eq_getElem?_getD]

theorem laneTargets_eq (c : Ctx) (a : VReg) (l : Fin 64) : c.laneTargets a l.val = BitVec.ofNat 64 (c.lane true .a (.v a) l) := by
  rw [Ctx.laneTargets, getD_toList, getD_toList]
  exact shiftLeft_or_eq_ofNat _ _

/-! ### Entries of the targets (R122) -/

theorem nodup_eraseDups {α : Type} [BEq α] [LawfulBEq α] (l : List α) : l.eraseDups.Nodup := by
  induction hn : l.length using Nat.strong_induction_on generalizing l with
  | _ n ih =>
    cases l with
    | nil => simp
    | cons a l =>
      have hlt : (l.filter fun b => !b == a).length < n := by
        have := l.length_filter_le fun b => !b == a
        simp only [List.length_cons] at hn
        omega
      rw [List.eraseDups_cons, List.nodup_cons]
      exact ⟨by simp, ih _ hlt _ rfl⟩

/-- The entries that a transfer adds to the frontier. -/
def targetEntries (prio : BitVec 8) (take : Mask) (target : Nat → Word) : List Entry :=
  (((lanesOf take).map target).eraseDups).map fun t =>
    { pc := t.setWidth 48, prio := prio, flags := 0, mask := maskWhere fun l => has take l && target l == t }

/-- One entry for each target below 2^48, with the lanes that take it. -/
theorem branchEntries_targetEntries (prio : BitVec 8) {take : Mask} {target : Nat → Word}
    (hnear : ∀ l, has take l = true → (target l).toNat < 2 ^ 48) : BranchEntries (targetEntries prio take target) prio take target := by
  have hmem {t : Word} : t ∈ ((lanesOf take).map target).eraseDups ↔ ∃ l, has take l = true ∧ target l = t := by
    simp [List.mem_eraseDups, mem_lanesOf]
  have hinj {l k : Nat} (hl : has take l = true) (hk : has take k = true) (h : (target l).setWidth 48 = (target k).setWidth 48) :
      target l = target k := by
    have hnat := congrArg BitVec.toNat h
    rw [BitVec.toNat_setWidth, BitVec.toNat_setWidth, Nat.mod_eq_of_lt (hnear l hl), Nat.mod_eq_of_lt (hnear k hk)] at hnat
    exact BitVec.eq_of_toNat_eq hnat
  refine ⟨fun e he => ?_, fun l _ htake => ?_, ?_⟩
  · obtain ⟨t, ht, rfl⟩ := List.mem_map.mp he
    obtain ⟨k, hk, rfl⟩ := hmem.mp ht
    refine ⟨rfl, rfl, rfl, fun hzero => ?_, fun l hl => ?_⟩
    · have hlane := maskWhere_eq_zero.mp hzero k (lt_of_has hk)
      simp [hk] at hlane
    · simp only [has_maskWhere, hl, decide_true, Bool.true_and, Bool.and_eq_true, beq_iff_eq]
      exact and_congr_right fun htake => ⟨congrArg _, hinj htake hk⟩
  · exact ⟨_, List.mem_map_of_mem (hmem.mpr ⟨l, htake, rfl⟩), by simp [htake, lt_of_has htake]⟩
  · rw [targetEntries, List.map_map]
    refine (nodup_eraseDups _).map_on fun x hx y hy hpc => ?_
    obtain ⟨l, hl, rfl⟩ := hmem.mp hx
    obtain ⟨k, hk, rfl⟩ := hmem.mp hy
    exact hinj hl hk hpc

/-! ### A transfer (R122, R302) -/

/-- The lanes of a transfer whose target is no word address, and those whose target lies above the address space. -/
def oddLanes (take : Mask) (target : Nat → Word) : Mask := maskWhere fun l => has take l && (target l).toNat % 8 != 0
def farLanes (take : Mask) (target : Nat → Word) : Mask := maskWhere fun l => has take l && decide (2 ^ 48 ≤ (target l).toNat)

theorem near_of_farLanes {take : Mask} {target : Nat → Word} (h : farLanes take target = 0) (l : Nat) (hl : has take l = true) :
    (target l).toNat < 2 ^ 48 := by
  have hlane := maskWhere_eq_zero.mp h l (lt_of_has hl)
  rw [hl, Bool.true_and, decide_eq_false_iff_not] at hlane
  exact not_le.mp hlane

/-- With one target for every lane, all lanes are at fault or none. -/
theorem oddLanes_const (take : Mask) (t : Word) : oddLanes take (fun _ => t) = if t.toNat % 8 ≠ 0 then take else 0 := by
  rw [oddLanes, maskWhere_has_and]
  simp

theorem farLanes_const (take : Mask) (t : Word) : farLanes take (fun _ => t) = if 2 ^ 48 ≤ t.toNat then take else 0 := by
  rw [farLanes, maskWhere_has_and]
  simp

section
variable (c : Ctx) (prio : BitVec 8) {take : Mask} {target : Nat → Word} (link : Ctx → Ctx)

theorem transfer_moves (hodd : oddLanes take target = 0) (hfar : farLanes take target = 0) :
    transfer c prio take target link = retire (((link c).leave take (targetEntries prio take target)).endRun) :=
  (if_neg (not_not.mpr hodd)).trans (if_neg (not_not.mpr hfar))

theorem transfer_misaligned (hodd : oddLanes take target ≠ 0) : transfer c prio take target link =
    trapAt c 0x22 (oddLanes take target) (target (lowest (oddLanes take target))) c.word := if_pos hodd

theorem transfer_beyond (hodd : oddLanes take target = 0) (hfar : farLanes take target ≠ 0) : transfer c prio take target link =
    trapAt c 0x21 (farLanes take target) (target (lowest (farLanes take target))) c.word :=
  (if_neg (not_not.mpr hodd)).trans (if_pos hfar)

end

/-- A word that is a transfer and writes no link. -/
theorem transfers_of_transfer {i : Instr} {h : Hdr} {prio : BitVec 8} {take : Ctx → Mask} {target : Ctx → Nat → Word}
    (hexec : ∀ s, exec i s = onWord i h s fun c => transfer c prio (take c) (target c) id) : Transfers i h prio take target := by
  intro s w f r hissues hok c odd far
  rw [hexec, onWord_ok hissues hok]
  refine ⟨fun hodd hfar => ?_, fun hodd => ?_, fun hodd hfar => ?_⟩
  · exact ⟨_, _, congrArg Host.Outcome.next (transfer_moves c prio id hodd hfar),
      branchEntries_targetEntries prio (near_of_farLanes hfar), rfl⟩
  · exact congrArg Host.Outcome.next (transfer_misaligned c prio id hodd)
  · exact congrArg Host.Outcome.next (transfer_beyond c prio id hodd hfar)

/-- Only the targets of lanes matter. -/
theorem transfer_congr (c : Ctx) (prio : BitVec 8) (take : Mask) {target target' : Nat → Word} (link : Ctx → Ctx)
    (h : ∀ l, l < 64 → target l = target' l) : transfer c prio take target link = transfer c prio take target' link := by
  have hodd : oddLanes take target = oddLanes take target' := maskWhere_congr fun l hl => by rw [h l hl]
  have hfar : farLanes take target = farLanes take target' := maskWhere_congr fun l hl => by rw [h l hl]
  have hlowest {m : Mask} (hm : m ≠ 0) : target (lowest m) = target' (lowest m) := h _ (lt_of_has (has_lowest hm))
  have htargets : (lanesOf take).map target = (lanesOf take).map target' :=
    List.map_congr_left fun l hl => h l (lt_of_has (mem_lanesOf.mp hl))
  have hentries : targetEntries prio take target = targetEntries prio take target' := by
    rw [targetEntries, htargets]
    exact List.map_congr_left fun t _ => congrArg (Entry.mk _ _ _ · _ _ _) (maskWhere_congr fun l hl => by rw [h l hl])
  by_cases ho : oddLanes take target = 0
  · by_cases hf : farLanes take target = 0
    · rw [transfer_moves c prio link ho hf, transfer_moves c prio link (hodd ▸ ho) (hfar ▸ hf), hentries]
    · rw [transfer_beyond c prio link ho hf, transfer_beyond c prio link (hodd ▸ ho) (hfar ▸ hf), ← hfar, hlowest hf]
  · rw [transfer_misaligned c prio link ho, transfer_misaligned c prio link (hodd ▸ ho), ← hodd, hlowest ho]

/-! ### The words -/

theorem transfers_bra (h : Hdr) (k : BitVec 8) (imm : BitVec 32) :
    Transfers (.bra h k imm) h k (·.act) fun c _ => c.pc.setWidth 64 + 8 * imm.signExtend 64 := by
  simp only [← branchTarget_eq]
  exact transfers_of_transfer fun _ => rfl

theorem transfers_brc (h : Hdr) (k : BitVec 8) (p : PReg) (imm : BitVec 32) :
    Transfers (.brc h k p imm) h k (fun c => c.act &&& c.p .d p) fun c _ => c.pc.setWidth 64 + 8 * imm.signExtend 64 := by
  simp only [← branchTarget_eq]
  exact transfers_of_transfer fun _ => rfl

/-- A word that transfers ACTIVE to the targets in the pairs A of its lanes. -/
theorem transfers_of_laneTargets {i : Instr} {h : Hdr} {k : BitVec 8} {a : VReg}
    (hexec : ∀ s, exec i s = onWord i h s fun c => transfer c k c.act (c.laneTargets a) id) :
    Transfers i h k (·.act) fun c l => BitVec.ofNat 64 (c.lane true .a (.v a) (Fin.ofNat 64 l)) := by
  have htargets (c : Ctx) (l : Nat) (hl : l < 64) :
      c.laneTargets a l = BitVec.ofNat 64 (c.lane true .a (.v a) (Fin.ofNat 64 l)) := by
    rw [show Fin.ofNat 64 l = ⟨l, hl⟩ from Fin.ext (Nat.mod_eq_of_lt hl)]
    exact laneTargets_eq c a ⟨l, hl⟩
  exact transfers_of_transfer fun s => (hexec s).trans <|
    congrArg (onWord i h s) (funext fun c => transfer_congr c k c.act id (htargets c))

/-- The link of a CALL: the address of the next word, in the pair D of the lanes of ACTIVE (R124). -/
def writeLink (d : VReg) (c : Ctx) : Ctx := c.setLanes true d c.act (fun _ => (c.pc.setWidth 64 + (8 : Word)).toNat) fun _ => 0

section
variable {s : State} {w : Issue} {f : Floe} {r : Run} {h : Hdr} {k : BitVec 8} {d : VReg} {imm : BitVec 32}

theorem exec_call (hissues : Issues s w f r) (hok : operandsOk s f (.call h k d imm) = true) :
    exec (.call h k d imm) s = .next (transfer (ctxOf s w f r h) k (activeOf w f r h)
      (fun _ => w.pc.setWidth 64 + 8 * imm.signExtend 64) (writeLink d)) := by
  have hexec : exec (.call h k d imm) s =
    onWord (.call h k d imm) h s fun c => transfer c k c.act (fun _ => c.branchTarget imm) (writeLink d) := rfl
  rw [hexec, onWord_ok hissues hok, branchTarget_eq]
  rfl

/-- The address after a word fits its 64 bits. -/
theorem link_toNat (pc : BitVec 48) : (pc.setWidth 64 + (8 : Word)).toNat = pc.toNat + 8 := by
  have hpc := pc.isLt
  rw [BitVec.toNat_add, BitVec.toNat_setWidth_of_le (by decide)]
  exact Nat.mod_eq_of_lt (by simp; omega)

/-- A CALL whose target is a word address moves ACTIVE and writes the link. -/
theorem call_moves (hissues : Issues s w f r) (hok : operandsOk s f (.call h k d imm) = true) {t : Word}
    (ht : w.pc.setWidth 64 + 8 * imm.signExtend 64 = t) {act : Mask} (hact : activeOf w f r h = act)
    (hfine : act = 0 ∨ t.toNat % 8 = 0 ∧ t.toNat < 2 ^ 48) :
    ∃ es v q, exec (.call h k d imm) s = .next (wordDone s w { f with frontier := f.frontier ++ es, v := v, run := some q }) ∧
      BranchEntries es k act (fun _ => t) ∧ q.sOld = r.sOld ∧ q.pOld = r.pOld ∧
      RunMoves w { r with mask := r.mask &&& ~~~act } q true ∧
      LanesWritten f { f with v := v } r act d.toNat 2 (fun j _ => wordOf (w.pc.toNat + 8) j) fun _ _ => 0 := by
  have hodd : oddLanes act (fun _ => t) = 0 := by
    rw [oddLanes_const]
    rcases hfine with rfl | ⟨halign, -⟩ <;> simp [*]
  have hfar : farLanes act (fun _ => t) = 0 := by
    rw [farLanes_const]
    rcases hfine with rfl | ⟨-, hlt⟩
    · exact ite_self _
    · exact if_neg (not_le.mpr hlt)
  obtain ⟨v, o, hlink, hwritten⟩ := setLanes_eq (ctxOf s w f r h) true d act (fun _ => w.pc.toNat + 8) fun _ => 0
  refine ⟨targetEntries k act fun _ => t, v, nextRun w { r with mask := r.mask &&& ~~~act, vOld := o } true, ?_,
    branchEntries_targetEntries k (near_of_farLanes hfar), rfl, rfl, rfl, hwritten⟩
  rw [exec_call hissues hok, hact, ht, transfer_moves _ _ _ hodd hfar, writeLink, ctxOf_act, ctxOf_pc, hact, link_toNat, hlink]
  exact congrArg Host.Outcome.next (retire_endRun s w f r h _ _)

end

/-- Settles O16: every word is one transfer, which moves the lanes of the take mask, or raises MISALIGNED, or PROTECTION; the link of CALL
is a write of the pair D. -/
theorem transferResults : Obligations.TransferResults := by
  unfold Obligations.TransferResults
  refine ⟨fun h k p a imm => ⟨?bra, ?brc, ?brx, ?ret⟩, ?call⟩
  case bra => exact transfers_bra h k imm
  case brc => exact transfers_brc h k p imm
  case brx | ret => exact transfers_of_laneTargets fun _ => rfl
  case call =>
    intro h k d imm s w f r hissues hok act t
    refine ⟨fun hfine => call_moves hissues hok rfl rfl hfine, fun hact hodd => ?_, fun hact halign hfar => ?_⟩
    · have hlanes : oddLanes act (fun _ => t) = act := (oddLanes_const ..).trans (if_pos hodd)
      rw [exec_call hissues hok, transfer_misaligned _ _ _ (hlanes.symm ▸ hact), hlanes]
      rfl
    · have hnone : oddLanes act (fun _ => t) = 0 := (oddLanes_const ..).trans (if_neg (not_not.mpr halign))
      have hlanes : farLanes act (fun _ => t) = act := (farLanes_const ..).trans (if_pos hfar)
      rw [exec_call hissues hok, transfer_beyond _ _ _ hnone (hlanes.symm ▸ hact), hlanes]
      rfl

end Sys2Proof.Machine
end

section
/-! PROOF of O17 and O18: priority, leaving, waiting and the words of a run (spec 05, R126 to R131; 10, R230, R234, R236). -/
namespace Sys2Proof.Machine
open Sys2Proof

/-! ### Effects that take place once (R32) -/

theorem once_idle {c : Ctx} (h : c.act = 0) (k : Ctx → Ctx) : c.once k = c := if_pos h
theorem once_busy {c : Ctx} (h : c.act ≠ 0) (k : Ctx → Ctx) : c.once k = k c := if_neg h

/-! ### Lanes that leave their entry -/

theorem leave_all (c : Ctx) (new : List Entry) :
    c.leave c.r.mask new = { c with f := { c.f with frontier := c.f.frontier ++ new }, r := { c.r with mask := 0 } } := by
  rw [Ctx.leave, BitVec.and_not_self]

/-- Lanes that leave for no other entry. -/
theorem leave_nil (c : Ctx) (m : Mask) : c.leave m [] = { c with f := c.f, r := { c.r with mask := c.r.mask &&& ~~~m } } := by
  rw [Ctx.leave, List.append_nil]

/-! ### PRIO (R129) -/

/-- Settles O17: the run takes the priority where a lane of ACTIVE asks for it, and its entry has the run's priority. -/
theorem prioWord : Obligations.PrioWord := by
  unfold Obligations.PrioWord
  intro h n s w f r hissues hok after
  have hexec : exec (.prio h n) s = .next (retire ((ctxOf s w f r h).once fun c => { c with r := { c.r with prio := n } })) :=
    onRegs_ok hissues hok h _
  refine ⟨fun hact => ?_, fun hact => ?_, fun hmask => ?_⟩
  · rw [hexec, once_busy hact]
    rfl
  · rw [hexec, once_idle hact]
    rfl
  · exact ⟨_, if_neg hmask, rfl, rfl⟩

/-! ### SWTRAP (R230) -/

section
variable {s : State} {w : Issue} {f : Floe} {r : Run} {h : Hdr}

theorem swTrap_idle (hact : activeOf w f r h = 0) (info : Word) :
    swTrap (ctxOf s w f r h) info = wordDone s w { f with run := some (nextRun w r true) } :=
  (if_pos hact).trans (retire_endRun s w f r h f r)

theorem swTrap_raises (hact : activeOf w f r h ≠ 0) (info : Word) :
    swTrap (ctxOf s w f r h) info = wordDone s w { f with
      traps := f.traps ++ [⟨⟨0x42, w.pc + 8, activeOf w f r h, w.pc.setWidth 64, info, false⟩, .run r.mask, false, false, true⟩]
      run := some (nextRun w r true) } :=
  (if_neg hact).trans (retire_endRun s w f r h _ r)

theorem bkptInfo_eq (n : BitVec 8) : (0x100000000 : Word) + n.setWidth 64 = BitVec.ofNat 64 (2 ^ 32 + n.toNat) := by
  apply BitVec.eq_of_toNat_eq
  rw [BitVec.toNat_add, BitVec.toNat_setWidth_of_le (by decide), BitVec.toNat_ofNat]
  rfl

/-! ### Words that leave or wait (R126 to R131, R234, R236) -/

/-- A word that leaves its floe as g and its run as q and goes on as its marker says. -/
theorem exec_of_onRegs {i : Instr} {k : Ctx → Ctx} {g : Floe} {q : Run} (hissues : Issues s w f r) (hok : operandsOk s f i = true)
    (hexec : exec i s = onRegs i h s k) (hk : k (ctxOf s w f r h) = { ctxOf s w f r h with f := g, r := q }) :
    exec i s = .next (wordDone s w { g with run := some (nextRun w q h.s) }) := by
  rw [hexec, onRegs_ok hissues hok, hk, retire_ctx]
  rfl

/-- A word that leaves its floe as g and its run as q and ends the run. -/
theorem exec_of_endRun {i : Instr} {k : Ctx → State} {g : Floe} {q : Run} (hissues : Issues s w f r) (hok : operandsOk s f i = true)
    (hexec : exec i s = onWord i h s k) (hk : k (ctxOf s w f r h) = retire ({ ctxOf s w f r h with f := g, r := q } : Ctx).endRun) :
    exec i s = .next (wordDone s w { g with run := some (nextRun w q true) }) := by
  rw [hexec, onWord_ok hissues hok, hk, retire_endRun]

variable (hissues : Issues s w f r)
include hissues

theorem exec_exit (hok : operandsOk s f (.exit h) = true) : exec (.exit h) s =
    .next (wordDone s w { f with run := some (nextRun w { r with mask := r.mask &&& ~~~activeOf w f r h } true) }) :=
  exec_of_endRun hissues hok rfl (congrArg (fun c => retire (Ctx.endRun c)) (leave_nil _ _))

theorem exec_yield (hok : operandsOk s f (.yield h) = true) : exec (.yield h) s =
    .next (wordDone s w { f with run := some (nextRun w { r with yielded := r.yielded || activeOf w f r h != 0 } true) }) := by
  refine exec_of_endRun hissues hok rfl (congrArg (fun c => retire (Ctx.endRun c)) ?_)
  by_cases hact : activeOf w f r h = 0
  · have hyielded : (r.yielded || activeOf w f r h != 0) = r.yielded := by rw [hact, bne_self_eq_false, Bool.or_false]
    rw [hyielded]
    exact once_idle hact _
  · have hyielded : (r.yielded || activeOf w f r h != 0) = true := by rw [bne_iff_ne.mpr hact, Bool.or_true]
    rw [hyielded]
    exact once_busy hact _

theorem exec_halt (hok : operandsOk s f (.halt h) = true) : exec (.halt h) s = .next (wordDone s w { f with
    run := some (nextRun w { r with halt := if activeOf w f r h = 0 then r.halt else some (r.halt.getD w.pc) } h.s) }) := by
  refine exec_of_onRegs hissues hok rfl ?_
  by_cases hact : activeOf w f r h = 0
  · rw [if_pos hact]
    exact once_idle hact _
  · rw [if_neg hact]
    exact once_busy hact _

theorem exec_reconv_idle (hok : operandsOk s f (.reconv h) = true) (hact : activeOf w f r h = 0) :
    exec (.reconv h) s = .next (wordDone s w { f with run := some (nextRun w r true) }) :=
  exec_of_endRun hissues hok rfl (congrArg (fun c => retire (Ctx.endRun c)) (once_idle hact _))

theorem exec_reconv_waits (hok : operandsOk s f (.reconv h) = true) (hact : activeOf w f r h ≠ 0) :
    exec (.reconv h) s = .next (wordDone s w { f with
      frontier := f.frontier ++ [⟨w.pc, r.prio, 2, activeOf w f r h, .none, 0, 0⟩]
      run := some (nextRun w { r with mask := r.mask &&& ~~~activeOf w f r h } true) }) :=
  exec_of_endRun hissues hok rfl (congrArg (fun c => retire (Ctx.endRun c)) (once_busy hact _))

theorem exec_sleep_idle {imm : BitVec 32} (hok : operandsOk s f (.sleep h imm) = true) (hidle : activeOf w f r h = 0 ∨ imm = 0) :
    exec (.sleep h imm) s = .next (wordDone s w { f with run := some (nextRun w r h.s) }) :=
  exec_of_onRegs hissues hok rfl (if_pos hidle)

theorem exec_sleep_waits {imm : BitVec 32} (hok : operandsOk s f (.sleep h imm) = true) (hact : activeOf w f r h ≠ 0) (himm : imm ≠ 0) :
    let t := s.firn (coreOf w.floe) + imm.setWidth 64
    exec (.sleep h imm) s = .next (wordDone s w { f with
      deadline := if f.deadline.toNat < t.toNat then t else f.deadline
      run := some (nextRun w { r with slept := true } h.s) }) :=
  exec_of_onRegs hissues hok rfl (if_neg (not_or.mpr ⟨hact, himm⟩))

theorem exec_lwait_idle {x : SReg} (hok : operandsOk s f (.lwait h x) = true)
    (hidle : activeOf w f r h = 0 ∨ ((ctxOf s w f r h).sr .a x).toNat ≤ (s.firn (coreOf w.floe)).toNat) :
    exec (.lwait h x) s = .next (wordDone s w { f with run := some (nextRun w r true) }) :=
  exec_of_endRun hissues hok rfl (if_pos hidle)

theorem exec_lwait_waits {x : SReg} (hok : operandsOk s f (.lwait h x) = true) (hact : activeOf w f r h ≠ 0)
    (hlater : (s.firn (coreOf w.floe)).toNat < ((ctxOf s w f r h).sr .a x).toNat) :
    let t := (ctxOf s w f r h).sr .a x
    exec (.lwait h x) s = .next (wordDone s w { f with
      deadline := if f.deadline.toNat < t.toNat then t else f.deadline
      frontier := f.frontier ++ [⟨w.pc, r.prio, 8, r.mask, .lwait, 0, 0⟩]
      run := some (nextRun w { r with mask := 0 } true) }) :=
  exec_of_endRun hissues hok rfl <| (if_neg (not_or.mpr ⟨hact, not_le.mpr hlater⟩)).trans <|
    congrArg (fun c => retire (Ctx.endRun c)) (leave_all _ _)

end

/-- Settles O18: each word changes what its rule names in the floe and its run, and ends the run, or goes on as its marker says. -/
theorem waitResults : Obligations.WaitResults := by
  unfold Obligations.WaitResults
  refine ⟨fun h n imm s w f r hissues => ⟨?trap, ?bkpt⟩, ?rest⟩
  case trap =>
    intro hok
    have hexec : exec (.trap h imm) s = .next (swTrap (ctxOf s w f r h) (imm.setWidth 64)) := onWord_ok hissues hok h _
    exact ⟨fun hact => hexec.trans (congrArg _ (swTrap_idle hact _)), fun hact => hexec.trans (congrArg _ (swTrap_raises hact _))⟩
  case bkpt =>
    intro hok
    have hexec : exec (.bkpt h n) s = .next (swTrap (ctxOf s w f r h) (0x100000000 + n.setWidth 64)) := onWord_ok hissues hok h _
    rw [bkptInfo_eq] at hexec
    exact ⟨fun hact => hexec.trans (congrArg _ (swTrap_idle hact _)), fun hact => hexec.trans (congrArg _ (swTrap_raises hact _))⟩
  case rest =>
    intro h imm x s w f r hissues
    refine ⟨fun hok => exec_of_onRegs hissues hok rfl rfl, exec_exit hissues, exec_yield hissues, exec_halt hissues,
      fun hact hok => exec_reconv_idle hissues hok hact, fun hact hok => exec_reconv_waits hissues hok hact,
      fun hidle hok => exec_sleep_idle hissues hok hidle, fun hact himm hok => exec_sleep_waits hissues hok hact himm,
      fun hidle hok => exec_lwait_idle hissues hok hidle, fun hact hlater hok => exec_lwait_waits hissues hok hact hlater⟩

end Sys2Proof.Machine
end

section
/-! REFUTATION of O2: UF of a fused multiply-add at a reduced tier (spec 02, R56; 03, R76). -/
namespace Sys2Proof.Machine
open Sys2Proof

/-! ### An FP32 FFMA at HALF whose exact result is zero

1 + 2^-12 has 13 bits, and HALF truncates it to 1. The exact product with 2^-120 is taken away by c; the truncated one leaves -2^-132,
below the smallest normal number. R56 calls no result tiny whose exact value is zero, and the model sets UF. -/

/-- 1 + 2^-12, 2^-120 and -(1 + 2^-12) * 2^-120 in FP32. -/
def onePlus : Nat := 0x3F800800
def scaleDown : Nat := 0x03800000
def cancels : Nat := 0x83800800

/-- The element that the model delivers. -/
def cancelled : El := tiered FFmt.f32 (.fma false) (tierP .f32 .half) .rn false onePlus scaleDown cancels 0 0 0

theorem cancelled_flags : cancelled.fl = { uf := true, nx := true } := by decide

theorem onePlus_decode : FFmt.f32.decode onePlus = .fin false 8390656 (-23) := by decide
theorem scaleDown_decode : FFmt.f32.decode scaleDown = .fin false 8388608 (-143) := by decide
theorem cancels_decode : FFmt.f32.decode cancels = .fin true 8390656 (-143) := by decide

/-- The product of the untruncated operands and c cancel. -/
theorem exact_eq_zero : FFmt.f32.real onePlus * FFmt.f32.real scaleDown + FFmt.f32.real cancels = 0 := by
  simp only [FFmt.real, onePlus_decode, scaleDown_decode, cancels_decode, FVal.dy, Dy.real]
  norm_num

/-- No element that sets UF delivers an exact zero, whatever value it rounds. -/
theorem not_delivers_of_uf {F : FFmt} {md : RMode} {P : Nat} {x : ℝ} {e : El} (huf : e.fl.uf = true) : ¬Delivers F md P x 0 e := by
  rintro ⟨hin, hover⟩
  rcases le_or_gt |roundP (rndOf md) x P F.emin| (F.real F.maxCode) with hle | hlt
  · obtain ⟨-, -, -, -, -, -, htiny⟩ := hin hle
    exact (htiny.mp huf).1.1 rfl
  · rw [(hover hlt).1] at huf
    cases huf

theorem not_tieredExactly : ¬TieredExactly := by
  intro h
  have hfinite : ∀ k ∈ (TOp.fma false).ops onePlus scaleDown cancels, ((fmtOf .f32).decode k).isFin = true := by decide
  obtain ⟨hdelivers, -⟩ := h .f32 .half (.fma false) .rn false onePlus scaleDown cancels 0 0 0 hfinite
  have hexact : (fmtOf .f32).real onePlus * (fmtOf .f32).real scaleDown + (fmtOf .f32).real cancels = 0 := exact_eq_zero
  dsimp only at hdelivers
  rw [hexact] at hdelivers
  exact not_delivers_of_uf (congrArg Flags.uf cancelled_flags) hdelivers

/-- Refutes O2: the clause on tiered operations asks for UF only where the exact result is not zero (R56), and an FFMA at HALF of
1 + 2^-12, 2^-120 and -(1 + 2^-12) * 2^-120 sets UF on an exact zero. -/
theorem not_resultRules : ¬Obligations.ResultRules := by
  unfold Obligations.ResultRules
  rintro ⟨-, -, -, -, -, htiered, -⟩
  exact not_tieredExactly htiered

end Sys2Proof.Machine
end

section
/-! SUPPORT. Words that write vector registers: equal values write the same, and what Put leaves of a value that fits its type
(spec 06, R140, R141, R146). -/
namespace Sys2Proof.Machine
open Sys2Proof

/-! ### Words with the same values -/

theorem LanesWritten.congr {f g : Floe} {r : Run} {act : Mask} {d n : Nat} {val val' : Nat → Fin 64 → Lane}
    {bnd : Nat → Fin 64 → Bound} (h : LanesWritten f g r act d n val bnd) (hval : ∀ k l, k < n → val k l = val' k l) :
    LanesWritten f g r act d n val' bnd := by
  intro k l
  obtain ⟨hkept, hnew⟩ := h k l
  refine ⟨hkept, fun hact hlow hhigh => ?_⟩
  rw [← hval (k - d) l (by omega)]
  exact hnew hact hlow hhigh

theorem WritesVec.congr {i : Instr} {h : Hdr} {d : VReg} {n : Nat} {val val' : Ctx → Nat → Fin 64 → Lane}
    {bnd : Ctx → Fin 64 → Bound} {bits : Ctx → BitVec 5} (hw : WritesVec i h d n val bnd bits)
    (hval : ∀ c k l, k < n → val c k l = val' c k l) :
    WritesVec i h d n val' bnd bits := by
  intro s w f r hissues hok c
  obtain ⟨x, q, hexec, hrun, hs, hp, hwritten⟩ := hw s w f r hissues hok
  exact ⟨x, q, hexec, hrun, hs, hp, hwritten.congr (hval c)⟩

/-- A word that writes a register or pair and no sticky bit. -/
theorem writesVec_of_setLanes_only {i : Instr} {h : Hdr} {d : VReg} {wide : Bool} {val : Ctx → Fin 64 → Nat}
    {bnd : Ctx → Fin 64 → Bound}
    (hexec : ∀ s, exec i s = onRegs i h s fun c => c.setLanes wide d c.act (val c) (bnd c)) :
    WritesVec i h d (if wide then 2 else 1) (fun c k l => wordOf (val c l) k) bnd fun _ => 0 :=
  writesVec_of_setLanes fun s => (hexec s).trans (congrArg (onRegs i h s) (funext fun _ => (stick_zero _).symm))

theorem wordOf_zero (x : Nat) : wordOf x 0 = BitVec.ofNat 32 x := by rw [wordOf, pow_zero, Nat.div_one]

/-- A word that writes one register, whose lanes need no second word. -/
theorem WritesVec.of_narrow {i : Instr} {h : Hdr} {d : VReg} {val : Ctx → Fin 64 → Nat} {val' : Ctx → Fin 64 → Lane}
    {bnd : Ctx → Fin 64 → Bound} {bits : Ctx → BitVec 5} (hw : WritesVec i h d 1 (fun c k l => wordOf (val c l) k) bnd bits)
    (hval : ∀ c l, BitVec.ofNat 32 (val c l) = val' c l) : WritesVec i h d 1 (fun c _ l => val' c l) bnd bits := by
  refine hw.congr fun c k l hk => ?_
  rw [Nat.lt_one_iff.mp hk, wordOf_zero, hval]

/-! ### Put of a value in range (R132) -/

theorem bits_pos (ty : ITy) : 0 < ty.bits := by cases ty <;> decide
theorem bits_le (ty : ITy) : ty.bits ≤ 64 := by cases ty <;> decide

/-- The integer of a code lies in the range of its type (R52). -/
theorem intVal_range {n : Nat} (hn : 0 < n) (signed : Bool) (x : Nat) :
    intMin n signed ≤ intVal n signed x ∧ intVal n signed x ≤ intMax n signed := by
  have hx : ((x % 2 ^ n : Nat) : Int) < 2 ^ n := by exact_mod_cast Nat.mod_lt x (Nat.two_pow_pos n)
  have hhalf : (2 : Int) ^ n = 2 * 2 ^ (n - 1) := by rw [← pow_succ', Nat.sub_add_cancel hn]
  have hcast : ((2 ^ (n - 1) : Nat) : Int) = 2 ^ (n - 1) := Nat.cast_pow 2 _
  cases signed with
  | false => simp only [intVal, intMin, intMax, Bool.false_and, Bool.false_eq_true, if_false]; omega
  | true =>
    simp only [intVal, intMin, intMax, Bool.true_and, decide_eq_true_eq, if_true]
    split <;> omega

/-- A code below half of the range is its own integer. -/
theorem intVal_of_lt {n x : Nat} (hx : x < 2 ^ (n - 1)) (signed : Bool) : intVal n signed x = x := by
  have hmod : x % 2 ^ n = x := Nat.mod_eq_of_lt (hx.trans_le (Nat.pow_le_pow_right (by decide) (Nat.sub_le n 1)))
  simp only [intVal, hmod, decide_eq_false (not_le.mpr hx), Bool.and_false, Bool.false_eq_true, if_false]

/-- Put leaves the bits of its type's integers, saturating or not. -/
theorem putBits_valOf {ty : ITy} (sat : Bool) {x : Nat} (hx : x < 2 ^ ty.bits) : putBits ty sat (intVal ty.bits ty.signed x) = x := by
  cases sat with
  | false => exact putBits_intVal hx
  | true =>
    obtain ⟨hmin, hmax⟩ := intVal_range (bits_pos ty) ty.signed x
    rw [putBits_sat, max_eq_left hmin, min_eq_left hmax]
    exact putBits_intVal hx

/-- A count up to 64 is the integer of its own bits. -/
theorem putBits_count (ty : ITy) (sat : Bool) {n : Nat} (hn : n ≤ 64) : putBits ty sat (n : Int) = n := by
  have hhalf : n < 2 ^ (ty.bits - 1) := by rcases bits_cases ty with h | h <;> rw [h] <;> omega
  rw [← intVal_of_lt hhalf ty.signed]
  exact putBits_valOf sat (hhalf.trans_le (Nat.pow_le_pow_right (by decide) (Nat.sub_le _ 1)))

theorem clzIn_le (w x : Nat) : clzIn w x ≤ w := by
  simp only [clzIn]
  split <;> omega

theorem onesIn_le (w x : Nat) : onesIn w x ≤ w := (List.length_filter_le _ _).trans (List.length_range).le

theorem putBits_lt (ty : ITy) (sat : Bool) (v : Int) : putBits ty sat v < 2 ^ ty.bits :=
  (Int.toNat_lt' (Nat.two_pow_pos _)).mpr ((Int.emod_lt_of_pos _ (pow_pos two_pos _)).trans_eq (Nat.cast_pow 2 _).symm)

/-- The register of a uniform result holds its W bits. -/
theorem extBits_mod {ty : ITy} {x : Nat} (hx : x < 2 ^ ty.bits) : (extBits ty x).toNat % 2 ^ ty.bits = x := by
  have hint : (((extBits ty x).toNat % 2 ^ ty.bits : Nat) : Int) = x := by
    rw [extBits, BitVec.toNat_ofInt, Int.natCast_mod, Int.toNat_of_nonneg (Int.emod_nonneg _ (by decide)), Nat.cast_pow,
      Int.emod_emod_of_dvd _ (by exact_mod_cast pow_dvd_pow 2 (bits_le ty))]
    exact (intVal_emod ..).trans (congrArg _ (Nat.mod_eq_of_lt hx))
  exact_mod_cast hint

/-- What Put gives a lane is the W low bits of what it gives a uniform register. -/
theorem putBits_eq_put (m : IntMod) (v : Int) : putBits m.ty m.sat v = (put m v).toNat % 2 ^ m.ty.bits :=
  (extBits_mod (putBits_lt ..)).symm

/-- A left shift by an amount that Put may cut short. -/
theorem putBits_shlVal (m : IntMod) (a amt : Nat) :
    putBits m.ty m.sat (shlVal m.ty m.sat (valOf m.ty a) amt) = putBits m.ty m.sat (valOf m.ty a * 2 ^ amt) := by
  rw [putBits_eq_put, put_shlVal, ← putBits_eq_put]

end Sys2Proof.Machine
end

section
/-! PROOF of O6 and O7: vector integer words, moves, selects and immediates (spec 06, R141, R143, R144, R146). -/
namespace Sys2Proof.Machine
open Sys2Proof

/-! ### Vector integer words (R141) -/

/-- A vector integer word whose row gives the same value as the model's operation. -/
theorem writesVec_of_vecOp {i : Instr} {h : Hdr} {op : IOp} {m : IntMod} {d : VReg} {n : Nat} {a b e : VS} {val : Ctx → Fin 64 → Nat}
    {ins : Ctx → Fin 64 → List Bound}
    (hexec : ∀ s, exec i s = onRegs i h s fun c => vecOp c op m d n a b e)
    (hval : ∀ c l, putBits m.ty m.sat (iop op m.ty m.sat (c.lane m.ty.wide .a a l) (c.lane m.ty.wide .b b l) (c.lane m.ty.wide .c e l)
      (c.lane m.ty.wide .b b l)) = val c l)
    (hins : ∀ c l, [c.laneB m.ty.wide .a a l, c.laneB m.ty.wide .b b l, c.laneB m.ty.wide .c e l].take n = ins c l) :
    WritesVec i h d (if m.ty.wide then 2 else 1) (fun c k l => wordOf (val c l) k) (fun c l => intBound (ins c l))
      fun c => unbBit c.act (fun l => intBound (ins c l)) (ins c) := by
  obtain rfl : _ = val := funext fun c => funext (hval c)
  obtain rfl : _ = ins := funext fun c => funext (hins c)
  exact writesVec_of_setLanes hexec

section
variable {ty : ITy} (sat : Bool) {x y : Nat} (hx : x < 2 ^ ty.bits)
include hx

theorem putBits_iop_and (hy : y < 2 ^ ty.bits) (z k : Nat) : putBits ty sat (iop .and ty sat x y z k) = x &&& y := by
  simp only [iop, Nat.mod_eq_of_lt hx, Nat.mod_eq_of_lt hy]
  exact putBits_valOf sat (Nat.and_lt_two_pow x hy)

theorem putBits_iop_or (hy : y < 2 ^ ty.bits) (z k : Nat) : putBits ty sat (iop .or ty sat x y z k) = x ||| y := by
  simp only [iop, Nat.mod_eq_of_lt hx, Nat.mod_eq_of_lt hy]
  exact putBits_valOf sat (Nat.or_lt_two_pow hx hy)

theorem putBits_iop_xor (hy : y < 2 ^ ty.bits) (z k : Nat) : putBits ty sat (iop .xor ty sat x y z k) = x ^^^ y := by
  simp only [iop, Nat.mod_eq_of_lt hx, Nat.mod_eq_of_lt hy]
  exact putBits_valOf sat (Nat.xor_lt_two_pow hx hy)

theorem putBits_iop_not (y z k : Nat) : putBits ty sat (iop .not ty sat x y z k) = 2 ^ ty.bits - 1 - x := by
  simp only [iop, Nat.mod_eq_of_lt hx]
  exact putBits_valOf sat (by omega)

theorem putBits_iop_shr (y z k : Nat) : putBits ty sat (iop .shr ty sat x y z k) = x / 2 ^ k := by
  have hshift := shr_eq_div ty.bits x k
  rw [Nat.mod_eq_of_lt hx] at hshift
  simp only [iop, Nat.mod_eq_of_lt hx, hshift]
  exact putBits_valOf sat ((Nat.div_le_self _ _).trans_lt hx)

end

/-- Settles O6: each row is Put of the model's operation on the lanes' values; logical operations, the complement, right shifts and
counts give values that Put leaves as they are, and VBFI writes its bits without Put. -/
theorem vectorIntResults : Obligations.VectorIntResults := by
  unfold Obligations.VectorIntResults
  intro h m d a b x y z W w n A B X Y Z V P in1 in2 in3 Is
  have hA (c : Ctx) (l : Fin 64) : A c l < 2 ^ m.ty.bits := c.lane_lt m.ty .a a l
  have hB (c : Ctx) (l : Fin 64) : B c l < 2 ^ m.ty.bits := c.lane_lt m.ty .b b l
  refine ⟨?add, ?sub, ?mul, ?mulh, ?mad, ?abs, ?neg, ?min, ?max, ?and, ?or, ?xor, ?not, ?shl, ?shr, ?sar, ?clz, ?popc, ?bfe, ?bfi⟩
  case add | sub | mul | mulh | mad | abs | neg | min | max | sar | bfe =>
    exact writesVec_of_vecOp (fun _ => rfl) (fun _ _ => rfl) fun _ _ => rfl
  case and => exact writesVec_of_vecOp (fun _ => rfl) (fun c l => putBits_iop_and m.sat (hA c l) (hB c l) ..) fun _ _ => rfl
  case or => exact writesVec_of_vecOp (fun _ => rfl) (fun c l => putBits_iop_or m.sat (hA c l) (hB c l) ..) fun _ _ => rfl
  case xor => exact writesVec_of_vecOp (fun _ => rfl) (fun c l => putBits_iop_xor m.sat (hA c l) (hB c l) ..) fun _ _ => rfl
  case not => exact writesVec_of_vecOp (fun _ => rfl) (fun c l => putBits_iop_not m.sat (hA c l) ..) fun _ _ => rfl
  case shl => exact writesVec_of_vecOp (fun _ => rfl) (fun c l => putBits_shlVal m ..) fun _ _ => rfl
  case shr => exact writesVec_of_vecOp (fun _ => rfl) (fun c l => putBits_iop_shr m.sat (hA c l) ..) fun _ _ => rfl
  case clz =>
    exact writesVec_of_vecOp (fun _ => rfl) (fun c l => putBits_count m.ty m.sat ((clzIn_le ..).trans (bits_le _))) fun _ _ => rfl
  case popc =>
    exact writesVec_of_vecOp (fun _ => rfl) (fun c l => putBits_count m.ty m.sat ((onesIn_le ..).trans (bits_le _))) fun _ _ => rfl
  case bfi => exact writesVec_of_setLanes fun _ => rfl

/-! ### Moves, selects and immediates (R143, R144) -/

theorem writesVec_of_vecConst {i : Instr} {h : Hdr} {d : VReg} {imm : BitVec 32}
    (hexec : ∀ s, exec i s = onRegs i h s fun c => vecConst c d imm) : WritesVec i h d 1 (fun _ _ _ => imm) (fun _ _ => 0) fun _ => 0 :=
  WritesVec.of_narrow (writesVec_of_setLanes_only (wide := false) hexec) fun _ _ => by rw [BitVec.ofNat_toNat, BitVec.setWidth_eq]

/-- An immediate word whose row gives the same value as the model's operation. -/
theorem writesVec_of_vecImm {i : Instr} {h : Hdr} {d : VReg} {imm : BitVec 32} {f : BitVec 32 → BitVec 32 → BitVec 32}
    {g : Lane → Lane} (hexec : ∀ s, exec i s = onRegs i h s fun c => vecImm c d imm f) (hg : ∀ v, f v imm = g v) :
    WritesVec i h d 1 (fun c _ l => g (c.v .d d).val[l]) (fun c l => intBound [(c.v .d d).bnd[l]])
      fun c => unbBit c.act (fun l => intBound [(c.v .d d).bnd[l]]) fun l => [(c.v .d d).bnd[l]] :=
  WritesVec.of_narrow (writesVec_of_setLanes (wide := false) hexec) fun _ _ => by rw [BitVec.ofNat_toNat, BitVec.setWidth_eq, hg]

theorem shiftLeft_eq_ofNat_mul (v : Lane) (k : Nat) : v <<< k = BitVec.ofNat 32 (v.toNat * 2 ^ k) := by
  apply BitVec.eq_of_toNat_eq
  rw [BitVec.toNat_shiftLeft, Nat.shiftLeft_eq, BitVec.toNat_ofNat]

theorem ushiftRight_eq_ofNat_div (v : Lane) (k : Nat) : v >>> k = BitVec.ofNat 32 (v.toNat / 2 ^ k) := by
  apply BitVec.eq_of_toNat_eq
  rw [BitVec.toNat_ushiftRight, Nat.shiftRight_eq_div_pow, BitVec.toNat_ofNat,
    Nat.mod_eq_of_lt ((Nat.div_le_self _ _).trans_lt v.isLt)]

/-- Settles O7: moves and selects write the lanes that they name, constants the immediate, and the other immediates one operation on D. -/
theorem vectorMoveAndImmediateResults : Obligations.VectorMoveAndImmediateResults := by
  unfold Obligations.VectorMoveAndImmediateResults
  intro h m ty d x y a p imm D inD Edits
  refine ⟨?mov, ?sel, ?movi, ?fmovi, ?addi, ?andi, ?ori, ?shli, ?shri⟩
  case mov | sel => exact writesVec_of_setLanes_only fun _ => rfl
  case movi | fmovi => exact writesVec_of_vecConst fun _ => rfl
  case addi | andi | ori => exact writesVec_of_vecImm (fun _ => rfl) fun _ => rfl
  case shli => exact writesVec_of_vecImm (f := fun v k => v <<< k.toNat) (fun _ => rfl) (shiftLeft_eq_ofNat_mul · _)
  case shri => exact writesVec_of_vecImm (f := fun v k => v >>> k.toNat) (fun _ => rfl) (ushiftRight_eq_ofNat_div · _)

end Sys2Proof.Machine
end

section
/-! SUPPORT. Floating-point and conversion words end in the write-back of the lanes of ACTIVE (spec 06, R147): what LASTTIER, the
sticky bits and the flags of a word leave as it is, and words that deliver equal lanes. -/
namespace Sys2Proof.Machine
open Sys2Proof

theorem flag_eq (c : Ctx) (x : Flags) : c.flag x = { c with f := { c.f with sys := sysAfter c.f x.bits 0 none } } := by
  unfold Ctx.flag sysAfter
  split <;> simp

theorem sysAfter_keep (c : Ctx) : { c with f := { c.f with sys := sysAfter c.f 0 0 none } } = c := by
  have hsys : sysAfter c.f 0 0 none = c.f.sys := sysAfter_none c.f
  rw [hsys]

/-- No register that governs a floating-point word is one that such a word writes (R31). -/
theorem env_sysAfter (c : Ctx) (fl bits : BitVec 5) (t : Option (BitVec 2)) :
    ({ c with f := { c.f with sys := sysAfter c.f fl bits t } } : Ctx).env = c.env := by
  unfold Ctx.env sysAfter
  cases c.f.handler <;> rfl

/-- A word that ends in the write-back of the lanes of ACTIVE and writes no tier. -/
theorem deliversLanes_of_fpBack {i : Instr} {h : Hdr} {d : VReg} {n : Nat} {g : Ctx → Fin 64 → LaneOut} {sr : Bool}
    (hexec : ∀ s, exec i s = onWord i h s fun c => fpBack c d.toNat n (outs c.act (g c)) 1 fun c => c.drew sr) :
    DeliversLanes i h d n (fun c => outs c.act (g c)) (fun _ => 1) (fun _ => none) (fun _ => 0) sr := by
  refine deliversLanes_of_back (fun s => (hexec s).trans (congrArg (onWord i h s) (funext fun c => ?_))) (fun c => ⟨g c, rfl⟩)
    fun _ _ => ⟨rfl, rfl⟩
  have hstick : (fun k : Ctx => (k.stick 0).drew sr) = fun k => k.drew sr := funext fun k => congrArg (Ctx.drew · sr) (stick_zero k)
  rw [sysAfter_keep, hstick]

/-- A word whose lanes deliver what its row gives in another form. -/
theorem deliversLanes_of_eq {i : Instr} {h : Hdr} {d : VReg} {n : Nat} {g g' : Ctx → Fin 64 → LaneOut} {sr : Bool}
    (hexec : ∀ s, exec i s = onWord i h s fun c => fpBack c d.toNat n (outs c.act (g c)) 1 fun c => c.drew sr)
    (hlane : ∀ c l, g c l = g' c l) :
    DeliversLanes i h d n (fun c => outs c.act (g' c)) (fun _ => 1) (fun _ => none) (fun _ => 0) sr := by
  obtain rfl : g = g' := funext fun c => funext (hlane c)
  exact deliversLanes_of_fpBack hexec

theorem legal_of_operandsOk {s : State} {f : Floe} {i : Instr} (h : operandsOk s f i = true) : i.legal = true := by
  simp only [operandsOk, Bool.and_eq_true] at h
  exact h.1.1

/-- What a word delivers matters only where it is legal (R106). -/
theorem deliversLanes_of_legal {i : Instr} {h : Hdr} {d : VReg} {n : Nat} {o : Ctx → Outs} {code : Ctx → BitVec 2}
    {tier : Ctx → Option (BitVec 2)} {bits : Ctx → BitVec 5} {sr : Bool}
    (hlegal : i.legal = true → DeliversLanes i h d n o code tier bits sr) :
    DeliversLanes i h d n o code tier bits sr :=
  fun s w f r hissues hok => hlegal (legal_of_operandsOk hok) s w f r hissues hok

end Sys2Proof.Machine
end

section
/-! PROOF of O9 and O10: floating-point arithmetic (spec 06, R147 to R149, R152 to R154; 03, R75 to R82). -/
namespace Sys2Proof.Machine
open Sys2Proof

/-! ### Tiered words (R147, R148) -/

/-- The tier of a word: its own, or AUTO's choice, which LASTTIER records (R75, R82). -/
theorem resolveTier_eq (c : Ctx) (ty : FTy) (t : Tier) (op : TOp) (md : RMode) (els : Fin 64 → List Ops3) :
    let x := tierOf c ty t op md els
    c.resolveTier ty t op md (activeEls c.act els) =
      (x.1, { c with f := { c.f with sys := sysAfter c.f 0 0 (autoCode c t x) } }, x.2) := by
  intro x
  cases t with
  | auto =>
    by_cases hact : c.act = 0
    · have hx : x = (.full, false) := if_pos hact
      have hcode : autoCode c .auto x = none := if_neg fun h => h.2 hact
      rw [hcode, sysAfter_keep, hx]
      exact if_pos hact
    · have hx : x = c.env.autoTier ty op md (activeEls c.act els) := if_neg hact
      have hcode : autoCode c .auto x = some (tierCode x.1) := if_pos ⟨rfl, hact⟩
      rw [hcode, ← tierTo_eq, hx]
      exact if_neg hact
  | full | half | quart => exact congrArg (fun c' => (_, c', false)) (sysAfter_keep c).symm

/-- AUTO with no lane in ACTIVE predicts nothing. -/
theorem tierOf_idle {c : Ctx} (hact : c.act = 0) (ty : FTy) (t : Tier) (op : TOp) (md : RMode) (els : Fin 64 → List Ops3) :
    (tierOf c ty t op md els).2 = false := by
  cases t with
  | auto => rw [tierOf, if_pos hact]
  | full | half | quart => rfl

theorem stick_if (b : Bool) (bit : BitVec 5) :
    (fun k : Ctx => if b then k.stick bit else k) = fun k => (k.stick (if b then bit else 0)).drew false := by
  funext k
  cases b with
  | false => exact (stick_zero k).symm
  | true => rfl

/-- How a tiered word goes on with its tier, the context that holds LASTTIER, and whether TIERUP is due. -/
def tieredBack (op : TOp) (m : FpMod) (d : VReg) (A B E : Lanes) (x : Tier × Ctx × Bool) : State :=
  fpBack x.2.1 d.toNat (regsOf m.ty.wide)
    (tieredOuts x.2.1.env (!m.q) x.2.1.act m.ty op m.rm x.1 (elements m.ty A B E) fun l => [A.bnd l, B.bnd l, E.bnd l]) (tierCode x.1)
    fun k => if x.2.2 then k.stick stickyTIERUP else k

/-- The third operand of a tiered word, zeros where it has none. -/
def thirdLanes (c : Ctx) (wide : Bool) : Option VReg → Lanes
  | some r => c.lanesV wide .c r
  | none => bcast 0

theorem tieredWord_eq (c : Ctx) (op : TOp) (m : FpMod) (d : VReg) (a b : VS) (e : Option VReg) :
    let A := c.lanes m.ty.wide .a a
    let B := c.lanes m.ty.wide .b b
    let E := thirdLanes c m.ty.wide e
    tieredWord c op m d a b e =
      tieredBack op m d A B E (c.resolveTier m.ty m.tier op m.rm (activeEls c.act (elements m.ty A B E))) := by
  cases e <;> rfl

/-- A tiered word whose third operand is E. -/
theorem deliversLanes_of_tieredWord {i : Instr} {h : Hdr} {m : FpMod} {d : VReg} {a b : VS} {e : Option VReg} {op : TOp} {E : Ctx → Lanes}
    (hexec : ∀ s, exec i s = onWord i h s fun c => tieredWord c op m d a b e)
    (hE : ∀ c, thirdLanes c m.ty.wide e = E c) :
    let A (c : Ctx) := c.lanes m.ty.wide .a a
    let B (c : Ctx) := c.lanes m.ty.wide .b b
    let t (c : Ctx) := tierOf c m.ty m.tier op m.rm (elements m.ty (A c) (B c) (E c))
    DeliversLanes i h d (regsOf m.ty.wide) (fun c => tieredLanes c op m.ty m.rm (!m.q) (t c).1 (A c) (B c) (E c))
      (fun c => tierCode (t c).1) (fun c => autoCode c m.tier (t c)) (fun c => if (t c).2 then stickyTIERUP else 0) false := by
  intro A B t
  refine deliversLanes_of_back (fun s => (hexec s).trans (congrArg (onWord i h s) (funext fun c => ?word))) (fun _ => ⟨_, rfl⟩)
    fun c hact => ?idle
  case word =>
    have hword := tieredWord_eq c op m d a b e
    rw [hE] at hword
    have hres := resolveTier_eq c m.ty m.tier op m.rm (elements m.ty (A c) (B c) (E c))
    have henv := env_sysAfter c 0 0 (autoCode c m.tier (t c))
    rw [hword, hres, tieredBack, henv, stick_if]
    rfl
  case idle =>
    have hup : (t c).2 = false := tierOf_idle hact ..
    exact ⟨if_neg fun h => h.2 hact, if_neg (ne_true_of_eq_false hup)⟩

/-- Settles O9: the rows are one word, with three operands or with two and zeros. -/
theorem tieredResults : Obligations.TieredResults := by
  unfold Obligations.TieredResults
  intro h m nc d x y z a b zero Is L
  refine ⟨?add, ?sub, ?mul, ?fma⟩
  case add | sub | mul | fma => exact deliversLanes_of_tieredWord (fun _ => rfl) fun _ => rfl

/-! ### Words at the format's own precision (R149, R152 to R154) -/

/-- What lane l of a word of n operands delivers. -/
def plainLane (c : Ctx) (m : FpMod) (n : Nat) (A B : Lanes) (f : FFmt → Nat → Nat → Bound → Bound → El) (l : Fin 64) : LaneOut :=
  laneOut c.env (!m.q) m.ty ((elements m.ty A B (bcast 0) l).map fun x => f (fmtOf m.ty) x.a x.b x.ea x.eb) ([A.bnd l, B.bnd l].take n)

theorem plainWord_eq (c : Ctx) (m : FpMod) (d : VReg) (n : Nat) (a b : VS) (f : FFmt → Nat → Nat → Bound → Bound → El) :
    plainWord c m d n a b f = fpBack c d.toNat (regsOf m.ty.wide)
      (outs c.act (plainLane c m n (c.lanes m.ty.wide .a a) (c.lanes m.ty.wide .b b) f)) 1 fun c => c.drew false := by
  have hlane : plainLane c m n (c.lanes m.ty.wide .a a) (c.lanes m.ty.wide .b b) f = _ :=
    funext fun l => by rw [plainLane, elements_bcast_zero]
  rw [hlane]
  rfl

/-- A word of one or two operands whose row gives the same lanes. -/
theorem deliversLanes_of_plainWord {i : Instr} {h : Hdr} {m : FpMod} {d : VReg} {n : Nat} {a b : VS}
    {f : Ctx → FFmt → Nat → Nat → Bound → Bound → El} {g : Ctx → Fin 64 → LaneOut}
    (hexec : ∀ s, exec i s = onWord i h s fun c => plainWord c m d n a b (f c))
    (hlane : ∀ c l, plainLane c m n (c.lanes m.ty.wide .a a) (c.lanes m.ty.wide .b b) (f c) l = g c l) :
    DeliversLanes i h d (regsOf m.ty.wide) (fun c => outs c.act (g c)) (fun _ => 1) (fun _ => none) (fun _ => 0) false := by
  simp only [plainWord_eq] at hexec
  exact deliversLanes_of_eq hexec hlane

/-- Settles O10: the rows are one word at the format's own precision, with one operand or with two. -/
theorem floatResults : Obligations.FloatResults := by
  unfold Obligations.FloatResults
  intro h m d a b Is
  refine ⟨?min, ?max, ?abs, ?neg, ?div, ?sqrt, ?rcp, ?rsq, ?exp2, ?log2, ?ldexp, ?rnd⟩
  case min | max | abs | neg | div | sqrt | rcp | rsq | exp2 | log2 | ldexp | rnd =>
    exact deliversLanes_of_plainWord (fun _ => rfl) fun _ _ => rfl

end Sys2Proof.Machine
end

section
/-! PROOF of O11: FCMP and FCLASS (spec 06, R150, R151; 03, R85). -/
namespace Sys2Proof.Machine
open Sys2Proof

/-! ### Compares of the lanes of a mask (R150) -/

/-- The outcomes, flags and fragilities of the elements of a lane. -/
def cmpLane (c : Ctx) (ty : FTy) (k : FCond) (a b : VS) (l : Fin 64) : List (Bool × Flags × Bool) :=
  (elements ty (c.lanes ty.wide .a a) (c.lanes ty.wide .b b) (bcast 0) l).map fun x => fcmp (fmtOf ty) k x.a x.b x.ea x.eb

/-- The flags of the elements of the lanes of a mask, and whether one is fragile. -/
def cmpFlags (m : Mask) (res : Fin 64 → List (Bool × Flags × Bool)) : Flags :=
  ((List.finRange 64).filter fun l => has m l.val).foldl (fun f l => (res l).foldl (fun f x => f.or x.2.1) f) Flags.none
def cmpFrag (m : Mask) (res : Fin 64 → List (Bool × Flags × Bool)) : Bool :=
  ((List.finRange 64).filter fun l => has m l.val).any fun l => (res l).any (·.2.2)

theorem exec_fcmp (h : Hdr) (ty : FTy) (full : Bool) (k : FCond) (p : PReg) (a b : VS) (s : State) :
    exec (.fcmp h ty full k p a b) s = onRegs (.fcmp h ty full k p a b) h s fun c =>
      let res := cmpLane c ty k a b
      ((c.setP p c.act (maskOf fun l => (res l).all (·.1))).flag (cmpFlags c.act res)).stick
        (if cmpFrag c.act res then stickyFRAG else 0) := by
  have hlane (c : Ctx) : cmpLane c ty k a b = _ := funext fun l => by rw [cmpLane, elements_bcast_zero]
  simp only [hlane]
  rfl

theorem cmpFrag_iff (m : Mask) (res : Fin 64 → List (Bool × Flags × Bool)) :
    cmpFrag m res = true ↔ ∃ l : Fin 64, has m l.val = true ∧ ∃ e ∈ res l, e.2.2 = true := by
  simp only [cmpFrag, List.any_eq_true, List.mem_filter, List.mem_finRange, true_and]

/-- A flag of the union of flags is one of the flags' own. -/
theorem cmpFlags_iff (flag : Flags → Bool) (hnone : flag Flags.none = false) (hor : ∀ x y, flag (x.or y) = (flag x || flag y))
    (m : Mask) (res : Fin 64 → List (Bool × Flags × Bool)) :
    flag (cmpFlags m res) = true ↔ ∃ l : Fin 64, has m l.val = true ∧ ∃ e ∈ res l, flag e.2.1 = true := by
  have hfold (es : List (Bool × Flags × Bool)) (f : Flags) :
      flag (es.foldl (fun f x => f.or x.2.1) f) = (flag f || es.any (flag ·.2.1)) := by
    induction es generalizing f with
    | nil => simp
    | cons e es ih => rw [List.foldl_cons, ih, hor, List.any_cons, Bool.or_assoc]
  rw [cmpFlags, ← List.foldl_flatMap, hfold, hnone, Bool.false_or]
  simp only [List.any_eq_true, List.mem_flatMap, List.mem_filter, List.mem_finRange, true_and]
  constructor
  · rintro ⟨e, ⟨l, hl, he⟩, hflag⟩
    exact ⟨l, hl, e, he, hflag⟩
  · rintro ⟨l, hl, e, he, hflag⟩
    exact ⟨e, ⟨l, hl, he⟩, hflag⟩

/-- A flag that no compare raises. -/
theorem cmpFlags_eq_false (flag : Flags → Bool) (hnone : flag Flags.none = false) (hor : ∀ x y, flag (x.or y) = (flag x || flag y))
    (hnv : ∀ v, flag { nv := v } = false) (m : Mask) (c : Ctx) (ty : FTy) (k : FCond) (a b : VS) :
    flag (cmpFlags m (cmpLane c ty k a b)) = false := by
  rw [Bool.eq_false_iff, ne_eq, cmpFlags_iff flag hnone hor]
  rintro ⟨l, -, e, he, hflag⟩
  obtain ⟨x, -, rfl⟩ := List.mem_map.mp he
  exact Bool.false_ne_true ((hnv _).symm.trans hflag)

/-- A compare raises no flag but NV (R150). -/
theorem cmpFlags_only_nv (m : Mask) (c : Ctx) (ty : FTy) (k : FCond) (a b : VS) :
    let fl := cmpFlags m (cmpLane c ty k a b)
    fl.dz = false ∧ fl.of = false ∧ fl.uf = false ∧ fl.nx = false :=
  ⟨cmpFlags_eq_false Flags.dz rfl (fun _ _ => rfl) (fun _ => rfl) .., cmpFlags_eq_false Flags.of rfl (fun _ _ => rfl) (fun _ => rfl) ..,
    cmpFlags_eq_false Flags.uf rfl (fun _ _ => rfl) (fun _ => rfl) .., cmpFlags_eq_false Flags.nx rfl (fun _ _ => rfl) (fun _ => rfl) ..⟩

theorem flag_stick_eq (c : Ctx) (x : Flags) (b : BitVec 5) :
    (c.flag x).stick b = { c with f := { c.f with sys := sysAfter c.f x.bits b none } } := by
  have hboth := sysAfter_with c.f c.f.v c.f.s c.f.p x.bits 0#5 0#5 b none none
  rw [BitVec.or_zero, BitVec.zero_or] at hboth
  rw [flag_eq, stick_eq]
  exact congrArg (fun y => { c with f := { c.f with sys := y } }) hboth

/-- FCMP writes its predicate in the lanes of ACTIVE and ORs in flags and FRAG. -/
theorem fcmp_writes {s : State} {w : Issue} {f : Floe} {r : Run} {h : Hdr} {ty : FTy} {full : Bool} {k : FCond} {p : PReg} {a b : VS}
    (hissues : Issues s w f r) (hok : operandsOk s f (.fcmp h ty full k p a b) = true) :
    let c := ctxOf s w f r h
    let res := cmpLane c ty k a b
    ∃ t o, exec (.fcmp h ty full k p a b) s = .next (wordDone s w { f with
        p := t, sys := sysAfter f (cmpFlags c.act res).bits (if cmpFrag c.act res then stickyFRAG else 0) none
        run := some (nextRun w { r with pOld := o } h.s) }) ∧
      ∀ j, ({ f with p := t } : Floe).preg j =
        if j = p.toNat ∧ p ≠ 0 then (f.preg j &&& ~~~c.act) ||| (maskOf (fun l => (res l).all (·.1)) &&& c.act) else f.preg j := by
  intro c res
  obtain ⟨t, o, hw, hk⟩ := writeP_eq f r p.toNat c.act (maskOf fun l => (res l).all (·.1))
  have hz : p ≠ 0 ↔ p.toNat ≠ 0 := not_congr BitVec.toNat_eq
  have hset : c.setP p c.act (maskOf fun l => (res l).all (·.1)) = { c with f := { f with p := t }, r := { r with pOld := o } } := by
    rw [Ctx.setP, ctxOf_f, ctxOf_r, hw]
  refine ⟨t, o, ?_, fun j => by simpa only [hz] using hk j⟩
  rw [exec_fcmp, onRegs_ok hissues hok]
  dsimp only
  rw [hset, flag_stick_eq]
  rfl

/-- Settles O11: FCMP writes a predicate as the words of predicate logic do, and ORs in what its lanes raise; FCLASS writes one register. -/
theorem compareAndClassResults : Obligations.CompareAndClassResults := by
  unfold Obligations.CompareAndClassResults
  intro h ty full k p d a b
  refine ⟨?cmp, ?cls⟩
  case cmp =>
    intro s w f r hissues hok c res
    have hnv := cmpFlags_iff Flags.nv rfl (fun _ _ => rfl) c.act res
    obtain ⟨hdz, hof, huf, hnx⟩ := cmpFlags_only_nv c.act c ty k a b
    obtain ⟨t, o, hexec, hbits⟩ := fcmp_writes hissues hok
    exact ⟨t, nextRun w { r with pOld := o } h.s, cmpFlags c.act res, cmpFrag c.act res, hexec, rfl, rfl, rfl, cmpFrag_iff .., hnv,
      hdz, hof, huf, hnx, hbits⟩
  case cls => exact WritesVec.of_narrow (writesVec_of_setLanes (wide := false) fun _ => rfl) fun _ _ => rfl

end Sys2Proof.Machine
end

section
/-! PROOF of O12: conversions and MX words (spec 06, R156 to R160; 02, R61). -/
namespace Sys2Proof.Machine
open Sys2Proof

/-! ### Halves of a register (R158) -/

/-- Lane i of the half that holds lane l. -/
def halfLane (l : Fin 64) (i : Nat) : Fin 64 := Fin.ofNat 64 (l.val / 32 * 32 + i)

theorem halfLane_val (l : Fin 64) {i : Nat} (hi : i < 32) : (halfLane l i).val = l.val / 32 * 32 + i := by
  have hl := l.isLt
  exact Nat.mod_eq_of_lt (by omega)

theorem getD_halfLane {α : Type} (x : Vector α 64) (l : Fin 64) {i : Nat} (hi : i < 32) (z : α) :
    x.toList.getD (l.val / 32 * 32 + i) z = x[halfLane l i] := by
  have hlane := halfLane_val l hi
  have hlt := (halfLane l i).isLt
  rw [← hlane]
  simp [List.getD_eq_getElem?_getD]

theorem drop_take_halfLane {α : Type} (x : Vector α 64) (l : Fin 64) :
    (x.toList.drop (l.val / 32 * 32)).take 32 = (List.range 32).map fun i => x[halfLane l i] := by
  have hl := l.isLt
  refine List.ext_getElem (by simp; omega) fun i hi _ => ?_
  have hi : i < 32 := by simp at hi; omega
  simp [halfLane_val l hi]

theorem sub_half (l : Fin 64) : l.val - l.val / 32 * 32 = l.val % 32 := by omega

theorem lt_of_mem_elemsInWord {w j i : Nat} (h : i ∈ elemsInWord w j) : i < 32 := List.mem_range.mp (List.mem_filter.mp h).1

theorem mxWidth_le (fmt : MxFmt) : (mxFmt fmt).width ≤ 32 := by cases fmt <;> decide

/-! ### MXSCALE (R158) -/

theorem writesVec_mxscale (h : Hdr) (full : Bool) (fmt : MxFmt) (d x : VReg) :
    WritesVec (.mxscale h full fmt d x) h d 1
      (fun c _ l => BitVec.ofNat 32 (mxScale fmt ((halfLanes c.act (l.val / 32 * 32)).map fun j => (c.v .a x).val[j].toNat)))
      (fun _ _ => 0) fun _ => 0 := by
  refine WritesVec.of_narrow (writesVec_of_setLanes_only (wide := false) fun _ => rfl) fun c l => congrArg (BitVec.ofNat 32) ?_
  have hl := l.isLt
  split
  next hlow => rw [show l.val / 32 * 32 = 0 by omega]
  next hhigh => rw [show l.val / 32 * 32 = 32 by omega]

/-! ### MXQ and MXDQ (R159, R160) -/

/-- The quantised element of lane l. -/
def mxEl (c : Ctx) (sr : Bool) (fmt : MxFmt) (A B : VRow) (l : Fin 64) : El :=
  if has c.act l.val then mxQuant fmt c.env.dnan (c.cvRnd sr .rn l.val 0) A.val[l].toNat (B.val[l].toNat % 256) A.bnd[l]
  else ⟨0, Flags.none, 0, none, 0⟩

theorem getElem_mxEls (c : Ctx) (sr : Bool) (fmt : MxFmt) (A B : VRow) (l : Fin 64) : (mxEls c sr fmt A B)[l] = mxEl c sr fmt A B l := by
  simp [mxEls, mxEl]

/-- Bounds of the lanes of the mask among those of a list. -/
theorem any_isU_flatMap (m : Mask) (A B : VRow) (l : Fin 64) {is : List Nat} (his : ∀ i ∈ is, i < 32) :
    (is.flatMap fun i => if has m (l.val / 32 * 32 + i) then
        [A.bnd.toList.getD (l.val / 32 * 32 + i) 0, B.bnd.toList.getD (l.val / 32 * 32 + i) 0] else []).any isU =
      ((is.map (halfLane l)).filter fun i => has m i.val).any fun i => isU A.bnd[i] || isU B.bnd[i] := by
  induction is with
  | nil => rfl
  | cons i is ih =>
    have hi : i < 32 := his i List.mem_cons_self
    rw [List.flatMap_cons, List.any_append, ih fun j hj => his j (List.mem_cons_of_mem _ hj), List.map_cons, List.filter_cons,
      halfLane_val l hi, getD_halfLane _ l hi, getD_halfLane _ l hi]
    split <;> simp [Bool.or_assoc]

/-- Word j of a packed half of elements, with the bound of the elements that have bits in it. -/
def mxWord (w j : Nat) (el : Nat → El) : Nat × Bound :=
  if j < w then
    (joinElems w ((List.range 32).map fun i => (el i).code) / 2 ^ (32 * j) % 2 ^ 32, boundMaxL ((elemsInWord w j).map fun i => (el i).bnd))
  else (0, 0)

/-- The word of a lane is that of the elements of its half. -/
theorem mxWord_half (els : Vector El 64) (l : Fin 64) (w : Nat) (z : El) :
    (if l.val - l.val / 32 * 32 < w then
      (joinElems w (((els.toList.drop (l.val / 32 * 32)).take 32).map (·.code)) / 2 ^ (32 * (l.val - l.val / 32 * 32)) % 4294967296,
        boundMaxL ((elemsInWord w (l.val - l.val / 32 * 32)).map fun i => ((els.toList.drop (l.val / 32 * 32)).getD i z).bnd))
      else (0, 0)) = mxWord w (l.val % 32) fun i => els[halfLane l i] := by
  have hbnd : ((elemsInWord w (l.val % 32)).map fun i => ((els.toList.drop (l.val / 32 * 32)).getD i z).bnd) =
      (elemsInWord w (l.val % 32)).map fun i => els[halfLane l i].bnd :=
    List.map_congr_left fun i hi => by
      rw [List.getD_eq_getElem?_getD, List.getElem?_drop, ← List.getD_eq_getElem?_getD, getD_halfLane els l (lt_of_mem_elemsInWord hi)]
  rw [sub_half, drop_take_halfLane, List.map_map, hbnd]
  rfl

/-- The words of a packed half from which element i takes bits, as lanes, with their bounds. -/
theorem map_bnd_halfLane (B : Vector Bound 64) (l : Fin 64) {w : Nat} (hw : w ≤ 32) (i : Nat) :
    (((List.range w).filter fun j => (elemsInWord w j).contains i).map fun j => B.toList.getD (l.val / 32 * 32 + j) 0) =
      (((List.range w).filter fun j => (elemsInWord w j).contains i).map (halfLane l)).map fun j => B[j] := by
  rw [List.map_map]
  exact List.map_congr_left fun j hj => getD_halfLane B l ((List.mem_range.mp (List.mem_filter.mp hj).1).trans_le hw) 0

theorem map_toNat_halfLane (A : Vector Lane 64) (l : Fin 64) {w : Nat} (hw : w ≤ 32) :
    ((List.range w).map fun j => (A.toList.getD (l.val / 32 * 32 + j) 0).toNat) = (List.range w).map fun j => A[halfLane l j].toNat :=
  List.map_congr_left fun j hj => by rw [getD_halfLane A l ((List.mem_range.mp hj).trans_le hw)]

/-! ### CVTPK (R157) -/

/-- n rows of `per` elements are n * per elements in order. -/
theorem flatMap_rows {α : Type} (n per : Nat) (f : Nat → α) :
    ((List.range n).flatMap fun k => (List.range per).map fun j => f (k * per + j)) = (List.range (n * per)).map f := by
  induction n with
  | zero => simp
  | succ n ih =>
    rw [List.range_succ, List.flatMap_append, ih, Nat.succ_mul, List.range_add, List.map_append, List.map_map, List.flatMap_singleton]
    rfl

/-- Row k of the elements. -/
theorem drop_take_row {α : Type} {n per k : Nat} (f : Nat → α) (hk : k < n) :
    (((List.range (n * per)).map f).drop (k * per)).take per = (List.range per).map fun j => f (k * per + j) := by
  have hlast : k * per + per ≤ n * per := by rw [← Nat.succ_mul]; exact Nat.mul_le_mul_right _ hk
  exact List.ext_getElem (by simp; omega) fun i _ _ => by simp

/-- The sizes of a group: an element's container divides a register, a register is written in full, and every element is read. -/
theorem cvtpk_sizes {dst src : Fmt} (hdst : dst.wide = false) (hsrc : src.wide = false) :
    cvtpkN dst src = cvtpkNd dst src * (32 / dst.container) ∧
      ∀ i, i < cvtpkN dst src → i * src.container / 32 < cvtpkNs dst src := by
  have hcontainer (f : Fmt) (hf : f.wide = false) : f.container ∈ [4, 8, 16, 32] := by cases f <;> simp_all [Fmt.wide, Fmt.container]
  have hd := hcontainer dst hdst
  have hs := hcontainer src hsrc
  simp only [cvtpkN, cvtpkNd, cvtpkNs]
  generalize dst.container = wd at *
  generalize src.container = ws at *
  simp only [List.mem_cons, List.not_mem_nil, or_false] at hd hs
  rcases hd with rfl | rfl | rfl | rfl <;> rcases hs with rfl | rfl | rfl | rfl <;> simp <;> omega

/-- What a lane delivers whose register k holds the elements `row k`, of w bits each (R157). -/
def groupLane (c : Ctx) (q : Bool) (w nd : Nat) (row : Nat → List El) (anyU : Bool) : LaneOut :=
  let bnd (k : Nat) := boundMaxL ((row k).map (·.bnd))
  { regs := (List.range nd).map fun k => (joinElems w ((row k).map (·.code)), bnd k)
    fl := ((List.range nd).flatMap row).foldl (fun f e => f.or e.fl) Flags.none
    unb := (List.range nd).any (fun k => isU (bnd k)) && !anyU
    breach := if q then none else (List.range nd).findSome? fun k => if (row k).any (c.env.breach (bnd k)) then some (bnd k) else none }

/-- The same for a list of elements, of which a register holds `per`. -/
def groupLaneOf (c : Ctx) (q : Bool) (w nd per : Nat) (els : List El) (anyU : Bool) : LaneOut :=
  let regs := (List.range nd).map fun k =>
    let es := (els.drop (k * per)).take per
    (joinElems w (es.map (·.code)), boundMaxL (es.map (·.bnd)))
  { regs := regs
    fl := els.foldl (fun f e => f.or e.fl) Flags.none
    unb := regs.any (fun r => isU r.2) && !anyU
    breach := if q then none else ((regs.zipIdx.filterMap fun r =>
      if ((els.drop (r.2 * per)).take per).any (c.env.breach r.1.2) then some r.1.2 else none).head?) }

/-- Entries of a list by number, with their numbers. -/
theorem zipIdx_map_range {α : Type} (n : Nat) (f : Nat → α) : ((List.range n).map f).zipIdx = (List.range n).map fun k => (f k, k) :=
  List.ext_getElem (by simp) fun i _ _ => by simp

theorem groupLaneOf_eq (c : Ctx) (q : Bool) (w nd per : Nat) (el : Nat → El) (anyU : Bool) :
    groupLaneOf c q w nd per ((List.range (nd * per)).map el) anyU =
      groupLane c q w nd (fun k => (List.range per).map fun j => el (k * per + j)) anyU := by
  have hrow : ∀ k ∈ List.range nd, (((List.range (nd * per)).map el).drop (k * per)).take per =
      (List.range per).map fun j => el (k * per + j) := fun k hk => drop_take_row el (List.mem_range.mp hk)
  have hregs : ∀ k ∈ List.range nd, (joinElems w (((((List.range (nd * per)).map el).drop (k * per)).take per).map (·.code)),
      boundMaxL (((((List.range (nd * per)).map el).drop (k * per)).take per).map (·.bnd))) = _ := fun k hk => by rw [hrow k hk]
  simp only [groupLaneOf, groupLane]
  rw [List.map_congr_left hregs, zipIdx_map_range, List.filterMap_map, List.any_map, flatMap_rows, ← List.head?_filterMap]
  refine congrArg (fun b => LaneOut.mk _ _ _ (if q then none else List.head? b)) (List.filterMap_congr fun k hk => ?_)
  simp only [Function.comp_apply, hrow k hk]

/-- The value and bound of source register j of a lane. -/
def cvtpkSource (c : Ctx) (a : VS) (l : Fin 64) (j : Nat) : Nat × Bound :=
  match a with
  | .v v => ((c.vAt .a v j).val[l].toNat, (c.vAt .a v j).bnd[l])
  | .s u => (c.nat .a u % 2 ^ 32, 0)

/-- The source registers; a uniform register stands for one. -/
def cvtpkRows (c : Ctx) (a : VS) (ns : Nat) : List VRow :=
  match a with
  | .v r => (List.range ns).map fun k => c.vAt .a r k
  | .s r => [(bcast (c.sr .a r)).lo]

theorem cvtpkRows_eq (c : Ctx) {dst src : Fmt} {d : VReg} {a : VS} (hok : cvtpkOk dst src d a = true) (l : Fin 64) :
    ((cvtpkRows c a (cvtpkNs dst src)).map fun x => (x.val[l].toNat, x.bnd[l])) =
      (List.range (cvtpkNs dst src)).map (cvtpkSource c a l) := by
  cases a with
  | v r => simp only [cvtpkRows, List.map_map]; rfl
  | s r =>
    have hone : cvtpkNs dst src = 1 := by simp_all [cvtpkOk]
    rw [hone]
    simp [cvtpkRows, cvtpkSource, bcast, Ctx.nat]

/-- Element i of a group, read from the values of the source registers, with the bound b. -/
def cvtpkEl (c : Ctx) (m : CvMod) (dst src : Fmt) (l : Fin 64) (vals : List Nat) (b : Bound) (i : Nat) : El :=
  cvtEl dst src m.sat c.env.dnan (c.cvRnd m.sr m.rm l.val i) (elemAt src.container vals i % 2 ^ fmtBits src) b

/-- A lane of CVTPK, as the model lists its elements and as the rows of its destination registers. -/
theorem cvtpk_lane (c : Ctx) (m : CvMod) {dst src : Fmt} {d : VReg} {a : VS} (hok : cvtpkOk dst src d a = true) (l : Fin 64) :
    let ns := cvtpkNs dst src
    let nd := cvtpkNd dst src
    let per := 32 / dst.container
    let rows := cvtpkRows c a ns
    let vals := rows.map fun x => x.val[l].toNat
    let bnds := rows.map fun x => x.bnd[l]
    let source := cvtpkSource c a l
    let el (i : Nat) := cvtpkEl c m dst src l ((List.range ns).map fun j => (source j).1) (source (i * src.container / 32)).2 i
    groupLaneOf c m.q dst.container nd per
        ((List.range (cvtpkN dst src)).map fun i => cvtpkEl c m dst src l vals (bnds.getD (i * src.container / 32) 0) i) (bnds.any isU) =
      groupLane c m.q dst.container nd (fun k => (List.range per).map fun j => el (k * per + j))
        ((List.range ns).any fun j => isU (source j).2) := by
  intro ns nd per rows vals bnds source el
  have hwide : dst.wide = false ∧ src.wide = false := by simp_all [cvtpkOk]
  obtain ⟨hn, hsource⟩ := cvtpk_sizes hwide.1 hwide.2
  have hrows := cvtpkRows_eq c hok l
  have hvals : vals = (List.range ns).map fun j => (source j).1 := by
    have hmap := congrArg (List.map Prod.fst) hrows
    rwa [List.map_map, List.map_map] at hmap
  have hbnds : bnds = (List.range ns).map fun j => (source j).2 := by
    have hmap := congrArg (List.map Prod.snd) hrows
    rwa [List.map_map, List.map_map] at hmap
  have hel : ((List.range (cvtpkN dst src)).map fun i => cvtpkEl c m dst src l vals (bnds.getD (i * src.container / 32) 0) i) =
      (List.range (nd * per)).map el := by
    rw [← hn, hvals, hbnds]
    refine List.map_congr_left fun i hi => ?_
    rw [List.getD_eq_getElem?_getD, List.getElem?_map, List.getElem?_range (hsource i (List.mem_range.mp hi))]
    rfl
  rw [hel, groupLaneOf_eq, hbnds, List.any_map]
  rfl

/-- Settles O12: the lanes of each word are those of the model, whose lists run over all 64 lanes or all elements of a group where
the rows run over the lanes of a half or the elements of a register. -/
theorem conversionResults : Obligations.ConversionResults := by
  unfold Obligations.ConversionResults
  intro h m dst src fmt sr sat full q pack d x y a
  refine ⟨?cvt, ?cvtpk, writesVec_mxscale h full fmt d x, ?mxq, ?mxdq⟩
  case cvt => exact deliversLanes_of_eq (fun _ => rfl) fun _ _ => rfl
  case cvtpk =>
    refine deliversLanes_of_legal fun hlegal => deliversLanes_of_eq (fun _ => rfl) fun c l => ?_
    have hok : cvtpkOk dst src d a = true := by
      simp only [Instr.legal, Bool.and_eq_true] at hlegal
      exact hlegal.2
    exact cvtpk_lane c m hok l
  case mxq =>
    refine deliversLanes_of_eq (fun _ => rfl) fun c l => ?_
    dsimp only
    cases pack with
    | true =>
      have hword := mxWord_half (mxEls c sr fmt (c.v .a x) (c.v .b y)) l (mxFmt fmt).width ⟨0, Flags.none, 0, none, 0⟩
      have hins := any_isU_flatMap c.act (c.v .a x) (c.v .b y) l (is := elemsInWord (mxFmt fmt).width (l.val % 32))
        fun _ => lt_of_mem_elemsInWord
      simp only [getElem_mxEls] at hword
      simp only [if_true]
      rw [hword, getElem_mxEls, sub_half, hins]
      rfl
    | false =>
      simp only [getElem_mxEls, Bool.false_eq_true, if_false, List.any_cons, List.any_nil, Bool.or_false]
      rfl
  case mxdq =>
    refine deliversLanes_of_eq (sr := false) (fun _ => rfl) fun c l => ?_
    dsimp only
    simp only [sub_half, map_bnd_halfLane _ l (mxWidth_le fmt), map_toNat_halfLane _ l (mxWidth_le fmt), List.any_append, List.any_cons,
      List.any_nil, Bool.or_comm (isU (c.v .b y).bnd[l])]
    cases pack with
    | true =>
      simp only [if_true, List.any_map]
      rfl
    | false => rfl

end Sys2Proof.Machine
end

section
/-! PROOF of O13: moves between lanes (spec 07, R161, R163, R167). -/
namespace Sys2Proof.Machine
open Sys2Proof

/-- A move whose lanes take values and bounds of source lanes (R163). -/
theorem writesVec_of_gather {i : Instr} {h : Hdr} {w : Bool} {d a : VReg} {src : Ctx → Nat → Nat}
    (hexec : ∀ s, exec i s = onRegs i h s fun c => gather c w d a (src c)) :
    WritesVec i h d (if w then 2 else 1) (fun c k l => wordOf (c.srcLane w .a a l.val (src c l.val)).1 k)
      (fun c l => (c.srcLane w .a a l.val (src c l.val)).2) fun _ => 0 :=
  writesVec_of_setLanes_only hexec

/-- A register or pair that takes lanes of the mask m leaves its floe but for its vector registers. -/
theorem retire_setLanes (s : State) (x : Issue) (f : Floe) (r : Run) (h : Hdr) (w : Bool) (d : VReg) (m : Mask)
    (val : Fin 64 → Nat) (bnd : Fin 64 → Bound) :
    ∃ v q, retire ((ctxOf s x f r h).setLanes w d m val bnd) = wordDone s x { f with v := v, run := some q } ∧
      RunMoves x r q h.s ∧ q.sOld = r.sOld ∧ q.pOld = r.pOld ∧
      LanesWritten f { f with v := v } r m d.toNat (if w then 2 else 1) (fun k l => wordOf (val l) k) fun _ => bnd := by
  obtain ⟨t, o, hset, hlanes⟩ := setLanes_eq (ctxOf s x f r h) w d m val bnd
  refine ⟨t, nextRun x { r with vOld := o } h.s, ?_, rfl, rfl, rfl, hlanes⟩
  rw [hset]
  rfl

/-- Writing no lane leaves every register as it was. -/
theorem lanesWritten_none (f : Floe) (r : Run) (d n : Nat) (val : Nat → Fin 64 → Lane) (bnd : Nat → Fin 64 → Bound) :
    LanesWritten f f r 0 d n val bnd :=
  fun _ l => ⟨fun _ => ⟨rfl, rfl⟩, fun hact => absurd ((has_zero l.val).symm.trans hact) Bool.false_ne_true⟩

/-- VWLN writes its one lane where a lane is in ACTIVE, whether or not it is the one (R163). -/
theorem vwln_writes {s : State} {x : Issue} {f : Floe} {r : Run} {h : Hdr} {w : Bool} {d : VReg} {a b : SReg}
    (hissues : Issues s x f r) (hok : operandsOk s f (.vwln h w d a b) = true) :
    let c := ctxOf s x f r h
    let one := if c.act = 0 then 0 else maskWhere fun l => l == c.nat .b b % 64
    ∃ v q, exec (.vwln h w d a b) s = .next (wordDone s x { f with v := v, run := some q }) ∧ RunMoves x r q h.s ∧
      q.sOld = r.sOld ∧ q.pOld = r.pOld ∧
      LanesWritten f { f with v := v } r one d.toNat (if w then 2 else 1) (fun k _ => wordOf (c.nat .a a) k) fun _ _ => 0 := by
  intro c one
  have hexec : exec (.vwln h w d a b) s = .next (retire (c.once _)) := onRegs_ok hissues hok h _
  by_cases hact : c.act = 0
  · rw [hexec, once_idle hact, show one = 0 from if_pos hact]
    exact ⟨f.v, nextRun x r h.s, rfl, rfl, rfl, rfl, lanesWritten_none f r _ _ _ _⟩
  · rw [hexec, once_busy hact, show one = _ from if_neg hact]
    obtain ⟨v, q, hretire, hrest⟩ :=
      retire_setLanes s x f r h w d (maskWhere fun l => l == c.nat .b b % 64) (fun _ => c.nat .a a) fun _ => 0
    exact ⟨v, q, congrArg Host.Outcome.next hretire, hrest⟩

/-- Settles O13: a read writes one uniform register once, a move gathers source lanes, and VWLN writes one lane. -/
theorem crossLaneMoves : Obligations.CrossLaneMoves := by
  unfold Obligations.CrossLaneMoves
  intro h w xor gid g d a b x y n Gathers
  refine ⟨?vrfl, ?vrln, ?vbcst, ?vshfl, ?vrot, ?vlane, ?vwln⟩
  case vrfl =>
    exact writesUniform_of_uni (fun _ => rfl) fun c =>
      congrArg (fun l => BitVec.ofNat 64 (c.srcLane w .a a 64 l).1) (lowest_eq_find? c.act)
  case vrln => exact writesUniform_of_once fun _ => rfl
  case vbcst => exact writesVec_of_gather (src := fun c _ => c.nat .b y % 64) fun _ => rfl
  case vshfl =>
    exact writesVec_of_gather (src := fun c l =>
      let j := ((c.v .b b).val.toList.getD l 0).toNat % 64
      if xor then l ^^^ j else j) fun _ => rfl
  case vrot =>
    exact writesVec_of_gather (src := fun c l =>
      let m := 64 / 2 ^ g.toNat
      l / m * m + (l % m + c.nat .b y % 64) % m) fun _ => rfl
  case vlane => exact WritesVec.of_narrow (writesVec_of_setLanes_only (wide := false) fun _ => rfl) fun _ _ => rfl
  case vwln => exact fun _ _ _ _ hissues hok => vwln_writes hissues hok

end Sys2Proof.Machine
end

section
/-! SUPPORT. Trees of a reduction (spec 02, R63, R64): a property that holds of every leaf and passes through nodes holds of the root, over
the lanes that are present. -/
namespace Sys2Proof.Machine
open Sys2Proof

/-- The leaves present among the 2^n from index i * 2^n on. -/
def treeLeaves (leaf : Nat → Option Node) (n i : Nat) : List Node := (List.range' (i * 2 ^ n) (2 ^ n)).filterMap leaf

theorem treeLeaves_zero (leaf : Nat → Option Node) (i : Nat) : treeLeaves leaf 0 i = (leaf i).toList := by
  cases hx : leaf i <;> simp [treeLeaves, hx]

theorem treeLeaves_succ (leaf : Nat → Option Node) (n i : Nat) :
    treeLeaves leaf (n + 1) i = treeLeaves leaf n (2 * i) ++ treeLeaves leaf n (2 * i + 1) := by
  have hmid : (2 * i + 1) * 2 ^ n = 2 * i * 2 ^ n + 2 ^ n := by ring
  have hlow : i * 2 ^ (n + 1) = 2 * i * 2 ^ n := by ring
  have hlen : 2 ^ (n + 1) = 2 ^ n + 2 ^ n := by ring
  rw [treeLeaves, treeLeaves, treeLeaves, ← List.filterMap_append, hmid, List.range'_append_1, hlow, hlen]

/-- Where a leaf is present so is the root, and a property of leaves that every node keeps holds of the root and the leaves below it. -/
theorem treeAt_induction {f : Node → Node → Node} {leaf : Nat → Option Node} {P : List Node → Node → Prop}
    (hleaf : ∀ l x, leaf l = some x → P [x] x) (hnode : ∀ xs ys a b, P xs a → P ys b → P (xs ++ ys) (f a b)) (n i : Nat) :
    (treeAt f leaf n i = none ∧ treeLeaves leaf n i = []) ∨ ∃ r, treeAt f leaf n i = some r ∧ P (treeLeaves leaf n i) r := by
  induction n generalizing i with
  | zero =>
    rw [treeLeaves_zero, treeAt]
    cases hx : leaf i with
    | none => exact .inl ⟨rfl, rfl⟩
    | some x => exact .inr ⟨x, rfl, hleaf i x hx⟩
  | succ n ih =>
    rw [treeLeaves_succ, treeAt]
    rcases ih (2 * i) with ⟨ha, has⟩ | ⟨a, ha, hpa⟩ <;> rcases ih (2 * i + 1) with ⟨hb, hbs⟩ | ⟨b, hb, hpb⟩
    · exact .inl (by simp [ha, hb, has, hbs])
    · exact .inr ⟨b, by simp [ha, hb], by simpa [has] using hpb⟩
    · exact .inr ⟨a, by simp [ha, hb], by simpa [hbs] using hpa⟩
    · exact .inr ⟨f a b, by simp [ha, hb], hnode _ _ _ _ hpa hpb⟩

/-- The lanes of a mask as leaves. -/
def laneLeaf (m : Mask) (g : Fin 64 → Node) (l : Nat) : Option Node :=
  if h : l < 64 then (if has m l then some (g ⟨l, h⟩) else none) else none

/-- The lanes of a mask in ascending order. -/
def finLanes (m : Mask) : List (Fin 64) := (List.finRange 64).filter fun l => has m l.val

theorem finLanes_ne_nil {m : Mask} (hm : m ≠ 0) : finLanes m ≠ [] := by
  obtain ⟨l, hl⟩ := exists_lane hm
  exact List.ne_nil_of_mem (a := (⟨l, lt_of_has hl⟩ : Fin 64)) (List.mem_filter.mpr ⟨List.mem_finRange _, hl⟩)

/-- The leaves of the whole tree are the lanes of the mask. -/
theorem treeLeaves_laneLeaf (m : Mask) (g : Fin 64 → Node) : treeLeaves (laneLeaf m g) 6 0 = (finLanes m).map g := by
  have hrange : List.range' (0 * 2 ^ 6) (2 ^ 6) = (List.finRange 64).map Fin.val := by decide
  have hlane (l : Fin 64) : laneLeaf m g l.val = if has m l.val then some (g l) else none := dif_pos l.isLt
  rw [treeLeaves, hrange, List.filterMap_map, finLanes]
  simp only [Function.comp_def, hlane]
  induction List.finRange 64 with
  | nil => rfl
  | cons l ls ih => by_cases hl : has m l.val = true <;> simp [hl, ih]

theorem exists_of_laneLeaf {m : Mask} {g : Fin 64 → Node} {l : Nat} {x : Node} (h : laneLeaf m g l = some x) : ∃ k, x = g k := by
  unfold laneLeaf at h
  split at h
  next hl =>
    split at h
    · exact ⟨⟨l, hl⟩, (Option.some.inj h).symm⟩
    · cases h
  next => cases h

/-- Lanes of a mask that is not empty have a root. -/
theorem exists_root (f : Node → Node → Node) {m : Mask} (g : Fin 64 → Node) (hm : m ≠ 0) :
    ∃ r, treeAt f (laneLeaf m g) 6 0 = some r := by
  have htree := treeAt_induction (f := f) (leaf := laneLeaf m g) (P := fun _ _ => True) (fun _ _ _ => trivial)
    (fun _ _ _ _ _ _ => trivial) 6 0
  rcases htree with ⟨-, hnil⟩ | ⟨r, hr, -⟩
  · rw [treeLeaves_laneLeaf, List.map_eq_nil_iff] at hnil
    exact absurd hnil (finLanes_ne_nil hm)
  · exact ⟨r, hr⟩

/-- A property of leaves that every node keeps holds of the root and the lanes of the mask. -/
theorem root_induction {f : Node → Node → Node} {m : Mask} {g : Fin 64 → Node} {r : Node} {P : List Node → Node → Prop}
    (hr : treeAt f (laneLeaf m g) 6 0 = some r) (hleaf : ∀ l, P [g l] (g l))
    (hnode : ∀ xs ys a b, P xs a → P ys b → P (xs ++ ys) (f a b)) : P ((finLanes m).map g) r := by
  have hleaf' (l : Nat) (x : Node) (hx : laneLeaf m g l = some x) : P [x] x := by
    obtain ⟨k, rfl⟩ := exists_of_laneLeaf hx
    exact hleaf k
  rcases treeAt_induction hleaf' hnode 6 0 with ⟨hnone, -⟩ | ⟨r', hr', hp⟩
  · cases hr.symm.trans hnone
  · obtain rfl := Option.some.inj (hr.symm.trans hr')
    exact treeLeaves_laneLeaf m g ▸ hp

end Sys2Proof.Machine
end

section
/-! SUPPORT. Integer reductions (spec 07, R165; 03, R78): what the root of a tree is, whatever its shape. -/
namespace Sys2Proof.Machine
open Sys2Proof

/-- The integer operation of a node. -/
def redIOp : ROp → IOp
  | .add => .add
  | .min => .min
  | .max => .max
  | .and => .and
  | .or => .or
  | .xor => .xor

/-- What an operation gives of the codes of two nodes. -/
def intCode (it : ITy) (op : ROp) (x y : Nat) : Nat := putBits it false (iop (redIOp op) it false x y 0 0)

/-- The node over two nodes of integers. -/
def intNode (it : ITy) (op : ROp) (a b : Node) : Node := ⟨intCode it op a.code b.code, intBound [a.bnd, b.bnd], a.fl.or b.fl⟩

/-! ### Codes -/

theorem intCode_lt (it : ITy) (op : ROp) (x y : Nat) : intCode it op x y < 2 ^ it.bits := putBits_lt ..

theorem intCode_add (it : ITy) (x y : Nat) : intCode it .add x y = (x + y) % 2 ^ it.bits := by
  have hsum : (valOf it x + valOf it y) % 2 ^ it.bits = (((x + y) % 2 ^ it.bits : Nat) : Int) := by
    rw [Int.add_emod, valOf, valOf, intVal_emod, intVal_emod]
    push_cast
    rw [← Int.add_emod]
  exact (putBits_eq ..).trans (congrArg Int.toNat hsum)

section
variable {it : ITy} {x y : Nat} (hx : x < 2 ^ it.bits) (hy : y < 2 ^ it.bits)
include hx hy

theorem intCode_and : intCode it .and x y = x &&& y := putBits_iop_and false hx hy 0 0
theorem intCode_or : intCode it .or x y = x ||| y := putBits_iop_or false hx hy 0 0
theorem intCode_xor : intCode it .xor x y = x ^^^ y := putBits_iop_xor false hx hy 0 0

/-- The lesser of two codes is one of them. -/
theorem intCode_min : intCode it .min x y = x ∧ valOf it x ≤ valOf it y ∨ intCode it .min x y = y ∧ valOf it y ≤ valOf it x := by
  have hmin : intCode it .min x y = putBits it false (min (valOf it x) (valOf it y)) := rfl
  rcases le_total (valOf it x) (valOf it y) with hle | hle
  · rw [hmin, min_eq_left hle]
    exact .inl ⟨putBits_valOf false hx, hle⟩
  · rw [hmin, min_eq_right hle]
    exact .inr ⟨putBits_valOf false hy, hle⟩

/-- The greater of two codes is one of them. -/
theorem intCode_max : intCode it .max x y = x ∧ valOf it y ≤ valOf it x ∨ intCode it .max x y = y ∧ valOf it x ≤ valOf it y := by
  have hmax : intCode it .max x y = putBits it false (max (valOf it x) (valOf it y)) := rfl
  rcases le_total (valOf it x) (valOf it y) with hle | hle
  · rw [hmax, max_eq_right hle]
    exact .inr ⟨putBits_valOf false hy, hle⟩
  · rw [hmax, max_eq_left hle]
    exact .inl ⟨putBits_valOf false hx, hle⟩

end

/-! ### Roots -/

/-- The code of r is the fold of an operation over the codes of the leaves. -/
def FoldsTo (it : ITy) (f : Nat → Nat → Nat) (e : Nat) (xs : List Node) (r : Node) : Prop :=
  r.code < 2 ^ it.bits ∧ r.code = xs.foldl (fun x a => f x a.code) e

/-- The code of r is that of a leaf whose integer stands before all the others'. -/
def FirstOf (it : ITy) (R : Int → Int → Prop) (xs : List Node) (r : Node) : Prop :=
  r.code < 2 ^ it.bits ∧ (∃ x ∈ xs, r.code = x.code) ∧ ∀ x ∈ xs, R (valOf it r.code) (valOf it x.code)

section
variable {it : ITy} {op : ROp} {m : Mask} {g : Fin 64 → Node} {r : Node} (hr : treeAt (intNode it op) (laneLeaf m g) 6 0 = some r)
include hr

theorem root_code_lt (hlt : ∀ l, (g l).code < 2 ^ it.bits) : r.code < 2 ^ it.bits :=
  root_induction (P := fun _ r => r.code < 2 ^ it.bits) hr hlt fun _ _ _ _ _ _ => intCode_lt ..

/-- The root of an associative operation with a neutral element is its fold over the lanes. -/
theorem root_code_eq_foldl {f : Nat → Nat → Nat} {e : Nat} (hlt : ∀ l, (g l).code < 2 ^ it.bits)
    (hcode : ∀ x y, x < 2 ^ it.bits → y < 2 ^ it.bits → intCode it op x y = f x y) (hassoc : ∀ x y z, f (f x y) z = f x (f y z))
    (hunit : ∀ x, x < 2 ^ it.bits → f e x = x ∧ f x e = x) : r.code = (finLanes m).foldl (fun x l => f x (g l).code) e := by
  have hroot : FoldsTo it f e ((finLanes m).map g) r := by
    refine root_induction hr (fun l => ⟨hlt l, (hunit _ (hlt l)).1.symm⟩) fun xs ys a b ⟨hax, ha⟩ ⟨hbx, hb⟩ => ⟨intCode_lt .., ?_⟩
    have hsplit : ys.foldl (fun x a => f x a.code) (f a.code e) = f a.code (ys.foldl (fun x a => f x a.code) e) := by
      have : Std.Associative f := ⟨hassoc⟩
      simpa only [List.foldl_map] using List.foldl_assoc (op := f) (l := ys.map (·.code)) (a₁ := a.code) (a₂ := e)
    rw [List.foldl_append, ← ha]
    calc intCode it op a.code b.code = f a.code b.code := hcode _ _ hax hbx
      _ = ys.foldl (fun x a => f x a.code) (f a.code e) := by rw [hsplit, ← hb]
      _ = ys.foldl (fun x a => f x a.code) a.code := by rw [(hunit _ hax).2]
  exact hroot.2.trans List.foldl_map

/-- The root of an operation that gives one of its two codes, the first in a total order of their integers. -/
theorem root_code_first {R : Int → Int → Prop} (hlt : ∀ l, (g l).code < 2 ^ it.bits) (hrefl : ∀ x, R x x)
    (htrans : ∀ x y z, R x y → R y z → R x z)
    (hcode : ∀ x y, x < 2 ^ it.bits → y < 2 ^ it.bits →
      intCode it op x y = x ∧ R (valOf it x) (valOf it y) ∨ intCode it op x y = y ∧ R (valOf it y) (valOf it x)) :
    (∃ l ∈ finLanes m, r.code = (g l).code) ∧ ∀ l ∈ finLanes m, R (valOf it r.code) (valOf it (g l).code) := by
  have hroot : FirstOf it R ((finLanes m).map g) r := by
    refine root_induction hr (fun l => ⟨hlt l, by simp, by simpa using hrefl _⟩) ?_
    rintro xs ys a b ⟨hax, ⟨x, hx, hxa⟩, ha⟩ ⟨hbx, ⟨y, hy, hyb⟩, hb⟩
    refine ⟨intCode_lt .., ?_⟩
    rcases hcode _ _ hax hbx with ⟨heq, hle⟩ | ⟨heq, hle⟩ <;> simp only [intNode, heq, List.mem_append]
    · exact ⟨⟨x, .inl hx, hxa⟩, fun z hz => hz.elim (ha z) fun hz => htrans _ _ _ hle (hb z hz)⟩
    · exact ⟨⟨y, .inr hy, hyb⟩, fun z hz => hz.elim (fun hz => htrans _ _ _ hle (ha z hz)) (hb z)⟩
  simpa using hroot.2

/-- No node of an integer tree raises a flag. -/
theorem root_flags (hfl : ∀ l, (g l).fl = Flags.none) : r.fl = Flags.none := by
  refine root_induction (P := fun _ r => r.fl = Flags.none) hr hfl fun _ _ a b ha hb => ?_
  rw [intNode, ha, hb]
  rfl

end

/-! ### Bounds (R78) -/

theorem intBound_eq_zero (bs : List Bound) : (intBound bs == 0) = bs.all (· == 0) := by
  rw [intBound]
  split
  next h => rw [h]; rfl
  next h => rw [Bool.eq_false_iff.mpr h]; rfl

/-- The integer bound is canonical. -/
theorem boundMaxL_intBound (bs : List Bound) : boundMaxL [intBound bs] = intBound bs := by
  rw [intBound]
  split <;> rfl

/-- The bound of r is that of its only leaf, or the integer bound of its leaves. -/
def JoinsBounds (xs : List Node) (r : Node) : Prop :=
  xs.map (·.bnd) = [r.bnd] ∨ 2 ≤ xs.length ∧ r.bnd = intBound (xs.map (·.bnd))

/-- A node with an exact bound is one over exact leaves. -/
theorem JoinsBounds.all_eq_zero {xs : List Node} {r : Node} (h : JoinsBounds xs r) : (xs.map (·.bnd)).all (· == 0) = (r.bnd == 0) := by
  rcases h with h | ⟨-, h⟩
  · rw [h, List.all_cons, List.all_nil, Bool.and_true]
  · rw [h, intBound_eq_zero]

theorem JoinsBounds.length_pos {xs : List Node} {r : Node} (h : JoinsBounds xs r) : 1 ≤ xs.length := by
  rcases h with h | ⟨hlen, -⟩
  · have hlen := congrArg List.length h
    rw [List.length_map] at hlen
    exact hlen.ge
  · omega

/-- A root over one lane has that lane's bound; over more, the integer bound of them all. -/
theorem root_bound {it : ITy} {op : ROp} {m : Mask} {g : Fin 64 → Node} {r : Node}
    (hr : treeAt (intNode it op) (laneLeaf m g) 6 0 = some r) :
    let bs := (finLanes m).map fun l => (g l).bnd
    boundMaxL [r.bnd] = if (finLanes m).length = 1 then boundMaxL bs else intBound bs := by
  intro bs
  have hroot : JoinsBounds ((finLanes m).map g) r := by
    refine root_induction hr (fun l => .inl rfl) fun xs ys a b ha hb => .inr ⟨?_, ?_⟩
    · have halen := ha.length_pos
      have hblen := hb.length_pos
      rw [List.length_append]
      omega
    · simp only [intNode, intBound, List.map_append, List.all_append, ha.all_eq_zero, hb.all_eq_zero, List.all_cons, List.all_nil,
        Bool.and_true]
  simp only [JoinsBounds, List.map_map, List.length_map] at hroot
  rcases hroot with h | ⟨hlen, h⟩
  · have hone := congrArg List.length h
    rw [List.length_map] at hone
    rw [if_pos (by simpa using hone), ← h]
    rfl
  · rw [if_neg (by omega), h, boundMaxL_intBound]
    rfl

end Sys2Proof.Machine
end

section
/-! PROOF of O14: reductions and scans (spec 07, R165; 02, R63, R64). -/
namespace Sys2Proof.Machine
open Sys2Proof

/-! ### Integer lanes -/

/-- The integer types of reductions. -/
def intRed : List (RTy × ITy) := [(.s32, .s32), (.n32, .n32), (.s64, .s64), (.n64, .n64)]

theorem mem_intRed {e : RTy × ITy} (he : e ∈ intRed) : e = (.s32, .s32) ∨ e = (.n32, .n32) ∨ e = (.s64, .s64) ∨ e = (.n64, .n64) := by
  simpa [intRed] using he

/-- Lane l as a leaf of an integer tree. -/
def intLeaf (A : Lanes) (wide : Bool) (l : Fin 64) : Node := ⟨A.val wide l, A.bnd l, Flags.none⟩

/-- What a lane delivers that receives the root r of integers. -/
def intOut (A : Lanes) (wide : Bool) (m : Mask) (r : Node) : LaneOut :=
  let b := boundMaxL [r.bnd]
  { regs := (if wide then [r.code % 4294967296, r.code / 4294967296] else [r.code]).map fun x => (x, b)
    fl := Flags.none.or r.fl
    unb := isU b && !((List.finRange 64).any fun l => has m l.val && isU (A.bnd l))
    breach := none }

section
variable {e : RTy × ITy} (he : e ∈ intRed)
include he

theorem intRed_bits : e.2.bits = if e.1.wide then 64 else 32 := by
  rcases mem_intRed he with rfl | rfl | rfl | rfl <;> rfl

theorem intLeaf_lt (A : Lanes) (l : Fin 64) : (intLeaf A e.1.wide l).code < 2 ^ e.2.bits := by
  rw [intRed_bits he]
  exact A.val_lt e.1.wide l

theorem redLane_int {c : Ctx} {op : ROp} {q : Bool} {A : Lanes} {m : Mask} {r : Node}
    (hr : treeAt (intNode e.2 op) (laneLeaf m (intLeaf A e.1.wide)) 6 0 = some r) :
    redLane c e.1 op q A m = intOut A e.1.wide m r := by
  have hlane : redLane c e.1 op q A m =
      intOut A e.1.wide m ((treeAt (intNode e.2 op) (laneLeaf m (intLeaf A e.1.wide)) 6 0).getD ⟨0, 0, Flags.none⟩) := by
    rcases mem_intRed he with rfl | rfl | rfl | rfl <;> cases op <;> rfl
  rw [hlane, hr]
  rfl

end

/-- The number that the register or pair of a lane receives (R34). -/
def LaneOut.code (o : LaneOut) : Nat := (o.regs.getD 0 (0, 0)).1 + 2 ^ 32 * (o.regs.getD 1 (0, 0)).1

theorem intOut_code (A : Lanes) (wide : Bool) (m : Mask) (r : Node) : (intOut A wide m r).code = r.code := by
  cases wide
  · exact Nat.add_zero _
  · exact Nat.mod_add_div r.code 4294967296

theorem intOut_regs {A : Lanes} {wide : Bool} {m : Mask} {r : Node} (hlt : r.code < 2 ^ (if wide then 64 else 32)) :
    (intOut A wide m r).regs.length = regsOf wide ∧
      ∀ x ∈ (intOut A wide m r).regs, x.2 = boundMaxL [r.bnd] ∧ x.1 < 2 ^ 32 := by
  cases wide with
  | false => exact ⟨rfl, by simpa [intOut] using hlt⟩
  | true =>
    have hlow : r.code % 4294967296 < 2 ^ 32 := Nat.mod_lt _ (by decide)
    have hhigh : r.code / 4294967296 < 2 ^ 32 := Nat.div_lt_of_lt_mul hlt
    exact ⟨rfl, by simpa [intOut] using ⟨hlow, hhigh⟩⟩

/-- A sum that is reduced at every step is the sum reduced once. -/
theorem foldl_add_mod (M : Nat) (xs : List Nat) (a : Nat) (ha : a < M) :
    xs.foldl (fun x y => (x + y) % M) a = (a + xs.sum) % M := by
  induction xs generalizing a with
  | nil => simp [Nat.mod_eq_of_lt ha]
  | cons x xs ih => rw [List.foldl_cons, ih _ (Nat.mod_lt _ (by omega)), List.sum_cons, Nat.mod_add_mod, Nat.add_assoc]

section
variable {c : Ctx} {q : Bool} {A : Lanes} {m : Mask} (hm : m ≠ 0) {e : RTy × ITy} (he : e ∈ intRed)

section
variable {op : ROp} {r : Node} (hr : treeAt (intNode e.2 op) (laneLeaf m (intLeaf A e.1.wide)) 6 0 = some r)
include he hr

/-- A lane that receives a root of integers holds its code. -/
theorem redLane_code : (redLane c e.1 op q A m).code = r.code := by
  rw [redLane_int he hr]
  exact intOut_code ..

/-- What a lane that receives a root of integers delivers beside its code: the integer bound, no flag and no breach. -/
theorem redLane_bound :
    let out := redLane c e.1 op q A m
    let b := if (finLanes m).length = 1 then boundMaxL ((finLanes m).map fun l => A.bnd l) else intBound ((finLanes m).map fun l => A.bnd l)
    out.regs.length = regsOf e.1.wide ∧ (∀ x ∈ out.regs, x.2 = b ∧ x.1 < 2 ^ 32) ∧ out.fl = Flags.none ∧ out.breach = none ∧
      out.unb = (isU b && !(finLanes m).any fun l => isU (A.bnd l)) := by
  intro out b
  have hbound : boundMaxL [r.bnd] = b := root_bound hr
  have hlt := root_code_lt hr (intLeaf_lt he A)
  rw [intRed_bits he] at hlt
  have hout : out = intOut A e.1.wide m r := redLane_int he hr
  obtain ⟨hlen, hregs⟩ := intOut_regs (A := A) (m := m) hlt
  rw [hout, ← hbound, finLanes, List.any_filter]
  exact ⟨hlen, hregs, congrArg Flags.none.or (root_flags hr fun _ => rfl), rfl, rfl⟩

end

include hm he

/-- A reduction of integers by an associative operation with a neutral element. -/
theorem redLane_foldl {op : ROp} {f : Nat → Nat → Nat} {z : Nat}
    (hcode : ∀ x y, x < 2 ^ e.2.bits → y < 2 ^ e.2.bits → intCode e.2 op x y = f x y) (hassoc : ∀ x y z, f (f x y) z = f x (f y z))
    (hunit : ∀ x, x < 2 ^ e.2.bits → f z x = x ∧ f x z = x) :
    (redLane c e.1 op q A m).code = (finLanes m).foldl (fun x l => f x (A.val e.1.wide l)) z := by
  obtain ⟨r, hr⟩ := exists_root (intNode e.2 op) (intLeaf A e.1.wide) hm
  exact (redLane_code he hr).trans (root_code_eq_foldl hr (intLeaf_lt he A) hcode hassoc hunit)

/-- A reduction of integers to the first of them in a total order. -/
theorem redLane_first {op : ROp} {R : Int → Int → Prop} (hrefl : ∀ x, R x x) (htrans : ∀ x y z, R x y → R y z → R x z)
    (hcode : ∀ x y, x < 2 ^ e.2.bits → y < 2 ^ e.2.bits →
      intCode e.2 op x y = x ∧ R (valOf e.2 x) (valOf e.2 y) ∨ intCode e.2 op x y = y ∧ R (valOf e.2 y) (valOf e.2 x)) :
    let code := (redLane c e.1 op q A m).code
    (∃ l ∈ finLanes m, code = A.val e.1.wide l) ∧ ∀ l ∈ finLanes m, R (valOf e.2 code) (valOf e.2 (A.val e.1.wide l)) := by
  intro code
  obtain ⟨r, hr⟩ := exists_root (intNode e.2 op) (intLeaf A e.1.wide) hm
  have hcode_eq : code = r.code := redLane_code he hr
  rw [hcode_eq]
  exact root_code_first hr (intLeaf_lt he A) hrefl htrans hcode

/-- The sum of the lanes modulo 2^W. -/
theorem redLane_add : (redLane c e.1 .add q A m).code = ((finLanes m).map fun l => A.val e.1.wide l).sum % 2 ^ e.2.bits := by
  have hfold := redLane_foldl (c := c) (q := q) (A := A) hm he (op := .add) (f := fun x y => (x + y) % 2 ^ e.2.bits) (z := 0)
    (fun x y _ _ => intCode_add e.2 x y) (fun x y z => by rw [Nat.mod_add_mod, Nat.add_mod_mod, Nat.add_assoc])
    fun x hx => ⟨by rw [Nat.zero_add, Nat.mod_eq_of_lt hx], Nat.mod_eq_of_lt hx⟩
  have hsum := foldl_add_mod (2 ^ e.2.bits) ((finLanes m).map fun l => A.val e.1.wide l) 0 (Nat.two_pow_pos _)
  rw [List.foldl_map, Nat.zero_add] at hsum
  exact hfold.trans hsum

end

/-! ### Floating-point lanes -/

/-- The floating-point types of reductions. -/
def fltRed : List (RTy × FTy) := [(.f32, .f32), (.f64, .f64), (.f16x2, .f16x2), (.bf16x2, .bf16x2)]

theorem mem_fltRed {e : RTy × FTy} (he : e ∈ fltRed) :
    e = (.f32, .f32) ∨ e = (.f64, .f64) ∨ e = (.f16x2, .f16x2) ∨ e = (.bf16x2, .bf16x2) := by simpa [fltRed] using he

/-- The tree of element i (R165). -/
def fltTree (v : FpEnv) (e : RTy × FTy) (op : ROp) (A : Lanes) (m : Mask) (i : Nat) : Nat → Nat → Option Node :=
  treeAt (redNode v e.1 op) (laneLeaf m fun l => ⟨(elemsOf e.2 (A.val e.1.wide l)).getD i 0, A.bnd l, Flags.none⟩)

/-- The roots of all elements. -/
def fltRoots (v : FpEnv) (e : RTy × FTy) (op : ROp) (A : Lanes) (m : Mask) : List Node :=
  (List.range (elemsOf e.2 0).length).map fun i => (fltTree v e op A m i 6 0).getD ⟨0, 0, Flags.none⟩

theorem fltRoots_getElem? (v : FpEnv) (e : RTy × FTy) (op : ROp) (A : Lanes) {m : Mask} (hm : m ≠ 0) {i : Nat}
    (hi : i < (elemsOf e.2 0).length) : fltTree v e op A m i 6 0 = (fltRoots v e op A m)[i]? := by
  obtain ⟨r, hr⟩ := exists_root (redNode v e.1 op) (fun l => ⟨(elemsOf e.2 (A.val e.1.wide l)).getD i 0, A.bnd l, Flags.none⟩) hm
  have hroot : fltTree v e op A m i 6 0 = some r := hr
  rw [fltRoots, List.getElem?_map, List.getElem?_range hi, Option.map_some, hroot]
  rfl

/-- What a lane delivers that receives the roots of its elements. -/
def fltOut (c : Ctx) (ty : FTy) (q : Bool) (A : Lanes) (m : Mask) (roots : List Node) : LaneOut :=
  let b := boundMaxL (roots.map (·.bnd))
  { regs := (packElems ty (roots.map (·.code))).map fun x => (x, b)
    fl := roots.foldl (fun f x => f.or x.fl) Flags.none
    unb := isU b && !(List.finRange 64).any fun l => has m l.val && isU (A.bnd l)
    breach := if !q && roots.any (fun x => c.env.breach b (El.checked (fmtOf ty) x.code x.fl x.bnd)) then some b else none }

theorem redLane_flt {e : RTy × FTy} (he : e ∈ fltRed) (c : Ctx) (op : ROp) (q : Bool) (A : Lanes) (m : Mask) :
    redLane c e.1 op q A m = fltOut c e.2 q A m (fltRoots c.env e op A m) := by
  rcases mem_fltRed he with rfl | rfl | rfl | rfl <;> rfl

/-- The node over two nodes of elements of a format (R165, R79). -/
def fltNode (v : FpEnv) (F : FFmt) (op : ROp) (x y : Node) : Node :=
  let z := match op with
    | .min => fminmax F false v.dnan x.code y.code x.bnd y.bnd
    | .max => fminmax F true v.dnan x.code y.code x.bnd y.bnd
    | _ => tiered F .add F.P v.rdef v.dnan x.code y.code 0 x.bnd y.bnd 0
  ⟨z.code, z.bnd, (x.fl.or y.fl).or z.fl⟩

theorem redNode_flt {e : RTy × FTy} (he : e ∈ fltRed) (v : FpEnv) (op : ROp) : redNode v e.1 op = fltNode v (fmtOf e.2) op := by
  rcases mem_fltRed he with rfl | rfl | rfl | rfl <;> rfl

/-- Settles O14: both words deliver a root to each lane. The root of integers is found by induction over the tree, of which only the
lanes that are present matter; floating-point roots are those of the model's own trees. -/
theorem reductionResults : Obligations.ReductionResults := by
  unfold Obligations.ReductionResults
  refine ⟨fun h ty op q d a => ⟨?red, ?scan⟩, fun c q A m hm e he => ?int, fun c q A m op hm _ e he => ?flt⟩
  case red =>
    exact deliversLanes_of_fpBack (g := fun c _ => redLane c ty op q (c.lanesV ty.wide .a a) c.act) fun _ => rfl
  case scan =>
    exact deliversLanes_of_fpBack (g := fun c l => redLane c ty op q (c.lanesV ty.wide .a a)
      (c.act &&& maskWhere fun j => decide (j ≤ l.val))) fun _ => rfl
  case int =>
    refine ⟨redLane_add hm he, ?min, ?max, ?and, ?or, ?xor, fun op => ?bound⟩
    case min => exact redLane_first hm he le_refl (fun _ _ _ => le_trans) fun _ _ => intCode_min
    case max => exact redLane_first (R := fun x y => y ≤ x) hm he le_refl (fun _ _ _ h h' => le_trans h' h) fun _ _ => intCode_max
    case and =>
      refine redLane_foldl hm he (f := (· &&& ·)) (fun _ _ => intCode_and) Nat.and_assoc fun x hx => ?_
      have hand : x &&& (2 ^ e.2.bits - 1) = x := Nat.and_two_pow_sub_one_of_lt_two_pow hx
      exact ⟨(Nat.and_comm ..).trans hand, hand⟩
    case or =>
      exact redLane_foldl hm he (f := (· ||| ·)) (fun _ _ => intCode_or) Nat.or_assoc fun x _ => ⟨Nat.zero_or x, Nat.or_zero x⟩
    case xor =>
      exact redLane_foldl hm he (f := (· ^^^ ·)) (fun _ _ => intCode_xor) Nat.xor_assoc fun x _ => ⟨Nat.zero_xor x, Nat.xor_zero x⟩
    case bound =>
      obtain ⟨r, hr⟩ := exists_root (intNode e.2 op) (intLeaf A e.1.wide) hm
      exact redLane_bound he hr
  case flt =>
    intro F n
    refine ⟨fltTree c.env e op A m, fun _ _ => rfl, fun i k j => ?node, fltRoots c.env e op A m, by simp [fltRoots, n],
      fun i hi => fltRoots_getElem? c.env e op A hm hi, ?out⟩
    case node =>
      have hnode := redNode_flt he c.env op
      rw [fltTree, treeAt, hnode]
      rfl
    case out =>
      rw [redLane_flt he]
      exact ⟨rfl, rfl, rfl, rfl⟩

end Sys2Proof.Machine
end

section
/-! PROOF of O15: Rime control (spec 07, R168, R169, R171, R172). -/
namespace Sys2Proof.Machine
open Sys2Proof

/-! ### Words that write bounds and leave values (R168, R169) -/

/-- The write of lanes of one register that keeps its values. -/
theorem setBnd_eq (c : Ctx) (reg : Nat) (m : Mask) (b : Fin 64 → Bound) :
    ∃ t o, c.setBnd reg m b = { c with f := { c.f with v := t }, r := { c.r with vOld := o } } ∧
      LanesWritten c.f { c.f with v := t } c.r m reg 1 (fun _ l => (c.f.vreg reg).val[l]) (fun _ => b) ∧
      ∀ k, k ≠ reg → o.find? k = c.r.vOld.find? k := by
  obtain ⟨t, o, hw, hlanes, hold⟩ := writeV_eq c.f c.r c.num reg m ⟨(c.f.vreg reg).val, Vector.ofFn b⟩
  refine ⟨t, o, ?_, ?_, hold⟩
  · rw [Ctx.setBnd, Ctx.setV, hw]
  · simpa using hlanes

/-- Bounds written to the lanes of a register, or of a pair. -/
def Ctx.setBnds (c : Ctx) (w : Bool) (d : VReg) (b : Fin 64 → Bound) : Ctx :=
  let c' := c.setBnd d.toNat c.act b
  if w then c'.setBnd (d.toNat + 1) c.act b else c'

theorem setBnds_eq (c : Ctx) (w : Bool) (d : VReg) (b : Fin 64 → Bound) :
    ∃ t o, c.setBnds w d b = { c with f := { c.f with v := t }, r := { c.r with vOld := o } } ∧
      LanesWritten c.f { c.f with v := t } c.r c.act d.toNat (if w then 2 else 1)
        (fun k l => (c.f.vreg (d.toNat + k)).val[l]) fun _ => b := by
  obtain ⟨t, o, hset, hlanes, hold⟩ := setBnd_eq c d.toNat c.act b
  have hlow : LanesWritten c.f { c.f with v := t } c.r c.act d.toNat 1 (fun k l => (c.f.vreg (d.toNat + k)).val[l]) fun _ => b :=
    hlanes.congr fun k l hk => by rw [Nat.lt_one_iff.mp hk]; rfl
  cases w with
  | false => exact ⟨t, o, hset, hlow⟩
  | true =>
    obtain ⟨t', o', hset', hlanes', -⟩ :=
      setBnd_eq { c with f := { c.f with v := t }, r := { c.r with vOld := o } } (d.toNat + 1) c.act b
    have hval (l : Fin 64) : (({ c.f with v := t } : Floe).vreg (d.toNat + 1)).val[l] = (c.f.vreg (d.toNat + 1)).val[l] :=
      ((hlow (d.toNat + 1) l).1 (.inr (.inr le_rfl))).1
    refine ⟨t', o', ?_, lanesWritten_append hlow (r1 := { c.r with vOld := o }) (hlanes'.congr fun _ l _ => hval l) (hold _ (by omega))⟩
    rw [Ctx.setBnds, hset]
    exact hset'

theorem sysAfter_sticky (f : Floe) (bits : BitVec 5) : sysAfter f 0 bits none = stuck f bits := by
  unfold sysAfter stuck
  split <;> simp

/-- A word that writes bounds to the lanes of ACTIVE of a register or pair, whose values stay. -/
theorem bndWord_sets {i : Instr} {h : Hdr} {w : Bool} {d : VReg} {bnd : Ctx → Fin 64 → Bound}
    (hexec : ∀ s, exec i s = onRegs i h s fun c => bndWord c w d (bnd c)) {s : State} {x : Issue} {f : Floe} {r : Run}
    (hissues : Issues s x f r) (hok : operandsOk s f i = true) :
    let c := ctxOf s x f r h
    ∃ v q, exec i s = .next (wordDone s x { f with
        v := v, sys := stuck f (unbBit c.act (bnd c) fun l => [(c.v .d d).bnd[l]]), run := some q }) ∧
      RunMoves x r q h.s ∧ q.sOld = r.sOld ∧ q.pOld = r.pOld ∧
      LanesWritten f { f with v := v } r c.act d.toNat (if w then 2 else 1) (fun k l => (f.vreg (d.toNat + k)).val[l])
        fun _ => bnd c := by
  intro c
  obtain ⟨t, o, hset, hlanes⟩ := setBnds_eq c w d (bnd c)
  have hword : bndWord c w d (bnd c) = (c.setBnds w d (bnd c)).stick (unbBit c.act (bnd c) fun l => [(c.v .d d).bnd[l]]) := rfl
  refine ⟨t, nextRun x { r with vOld := o } h.s, ?_, rfl, rfl, rfl, hlanes⟩
  rw [hexec, onRegs_ok hissues hok, ← sysAfter_sticky]
  change Host.Outcome.next (retire (bndWord c w d (bnd c))) = _
  rw [hword, hset, stick_eq]
  rfl

/-! ### The budget (R172) -/

/-- A word that gives EBUD a value from the next run on, where a lane is in ACTIVE. -/
theorem exec_of_pendSys {i : Instr} {h : Hdr} {ix : Nat} {val : Ctx → Word}
    (hexec : ∀ s, exec i s = onRegs i h s fun c => c.once fun c => c.pendSys ix (val c)) {s : State} {w : Issue} {f : Floe} {r : Run}
    (hissues : Issues s w f r) (hok : operandsOk s f i = true) :
    (activeOf w f r h = 0 → exec i s = .next (wordDone s w (passed w f r h))) ∧
    (activeOf w f r h ≠ 0 →
      ∃ q, exec i s = .next (wordDone s w { f with sysPend := f.sysPend.put ix (val (ctxOf s w f r h)), run := some q }) ∧
        RunMoves w r q h.s ∧ q.vOld = r.vOld ∧ q.sOld = r.sOld ∧ q.pOld = r.pOld) := by
  rw [hexec, onRegs_ok hissues hok]
  refine ⟨fun hact => ?_, fun hact => ⟨nextRun w r h.s, ?_, rfl, rfl, rfl, rfl⟩⟩
  · rw [once_idle hact]
    rfl
  · rw [once_busy hact]
    rfl

/-- Settles O15: words that write bounds write registers whose values stay; BGET and BMAXR write whole lanes; BCHK writes a predicate;
BUD and BUDI give the budget a value for later runs. -/
theorem rimeControlWords : Obligations.RimeControlWords := by
  unfold Obligations.RimeControlWords
  refine ⟨fun h w d a b => ⟨?bget, ?bset, ?bclr, ?bunb, ?bmaxr⟩, fun h ty p a x imm => ⟨?abs, ?rel, ?cur, ?unb, ?pends⟩⟩
  case bget => exact WritesVec.of_narrow (writesVec_of_setLanes_only (wide := false) fun _ => rfl) fun _ _ => BitVec.ofNat_toNat ..
  case bset =>
    exact fun _ _ _ _ hissues hok =>
      bndWord_sets (bnd := fun c l => canonBound ((c.v .a a).val[l].setWidth 16)) (fun _ => rfl) hissues hok
  case bclr => exact fun _ _ _ _ hissues hok => bndWord_sets (bnd := fun _ _ => 0) (fun _ => rfl) hissues hok
  case bunb => exact fun _ _ _ _ hissues hok => bndWord_sets (bnd := fun _ _ => 0x8000) (fun _ => rfl) hissues hok
  case bmaxr => exact writesVec_of_setLanes_only fun _ => rfl
  case abs | rel | cur | unb => exact writesPred_of_setP fun _ => rfl
  case pends =>
    intro s w f r hissues Pends
    exact ⟨fun hok => exec_of_pendSys (fun _ => rfl) hissues hok, fun hok => exec_of_pendSys (fun _ => rfl) hissues hok⟩

end Sys2Proof.Machine
end

section
/-! SUPPORT. What caches and translations change: no floe, no pack, no access to come and no memory, and of a lookup no fault either
(spec 12, R260 to R268; 16, R326 to R328; 17, R338, R339). -/

namespace Sys2Proof.Machine
open Sys2Proof

/-! ### Caches -/

/-- Only the dies, the cores and the hub have changed. -/
def CachesMove (s t : State) : Prop := ∃ dies cores hub, t = { s with dies := dies, cores := cores, hub := hub }

namespace CachesMove

theorem refl (s : State) : CachesMove s s := ⟨_, _, _, rfl⟩

theorem trans {s t u : State} (h : CachesMove s t) (k : CachesMove t u) : CachesMove s u := by
  obtain ⟨_, _, _, rfl⟩ := h
  obtain ⟨_, _, _, rfl⟩ := k
  exact ⟨_, _, _, rfl⟩

theorem ite {s t u : State} {c : Prop} [Decidable c] (h : CachesMove s t) (k : CachesMove s u) : CachesMove s (if c then t else u) := by
  split
  · exact h
  · exact k

theorem foldl {α : Type} {f : State → α → State} (hf : ∀ s e, CachesMove s (f s e)) (l : List α) (s : State) :
    CachesMove s (l.foldl f s) :=
  foldl_keeps (P := CachesMove s) (fun _ _ h => h.trans (hf _ _)) l (.refl s)

theorem sameMemory {s t : State} (h : CachesMove s t) : SameMemory s t := by
  obtain ⟨_, _, _, rfl⟩ := h
  exact .refl _

theorem floes {s t : State} (h : CachesMove s t) : t.floes = s.floes := by
  obtain ⟨_, _, _, rfl⟩ := h
  rfl

theorem pend {s t : State} (h : CachesMove s t) : t.pend = s.pend := by
  obtain ⟨_, _, _, rfl⟩ := h
  rfl

end CachesMove

theorem setCore_cachesMove (s : State) (c : Nat) (x : Core) : CachesMove s (s.setCore c x) := ⟨_, _, _, rfl⟩
theorem setDie_cachesMove (s : State) (d : Nat) (x : Die) : CachesMove s (s.setDie d x) := ⟨_, _, _, rfl⟩
theorem setHub_cachesMove (s : State) (h : Hub) : CachesMove s (s.setHub h) := ⟨_, _, _, rfl⟩
theorem dropL1_cachesMove (s : State) (die line : Nat) : CachesMove s (s.dropL1 die line) := ⟨_, _, _, rfl⟩

theorem syncDir_cachesMove (s : State) (line : Nat) : CachesMove s (s.syncDir line) := .ite (.refl s) (setHub_cachesMove ..)
theorem neveFill_cachesMove (s : State) (line : Nat) : CachesMove s (s.neveFill line) := .ite (.refl s) (setHub_cachesMove ..)

theorem setL2_cachesMove (s : State) (die line : Nat) (st : L2St) : CachesMove s (s.setL2 die line st) :=
  ((CachesMove.ite (.ite (setHub_cachesMove ..) (.refl s)) (.ite (neveFill_cachesMove ..) (.refl s))).trans
    (setDie_cachesMove ..)).trans (syncDir_cachesMove ..)

theorem recall_cachesMove (s : State) (line keep : Nat) (share : Bool) : CachesMove s (s.recall line keep share) :=
  .foldl (fun s _ => .ite (.refl s) (setL2_cachesMove ..)) _ s

theorem dropL2_cachesMove (s : State) (die line : Nat) : CachesMove s (s.dropL2 die line) :=
  (CachesMove.ite (.refl s) (setL2_cachesMove ..)).trans (.ite (.refl _) (setDie_cachesMove ..))

theorem l2Room_cachesMove (s : State) (die line : Nat) : CachesMove s (s.l2Room die line) := by
  refine .ite (.refl s) (.ite (.refl s) ?_)
  split
  · exact dropL2_cachesMove ..
  · exact .refl s

theorem backInvalidate_cachesMove (s : State) (as : List Nat) : CachesMove s (s.backInvalidate as) :=
  .ite (.refl s) ((setHub_cachesMove ..).trans (.foldl (fun _ _ => syncDir_cachesMove ..) _ _))

theorem dirRoom_cachesMove (s : State) (line : Nat) : CachesMove s (s.dirRoom line) := by
  refine .ite (.refl s) ?_
  split
  · exact (recall_cachesMove ..).trans (backInvalidate_cachesMove ..)
  · exact .refl s

theorem takeL2_cachesMove (s : State) (die line : Nat) (st : L2St) : CachesMove s (s.takeL2 die line st) :=
  .ite ((((l2Room_cachesMove s die line).trans (dirRoom_cachesMove _ line)).trans (neveFill_cachesMove _ line)).trans
    (.ite (setL2_cachesMove ..) (.refl _))) (setL2_cachesMove ..)

theorem setHalf_cachesMove (s : State) (die a : Nat) (st : L2St) : CachesMove s (s.setHalf die a st) :=
  (CachesMove.ite (.refl s) (l2Room_cachesMove ..)).trans (setDie_cachesMove ..)

theorem recallHalf_cachesMove (s : State) (keep a : Nat) (share : Bool) : CachesMove s (s.recallHalf keep a share) :=
  .foldl (fun s _ => .ite (.refl s) (setHalf_cachesMove ..)) _ s

theorem hostLoad_cachesMove (s : State) (die a : Nat) (lv : Level) : CachesMove s (s.hostLoad die a lv) :=
  .ite ((recallHalf_cachesMove ..).trans (setHalf_cachesMove ..)) (.ite (.refl s) (recallHalf_cachesMove ..))

theorem grant_cachesMove (s : State) (core a : Nat) : CachesMove s (s.grant core a) :=
  .ite (.refl s) ((setDie_cachesMove ..).trans (setCore_cachesMove ..))

theorem sample_cachesMove (s : State) (core line : Nat) (hit : Bool) : CachesMove s (s.sample core line hit) := setCore_cachesMove ..

/-- R173: what a load does to the caches. -/
theorem cacheLoad_cachesMove (s : State) (core a : Nat) (lv : Level) : CachesMove s (s.cacheLoad core a lv) := by
  refine .ite (hostLoad_cachesMove ..) (.ite (.refl s) ?_)
  have halloc : CachesMove s (if (((s.die (dieOf core)).line (lineOf a)).st == .i) = true then
      (s.recall (lineOf a) (dieOf core) true).takeL2 (dieOf core) (lineOf a) .s else s) :=
    .ite ((recall_cachesMove ..).trans (takeL2_cachesMove ..)) (.refl s)
  cases lv with
  | near => exact .ite halloc (.ite (sample_cachesMove ..) ((halloc.trans (sample_cachesMove ..)).trans (grant_cachesMove ..)))
  | mid => exact halloc
  | far => exact (recall_cachesMove ..).trans (neveFill_cachesMove ..)
  | stream => exact (recall_cachesMove ..).trans (neveFill_cachesMove ..)

/-! ### Translations -/

/-- Only walk caches, TLBs and CXLSTAT.UNCL have changed. -/
def LooksUp (s t : State) : Prop := ∃ dies cores uncl, t = { s with dies := dies, cores := cores, hub := { s.hub with uncl := uncl } }

namespace LooksUp

theorem refl (s : State) : LooksUp s s := ⟨_, _, _, rfl⟩

theorem trans {s t u : State} (h : LooksUp s t) (k : LooksUp t u) : LooksUp s u := by
  obtain ⟨_, _, _, rfl⟩ := h
  obtain ⟨_, _, _, rfl⟩ := k
  exact ⟨_, _, _, rfl⟩

theorem cachesMove {s t : State} (h : LooksUp s t) : CachesMove s t := by
  obtain ⟨_, _, _, rfl⟩ := h
  exact ⟨_, _, _, rfl⟩

theorem sameMemory {s t : State} (h : LooksUp s t) : SameMemory s t := h.cachesMove.sameMemory
theorem floes {s t : State} (h : LooksUp s t) : t.floes = s.floes := h.cachesMove.floes
theorem pend {s t : State} (h : LooksUp s t) : t.pend = s.pend := h.cachesMove.pend

theorem faults {s t : State} (h : LooksUp s t) : t.hub.faults = s.hub.faults := by
  obtain ⟨_, _, _, rfl⟩ := h
  rfl

end LooksUp

theorem setCore_looksUp (s : State) (c : Nat) (x : Core) : LooksUp s (s.setCore c x) := ⟨_, _, _, rfl⟩
theorem setDie_looksUp (s : State) (d : Nat) (x : Die) : LooksUp s (s.setDie d x) := ⟨_, _, _, rfl⟩

theorem keepWalks_looksUp (s : State) (die : Nat) (ws : List Walk) : LooksUp s (s.keepWalks die ws) := by
  unfold State.keepWalks
  split
  · exact .refl s
  · exact setDie_looksUp ..

theorem noteUncl_looksUp (s : State) (a : Option Nat) : LooksUp s (s.noteUncl a) := by
  unfold State.noteUncl
  split
  · unfold State.noteUnclaimed
    split
    · exact ⟨_, _, _, rfl⟩
    · exact .refl s
  · exact .refl s

theorem walked_looksUp (s : State) (die : Nat) (va : Word) (o : WalkOut) : LooksUp s (s.walked die va o).1 := by
  have h := (keepWalks_looksUp s die o.walks).trans (noteUncl_looksUp _ o.uncl)
  unfold State.walked
  dsimp only
  split
  · exact h
  · exact h

theorem walkKeep_looksUp (s : State) (g : Agent) (core : Nat) (ctx : BitVec 8) (root : Nat) (va : Word) (fresh : Bool) :
    LooksUp s (s.walkKeep g core ctx root va fresh).1 := by
  have h := walked_looksUp s (dieOf core) va (s.walk (dieOf core) ctx root va fresh)
  unfold State.walkKeep
  dsimp only
  split
  · exact h.trans (setCore_looksUp ..)
  · exact h

theorem lookup_looksUp (s : State) (g : Agent) (core : Nat) (ctx : BitVec 8) (root : Nat) (va : Word) (allow : Word → Bool) :
    LooksUp s (s.lookup g core ctx root va allow).1 := by
  have hwalk := walkKeep_looksUp s g core ctx root va false
  unfold State.lookup
  split
  · split
    · exact .refl s
    · exact walkKeep_looksUp ..
  · split
    next heq =>
      rw [heq] at hwalk
      split
      · exact hwalk
      · exact hwalk.trans (walkKeep_looksUp ..)
    next heq =>
      rw [heq] at hwalk
      exact hwalk

/-- A fold that carries a state along and only looks up in it. -/
theorem LooksUp.foldl_fst {α β : Type} {f : State × β → α → State × β} (hf : ∀ x e, LooksUp x.1 (f x e).1) (l : List α) (x : State × β) :
    LooksUp x.1 (l.foldl f x).1 := by
  induction l generalizing x with
  | nil => exact .refl _
  | cons e l ih => exact (hf x e).trans (ih _)

theorem checkLane_looksUp (core : Nat) (ctx : BitVec 8) (root : Nat) (handler : Bool) (r : AccRule) (n : Nat) (s : State)
    (la : Nat × Word) (g : Agent) (ser : Bool) : LooksUp s (checkLane core ctx root handler r n s la g ser).1 := by
  unfold checkLane
  refine LooksUp.foldl_fst (β := LaneCheck) (fun x e => ?_) _ (s, _)
  obtain ⟨u, ck⟩ := x
  dsimp only
  split
  · exact .refl _
  · generalize hl : u.lookup g core ctx root e.2.1 _ = y
    have h : LooksUp u y.1 := hl ▸ lookup_looksUp ..
    obtain ⟨v, res⟩ := y
    cases res with
    | ok pa leaf exp => exact h
    | miss level bad => exact h

/-- R174: the checks of an access look its pages up. -/
theorem checkLanes_looksUp (core : Nat) (ctx : BitVec 8) (root : Nat) (handler : Bool) (r : AccRule) (s : State)
    (las : List ((Nat × Word) × Nat)) (g : Agent) : LooksUp s (checkLanes core ctx root handler r s las g).1 := by
  unfold checkLanes
  exact LooksUp.foldl_fst (β := List LaneCheck) (fun x la => checkLane_looksUp core ctx root handler r la.2 x.1 la.1 g false) las (s, [])

end Sys2Proof.Machine
end

section
/-! SUPPORT. An access whose checks pass issues: what it looks up, and the record that stands among those to be performed (spec 08,
R173 to R175; 11, R239, R252). -/

namespace Sys2Proof.Machine
open Sys2Proof

/-! ### Checks that pass (R174) -/

/-- No lane fails a test that none of them meets. -/
theorem failing_eq_zero {cks : List LaneCheck} {t : LaneCheck → Bool} (h : ∀ y ∈ cks, t y = false) (act : Mask) :
    failing act cks t = 0 := by
  have hnone : cks.filter t = [] := List.filter_eq_nil_iff.mpr fun y hy => by simp [h y hy]
  rw [failing, hnone]
  exact maskWhere_eq_zero.mpr fun _ _ => rfl

theorem park_zero (c : Ctx) (write fetch : Bool) (misses : List (Word × Nat × Bool)) : c.park 0 write fetch misses = c := if_pos rfl

/-- What checks have looked up. -/
theorem Passes.looksUp {c : Ctx} {rule : AccRule} {las : List ((Nat × Word) × Nat)} {p : Pack} {s' : State} {cks : List LaneCheck}
    {g : Agent} (h : Passes c rule las p s' cks g) : LooksUp c.s s' := by
  have hs := checkLanes_looksUp c.core c.f.ctx (c.s.rootOf p) c.f.handler rule c.s las g
  rwa [h.checks] at hs

/-- An access whose checks pass goes on with every lane. -/
theorem accessN_passes {c : Ctx} {rule : AccRule} {las : List ((Nat × Word) × Nat)} {p : Pack} {s' : State} {cks : List LaneCheck}
    {g : Agent} (h : Passes c rule las p s' cks g) (k : Ctx → List LaneCheck → State) :
    c.accessN rule las k g = k { c with s := s' } cks := by
  obtain ⟨hpack, hchecks, hfree, hgood⟩ := h
  have hmis := failing_eq_zero (fun y hy => (hgood y hy).1) c.act
  have hprot := failing_eq_zero (fun y hy => (hgood y hy).2.1) c.act
  have hcell := failing_eq_zero (fun y hy => (hgood y hy).2.2.1) c.act
  have hmiss : ∀ y ∈ cks, (!y.miss.isEmpty) = false := fun y hy => by simp [(hgood y hy).2.2.2]
  have hall : cks.any (fun x => x.lane == 64 && !x.miss.isEmpty) = false :=
    List.any_eq_false.mpr fun y hy => by simp [hmiss y hy]
  have hkept : cks.filter (fun x => x.miss.isEmpty) = cks := List.filter_eq_self.mpr fun y hy => by simpa using hmiss y hy
  unfold Ctx.accessN
  simp only [hpack, hchecks, hfree, hmis, hprot, hcell, failing_eq_zero hmiss, park_zero, hall, hkept, ne_eq, not_true_eq_false, if_false,
    Bool.false_eq_true]

/-! ### The record of an access (R239, R252) -/

/-- The floe of an access that does not perform again what a checkpoint holds. -/
def Ctx.replayed (c : Ctx) (q : Req) : Floe := if (c.again q).1 = 0 then c.f else c.f.uncheck (c.again q).1

/-- The record of an access. -/
def Ctx.issued (c : Ctx) (q : Req) : Acc :=
  { floe := c.key, seq := c.f.seq, pack := (c.pack?.map (·.id)).getD ⟨0, 0, 0⟩, number := c.num, run := c.r.number, lanes := q.lanes,
    order := q.order, scope := q.scope, reads := q.reads, writes := q.writes, mmio := q.mmio, sticky := !c.f.handler
    todo := if (c.again q).1 = 0 then q.todo
      else if (q.todo.filterMap (Work.without (c.again q).1)).isEmpty then [.load []] else q.todo.filterMap (Work.without (c.again q).1)
    got := (c.again q).2, wrote := [], poison := [], dest := q.dest, pc := c.pc, word := c.word, born := c.s.hub.firn.toNat, exp := q.exp
    snap := if q.snap then some { c.replayed q with run := some c.r } else none }

/-- An access that touches something stands among those to be performed. -/
theorem issue_eq (c : Ctx) {q : Req} (h : q.todo ≠ []) :
    c.issue q = { c with s := { c.s with pend := c.s.pend.put c.num (c.issued q) }, f := c.replayed q } := by
  rcases hagain : c.again q with ⟨m, got⟩
  have hif : (if q.writes && q.dest != .none then c.f.performed c.pc q.lanes else (0, [])) = (m, got) := hagain
  unfold Ctx.issue Ctx.issued Ctx.replayed
  rw [if_neg (by simpa using h)]
  simp only [hif, hagain]
  by_cases hnone : m = 0
  · simp only [if_pos hnone]
  · simp only [if_neg hnone]
    cases hrest : q.todo.filterMap (Work.without m) <;> rfl

theorem issue_nil {c : Ctx} {q : Req} (h : q.todo = []) : c.issue q = c := by simp [Ctx.issue, h]

/-- BSTICKY after a word that sets bits of it (R85, R306). -/
theorem stick_stuck (c : Ctx) (b : BitVec 5) : c.stick b = { c with f := { c.f with sys := stuck c.f b } } := by
  unfold Ctx.stick stuck
  cases hh : c.f.handler
  · simp
  · simp

theorem stuck_replayed (c : Ctx) (q : Req) (b : BitVec 5) : stuck (c.replayed q) b = stuck c.f b := by
  unfold Ctx.replayed
  split <;> rfl

/-- A word whose meaning, where its checks pass, is to issue a request and to set bits of BSTICKY (R239). -/
theorem issuesAccess_of_passes {i : Instr} {h : Hdr} {rule : AccRule} {las : Ctx → List ((Nat × Word) × Nat)} {req : Ctx → List LaneCheck → Req}
    {bits : Ctx → List LaneCheck → BitVec 5} {ok : Ctx → Prop} {meaning : Ctx → State} (hexec : ∀ s, exec i s = onWord i h s meaning)
    (hmeaning : ∀ c p s' cks, ok c → Passes c rule (las c) p s' cks →
      meaning c = retire ((({ c with s := s' } : Ctx).issue (req c cks)).stick (bits c cks))) :
    IssuesAccess i h rule las req bits ok := by
  intro s w f r p s' cks hissues hoperands c x again hok hpasses htodo
  have hlooks := hpasses.looksUp
  have hend : meaning c = _ := hmeaning c p s' cks hok hpasses
  rw [issue_eq _ htodo, stick_stuck] at hend
  have hagain : ({ c with s := s' } : Ctx).again (req c cks) = again := rfl
  refine ⟨({ c with s := s' } : Ctx).issued x, nextRun w r h.s, ?_, rfl, rfl, rfl, rfl, hlooks.sameMemory, hlooks.floes, hlooks.pend, rfl, rfl, rfl, rfl, rfl, rfl,
    rfl, rfl, rfl, rfl, rfl, rfl, rfl, rfl⟩
  rw [hexec, onWord_ok hissues hoperands]
  refine congrArg Host.Outcome.next (hend.trans ?_)
  dsimp only
  rw [stuck_replayed]
  rfl

end Sys2Proof.Machine
end

section
/-! PROOF of O25 and O26: loads, stores, atomics and Moraine words issue their accesses (spec 08, R177 to R179, R183 to R189). -/

namespace Sys2Proof.Machine
open Sys2Proof

/-! ### Loads and stores (R102, R177 to R179) -/

/-- R102: the address of a lane. -/
theorem addrs_eq (c : Ctx) (m : MemOp) :
    c.addrs m = (lanesOf c.act).map fun l =>
      (l, c.sr .a m.sa + (if m.vb = 1023 then 0 else ((c.v .a m.vb).val.toList.getD l 0).signExtend 64) + m.off.signExtend 64) := by
  unfold Ctx.addrs
  refine List.map_congr_left fun l _ => congrArg (Prod.mk l) ?_
  rw [add_right_comm]
  by_cases hvb : m.vb = 1023
  · simp only [if_pos hvb]
  · simp only [if_neg hvb]

/-- The word whose meaning issues a request and sets no bit of BSTICKY. -/
theorem retire_stick_zero (c : Ctx) : retire c = retire (c.stick 0) := congrArg retire (stick_zero c).symm

theorem lost_eq_stick (c : Ctx) (b : Bool) : c.lost b = c.stick (if b then stickyLOST else 0) := by
  cases b
  · exact (stick_zero c).symm
  · rfl

/-- Settles O25: checks that pass leave the request that the word makes of them. -/
theorem loadStoreWords : Obligations.LoadStoreWords := by
  unfold Obligations.LoadStoreWords
  refine ⟨addrs_eq, fun h m sz d x => ⟨?_, ?_, ?_, ?_⟩⟩
  · refine issuesAccess_of_passes (fun _ => rfl) fun c p s' cks _ hpasses => ?_
    rw [Ctx.access, accessN_passes hpasses, ← retire_stick_zero]
    simp only [BEq.rfl]
  · refine issuesAccess_of_passes (fun _ => rfl) fun c p s' cks hact hpasses => ?_
    rw [if_neg hact, Ctx.access, ← retire_stick_zero]
    exact accessN_passes hpasses _
  · refine issuesAccess_of_passes (fun _ => rfl) fun c p s' cks _ hpasses => ?_
    rw [Ctx.access, accessN_passes hpasses, ← lost_eq_stick]
    simp only [BEq.rfl]
  · refine issuesAccess_of_passes (fun _ => rfl) fun c p s' cks hact hpasses => ?_
    rw [if_neg hact, Ctx.access, ← retire_stick_zero]
    exact accessN_passes hpasses _

/-! ### Atomics (R183 to R185) -/

/-- The data of a lane of an atomic, read from the table of all lanes. -/
theorem getD_atomData (c : Ctx) (ty : ATy) (d : VReg) (l : Nat) :
    ((List.range 64).map fun l => if has c.act l then c.atomData ty d l else (0, 0, 0, 0)).getD l (0, 0, 0, 0) =
      if has c.act l then c.atomData ty d l else (0, 0, 0, 0) := by
  by_cases hl : l < 64
  · simp [List.getD_eq_getElem?_getD, hl]
  · have hnone : has c.act l = false := by
      by_contra h
      exact hl (lt_of_has (Bool.eq_true_of_not_eq_false h))
    simp [List.getD_eq_getElem?_getD, hl, hnone]

/-- Settles O26: an atomic asks for one unit of each line, a Moraine word for one of each cell or line. -/
theorem atomicAndMoraineWords : Obligations.AtomicAndMoraineWords := by
  unfold Obligations.AtomicAndMoraineWords
  intro h m ty ret d op n lanes Atom Cell
  have hatom (i : Instr) (f : AFun) (hexec : ∀ s, exec i s = onWord i h s fun c => atomWord c f m ty ret d) : Atom i f := by
    refine issuesAccess_of_passes hexec fun c p s' cks _ hpasses => ?_
    rw [atomWord, Ctx.access, ← retire_stick_zero]
    refine (accessN_passes hpasses _).trans ?_
    simp only [getD_atomData]
    rfl
  refine ⟨hatom _ _ fun _ => rfl, hatom _ _ fun _ => rfl, hatom _ _ fun _ => rfl, hatom _ _ fun _ => rfl, hatom _ _ fun _ => rfl,
    hatom _ _ fun _ => rfl, hatom _ _ fun _ => rfl, hatom _ _ fun _ => rfl, hatom _ _ fun _ => rfl, ?_, ?_, ?_⟩
  · refine issuesAccess_of_passes (fun _ => rfl) fun c p s' cks _ hpasses => ?_
    rw [Ctx.access, ← retire_stick_zero]
    exact accessN_passes hpasses _
  · refine issuesAccess_of_passes (fun _ => rfl) fun c p s' cks _ hpasses => ?_
    rw [Ctx.access, accessN_passes hpasses, ← lost_eq_stick]
    rfl
  · refine issuesAccess_of_passes (fun _ => rfl) fun c p s' cks _ hpasses => ?_
    rw [Ctx.access, ← retire_stick_zero]
    exact accessN_passes hpasses _

end Sys2Proof.Machine
end

section
/-! PROOF of O27: the checks of an access in their order, and the lanes that park (spec 08, R174; 15, R308; 17, R342). -/

namespace Sys2Proof.Machine
open Sys2Proof

/-! ### A failed translation is recorded (R342) -/

/-- The outstanding faults that waiters have joined or made: each fault of s stands with its waiters. -/
def FaultsGrow (s t : State) : Prop :=
  ∀ z ∈ s.hub.faults, ∃ y ∈ t.hub.faults, y.id = z.id ∧ y.ctx = z.ctx ∧ y.page = z.page ∧ ∀ v ∈ z.waiters, v ∈ y.waiters

theorem FaultsGrow.refl (s : State) : FaultsGrow s s := fun z hz => ⟨z, hz, rfl, rfl, rfl, fun _ h => h⟩

theorem FaultsGrow.trans {s t u : State} (h : FaultsGrow s t) (k : FaultsGrow t u) : FaultsGrow s u := by
  intro z hz
  obtain ⟨y, hy, hid, hctx, hpage, hwait⟩ := h z hz
  obtain ⟨x, hx, kid, kctx, kpage, kwait⟩ := k y hy
  exact ⟨x, hx, kid.trans hid, kctx.trans hctx, kpage.trans hpage, fun v hv => kwait v (hwait v hv)⟩

/-- A waiter waits on the fault of a page of a context. -/
def WaitsOn (s : State) (ctx : BitVec 8) (page : Nat) (w : Waiter) : Prop :=
  ∃ z ∈ s.hub.faults, z.ctx = ctx ∧ z.page = page ∧ w ∈ z.waiters

theorem FaultsGrow.waitsOn {s t : State} (h : FaultsGrow s t) {ctx : BitVec 8} {page : Nat} {w : Waiter} (hw : WaitsOn s ctx page w) :
    WaitsOn t ctx page w := by
  obtain ⟨z, hz, hctx, hpage, hmem⟩ := hw
  obtain ⟨y, hy, -, kctx, kpage, hwait⟩ := h z hz
  exact ⟨y, hy, kctx.trans hctx, kpage.trans hpage, hwait w hmem⟩

/-- Only the hub's faults and the counter of free values have changed. -/
def Reports (s t : State) : Prop := ∃ faults fresh, t = { s with hub := { s.hub with faults := faults }, fresh := fresh }

theorem Reports.refl (s : State) : Reports s s := ⟨_, _, rfl⟩

theorem Reports.trans {s t u : State} (h : Reports s t) (k : Reports t u) : Reports s u := by
  obtain ⟨_, _, rfl⟩ := h
  obtain ⟨_, _, rfl⟩ := k
  exact ⟨_, _, rfl⟩

/-- R342: the waiter joins the outstanding fault of its page, or makes one. -/
theorem pageFault_spec (s : State) (ctx : BitVec 8) (va : Word) (info : Byte) (core : Nat) (slot : Byte) (w : Waiter) :
    Reports s (s.pageFault ctx va info core slot w) ∧ FaultsGrow s (s.pageFault ctx va info core slot w) ∧
      WaitsOn (s.pageFault ctx va info core slot w) ctx (va.toNat / 65536) w := by
  unfold State.pageFault
  dsimp only
  split
  next hjoin =>
    refine ⟨⟨_, _, rfl⟩, fun z hz => ⟨_, List.mem_map_of_mem hz, ?_⟩, ?_⟩
    · split
      · exact ⟨rfl, rfl, rfl, fun v hv => List.mem_append_left _ hv⟩
      · exact ⟨rfl, rfl, rfl, fun v hv => hv⟩
    · obtain ⟨z, hz, hmatch⟩ := List.any_eq_true.mp hjoin
      have hboth : z.ctx = ctx ∧ z.page = va.toNat / 65536 := by simpa using hmatch
      exact ⟨_, List.mem_map_of_mem hz, by rw [if_pos hmatch]; exact hboth.1, by rw [if_pos hmatch]; exact hboth.2,
        by rw [if_pos hmatch]; exact List.mem_append_right _ (List.mem_singleton_self w)⟩
  next =>
    exact ⟨⟨_, _, rfl⟩, fun z hz => ⟨z, List.mem_append_left _ hz, rfl, rfl, rfl, fun _ h => h⟩,
      ⟨_, List.mem_append_right _ (List.mem_singleton_self _), rfl, rfl, List.mem_singleton_self w⟩⟩

/-- Faults of a list of pages: a waiter waits on each of them. -/
theorem foldl_pageFault_spec (ctx : BitVec 8) (info : Nat → Bool → Byte) (core : Nat) (slot : Byte) (w : Waiter)
    (pages : List (Word × Nat × Bool)) (s : State) :
    let t := pages.foldl (fun s x => s.pageFault ctx x.1 (info x.2.1 x.2.2) core slot w) s
    Reports s t ∧ FaultsGrow s t ∧ ∀ x ∈ pages, WaitsOn t ctx (x.1.toNat / 65536) w := by
  induction pages generalizing s with
  | nil => exact ⟨.refl s, .refl s, fun x hx => absurd hx List.not_mem_nil⟩
  | cons x pages ih =>
    obtain ⟨hreports, hgrow, hwaits⟩ := pageFault_spec s ctx x.1 (info x.2.1 x.2.2) core slot w
    obtain ⟨kreports, kgrow, kwaits⟩ := ih (s.pageFault ctx x.1 (info x.2.1 x.2.2) core slot w)
    exact ⟨hreports.trans kreports, hgrow.trans kgrow, List.forall_mem_cons.mpr ⟨kgrow.waitsOn hwaits, kwaits⟩⟩

/-! ### Lanes that park (R308) -/

/-- A missing translation joins a list of pages, each of which stands there once. -/
def addMiss (ps : List (Word × Nat × Bool)) (x : Word × Nat × Bool) : List (Word × Nat × Bool) :=
  if ps.any fun y => y.1.toNat / 65536 == x.1.toNat / 65536 then ps else ps ++ [x]

theorem mem_addMiss {ps : List (Word × Nat × Bool)} {y : Word × Nat × Bool} (h : y ∈ ps) (x : Word × Nat × Bool) : y ∈ addMiss ps x := by
  unfold addMiss
  split
  · exact h
  · exact List.mem_append_left _ h

theorem exists_addMiss (ps : List (Word × Nat × Bool)) (x : Word × Nat × Bool) :
    ∃ y ∈ addMiss ps x, y.1.toNat / 65536 = x.1.toNat / 65536 := by
  unfold addMiss
  split
  next hany => simpa using hany
  next => exact ⟨x, List.mem_append_right _ (List.mem_singleton_self x), rfl⟩

/-- The page of each missing translation stands in the list. -/
theorem exists_foldl_addMiss {misses acc : List (Word × Nat × Bool)} {x : Word × Nat × Bool}
    (h : x ∈ misses ∨ ∃ y ∈ acc, y.1.toNat / 65536 = x.1.toNat / 65536) :
    ∃ y ∈ misses.foldl addMiss acc, y.1.toNat / 65536 = x.1.toNat / 65536 := by
  induction misses generalizing acc with
  | nil => exact h.resolve_left List.not_mem_nil
  | cons e misses ih =>
    refine ih ?_
    rcases h with h | ⟨y, hy, hpage⟩
    · rcases List.mem_cons.mp h with rfl | h
      · exact .inr (exists_addMiss acc x)
      · exact .inl h
    · exact .inr ⟨y, mem_addMiss hy e, hpage⟩

theorem endEmpty_eq (c : Ctx) : c.endEmpty = { c with r := { c.r with ended := c.r.ended || c.r.mask == 0 } } := by
  unfold Ctx.endEmpty
  split
  next hempty => simp [Ctx.endRun, hempty]
  next hsome =>
    have hfalse : (c.r.mask == 0) = false := beq_false_of_ne hsome
    rw [hfalse, Bool.or_false]

/-- R308, R342: the lanes of a mask leave the entry for a parked one at the word, which waits on the fault of each of their pages. -/
theorem park_spec (c : Ctx) {m : Mask} (hm : m ≠ 0) (write : Bool) (misses : List (Word × Nat × Bool)) :
    let left := c.r.mask &&& ~~~m
    ∃ t, c.park m write false misses = { c with
        s := t, act := c.act &&& ~~~m
        f := { c.f with frontier := c.f.frontier ++ [⟨c.pc, c.r.prio, flagParked, m, .none, 0, 0⟩] }
        r := { c.r with mask := left, ended := c.r.ended || left == 0 } } ∧
      Reports c.s t ∧ FaultsGrow c.s t ∧
      ∀ x ∈ misses, WaitsOn t c.f.ctx (x.1.toNat / 65536) (.lanes c.key c.f.seq m false c.f.handler) := by
  intro left
  obtain ⟨hreports, hgrow, hwaits⟩ := foldl_pageFault_spec c.f.ctx (faultInfo write false false) c.core (BitVec.ofNat 8 (c.key % 64))
    (.lanes c.key c.f.seq m false c.f.handler) (misses.foldl addMiss []) c.s
  refine ⟨_, ?_, hreports, hgrow, fun x hx => ?_⟩
  · rw [Ctx.park, if_neg hm]
    exact endEmpty_eq _
  · obtain ⟨y, hy, hpage⟩ := exists_foldl_addMiss (acc := []) (.inl hx)
    exact hpage ▸ hwaits y hy

/-! ### The checks in their order (R174) -/

/-- Settles O27: the order of the checks is that of the meaning, and what parks is what has missed. -/
theorem accessChecks : Obligations.AccessChecks := by
  unfold Obligations.AccessChecks
  intro c rule las k p hpack hfree x c' at_
  have hlooks : LooksUp c.s x.1 := checkLanes_looksUp ..
  have haccess : c.accessN rule las k = if at_ (·.mis) ≠ 0 then trapAt c' 0x22 (at_ (·.mis)) (failAddr x.2 (·.mis)) c.word
      else if at_ (·.prot) ≠ 0 then trapAt c' 0x21 (at_ (·.prot)) (failAddr x.2 (·.prot)) c.word
      else if at_ (·.cell) ≠ 0 then trapAt c' 0x26 (at_ (·.cell)) (failAddr x.2 (·.cell)) c.word
      else k (c'.park (at_ fun y => !y.miss.isEmpty) rule.write false (x.2.flatMap (·.miss)))
        (if x.2.any (fun y => y.lane == 64 && !y.miss.isEmpty) then [] else x.2.filter fun y => y.miss.isEmpty) := by
    unfold Ctx.accessN
    simp only [hpack, hfree, ne_eq, not_true_eq_false, if_false]
    rfl
  refine ⟨fun hmis => ?_, fun hmis hprot => ?_, fun hmis hprot hcell => ?_, fun hgood => ?_, fun hmis hprot hcell => ?_,
    hlooks.sameMemory, hlooks.floes⟩
  · rw [haccess, if_pos hmis]
  · rw [haccess, if_neg (not_not.mpr hmis), if_pos hprot]
  · rw [haccess, if_neg (not_not.mpr hmis), if_neg (not_not.mpr hprot), if_pos hcell]
  · exact accessN_passes (p := p) ⟨hpack, rfl, hfree, hgood⟩ k
  · intro gone left hgone
    obtain ⟨t, hpark, ⟨faults, fresh, ht⟩, hgrow, hwaits⟩ := park_spec c' hgone rule.write (x.2.flatMap (·.miss))
    refine ⟨t, ?_, ?_, ?_, ?_, fun z hz => hgrow z (hlooks.faults ▸ hz), fun y hy e he => ?_⟩
    · rw [haccess, if_neg (not_not.mpr hmis), if_neg (not_not.mpr hprot), if_neg (not_not.mpr hcell), hpark]
    · rw [ht]
      exact hlooks.sameMemory
    · rw [ht]
      exact hlooks.floes
    · rw [ht]
      exact hlooks.pend
    · exact hwaits e (List.mem_flatMap.mpr ⟨y, hy, he⟩)

end Sys2Proof.Machine
end

section
/-! SUPPORT. Words on a pack's scratchpad whose offsets pass their checks (spec 08, R174, R180). -/

namespace Sys2Proof.Machine
open Sys2Proof

/-- Offsets that pass the checks are aligned and lie in the scratchpad (R180). -/
theorem PadOk.spec {p : Pack} {align n : Nat} {as : List Word} (h : PadOk p align n as) {a : Word} (ha : a ∈ as) :
    (a.toNat % align != 0) = false ∧ (!p.inPad a.toNat n) = false := by
  obtain ⟨halign, hpad⟩ := h a ha
  exact ⟨by simp [halign], by simp [hpad]⟩

/-- An access of lanes whose offsets pass the checks goes on. -/
theorem onPad_ok {c : Ctx} {p : Pack} {align n : Nat} {las : List (Nat × Word)} (hpack : c.pack? = some p)
    (hok : PadOk p align n (las.map (·.2))) (k : Pack → State) : c.onPad align n las k = k p := by
  have hnone (t : Word → Bool) (ht : ∀ e ∈ las, t e.2 = false) : (maskWhere fun l => las.any fun e => e.1 == l && t e.2) = 0 :=
    maskWhere_eq_zero.mpr fun l _ => List.any_eq_false.mpr fun e he => by simp [ht e he]
  have hmis := hnone (fun a => a.toNat % align != 0) fun e he => (hok.spec (List.mem_map_of_mem he)).1
  have hfar := hnone (fun a => !p.inPad a.toNat n) fun e he => (hok.spec (List.mem_map_of_mem he)).2
  unfold Ctx.onPad
  simp only [hpack]
  rw [if_neg (not_not.mpr hmis), if_neg (not_not.mpr hfar)]

/-- The same for an access of every lane. -/
theorem onPadAll_ok {c : Ctx} {p : Pack} {align n : Nat} {las : List (Nat × Word)} (hpack : c.pack? = some p)
    (hok : PadOk p align n (las.map (·.2))) (k : Pack → State) : c.onPadAll align n las k = k p := by
  have hmis : las.find? (fun e => e.2.toNat % align != 0) = none :=
    List.find?_eq_none.mpr fun e he => by simp [(hok.spec (List.mem_map_of_mem he)).1]
  have hfar : las.find? (fun e => !p.inPad e.2.toNat n) = none :=
    List.find?_eq_none.mpr fun e he => by simp [(hok.spec (List.mem_map_of_mem he)).2]
  unfold Ctx.onPadAll
  simp only [hpack, hmis, hfar]

end Sys2Proof.Machine
end

section
/-! PROOF of O28: PREF, LDSP, FENCE and the CACHE words (spec 08, R181, R182, R190, R191). -/

namespace Sys2Proof.Machine
open Sys2Proof

/-! ### Words that change caches only (R181, R191) -/

/-- A word that leaves its floe alone and moves caches only. -/
theorem retires_of_cachesMove {i : Instr} {s u : State} {w : Issue} {f : Floe} {r : Run} {h : Hdr} (hmove : CachesMove s u)
    (hexec : exec i s = .next (retire { ctxOf s w f r h with s := u })) : ∃ t, Retires i s w (passed w f r h) t ∧ t.pend = s.pend :=
  ⟨wordDone u w (passed w f r h), ⟨hexec, rfl, congrArg (Tbl.put · w.floe (passed w f r h)) hmove.floes, hmove.sameMemory⟩, hmove.pend⟩

/-- A CACHE word acts on one line, or on none (R191). -/
theorem retires_cacheWord {i : Instr} {h : Hdr} {a : SReg} {act : Ctx → State → Nat → State}
    (hexec : ∀ s, exec i s = onWord i h s fun c => cacheWord c a (act c)) (hact : ∀ c s pa, CachesMove s (act c s pa))
    {s : State} {w : Issue} {f : Floe} {r : Run} (hissues : Issues s w f r) (hok : operandsOk s f i = true) :
    ∃ t, Retires i s w (passed w f r h) t ∧ t.pend = s.pend := by
  have hword : ∃ u, CachesMove s u ∧ cacheWord (ctxOf s w f r h) a (act (ctxOf s w f r h)) = retire { ctxOf s w f r h with s := u } := by
    unfold cacheWord
    by_cases hidle : (ctxOf s w f r h).act = 0
    · exact ⟨s, .refl s, congrArg retire (once_idle hidle _)⟩
    · rw [once_busy hidle]
      cases (ctxOf s w f r h).cacheAddr ((ctxOf s w f r h).sr .a a) with
      | none => exact ⟨s, .refl s, rfl⟩
      | some pa => exact ⟨_, hact _ s pa, rfl⟩
  obtain ⟨u, hmove, hu⟩ := hword
  exact retires_of_cachesMove hmove (by rw [hexec, onWord_ok hissues hok, hu])

/-- CACHE.drop (R191, R263). -/
theorem cacheDrop_cachesMove (c : Ctx) (s : State) (pa : Nat) :
    CachesMove s (let n := lineOf pa
      let x := s.core c.core
      match x.l1.find? n with
      | none => s
      | some y =>
        let s := s.setCore c.core { x with l1 := x.l1.del n }
        let d := s.die c.die
        let l := d.line n
        match l.leases.find? fun e => e.core == c.core && e.expiry == y.expiry && decide (d.firn.toNat < y.expiry) with
        | none => s
        | some e =>
          let l := l.close e
          s.setDie c.die (d.setLine n (if l.grants = 1 then { l with horizon := min l.horizon d.firn.toNat, grants := 0 } else l))) := by
  dsimp only
  split
  · exact .refl s
  · split
    · exact setCore_cachesMove ..
    · exact (setCore_cachesMove ..).trans (setDie_cachesMove ..)

/-- PREF (R181). -/
theorem retires_pref {h : Hdr} {m : MemOp} {s : State} {w : Issue} {f : Floe} {r : Run} (hissues : Issues s w f r)
    (hok : operandsOk s f (.pref h m) = true) : ∃ t, Retires (.pref h m) s w (passed w f r h) t ∧ t.pend = s.pend := by
  have hexec : exec (.pref h m) s = onWord (.pref h m) h s _ := rfl
  rw [onWord_ok hissues hok] at hexec
  dsimp only at hexec
  split at hexec
  next => exact retires_of_cachesMove (.refl s) hexec
  next p hpack =>
    refine retires_of_cachesMove ((checkLanes_looksUp _ _ _ _ _ _ _ _).cachesMove.trans (.foldl (fun s ck => ?_) _ _)) hexec
    refine .ite (.refl s) (.foldl (fun s q => .ite (.refl s) (cacheLoad_cachesMove ..)) _ s)

/-! ### LDSP (R182) -/

theorem bitsAt_zero (x n : Nat) : bitsAt x 0 n = x % 2 ^ n := by rw [bitsAt, pow_zero, Nat.div_one]

theorem bitsAt_top (x : Word) : bitsAt x.toNat 56 8 = x.toNat / 2 ^ 56 :=
  Nat.mod_eq_of_lt (Nat.div_lt_of_lt_mul x.isLt)

/-- The copies of an LDSP, one for each lane (R182). -/
def ldspCopies (c : Ctx) (p : Pack) (level : Level) (n dst bar : Nat) (cks : List LaneCheck) : List Copy :=
  cks.zipIdx.map fun e =>
    { id := c.s.fresh + e.2, born := c.s.hub.firn.toNat, exp := minExp [e.1], pack := p.id, ctx := c.f.ctx, src := laneUnits level n e.1
      dst := dst + e.1.lane * n, n := n, bar := bar, fork := ⟨c.key, c.f.seq, c.num, maskWhere fun l => l == e.1.lane⟩ }

theorem ldspCopies_map (c : Ctx) (p : Pack) (level : Level) (n dst bar : Nat) (cks : List LaneCheck) :
    (ldspCopies c p level n dst bar cks).map (fun e => (e.src, e.dst, e.n, e.bar)) =
      cks.map fun k => (laneUnits level n k, dst + k.lane * n, n, bar) := by
  conv_rhs => rw [← List.zipIdx_map_fst 0 cks]
  rw [ldspCopies, List.map_map, List.map_map]
  rfl

/-- LDSP (R182): its reserved fields, its destination, its object, then its source. -/
theorem exec_ldsp {h : Hdr} {m : MemOp} {sz : Sz} {d : SReg} {s : State} {w : Issue} {f : Floe} {r : Run} (hissues : Issues s w f r)
    (hok : operandsOk s f (.ldsp h m sz d) = true) :
    let c := ctxOf s w f r h
    let n := szBytes sz
    let x := c.nat .d d
    exec (.ldsp h m sz d) s = .next (
      if x / 2 ^ 56 ≠ 0 ∨ x / 2 ^ 24 % 2 ^ 8 ≠ 0 then illegalOperand c
      else if c.act = 0 then retire c
      else
        c.onPad n n ((lanesOf c.act).map fun l => (l, BitVec.ofNat 64 (x % 2 ^ 24 + l * n))) fun _ =>
          c.onObj (BitVec.ofNat 64 (x / 2 ^ 32 % 2 ^ 24)) false fun p _ _ =>
            c.access ⟨false, 1, none, false⟩ n (c.addrs m) fun c cks =>
              let copies := ldspCopies c p m.level n (x % 2 ^ 24) (x / 2 ^ 32 % 2 ^ 24) cks
              retire { c with s := { c.s with copies := c.s.copies ++ copies, fresh := c.s.fresh + copies.length } }) := by
  intro c n x
  have hexec : exec (.ldsp h m sz d) s = onWord (.ldsp h m sz d) h s _ := rfl
  rw [onWord_ok hissues hok] at hexec
  have htop : bitsAt x 56 8 = x / 2 ^ 56 := bitsAt_top _
  have hdst : bitsAt x 0 24 = x % 2 ^ 24 := bitsAt_zero x 24
  rw [← htop, ← hdst]
  exact hexec

/-- Settles O28: PREF and the CACHE words move caches only, FENCE asks for its fence, and LDSP, past its checks, forks one copy for each
lane. -/
theorem prefetchFenceAndCacheWords : Obligations.PrefetchFenceAndCacheWords := by
  unfold Obligations.PrefetchFenceAndCacheWords
  intro h m sz d a sc scope s w f r hissues c Quiet n x bar
  refine ⟨retires_pref hissues,
    retires_cacheWord (fun _ => rfl) cacheDrop_cachesMove hissues,
    retires_cacheWord (fun _ => rfl) (fun _ s _ => .ite (setL2_cachesMove ..) (.refl s)) hissues,
    retires_cacheWord (fun _ => rfl) (fun _ _ _ => (dropL2_cachesMove ..).trans (dropL1_cachesMove ..)) hissues,
    fun hok => ?_, fun hok hbad => ?_, fun hok hidle htop hmid => ?_, fun hok hbusy htop hmid p b s' cks hpad hobj hpasses => ?_⟩
  · have hexec : exec (.fence h sc scope) s = onRegs (.fence h sc scope) h s _ := rfl
    rw [hexec, onRegs_ok hissues hok]
    by_cases hidle : c.act = 0
    · rw [once_idle hidle, if_pos hidle]
      rfl
    · rw [once_busy hidle, if_neg hidle]
      rfl
  · rw [exec_ldsp hissues hok]
    exact congrArg _ (if_pos hbad)
  · rw [exec_ldsp hissues hok]
    exact congrArg _ ((if_neg (not_or.mpr ⟨not_not.mpr htop, not_not.mpr hmid⟩)).trans (if_pos hidle))
  · refine ⟨ldspCopies { c with s := s' } p m.level n (x % 2 ^ 24) bar cks, ?_, ldspCopies_map ..⟩
    rw [exec_ldsp hissues hok]
    refine congrArg _ ((if_neg (not_or.mpr ⟨not_not.mpr htop, not_not.mpr hmid⟩)).trans ((if_neg hbusy).trans ?_))
    rw [onPad_ok hpasses.pack (by rw [List.map_map]; exact hpad), onObj_good hbusy hobj, Ctx.access, accessN_passes hpasses]
    simp [ldspCopies]
    rfl

end Sys2Proof.Machine
end

section
/-! PROOF of O52, refuted: the row of a ROWRDX step is as long as what the operation has accumulated (spec 10, R226, R355). -/

namespace Sys2Proof.Machine
open Sys2Proof

/-- No access, copy, drain or outside request waits, no core is there, and the host holds no line. -/
structure Idle (s : State) : Prop where
  pend : s.pend = []
  copies : s.copies = []
  drains : s.drains = []
  outside : s.outside = []
  cores : s.cores = []
  halves : s.hub.hostHalves = []

theorem Idle.backInvalidate {s : State} (h : Idle s) (as : List Nat) : s.backInvalidate as = s :=
  if_pos (by rw [h.halves]; rfl)

theorem Idle.strike {s : State} (h : Idle s) (as : List Nat) : s.strike as = s :=
  if_pos (by rw [h.pend]; rfl)

/-- Nothing waits for the bank of a step in an idle state (R358). -/
theorem Idle.serveBank {s : State} (h : Idle s) (bank : Nat × Nat × Nat) (since : Nat) : s.serveBank bank since = s := by
  have hothers : s.bankOthers bank = [] := by
    unfold State.bankOthers
    simp only [h.cores, h.copies, h.drains, h.outside]
    rfl
  unfold State.serveBank
  simp only [h.pend, List.foldl_nil, hothers]

theorem Idle.setBytes {s : State} (h : Idle s) (a : Nat) (bs : List Byte) : Idle (s.setBytes a bs) := by
  induction bs generalizing s a with
  | nil => exact h
  | cons b bs ih => exact ih (s := s.setByte a b) ⟨h.pend, h.copies, h.drains, h.outside, h.cores, h.halves⟩ (a + 1)

/-- What a row step writes, in an idle state: the bytes, tags and poison alone. -/
theorem Idle.writeRow {s : State} (h : Idle s) (x : Serac) (i : Nat) (bs : List Byte) (bad : Nat → Bool)
    (hkept : s.discards (x.dRow i) = false) :
    Idle (s.writeRow x i bs bad) ∧ (s.writeRow x i bs bad).mem = (s.setBytes (x.dRow i) bs).mem := by
  unfold State.writeRow
  rw [if_neg (by simp [hkept])]
  refine List.foldlRecOn (motive := fun t => Idle t ∧ t.mem = (s.setBytes (x.dRow i) bs).mem) _ _ ⟨h.setBytes _ bs, rfl⟩
    fun t ⟨hidle, hmem⟩ k _ => ?_
  dsimp only
  have hline {u : State} (hu : Idle u ∧ u.mem = (s.setBytes (x.dRow i) bs).mem) (ln : Nat) (p : Bool) (as cs : List Nat) :
      Idle (((u.setPoison ln p).backInvalidate as).strike cs) ∧
        (((u.setPoison ln p).backInvalidate as).strike cs).mem = (s.setBytes (x.dRow i) bs).mem := by
    obtain ⟨⟨hpend, hcopies, hdrains, houtside, hcores, hhalves⟩, hbytes⟩ := hu
    have hp : Idle (u.setPoison ln p) := ⟨hpend, hcopies, hdrains, houtside, hcores, hhalves⟩
    rw [hp.backInvalidate, hp.strike]
    exact ⟨hp, hbytes⟩
  have htag (p : Bool) (a : Nat) (tag : Word) : Idle (if p then t.setTag a tag else t) ∧
      (if p then t.setTag a tag else t).mem = (s.setBytes (x.dRow i) bs).mem := by
    cases p with
    | false => exact ⟨hidle, hmem⟩
    | true => exact ⟨⟨hidle.pend, hidle.copies, hidle.drains, hidle.outside, hidle.cores, hidle.halves⟩, hmem⟩
  exact hline (htag _ _ _) _ _ _ _

/-- A forked ROWRDX of one row with its last step to come, that has accumulated some bytes. -/
def lastRdx (bs : List Byte) : Serac :=
  { id := 0, born := 0, exp := 0, floe := 0, findex := 0, pack := ⟨0, 0, 0⟩, ctx := 0, op := .rdx, n := 1, pattern := 0
    dRows := [0], aRows := [0], bRows := [], eRows := [], dTagged := [], aTagged := [], bar := 0, forked := true, todo := [1]
    accum := bs, accPoison := 0, paths := Vector.replicate 4 0, fork := ⟨0, 0, 0, 0⟩ }

/-- The package after reset, with that operation. -/
def lastRdxState (bs : List Byte) : State := { State.reset with seracs := [lastRdx bs] }

theorem lastRdxState_idle (bs : List Byte) : Idle (lastRdxState bs) := ⟨rfl, rfl, rfl, rfl, rfl, rfl⟩

/-- The step writes what has been accumulated, and nothing waits for its bank. -/
theorem lastRdx_step (bs : List Byte) : ∃ bad seracs bank since, exec (.seracRowStep 0) (lastRdxState bs) = .next
    (({ (lastRdxState bs).writeRow (lastRdx bs) 1 bs bad with seracs := seracs } : State).bump.serveBank bank since) := by
  have hexec : exec (.seracRowStep 0) (lastRdxState bs) = execSeracRowStep 0 (lastRdxState bs) := rfl
  have hfind : (lastRdxState bs).seracs.find? (fun x => x.id == 0) = some (lastRdx bs) := rfl
  have hready : (lastRdx bs).ready (lastRdxState bs).hub = [1] := rfl
  rw [hexec, execSeracRowStep, hfind]
  simp only [hready, List.length_singleton, Nat.mod_one]
  exact ⟨_, _, _, _, rfl⟩

/-- Memory after the step: all the accumulated bytes stand from address 0. -/
theorem lastRdx_byte {bs : List Byte} {t : State} (hkept : (lastRdxState bs).discards 0 = false)
    (h : exec (.seracRowStep 0) (lastRdxState bs) = .next t) {a : Nat} (ha : a < bs.length) : t.byte a = bs.getD a 0 := by
  obtain ⟨bad, seracs, bank, since, hexec⟩ := lastRdx_step bs
  obtain ⟨⟨hpend, hcopies, hdrains, houtside, hcores, hhalves⟩, hmem⟩ :=
    (lastRdxState_idle bs).writeRow (lastRdx bs) 1 bs bad hkept
  have hidle : Idle ({ (lastRdxState bs).writeRow (lastRdx bs) 1 bs bad with seracs := seracs } : State).bump :=
    ⟨hpend, hcopies, hdrains, houtside, hcores, hhalves⟩
  rw [h, Host.Outcome.next.injEq, hidle.serveBank] at hexec
  have hbyte : ((lastRdxState bs).setBytes 0 bs).byte a = bs.getD a 0 := by
    rw [byte_setBytes, if_pos ⟨Nat.zero_le a, by omega⟩, Nat.sub_zero]
  rw [hexec, ← hbyte]
  exact congrArg (fun m : Tbl Byte => m.getD a memDefault) hmem

/-- A row of `n` bytes 0 and a byte 1 after it. -/
theorem getD_zerosOne (n : Nat) : (List.replicate n (0 : Byte) ++ [1]).getD n 0 = 1 := by simp

/-- Refutes O52: the last step of a ROWRDX that has accumulated a byte more than a row, 1, writes it past the row. -/
theorem not_copyDrainAndSeracEvents : ¬ Obligations.CopyDrainAndSeracEvents := by
  unfold Obligations.CopyDrainAndSeracEvents
  intro h
  let bs : List Byte := List.replicate 1024 0 ++ [1]
  obtain ⟨_, _, hserac⟩ := h
  obtain ⟨_, hstep, _⟩ := hserac (lastRdxState bs) 0 (lastRdx bs) rfl
  obtain ⟨t, i, y, hexec, _, _, _, _, _, hidle⟩ := hstep rfl (List.cons_ne_nil _ _)
  obtain ⟨_, _, hout, _⟩ := hidle rfl rfl rfl rfl (fun _ hc => absurd hc List.not_mem_nil)
  have hstays : t.byte 1024 = 0 := hout 1024 (.inr (Nat.le_refl 1024))
  have hlength : 1024 < bs.length := by rw [List.length_append, List.length_replicate]; decide
  have hwritten : t.byte 1024 = 1 := (lastRdx_byte (by decide +kernel) hexec hlength).trans (getD_zerosOne 1024)
  exact absurd (hstays.symm.trans hwritten) (by decide)

end Sys2Proof.Machine
end

section
/-! SUPPORT. Loads into vector registers, and the offset of each lane (spec 08, R102, R177). -/

namespace Sys2Proof.Machine
open Sys2Proof

/-- Registers that are written with the same values and bounds in the active lanes. -/
theorem LanesWritten.congr_active {f g : Floe} {r : Run} {act : Mask} {d n : Nat} {val val' : Nat → Fin 64 → Lane}
    {bnd bnd' : Nat → Fin 64 → Bound} (h : LanesWritten f g r act d n val bnd)
    (heq : ∀ k l, has act l.val = true → val k l = val' k l ∧ bnd k l = bnd' k l) : LanesWritten f g r act d n val' bnd' := by
  intro k l
  obtain ⟨hkept, hnew⟩ := h k l
  refine ⟨hkept, fun hact hlow hhigh => ?_⟩
  obtain ⟨hval, hbnd⟩ := heq (k - d) l hact
  rw [← hval, ← hbnd]
  exact hnew hact hlow hhigh

/-- Writing rows to consecutive registers in the lanes of a mask. -/
theorem foldl_writeV_eq (f : Floe) (r : Run) (num d : Nat) (m : Mask) (x : Nat → VRow) (n : Nat) :
    ∃ t o, (List.range n).foldl (fun fr k => writeV fr.1 fr.2 num (d + k) m (x k)) (f, r) =
        ({ f with v := t }, { r with vOld := o }) ∧
      LanesWritten f { f with v := t } r m d n (fun k l => (x k).val[l]) (fun k l => (x k).bnd[l]) ∧
      ∀ k, d + n ≤ k → o.find? k = r.vOld.find? k := by
  induction n with
  | zero =>
    refine ⟨f.v, r.vOld, rfl, fun k l => ⟨fun _ => ⟨rfl, rfl⟩, fun _ hlow hhigh => ?_⟩, fun _ _ => rfl⟩
    omega
  | succ n ih =>
    obtain ⟨t, o, hfold, hlanes, hold⟩ := ih
    obtain ⟨t', o', hwrite, hlanes', hold'⟩ := writeV_eq { f with v := t } { r with vOld := o } num (d + n) m (x n)
    refine ⟨t', o', ?_, lanesWritten_append hlanes (r1 := { r with vOld := o }) hlanes' (hold _ (Nat.le_refl _)), fun k hk => ?_⟩
    · rw [List.range_succ, List.foldl_append, hfold, List.foldl_cons, List.foldl_nil, hwrite]
    · rw [hold' k (by omega)]
      exact hold k (by omega)

/-- What a load leaves in the lanes of a mask (R177). -/
theorem putLoad_eq (f : Floe) (r : Run) (num : Nat) (sz : Sz) (d : VReg) (m : Mask) (data : Nat → List (Byte × Bound)) :
    ∃ t o, putLoad (f, r) num sz d m data = ({ f with v := t }, { r with vOld := o }) ∧
      LanesWritten f { f with v := t } r m d.toNat (szSpan sz) (fun k l => ((loadWords sz (data l.val)).getD k (0, 0)).1)
        (fun k l => ((loadWords sz (data l.val)).getD k (0, 0)).2) := by
  obtain ⟨t, o, hfold, hlanes, -⟩ := foldl_writeV_eq f r num d.toNat m (fun k =>
    let rows : Vector (List (Lane × Bound)) 64 := Vector.ofFn fun l => if has m l.val then loadWords sz (data l.val) else []
    ⟨Vector.ofFn fun l => (rows[l].getD k (0, 0)).1, Vector.ofFn fun l => (rows[l].getD k (0, 0)).2⟩) (szSpan sz)
  refine ⟨t, o, hfold, hlanes.congr_active fun k l hact => ?_⟩
  simp [hact]

/-- The address of an active lane, as the list of the lanes' addresses gives it (R102). -/
theorem find?_addrs (c : Ctx) (m : MemOp) {l : Nat} (hact : has c.act l = true) :
    (c.addrs m).find? (fun e => e.1 == l) = some (l, c.addr m l) := by
  rw [addrs_eq, List.find?_map]
  have hfind : (lanesOf c.act).find? (fun k => k == l) = some l := by
    obtain ⟨k, hk⟩ := Option.isSome_iff_exists.mp
      (List.find?_isSome (p := fun k => k == l) |>.mpr ⟨l, mem_lanesOf.mpr hact, beq_self_eq_true l⟩)
    have hkl := List.find?_some hk
    rw [hk, eq_of_beq hkl]
  exact congrArg (Option.map _) hfind

end Sys2Proof.Machine
end

section
/-! PROOF of O29: scratchpad loads (spec 08, R177, R180). -/

namespace Sys2Proof.Machine
open Sys2Proof

/-- Settles O29: the offsets pass, and the registers are written with what each lane reads at its own. -/
theorem scratchpadLoads : Obligations.ScratchpadLoads := by
  unfold Obligations.ScratchpadLoads
  intro h m sz d s w f r p hissues hpack c x hpad hok
  have hexec : exec (.lds h m sz d) s = onWord (.lds h m sz d) h s _ := rfl
  rw [onWord_ok hissues hok] at hexec
  obtain ⟨v, o, hload, hlanes⟩ := putLoad_eq f r w.number sz d c.act fun l =>
    padLoad c.padCore p ((((c.addrs m).find? fun e => e.1 == l).map (·.2.toNat)).getD 0) (szBytes sz)
  refine ⟨v, nextRun w { r with vOld := o } h.s, hexec.trans (congrArg _ ((onPad_ok (c := c) hpack hpad _).trans ?_)), rfl, rfl, rfl,
    hlanes.congr_active fun k l hact => ?_⟩
  · exact (congrArg (fun fr : Floe × Run => retire { c with f := fr.1, r := fr.2 }) hload).trans (retire_ctx s w f r h _ _)
  · rw [find?_addrs c m hact]
    exact ⟨rfl, rfl⟩

end Sys2Proof.Machine
end

section
/-! SUPPORT. What a store to a scratchpad writes, and on what it depends (spec 08, R178, R89). -/

namespace Sys2Proof.Machine
open Sys2Proof

/-- The bounds of the quarters are written after the bytes: they change neither bytes nor marks of objects. -/
theorem padWrite_keeps (c : Core) (p : Pack) (w : List (Nat × Byte × Bound)) :
    (padWrite c p w).spad = (w.foldl (fun c e => c.setPadByte (padAddr p.banks e.1) e.2.1) c).spad ∧ (padWrite c p w).bars = c.bars := by
  have hbytes : (w.foldl (fun c e => c.setPadByte (padAddr p.banks e.1) e.2.1) c).bars = c.bars :=
    List.foldlRecOn (motive := fun x : Core => x.bars = c.bars) w _ rfl fun _ h _ _ => h
  unfold padWrite
  dsimp only
  exact List.foldlRecOn (motive := fun x : Core => x.spad = _ ∧ x.bars = c.bars) _ _ ⟨rfl, hbytes⟩ fun _ h _ _ => h

theorem padWrite_bars (c : Core) (p : Pack) (w : List (Nat × Byte × Bound)) : (padWrite c p w).bars = c.bars := (padWrite_keeps c p w).2

/-- The bytes after a store depend on the bytes before it and on the bytes stored alone. -/
theorem padWrite_spad_congr {c c' : Core} (h : c.spad = c'.spad) (p : Pack) {w w' : List (Nat × Byte × Bound)}
    (hw : w.map (fun e => (e.1, e.2.1)) = w'.map fun e => (e.1, e.2.1)) : (padWrite c p w).spad = (padWrite c' p w').spad := by
  have hfold (x : Core) (l : List (Nat × Byte × Bound)) : l.foldl (fun c e => c.setPadByte (padAddr p.banks e.1) e.2.1) x =
      (l.map fun e => (e.1, e.2.1)).foldl (fun c e => c.setPadByte (padAddr p.banks e.1) e.2) x := by rw [List.foldl_map]
  rw [(padWrite_keeps c p w).1, (padWrite_keeps c' p w').1, hfold, hfold, hw]
  exact List.foldl_rel (r := fun x y : Core => x.spad = y.spad) h fun e _ x y hxy => congrArg (Tbl.set 0 · _ e.2) hxy

/-- The bounds after a store depend on the bounds before it, and on which of the bytes lie in objects. -/
theorem padWrite_spadB_congr {c c' : Core} (h : c.spadB = c'.spadB) {p : Pack} {w : List (Nat × Byte × Bound)}
    (hobj : ∀ e ∈ w, c.isObj p e.1 = c'.isObj p e.1) : (padWrite c p w).spadB = (padWrite c' p w).spadB := by
  have hkept (x : Core) : (w.foldl (fun c e => c.setPadByte (padAddr p.banks e.1) e.2.1) x).spadB = x.spadB :=
    List.foldlRecOn (motive := fun y : Core => y.spadB = x.spadB) w _ rfl fun _ hy _ _ => hy
  have hfilter : (w.filter fun e => !c.isObj p e.1) = w.filter fun e => !c'.isObj p e.1 :=
    List.filter_congr fun e he => by rw [hobj e he]
  unfold padWrite
  dsimp only
  rw [hfilter]
  refine List.foldl_rel (r := fun x y : Core => x.spadB = y.spadB) ?_ fun q _ x y hxy => ?_
  · exact (hkept c).trans (h.trans (hkept c').symm)
  · simp only [Core.padBound, hxy]

/-! ### What follows a store: floes and memory (R364, R367, R195) -/

/-- Entries of floes may have stopped waiting; nothing else of a floe has changed, and no memory. -/
structure WaitsEnd (s t : State) : Prop where
  memory : SameMemory s t
  floes : ∀ k f, s.floes.find? k = some f → ∃ g, t.floes.find? k = some g ∧ WaitsDiffer f g

theorem WaitsDiffer.trans {f g k : Floe} (h : WaitsDiffer f g) (h' : WaitsDiffer g k) : WaitsDiffer f k := by
  obtain ⟨_, _, rfl⟩ := h
  obtain ⟨_, _, rfl⟩ := h'
  exact ⟨_, _, rfl⟩

theorem FloesStand.waitsEnd {s t : State} (h : FloesStand s t) : WaitsEnd s t := by
  obtain ⟨hfloes, hmem⟩ := h
  exact ⟨hmem, fun _ f hfind => ⟨f, hfloes ▸ hfind, _, _, rfl⟩⟩

theorem WaitsEnd.refl (s : State) : WaitsEnd s s := (FloesStand.refl s).waitsEnd

theorem WaitsEnd.trans {s t u : State} (h : WaitsEnd s t) (h' : WaitsEnd t u) : WaitsEnd s u := by
  refine ⟨h.memory.trans h'.memory, fun k f hfind => ?_⟩
  obtain ⟨g, hg, hfg⟩ := h.floes k f hfind
  obtain ⟨g', hg', hgg'⟩ := h'.floes k g hg
  exact ⟨g', hg', hfg.trans hgg'⟩

theorem WaitsEnd.ite {s t u : State} {c : Prop} [Decidable c] (h : WaitsEnd s t) (h' : WaitsEnd s u) :
    WaitsEnd s (if c then t else u) := by
  split
  · exact h
  · exact h'

theorem WaitsEnd.foldl {α : Type} {g : State → α → State} (hg : ∀ s e, WaitsEnd s (g s e)) (l : List α) (s : State) :
    WaitsEnd s (l.foldl g s) :=
  foldl_keeps (P := WaitsEnd s) (fun _ _ h => h.trans (hg _ _)) l (.refl s)

theorem barEvent_waitsEnd (s : State) (key : Nat) (p : Pack) (o dArr dExp : Nat) (dBytes : BitVec 32) :
    WaitsEnd s (s.barEvent key p o dArr dExp dBytes) := by
  refine ⟨?_, fun k f hfind => ?_⟩
  · unfold State.barEvent State.putObj
    dsimp only
    split <;> exact ⟨rfl, rfl, rfl⟩
  · obtain ⟨g, hg, hfg, -⟩ := barEvent_keeps hfind key p o dArr dExp dBytes
    exact ⟨g, hg, hfg⟩

theorem padApply_waitsEnd (s : State) (key : Nat) (p : Pack) (e : TEvent) : WaitsEnd s (s.padApply key p e) := by
  cases e with
  | sub bar n => exact .ite (barEvent_waitsEnd ..) (.refl s)
  | status bar off v => exact .ite (setCore_floesStand ..).waitsEnd (.refl s)

theorem parkObj_waitsEnd (s : State) (key : Nat) (p : Pack) (o : Nat) : WaitsEnd s (s.parkObj key p o) := by
  unfold State.parkObj
  refine .ite (.refl s) ?_
  split
  · exact .ite (.refl s) (putRedirect_floesStand ..).waitsEnd
  · exact (putRedirect_floesStand ..).waitsEnd

theorem handshake_waitsEnd (s : State) (key : Nat) (p : Pack) (o : Nat) : WaitsEnd s (s.handshake key p o) := by
  unfold State.handshake
  split
  · exact .refl s
  · exact .ite (.refl s) ((WaitsEnd.foldl (fun _ _ => padApply_waitsEnd ..) _ s).trans (putRedirect_floesStand ..).waitsEnd)

theorem markObj_waitsEnd (s : State) (key : Nat) (p : Pack) (o : Nat) (is : Bool) : WaitsEnd s (s.markObj key p o is) :=
  (setCore_floesStand ..).waitsEnd

/-- A store to the scratchpad may wake entries (R195, R367). -/
theorem afterStore_waitsEnd (s : State) (key : Nat) (p : Pack) (before : State) (handler : Bool) (offs : List Nat) :
    WaitsEnd s (s.afterStore key p before handler offs) := by
  refine .foldl (fun s o => ?_) _ s
  refine WaitsEnd.trans ?_ (.ite (parkObj_waitsEnd ..) (.ite (handshake_waitsEnd ..) (.refl _)))
  exact .ite (markObj_waitsEnd ..) (.ite (markObj_waitsEnd ..) (.refl s))

/-! ### What follows a store where the pack's events are not redirected -/

/-- The Tumblers hold no event of a pack. -/
def Unjournaled (id : PackId) (s : State) : Prop := ∀ e ∈ s.dies, ∀ r ∈ e.2.redirects, r.pack = id → r.journal = []

theorem unjournaled_of_redirect {id : PackId} {s : State} (h : s.redirect id = none) : Unjournaled id s := by
  intro e he r hr hpack
  have hnone := List.findSome?_eq_none_iff.mp h e he
  rw [Option.map_eq_none_iff] at hnone
  exact absurd (beq_iff_eq.mpr hpack) (List.find?_eq_none.mp hnone r hr)

theorem Unjournaled.journal {id : PackId} {s : State} (h : Unjournaled id s) {d : Nat} {r : Redirect}
    (hr : s.redirect id = some (d, r)) : r.journal = [] := by
  obtain ⟨e, he, hmap⟩ := List.exists_of_findSome?_eq_some hr
  obtain ⟨r', hfind, hr'⟩ := Option.map_eq_some_iff.mp hmap
  have hpack := List.find?_some hfind
  rw [← (Prod.mk.inj hr').2]
  exact h e he r' (List.mem_of_find?_eq_some hfind) (eq_of_beq hpack)

theorem mem_of_tblFind {α : Type} {t : Tbl α} {k : Nat} {v : α} (h : t.find? k = some v) : (k, v) ∈ t := by
  induction t with
  | nil => cases h
  | cons e t ih =>
    obtain ⟨j, x⟩ := e
    rw [Tbl.find?] at h
    split at h
    next hj =>
      obtain rfl := Option.some.inj h
      exact hj ▸ List.mem_cons_self
    next => exact List.mem_cons_of_mem _ (ih h)

theorem Unjournaled.die {id : PackId} {s : State} (h : Unjournaled id s) (d : Nat) :
    ∀ r ∈ (s.die d).redirects, r.pack = id → r.journal = [] := by
  unfold State.die Tbl.getD
  split
  next x hx => exact h _ (mem_of_tblFind hx)
  next => exact fun r hr => absurd hr List.not_mem_nil

theorem Unjournaled.putRedirect {id : PackId} {s : State} (h : Unjournaled id s) (d : Nat) {x : Option Redirect}
    (hx : ∀ r, x = some r → r.journal = []) : Unjournaled id (s.putRedirect d id x) := by
  intro e he r hr hpack
  rcases Tbl.mem_put he with rfl | he
  · have hrest : r ∈ (s.die d).redirects.filter (fun y => y.pack != id) → r.journal = [] := fun hmem =>
      h.die d r (List.mem_of_mem_filter hmem) hpack
    cases x with
    | none => exact hrest hr
    | some y =>
      rcases List.mem_append.mp hr with hr | hr
      · exact hrest hr
      · exact hx r (congrArg some (List.mem_singleton.mp hr).symm)
  · exact h e he r hr hpack

/-- A core's scratchpad keeps its bytes and bounds, and no block of it becomes an object unless a handler stores. -/
structure CoreStands (handler : Bool) (x y : Core) : Prop where
  spad : y.spad = x.spad
  spadB : y.spadB = x.spadB
  bars : handler = false → ∀ b, y.bars.getD b false = true → x.bars.getD b false = true

/-- The same of every core. -/
def PadStands (handler : Bool) (s t : State) : Prop := ∀ k, CoreStands handler (s.core k) (t.core k)

theorem CoreStands.refl (handler : Bool) (x : Core) : CoreStands handler x x := ⟨rfl, rfl, fun _ _ h => h⟩

theorem PadStands.refl (handler : Bool) (s : State) : PadStands handler s s := fun _ => .refl ..

theorem PadStands.trans {handler : Bool} {s t u : State} (h : PadStands handler s t) (h' : PadStands handler t u) :
    PadStands handler s u := fun k =>
  ⟨(h' k).spad.trans (h k).spad, (h' k).spadB.trans (h k).spadB, fun hh b hb => (h k).bars hh b ((h' k).bars hh b hb)⟩

theorem PadStands.of_cores {handler : Bool} {s t : State} (h : t.cores = s.cores) : PadStands handler s t := by
  intro k
  have hcore : t.core k = s.core k := by rw [State.core, h, State.core]
  rw [hcore]
  exact .refl ..

theorem core_setCore (s : State) (c k : Nat) (x : Core) : (s.setCore c x).core k = if k = c then x else s.core k := by
  by_cases hk : k = c
  · rw [if_pos hk, hk, State.core, State.setCore_cores, Tbl.getD_put_same]
  · rw [if_neg hk, State.core, State.setCore_cores, Tbl.getD_put_other _ _ _ hk, State.core]

theorem markObj_padStands {handler : Bool} (s : State) (key : Nat) (p : Pack) (o : Nat) {is : Bool} (h : is = true → handler = true) :
    PadStands handler s (s.markObj key p o is) := by
  intro k
  rw [State.markObj, core_setCore]
  by_cases hk : k = coreOf key
  · rw [if_pos hk, hk]
    refine ⟨rfl, rfl, fun hhandler b hb => ?_⟩
    dsimp only at hb
    rw [Tbl.getD_set] at hb
    split at hb
    · exact absurd (h hb) (by simp [hhandler])
    · exact hb
  · rw [if_neg hk]
    exact .refl ..

/-- What follows a store keeps a pack's journals empty, its scratchpad, and what is no object of it. -/
def Quiet (handler : Bool) (id : PackId) (s t : State) : Prop := Unjournaled id s → Unjournaled id t ∧ PadStands handler s t

theorem Quiet.refl (handler : Bool) (id : PackId) (s : State) : Quiet handler id s s := fun h => ⟨h, .refl handler s⟩

theorem Quiet.trans {handler : Bool} {id : PackId} {s t u : State} (h : Quiet handler id s t) (h' : Quiet handler id t u) :
    Quiet handler id s u := fun hs => ⟨(h' (h hs).1).1, (h hs).2.trans (h' (h hs).1).2⟩

theorem Quiet.ite {handler : Bool} {id : PackId} {s t u : State} {c : Prop} [Decidable c] (h : c → Quiet handler id s t)
    (h' : Quiet handler id s u) : Quiet handler id s (if c then t else u) := by
  split
  next hc => exact h hc
  next => exact h'

theorem putRedirect_quiet {handler : Bool} {id : PackId} {s : State} (d : Nat) {x : Option Redirect}
    (hx : Unjournaled id s → ∀ r, x = some r → r.journal = []) : Quiet handler id s (s.putRedirect d id x) :=
  fun h => ⟨h.putRedirect d (hx h), .of_cores rfl⟩

theorem parkObj_quiet (handler : Bool) (s : State) (key : Nat) (p : Pack) (o : Nat) : Quiet handler p.id s (s.parkObj key p o) := by
  unfold State.parkObj
  refine .ite (fun _ => .refl handler p.id s) ?_
  split
  next d r hr =>
    refine .ite (fun _ => .refl handler p.id s) (putRedirect_quiet d fun h y hy => ?_)
    rw [← Option.some.inj hy]
    have hjournal := h.journal hr
    exact hjournal
  next =>
    refine putRedirect_quiet _ fun _ y hy => ?_
    rw [← Option.some.inj hy]

theorem handshake_quiet (handler : Bool) (s : State) (key : Nat) (p : Pack) (o : Nat) : Quiet handler p.id s (s.handshake key p o) := by
  unfold State.handshake
  split
  next => exact .refl handler p.id s
  next d r hr =>
    refine .ite (fun _ => .refl handler p.id s) fun h => ?_
    simp only [h.journal hr, List.filter_nil, List.foldl_nil]
    refine putRedirect_quiet d (fun _ y hy => ?_) h
    split at hy
    · cases hy
    · rw [← Option.some.inj hy]

/-- Where the Tumblers hold no event of the pack, what follows a store leaves the scratchpads' bytes and bounds (R364, R367). -/
theorem afterStore_quiet (s : State) (key : Nat) (p : Pack) (before : State) (handler : Bool) (offs : List Nat) :
    Quiet handler p.id s (s.afterStore key p before handler offs) := by
  refine foldl_keeps (P := Quiet handler p.id s) (fun u o hu => hu.trans ?_) _ (.refl handler p.id s)
  have hmark (is : Bool) (h : is = true → handler = true) : Quiet handler p.id u (u.markObj key p o is) :=
    fun hu => ⟨hu, markObj_padStands u key p o h⟩
  refine Quiet.trans ?_ (.ite (fun _ => parkObj_quiet _ _ _ _ _) (.ite (fun _ => handshake_quiet _ _ _ _ _) (.refl _ _ _)))
  refine .ite (fun _ => hmark false Bool.noConfusion) (.ite (fun hc => hmark true fun _ => ?_) (.refl _ _ _))
  simp only [Bool.and_eq_true] at hc
  exact hc.1.1

end Sys2Proof.Machine
end

section
/-! SUPPORT. Words that store to their pack's scratchpad (spec 08, R178, R180, R184). -/

namespace Sys2Proof.Machine
open Sys2Proof

/-- A word's floe after it has finished. -/
theorem find?_retire {w : Issue} {c : Ctx} (hkey : c.key = w.floe) : (retire c).floes.find? w.floe = some { c.f with
    run := some { c.r with pc := c.pc + 8, count := c.r.count + 1, ended := c.r.ended || c.mark || c.r.count + 1 == runLimit } } := by
  rw [← hkey]
  exact Tbl.find?_put_same ..

/-- A word that has finished completes. -/
theorem completes_retire {s : State} {w : Issue} {r : Run} {c : Ctx} (hkey : c.key = w.floe) (hpc : c.pc = w.pc)
    (hcount : c.r.count = r.count) (htrap : c.r.trap = r.trap) (hmem : SameMemory s c.s) : Completes s (retire c) w r :=
  ⟨⟨rfl, _, _, find?_retire hkey, rfl, congrArg (· + 8) hpc, congrArg (· + 1) hcount, htrap⟩, hmem⟩

/-- A word's context after it has stored: another state with the same memory, and a floe whose entries may have stopped waiting. -/
structure Stored (c c' : Ctx) : Prop where
  ctx : c' = { c with s := c'.s, f := c'.f }
  memory : SameMemory c.s c'.s
  floe : ∃ fr ir run, c'.f = { c.f with frontier := fr, intFrontier := ir, run := run }

theorem Stored.refl (c : Ctx) : Stored c c := ⟨rfl, .refl _, _, _, _, rfl⟩

theorem Stored.trans {c c' c'' : Ctx} (h : Stored c c') (h' : Stored c' c'') : Stored c c'' := by
  refine ⟨?_, h.memory.trans h'.memory, ?_⟩
  · rw [h'.ctx, h.ctx]
  · obtain ⟨_, _, _, hf⟩ := h.floe
    obtain ⟨fr, ir, run, hf'⟩ := h'.floe
    exact ⟨fr, ir, run, by rw [hf', hf]⟩

theorem Stored.core {c c' : Ctx} (h : Stored c c') : c'.core = c.core := by rw [h.ctx]; rfl

theorem Stored.handler {c c' : Ctx} (h : Stored c c') : c'.handler = c.handler := by
  obtain ⟨_, _, _, hf⟩ := h.floe
  rw [Ctx.handler, hf]
  rfl

/-- An operation that may end waits leaves the word's context stored. -/
theorem via_stored {c : Ctx} {g : State → State} (hg : ∀ s, WaitsEnd s (g s)) :
    Stored c (c.via g) ∧ (c.via g).s = g (c.s.setFloe c.key { c.f with run := some c.r }) := by
  obtain ⟨hmem, hfloes⟩ := hg (c.s.setFloe c.key { c.f with run := some c.r })
  obtain ⟨f', hfind, fr, ir, hf'⟩ := hfloes c.key _ (find?_setFloe ..)
  rw [via_eq rfl hfind (show f'.run = some c.r by rw [hf'])]
  exact ⟨⟨rfl, (setFloe_sameMemory ..).trans hmem, fr, ir, some c.r, hf'⟩, rfl⟩

/-- A store to the pack's scratchpad. -/
theorem padStore_stored (c : Ctx) (p : Pack) (w : List (Nat × Byte × Bound)) :
    Stored c (c.padStore p w) ∧ (Unjournaled p.id c.s → Unjournaled p.id (c.padStore p w).s ∧
      PadStands c.handler (c.s.setCore c.core (padWrite c.padCore p w)) (c.padStore p w).s) := by
  obtain ⟨hstored, hs⟩ := via_stored (c := c) (g := fun s =>
    (s.setCore c.core (padWrite (s.core c.core) p w)).afterStore c.f.pack p s c.handler (w.map (·.1)))
    fun s => (setCore_floesStand ..).waitsEnd.trans (afterStore_waitsEnd ..)
  refine ⟨hstored, fun h => ?_⟩
  rw [Ctx.padStore, hs]
  exact afterStore_quiet (State.setCore _ c.core _) _ p _ _ _ h

/-- The core after the store, where no event is journalled: its bytes, bounds, and which blocks are no objects. -/
theorem padStore_padCore {c : Ctx} {p : Pack} (h : Unjournaled p.id c.s) (w : List (Nat × Byte × Bound)) :
    let core := (c.padStore p w).padCore
    core.spad = (padWrite c.padCore p w).spad ∧ core.spadB = (padWrite c.padCore p w).spadB ∧
      (c.handler = false → ∀ o, c.padCore.isObj p o = false → core.isObj p o = false) := by
  obtain ⟨hstored, hquiet⟩ := padStore_stored c p w
  rw [Ctx.padCore, hstored.core]
  intro core
  obtain ⟨hspad, hspadB, hbars⟩ := (hquiet h).2 c.core
  rw [core_setCore, if_pos rfl] at hspad hspadB hbars
  refine ⟨hspad, hspadB, fun hhandler o hobj => Bool.eq_false_iff.mpr fun htrue => ?_⟩
  have hbar := hbars hhandler _ htrue
  rw [padWrite_bars] at hbar
  rw [Core.isObj, hbar] at hobj
  cases hobj

end Sys2Proof.Machine
end

section
/-! SUPPORT. The lanes of a scratchpad atomic, one after the other (spec 08, R184, R185, R89). -/

namespace Sys2Proof.Machine
open Sys2Proof

/-! ### What a lane finds -/

/-- The offsets of an aligned word lie in one block of 16 bytes. -/
theorem isObj_add (x : Core) (p : Pack) {o n i : Nat} (hn : n = 4 ∨ n = 8) (ho : o % n = 0) (hi : i < n) :
    x.isObj p (o + i) = x.isObj p o := by
  have hbank : (o + i) / 65536 = o / 65536 := by rcases hn with rfl | rfl <;> omega
  have hblock (b : Nat) : (b * 65536 + (o + i) % 65536) / 16 = (b * 65536 + o % 65536) / 16 := by rcases hn with rfl | rfl <;> omega
  rw [Core.isObj, Core.isObj, padAddr, padAddr, hbank, hblock]

/-- Bytes read from equal scratchpads are equal. -/
theorem padLoad_values {x y : Core} (h : x.spad = y.spad) (p : Pack) (o n : Nat) :
    (padLoad x p o n).map (·.1) = (padLoad y p o n).map (·.1) := by
  simp only [padLoad, List.map_map, Function.comp_def, Core.padByte, h]

/-- Where no byte lies in an object, their bounds are equal too. -/
theorem padLoad_congr {x y : Core} {p : Pack} {o n : Nat} (hspad : x.spad = y.spad) (hspadB : x.spadB = y.spadB)
    (hobj : ∀ i < n, x.isObj p (o + i) = y.isObj p (o + i)) : padLoad x p o n = padLoad y p o n := by
  refine List.map_congr_left fun i hi => ?_
  simp only [Core.padByte, Core.padBound, hspad, hspadB, hobj i (List.mem_range.mp hi)]

/-- The values that a load gives depend on the bytes alone. -/
theorem loadWords_values {bs bs' : List (Byte × Bound)} (h : bs.map (·.1) = bs'.map (·.1)) (sz : Sz) (k : Nat) :
    ((loadWords sz bs).getD k (0, 0)).1 = ((loadWords sz bs').getD k (0, 0)).1 := by
  have hmap : (loadWords sz bs).map (·.1) = (loadWords sz bs').map (·.1) := by
    cases sz <;> simp [loadWords, List.map_take, List.map_drop, h]
  have hgetD (l : List (Lane × Bound)) : (l.getD k (0, 0)).1 = (l.map (·.1)).getD k 0 := by
    rw [List.getD_eq_getElem?_getD, List.getD_eq_getElem?_getD, List.getElem?_map]
    cases l[k]? <;> rfl
  rw [hgetD, hgetD, hmap]

/-! ### One lane -/

section
variable (c : Ctx) (p : Pack) (F : AFun) (ty : ATy) (d : VReg)

/-- What a lane of an atomic makes of the bytes that it finds; none where it writes nothing. -/
def atomNew (e : Nat × Word) (bs : List (Byte × Bound)) : Option (Nat × Bound) :=
  let x := c.atomData ty d e.1
  atomApply F ty (c.f.sys.fpctl.getLsbD 2) (leNat (bs.map (·.1))) (boundMaxL (bs.map (·.2))) x.1 x.2.1 x.2.2.1 x.2.2.2

/-- The bytes that a lane writes. -/
def atomBytes (e : Nat × Word) (v : Nat × Bound) : List (Nat × Byte × Bound) :=
  (natLe (atBytes ty) v.1).zipIdx.map fun z => (e.2.toNat + z.2, z.1, v.2)

/-- The bytes that a lane finds in a core. -/
def atomFound (k : Core) (e : Nat × Word) : List (Byte × Bound) := padLoad k p e.2.toNat (atBytes ty)

/-- A core after a lane. -/
def atomCore (k : Core) (e : Nat × Word) : Core :=
  match atomNew c F ty d e (atomFound p ty k e) with
  | none => k
  | some v => padWrite k p (atomBytes ty e v)

/-- A word's context after a lane. -/
def atomCtx (x : Ctx) (e : Nat × Word) : Ctx :=
  match atomNew c F ty d e (atomFound p ty x.padCore e) with
  | none => x
  | some v => x.padStore p (atomBytes ty e v)

theorem atomsApply_concat (las : List (Nat × Word)) (e : Nat × Word) :
    atomsApply c p F ty d (las ++ [e]) = (atomCtx c p F ty d (atomsApply c p F ty d las).1 e,
      (atomsApply c p F ty d las).2 ++ [(e.1, atomFound p ty (atomsApply c p F ty d las).1.padCore e)]) := by
  unfold atomsApply
  rw [List.foldl_append, List.foldl_cons, List.foldl_nil]
  generalize List.foldl _ _ las = acc
  obtain ⟨x, got⟩ := acc
  unfold atomCtx atomNew atomFound
  dsimp only
  split
  next hnone => rw [hnone]
  next v b hsome => rw [hsome]; rfl

/-- What a lane writes does not depend on the bounds that it finds. -/
theorem atomNew_value {e : Nat × Word} {bs bs' : List (Byte × Bound)} (h : bs.map (·.1) = bs'.map (·.1)) :
    (atomNew c F ty d e bs).map (·.1) = (atomNew c F ty d e bs').map (·.1) := by
  unfold atomNew
  rw [h]
  exact atomApply_value ..

/-! ### Lane after lane -/

/-- No byte of a word's lanes lies in an object. -/
def Plain (las : List (Nat × Word)) (k : Core) : Prop := ∀ e ∈ las, ∀ i < atBytes ty, k.isObj p (e.2.toNat + i) = false

/-- Two cores with the same bytes, and, under a condition, the same bounds and no object at a word's lanes. -/
structure Tracks (las : List (Nat × Word)) (plain : Prop) (x y : Core) : Prop where
  spad : x.spad = y.spad
  spadB : plain → x.spadB = y.spadB
  left : plain → Plain p ty las x
  right : plain → Plain p ty las y

variable {c p F ty d} {las : List (Nat × Word)} {plain : Prop}

theorem Tracks.found {x y : Core} (h : Tracks p ty las plain x y) {e : Nat × Word} (he : e ∈ las) :
    (atomFound p ty x e).map (·.1) = (atomFound p ty y e).map (·.1) ∧ (plain → atomFound p ty x e = atomFound p ty y e) :=
  ⟨padLoad_values h.spad .., fun hp => padLoad_congr h.spad (h.spadB hp) fun i hi => (h.left hp e he i hi).trans (h.right hp e he i hi).symm⟩

/-- A store of bytes at a lane's offset. -/
theorem mem_atomBytes {e : Nat × Word} {v : Nat × Bound} {z : Nat × Byte × Bound} (hz : z ∈ atomBytes ty e v) :
    ∃ i < atBytes ty, z.1 = e.2.toNat + i := by
  obtain ⟨b, hb, rfl⟩ := List.mem_map.mp hz
  have hlt := List.snd_lt_of_mem_zipIdx hb
  rw [natLe, List.length_map, List.length_range] at hlt
  exact ⟨b.2, by omega, rfl⟩

/-- One lane keeps the word's core and the core of its lanes alike. -/
theorem Tracks.lane {x : Ctx} {y : Core} (hx : Stored c x) (hquiet : Unjournaled p.id x.s) (hplain : plain → c.handler = false)
    (h : Tracks p ty las plain x.padCore y) {e : Nat × Word} (he : e ∈ las) :
    Stored c (atomCtx c p F ty d x e) ∧ Unjournaled p.id (atomCtx c p F ty d x e).s ∧
      Tracks p ty las plain (atomCtx c p F ty d x e).padCore (atomCore c p F ty d y e) := by
  obtain ⟨hvalues, hsame⟩ := h.found he
  have hnew := atomNew_value c F ty d (e := e) hvalues
  unfold atomCtx atomCore
  cases hx' : atomNew c F ty d e (atomFound p ty x.padCore e) with
  | none =>
    rw [hx', Option.map_none, eq_comm, Option.map_eq_none_iff] at hnew
    rw [hnew]
    exact ⟨hx, hquiet, h⟩
  | some v =>
    rw [hx', Option.map_some, eq_comm, Option.map_eq_some_iff] at hnew
    obtain ⟨u, hu, huv⟩ := hnew
    rw [hu]
    obtain ⟨hstored, hkeep⟩ := padStore_stored x p (atomBytes ty e v)
    obtain ⟨hspad, hspadB, hclear⟩ := padStore_padCore hquiet (atomBytes ty e v)
    have hbytes : (atomBytes ty e v).map (fun z => (z.1, z.2.1)) = (atomBytes ty e u).map fun z => (z.1, z.2.1) := by
      simp only [atomBytes, List.map_map, Function.comp_def, huv]
    refine ⟨hx.trans hstored, (hkeep hquiet).1, hspad.trans (padWrite_spad_congr h.spad p hbytes), fun hp => ?_, fun hp => ?_, fun hp => ?_⟩
    · have huv' : u = v := Option.some.inj ((hu.symm.trans (congrArg _ (hsame hp).symm)).trans hx')
      rw [huv']
      refine hspadB.trans (padWrite_spadB_congr (h.spadB hp) fun z hz => ?_)
      obtain ⟨i, hi, hzi⟩ := mem_atomBytes hz
      rw [hzi, h.left hp e he i hi, h.right hp e he i hi]
    · exact fun g hg i hi => hclear (hx.handler.trans (hplain hp)) _ (h.left hp g hg i hi)
    · intro g hg i hi
      rw [Core.isObj, padWrite_bars]
      exact h.right hp g hg i hi

theorem atomCtx_stored (x : Ctx) (e : Nat × Word) : Stored x (atomCtx c p F ty d x e) := by
  unfold atomCtx
  split
  · exact .refl x
  · exact (padStore_stored ..).1

/-- An atomic's lanes store, each in turn, and each is remembered with what it has found. -/
theorem atomsApply_stored (las : List (Nat × Word)) :
    Stored c (atomsApply c p F ty d las).1 ∧ (atomsApply c p F ty d las).2.map (·.1) = las.map (·.1) := by
  induction las using List.reverseRecOn with
  | nil => exact ⟨.refl c, rfl⟩
  | append_singleton pre e ih =>
    obtain ⟨hstored, hlanes⟩ := ih
    rw [atomsApply_concat]
    exact ⟨hstored.trans (atomCtx_stored _ e), by simp [hlanes]⟩

variable (c p F ty d) in
/-- What a lane finds: the bytes as the lanes before it leave them (R184). -/
def atomSees (las : List (Nat × Word)) (e : Nat × Word) : List (Byte × Bound) :=
  atomFound p ty ((las.filter fun g => decide (g.1 < e.1)).foldl (atomCore c p F ty d) c.padCore) e

/-- A lane sees nothing of those after it. -/
theorem atomSees_concat {pre : List (Nat × Word)} {e g : Nat × Word} (hle : g.1 ≤ e.1) :
    atomSees c p F ty d (pre ++ [e]) g = atomSees c p F ty d pre g := by
  have hnot : decide (e.1 < g.1) = false := decide_eq_false (by omega)
  rw [atomSees, List.filter_append, List.filter_singleton, hnot]
  rw [cond_false, List.append_nil]
  rfl

/-- The last of the lanes sees all others. -/
theorem atomSees_last {pre : List (Nat × Word)} {e : Nat × Word} (hall : ∀ g ∈ pre, g.1 < e.1) :
    atomSees c p F ty d pre e = atomFound p ty (pre.foldl (atomCore c p F ty d) c.padCore) e := by
  rw [atomSees, List.filter_eq_self.mpr fun g hg => decide_eq_true (hall g hg)]

/-- The lanes of an atomic leave the bytes that their functions give in ascending order, and each finds what those before it have
left; where no object lies at them, the bounds too (R184, R185). -/
theorem atomsApply_tracks (hquiet : Unjournaled p.id c.s) (hhandler : plain → c.handler = false)
    (hclear : plain → Plain p ty las c.padCore) {pre : List (Nat × Word)} (hsub : ∀ e ∈ pre, e ∈ las)
    (hsorted : pre.Pairwise fun e g => e.1 < g.1) :
    let acc := atomsApply c p F ty d pre
    Unjournaled p.id acc.1.s ∧ Tracks p ty las plain acc.1.padCore (pre.foldl (atomCore c p F ty d) c.padCore) ∧
      ∀ g ∈ acc.2, ∃ e ∈ pre, e.1 = g.1 ∧ g.2.map (·.1) = (atomSees c p F ty d pre e).map (·.1) ∧
        (plain → g.2 = atomSees c p F ty d pre e) := by
  induction pre using List.reverseRecOn with
  | nil => exact ⟨hquiet, ⟨rfl, fun _ => rfl, hclear, hclear⟩, fun g hg => absurd hg List.not_mem_nil⟩
  | append_singleton pre e ih =>
    obtain ⟨hsortedPre, -, hbefore⟩ := List.pairwise_append.mp hsorted
    have hlast (g : Nat × Word) (hg : g ∈ pre) : g.1 < e.1 := hbefore g hg e (List.mem_singleton_self e)
    obtain ⟨hquiet', htracks, hgot⟩ := ih (fun g hg => hsub g (List.mem_append_left _ hg)) hsortedPre
    have he : e ∈ las := hsub e (List.mem_append_right _ (List.mem_singleton_self e))
    obtain ⟨-, hnext, htracks'⟩ := Tracks.lane (F := F) (d := d) (atomsApply_stored pre).1 hquiet' hhandler htracks he
    rw [atomsApply_concat, List.foldl_append]
    refine ⟨hnext, htracks', fun g hg => ?_⟩
    rcases List.mem_append.mp hg with hg | hg
    · obtain ⟨k, hk, hkg, hvalues, hsame⟩ := hgot g hg
      refine ⟨k, List.mem_append_left _ hk, hkg, ?_⟩
      rw [atomSees_concat (hlast k hk).le]
      exact ⟨hvalues, hsame⟩
    · rw [List.mem_singleton.mp hg]
      refine ⟨e, List.mem_append_right _ (List.mem_singleton_self e), rfl, ?_⟩
      rw [atomSees_concat le_rfl, atomSees_last hlast]
      exact htracks.found he

end

end Sys2Proof.Machine
end

section
/-! PROOF of O30: scratchpad stores and atomics (spec 08, R178, R180, R184, R185). -/

namespace Sys2Proof.Machine
open Sys2Proof

/-- A word that stores to the scratchpad in one event completes (R178, R180). -/
theorem completes_padStore {s : State} {w : Issue} {f : Floe} {r : Run} {h : Hdr} (p : Pack) (x : List (Nat × Byte × Bound)) :
    Completes s (retire ((ctxOf s w f r h).padStore p x)) w r ∧
      (s.redirect p.id = none → PadStored s (retire ((ctxOf s w f r h).padStore p x)) (coreOf w.floe) p x) := by
  obtain ⟨hstored, -⟩ := padStore_stored (ctxOf s w f r h) p x
  refine ⟨?_, fun hnone => ?_⟩
  · rw [hstored.ctx]
    exact completes_retire rfl rfl rfl rfl hstored.memory
  · obtain ⟨hspad, hspadB, -⟩ := padStore_padCore (c := ctxOf s w f r h) (unjournaled_of_redirect hnone) x
    rw [Ctx.padCore, hstored.core] at hspad hspadB
    exact ⟨hspad, hspadB⟩

theorem lanesOf_sorted (m : Mask) : (lanesOf m).Pairwise (· < ·) := List.Pairwise.filter _ List.pairwise_lt_range

/-- The lanes of an access rise. -/
theorem addrs_sorted (c : Ctx) (m : MemOp) : (c.addrs m).Pairwise fun e g => e.1 < g.1 := by
  rw [addrs_eq]
  exact List.pairwise_map.mpr (lanesOf_sorted c.act)

/-- Registers written in floes with the same registers. -/
theorem LanesWritten.of_v {f f' g g' : Floe} {r : Run} {act : Mask} {d n : Nat} {val : Nat → Fin 64 → Lane}
    {bnd : Nat → Fin 64 → Bound} (h : LanesWritten f g r act d n val bnd) (hf : f'.v = f.v) (hg : g'.v = g.v) :
    LanesWritten f' g' r act d n val bnd := by
  have hreg {x x' : Floe} (hx : x'.v = x.v) (k : Nat) : x'.vreg k = x.vreg k := congrArg (Tbl.getD · k VRow.zero) hx
  intro k l
  rw [hreg hf, hreg hg]
  exact h k l

theorem of_mem_addrs {c : Ctx} {m : MemOp} {e : Nat × Word} (he : e ∈ c.addrs m) : e = (e.1, c.addr m e.1) := by
  rw [addrs_eq] at he
  obtain ⟨l, -, rfl⟩ := List.mem_map.mp he
  rfl

theorem atBytes_eq (ty : ATy) : atBytes ty = 4 ∨ atBytes ty = 8 := by
  unfold atBytes
  split
  · exact .inr rfl
  · exact .inl rfl

theorem szSpan_atSz (ty : ATy) : szSpan (atSz ty) = if ty.wide then 2 else 1 := by
  unfold atSz
  split <;> rfl

/-- Where the blocks of a word's lanes are no objects, none of its bytes lies in one. -/
theorem plain_of_isObj {p : Pack} {ty : ATy} {las : List (Nat × Word)} {k : Core}
    (hpad : PadOk p (atBytes ty) (atBytes ty) (las.map (·.2))) (hobj : ∀ e ∈ las, k.isObj p e.2.toNat = false) : Plain p ty las k :=
  fun e he _ hi => (isObj_add k p (atBytes_eq ty) (hpad _ (List.mem_map_of_mem he)).1 hi).trans (hobj e he)

/-! ### An atomic as a whole (R184, R185) -/

/-- The bytes that a lane is remembered to have found. -/
def gotBytes (got : List (Nat × List (Byte × Bound))) (l : Nat) : List (Byte × Bound) := ((got.find? fun g => g.1 == l).map (·.2)).getD []

/-- What is remembered for an active lane is what it has seen. -/
theorem gotBytes_sees {c : Ctx} {p : Pack} {F : AFun} {ty : ATy} {d : VReg} {m : MemOp} {plain : Prop} (hquiet : Unjournaled p.id c.s)
    (hhandler : plain → c.handler = false) (hclear : plain → Plain p ty (c.addrs m) c.padCore) {l : Nat} (hact : has c.act l = true) :
    let bs := gotBytes (atomsApply c p F ty d (c.addrs m)).2 l
    bs.map (·.1) = (atomSees c p F ty d (c.addrs m) (l, c.addr m l)).map (·.1) ∧
      (plain → bs = atomSees c p F ty d (c.addrs m) (l, c.addr m l)) := by
  obtain ⟨-, -, hgot⟩ := atomsApply_tracks (F := F) (d := d) hquiet hhandler hclear (fun _ he => he) (addrs_sorted c m)
  have hlane : l ∈ (atomsApply c p F ty d (c.addrs m)).2.map (·.1) := by
    rw [(atomsApply_stored (c.addrs m)).2]
    exact List.mem_map_of_mem (List.mem_of_find?_eq_some (find?_addrs c m hact))
  obtain ⟨g, hg, hgl⟩ := List.mem_map.mp hlane
  obtain ⟨k, hk⟩ := Option.isSome_iff_exists.mp
    (List.find?_isSome (p := fun g : Nat × List (Byte × Bound) => g.1 == l) |>.mpr ⟨g, hg, beq_iff_eq.mpr hgl⟩)
  obtain ⟨e, he, hek, hvalues, hsame⟩ := hgot k (List.mem_of_find?_eq_some hk)
  have hkl := List.find?_some hk
  have hel : e = (l, c.addr m l) := by rw [of_mem_addrs he, hek, eq_of_beq hkl]
  rw [hel] at hvalues hsame
  rw [gotBytes, hk]
  exact ⟨hvalues, hsame⟩

/-- An atomic retires with what its lanes have stored, and with what they have found where it returns. -/
theorem exec_atoms {i : Instr} {h : Hdr} {F : AFun} {m : MemOp} {ty : ATy} {ret : Bool} {d : VReg}
    (hexec : ∀ s, exec i s = onWord i h s fun c => atomsWord c F m ty ret d) {s : State} {w : Issue} {f : Floe} {r : Run} {p : Pack}
    (hissues : Issues s w f r) (hpack : s.packs.find? f.pack = some p) (hok : operandsOk s f i = true) :
    let c := ctxOf s w f r h
    PadOk p (atBytes ty) (atBytes ty) ((c.addrs m).map (·.2)) →
      let acc := atomsApply c p F ty d (c.addrs m)
      ∃ v o, exec i s = .next (retire { acc.1 with f := { acc.1.f with v := v }, r := { acc.1.r with vOld := o } }) ∧
        (ret = false → v = acc.1.f.v) ∧
        (ret = true → LanesWritten acc.1.f { acc.1.f with v := v } acc.1.r acc.1.act d.toNat (if ty.wide then 2 else 1)
          (fun k l => ((loadWords (atSz ty) (gotBytes acc.2 l.val)).getD k (0, 0)).1)
          fun k l => ((loadWords (atSz ty) (gotBytes acc.2 l.val)).getD k (0, 0)).2) := by
  intro c hpad acc
  have hword : exec i s = .next (if ret then
      let fr := putLoad (acc.1.f, acc.1.r) acc.1.num (atSz ty) d acc.1.act (gotBytes acc.2)
      retire { acc.1 with f := fr.1, r := fr.2 } else retire acc.1) := by
    rw [hexec, onWord_ok hissues hok]
    exact congrArg _ (onPad_ok (c := c) hpack hpad _)
  cases ret with
  | false => exact ⟨_, _, hword, fun _ => rfl, Bool.noConfusion⟩
  | true =>
    obtain ⟨v, o, hload, hlanes⟩ := putLoad_eq acc.1.f acc.1.r acc.1.num (atSz ty) d acc.1.act (gotBytes acc.2)
    rw [szSpan_atSz] at hlanes
    exact ⟨v, o, hword.trans (congrArg (fun fr : Floe × Run => Host.Outcome.next (retire { acc.1 with f := fr.1, r := fr.2 })) hload),
      Bool.noConfusion, fun _ => hlanes⟩

/-- R184, R185: what an atomic of the scratchpad leaves and returns. -/
theorem atoms_complete {i : Instr} {h : Hdr} {F : AFun} {m : MemOp} {ty : ATy} {ret : Bool} {d : VReg}
    (hexec : ∀ s, exec i s = onWord i h s fun c => atomsWord c F m ty ret d) {s : State} {w : Issue} {f : Floe} {r : Run} {p : Pack}
    (hissues : Issues s w f r) (hpack : s.packs.find? f.pack = some p) (hok : operandsOk s f i = true) :
    let c := ctxOf s w f r h
    let las := c.addrs m
    let core := s.core (coreOf w.floe)
    let after := las.foldl (atomCore c p F ty d) core
    let plain := f.handler = false ∧ ∀ la ∈ las, core.isObj p la.2.toNat = false
    let found (l : Nat) : List (Lane × Bound) := loadWords (atSz ty) (atomSees c p F ty d las (l, c.addr m l))
    PadOk p (atBytes ty) (atBytes ty) (las.map (·.2)) →
      ∃ t g, exec i s = .next t ∧ Completes s t w r ∧ t.floes.find? w.floe = some g ∧ (ret = false → g.v = f.v) ∧
        (s.redirect p.id = none →
          (t.core (coreOf w.floe)).spad = after.spad ∧ (plain → (t.core (coreOf w.floe)).spadB = after.spadB) ∧
          (ret = true → ∃ bnd : Nat → Fin 64 → Bound, (plain → ∀ k l, bnd k l = ((found l.val).getD k (0, 0)).2) ∧
            LanesWritten f g r c.act d.toNat (if ty.wide then 2 else 1) (fun k l => ((found l.val).getD k (0, 0)).1) bnd)) := by
  intro c las core after plain found hpad
  obtain ⟨hstored, -⟩ := atomsApply_stored (c := c) (p := p) (F := F) (ty := ty) (d := d) las
  obtain ⟨v, o, hnext, hkept, hlanes⟩ := exec_atoms (d := d) hexec hissues hpack hok hpad
  have hcore := hstored.core
  obtain ⟨hctx, hmem, fr, ir, run, hf⟩ := hstored
  have hkey : (atomsApply c p F ty d las).1.key = w.floe := by rw [hctx]; rfl
  have hpc : (atomsApply c p F ty d las).1.pc = w.pc := by rw [hctx]; rfl
  have hrun : (atomsApply c p F ty d las).1.r = r := by rw [hctx]; rfl
  have hact : (atomsApply c p F ty d las).1.act = c.act := by rw [hctx]
  have hv : (atomsApply c p F ty d las).1.f.v = f.v := by rw [hf]; rfl
  have hcount : (atomsApply c p F ty d las).1.r.count = r.count := congrArg Run.count hrun
  have htrap : (atomsApply c p F ty d las).1.r.trap = r.trap := congrArg Run.trap hrun
  refine ⟨_, _, hnext, completes_retire hkey hpc hcount htrap hmem, find?_retire hkey, fun hret => (hkept hret).trans hv, fun hnone => ?_⟩
  have hplain : plain → Plain p ty las core := fun ⟨_, hobj⟩ => plain_of_isObj hpad hobj
  have hquiet : Unjournaled p.id c.s := unjournaled_of_redirect hnone
  obtain ⟨-, ⟨hspad, hspadB, -, -⟩, -⟩ :=
    atomsApply_tracks (F := F) (d := d) (plain := plain) hquiet And.left hplain (fun _ he => he) (addrs_sorted c m)
  rw [Ctx.padCore, hcore] at hspad hspadB
  refine ⟨hspad, hspadB, fun hret => ?_⟩
  have hsees (l : Nat) (hl : has c.act l = true) := gotBytes_sees (F := F) (d := d) (plain := plain) hquiet And.left hplain hl
  have hwritten := hlanes hret
  rw [hrun, hact] at hwritten
  by_cases hp : plain
  · refine ⟨fun k l => ((found l.val).getD k (0, 0)).2, fun _ _ _ => rfl, (hwritten.congr_active fun k l hl => ?_).of_v hv.symm rfl⟩
    rw [(hsees l.val hl).2 hp]
    exact ⟨rfl, rfl⟩
  · exact ⟨_, fun hp' => absurd hp' hp,
      (hwritten.congr_active fun k l hl => ⟨loadWords_values (hsees l.val hl).1 _ k, rfl⟩).of_v hv.symm rfl⟩

/-- Settles O30: STS is one store, and each atomic the same word with its function. -/
theorem scratchpadStores : Obligations.ScratchpadStores := by
  unfold Obligations.ScratchpadStores
  intro h m sz ty ret d s w f r p hissues hpack c las n core data
  refine ⟨fun hpad hok => ?_, fun hpad => ?_⟩
  · have hexec : exec (.sts h m sz d) s = .next (retire (c.padStore p data)) :=
      (onWord_ok hissues hok h _).trans (congrArg _ (onPad_ok (c := c) hpack hpad _))
    exact ⟨_, hexec, completes_padStore p data⟩
  · have hatom (i : Instr) (F : AFun) (hexec : ∀ s, exec i s = onWord i h s fun c => atomsWord c F m ty ret d)
        (hok : operandsOk s f i = true) := atoms_complete hexec hissues hpack hok hpad
    simp only [List.forall_mem_cons]
    exact ⟨hatom (.atomsAdd h m ty ret d) .add fun _ => rfl, hatom (.atomsSub h m ty ret d) .sub fun _ => rfl,
      hatom (.atomsMin h m ty ret d) .min fun _ => rfl, hatom (.atomsMax h m ty ret d) .max fun _ => rfl,
      hatom (.atomsAnd h m ty ret d) .and fun _ => rfl, hatom (.atomsOr h m ty ret d) .or fun _ => rfl,
      hatom (.atomsXor h m ty ret d) .xor fun _ => rfl, hatom (.atomsXchg h m ty ret d) .xchg fun _ => rfl,
      hatom (.atomsCas h m ty ret d) .cas fun _ => rfl, fun _ he => absurd he List.not_mem_nil⟩

end Sys2Proof.Machine
end

section
/-! PROOF of O42, refuted: CPYCAN may write the image of a saved pack in memory (spec 10, R225; 19, R366). -/

namespace Sys2Proof.Machine
open Sys2Proof

/-- The second pack of the loaded program's node, which has been saved. -/
def savedPack : PackId := ⟨0, 0, 1⟩

/-- A request of it that a CPYCAN has marked, with no piece in flight: its end waits to be written to its STATUS. -/
def cancelledReq : LReq :=
  { pack := savedPack, ctx := 0, off := 0, bytes := List.replicate 64 0, scope := .core, state := 1, code := 0, issued := 0, landed := []
    flying := [], subtracted := 0, lostB := false, cancel := true, stall := none, renewed := [], key := none, fork := ⟨0, 0, 0, 0⟩ }

/-- What the Tumblers hold for it: its events are made on its image, which stands from 0x1000000 (R366). -/
def savedRedirect : Redirect :=
  { ctx := 0, pack := savedPack, core := 0, pslot := 1, record := 0x1000000, state := .saved, parked := [], journal := [], banks := 1 }

/-- The word that issues. -/
def cancelIssue : Issue := ⟨0, 0x30000, 0, 0⟩

/-- The loaded program's floe issues a word, with that request at the head of queue 0 of its core. -/
def cancelState : State :=
  let s := State.reset.loadTables.loadFloe
  { ((s.setQueue 0 0 [cancelledReq]).setDie 0 { s.die 0 with redirects := [savedRedirect] }).setFloe 0 dataFloeRuns with
    issuing := some cancelIssue }

/-- CPYCAN of queue 0. -/
def cancelWord : Instr := .cpycan ⟨true, false, 0⟩ 0

/-- A byte of the request's STATUS in the image. -/
def statusByte : Nat := 0x1020038

/-- Whether a word leaves a value at that byte. -/
def leavesStatus (x : Out) (b : Byte) : Bool :=
  match x with
  | .next t => t.byte statusByte == b
  | _ => false

/-- The word writes STATE 6 there, where memory held 0. -/
theorem cancelWord_writes : leavesStatus (exec cancelWord cancelState) 6 = true ∧ cancelState.byte statusByte = 0 := by decide +kernel

/-- The word's operands are legal, and name queue 0. -/
theorem cancelWord_legal : operandsOk cancelState dataFloeRuns cancelWord = true ∧
    (ctxOf cancelState cancelIssue dataFloeRuns dataRun ⟨true, false, 0⟩).nat .a 0 < 4 := by decide +kernel

theorem cancelState_issues : Issues cancelState cancelIssue dataFloeRuns dataRun := ⟨rfl, rfl, rfl⟩

/-- Refutes O42: CPYCAN ends requests of its queue, of which one belongs to a saved pack, whose STATUS stands in memory. -/
theorem not_formsComplete : ¬ Obligations.FormsComplete := by
  unfold Obligations.FormsComplete
  intro h
  obtain ⟨hwrites, hbefore⟩ := cancelWord_writes
  obtain ⟨hlegal, hqueue⟩ := cancelWord_legal
  obtain ⟨p, hpack⟩ : ∃ p, cancelState.packs.find? dataFloeRuns.pack = some p := ⟨_, rfl⟩
  obtain ⟨-, -, -, -, -, -, hcancel, -⟩ := h ⟨true, false, 0⟩ ⟨.near, .rlx, .core, 0, 0, 0⟩ 0 0 0 0 false 0 0 0 0 0 0 .core .full false 0
    cancelState cancelIssue dataFloeRuns dataRun p cancelState_issues hpack
  obtain ⟨t, hexec, -, hmem, -, -⟩ := hcancel (by omega) hlegal
  have hafter : t.byte statusByte = 6 := by
    rw [cancelWord] at hwrites
    rw [hexec] at hwrites
    exact eq_of_beq hwrites
  have hsame : t.byte statusByte = cancelState.byte statusByte := congrArg (Tbl.getD · statusByte memDefault) hmem
  rw [hafter, hbefore] at hsame
  exact absurd hsame (by decide)

end Sys2Proof.Machine
end

section
/-! SUPPORT. Words that write a uniform register once (spec 01, R30, R32, R37): what the write leaves in the floe and in its run. -/

namespace Sys2Proof.Machine
open Sys2Proof

/-- Uniform registers `x` are those of f, but that d, when it is not s0, holds v, or keeps what an earlier word of the run wrote (R30). -/
def UniformWritten (f : Floe) (r : Run) (x : Tbl Word) (d : SReg) (v : Word) : Prop :=
  ∀ k, let g := { f with s := x }
    (k ≠ d.toNat ∨ d = 0 → g.sreg k = f.sreg k) ∧
    (k = d.toNat → d ≠ 0 → g.sreg k = v ∨ (r.sOld.find? k).isSome ∧ g.sreg k = f.sreg k)

theorem setS_eq (c : Ctx) (d : SReg) (v : Word) : ∃ x old,
    c.setS d v = { c with f := { c.f with s := x }, r := { c.r with sOld := old } } ∧ UniformWritten c.f c.r x d v := by
  have hzero : d.toNat = 0 ↔ d = 0 := BitVec.toNat_inj (y := 0)
  obtain ⟨x, old, hwrite, hregs⟩ := writeS_eq c.f c.r c.num d.toNat v
  refine ⟨x, old, by rw [Ctx.setS, hwrite], fun k => ?_⟩
  obtain ⟨hother, hsame⟩ := hregs k
  exact ⟨fun hk => hother (hk.imp_right hzero.mpr), fun hk hd => hsame hk (mt hzero.mp hd)⟩

/-- A word that at this issue only writes one uniform register, once (R32). -/
theorem writesUniformAt_of_once {i : Instr} {h : Hdr} {d : SReg} {val : Ctx → Word} {s : State} {w : Issue} {f : Floe} {r : Run}
    (hexec : operandsOk s f i = true → exec i s = .next (retire ((ctxOf s w f r h).once fun c => c.setS d (val c)))) :
    WritesUniformAt i h d val s w f r := by
  intro hok
  rw [hexec hok]
  by_cases hact : activeOf w f r h = 0
  · rw [once_idle hact]
    exact ⟨f.s, nextRun w r h.s, rfl, rfl, rfl, rfl, fun k => ⟨fun _ => rfl, fun hk => absurd hact hk.2.2⟩⟩
  · obtain ⟨x, old, hset, hregs⟩ := setS_eq (ctxOf s w f r h) d (val (ctxOf s w f r h))
    rw [once_busy hact, hset]
    refine ⟨x, nextRun w { r with sOld := old } h.s, rfl, rfl, rfl, rfl, fun k =>
      ⟨fun hk => ?_, fun ⟨hk, hd, _⟩ => (hregs k).2 hk hd⟩⟩
    exact (hregs k).1 (hk.imp_right fun h => h.resolve_right hact)

end Sys2Proof.Machine
end

section
/-! PROOF of O21: FIRNRD and MFSR (spec 10, R232, R233; 01, R42). -/

namespace Sys2Proof.Machine
open Sys2Proof

/-! ### Values of registers that no word of the run has written (R42) -/

/-- A read before the first write of the run finds what stood before the run: a governing register's kept value, or another register
as it stands. -/
theorem sysRead_unwritten {c : Ctx} (hpend : c.f.sysPend = []) (ix : Nat) :
    sysRead c ix = sysVal c ix ∨ sysRead c ix = (c.r.sysOld.read ix).getD (sysVal c ix) := by
  simp only [sysRead, hpend, Tbl.find?_nil]
  split
  · exact .inr rfl
  · exact .inl rfl

/-- A read in a run that has written no system register finds a value on which both choices of R31 agree. -/
theorem sysRead_eq {c : Ctx} (hpend : c.f.sysPend = []) {ix : Nat} {v : Word} (hval : sysVal c ix = v)
    (hold : (c.r.sysOld.read ix).getD v = v) : sysRead c ix = v := by
  subst hval
  rcases sysRead_unwritten hpend ix with h | h
  · exact h
  · exact h.trans hold

/-- MFSR (R232). -/
theorem exec_mfsr {s : State} {w : Issue} {f : Floe} {r : Run} {h : Hdr} {d : SReg} {x : BitVec 10} (hissues : Issues s w f r)
    (hok : operandsOk s f (.mfsr h d x) = true) :
    exec (.mfsr h d x) s = .next (
      if noAcc (ctxOf s w f r h) x.toNat then illegalOperand (ctxOf s w f r h)
      else retire ((ctxOf s w f r h).once fun c => c.setS d (sysRead c x.toNat))) :=
  onWord_ok hissues hok h _

/-- Settles O21: both words write one register once; a register that the run has not written reads as it stands, whichever of its
values R31 lets the read find. -/
theorem systemRegisterReads : Obligations.SystemRegisterReads := by
  unfold Obligations.SystemRegisterReads
  refine ⟨fun h d => writesUniform_of_once fun _ => rfl, ?_⟩
  intro h d x s w f r hissues c ix
  refine ⟨fun hacc => ?_, fun hacc hok => ?_, fun hpend hold => ?_⟩
  · refine writesUniformAt_of_once fun hok => ?_
    rw [exec_mfsr hissues hok, if_neg (by simpa using hacc)]
  · rw [exec_mfsr hissues hok, if_pos hacc]
    rfl
  · have reads {ix : Nat} {v : Word} (hval : sysVal c ix = v) (hread : (f.sys.read ix).getD v = v) : sysRead c ix = v :=
      sysRead_eq hpend hval (by rwa [show c.r.sysOld = f.sys from hold])
    exact ⟨reads rfl rfl, reads rfl rfl, reads rfl rfl, reads rfl rfl, reads rfl rfl, reads rfl rfl, reads rfl rfl, reads rfl rfl,
      reads rfl rfl, reads rfl rfl, reads rfl rfl, reads rfl rfl, reads rfl rfl, reads rfl rfl, reads rfl rfl, reads rfl rfl,
      reads rfl rfl, reads rfl rfl, reads rfl rfl, reads rfl rfl⟩

end Sys2Proof.Machine
end

section
/-! PROOF of O22 and O23: MTSR, MTSRI and SEED (spec 10, R232, R235; 01, R31, R42). -/

namespace Sys2Proof.Machine
open Sys2Proof

/-! ### A write (R232, R42) -/

/-- The floe that a write of a system register leaves. -/
def Floe.sysWritten (f : Floe) (ix : Nat) (v : Word) : Floe :=
  let stored (y : Word) : Floe := { f with sysPend := f.sysPend.put ix y }
  if ix = 0x010 then stored (v &&& 0x7)
  else if ix = 0x011 then { f with sys := { f.sys with fpflags := f.sys.fpflags &&& ~~~(v.setWidth 5) } }
  else if ix = 0x020 then stored ((canonBound (v.setWidth 16)).setWidth 64)
  else if ix = 0x021 ∨ ix = 0x022 then stored (v &&& 0xF)
  else if ix = 0x023 then { f with sys := { f.sys with bsticky := f.sys.bsticky &&& ~~~(v.setWidth 5) } }
  else if ix = 0x030 ∨ ix = 0x031 ∨ ix = 0x032 then stored (v &&& 0xFFFFFFFF)
  else if ix = 0x100 then stored (v &&& 0xFFFFFFFFFFFF)
  else if ix = 0x101 then stored (v &&& 0x3FF)
  else if ix = 0x102 ∨ ix = 0x103 ∨ ix = 0x104 then stored v
  else if 0x090 ≤ ix ∧ ix < 0x098 then stored (v &&& 0xFF)
  else f

/-- The indices of the registers that a write keeps or clears, but for ACCOWN's (R42). -/
def ownIndices : List Nat := [0x010, 0x011, 0x020, 0x021, 0x022, 0x023, 0x030, 0x031, 0x032, 0x100, 0x101, 0x102, 0x103, 0x104]

theorem sysWrite_eq (c : Ctx) (ix : Nat) (v : Word) : sysWrite c ix v = { c with f := c.f.sysWritten ix v } := by
  by_cases hown : ix ∈ ownIndices
  · simp only [ownIndices, List.mem_cons, List.not_mem_nil, or_false] at hown
    rcases hown with rfl | rfl | rfl | rfl | rfl | rfl | rfl | rfl | rfl | rfl | rfl | rfl | rfl | rfl <;> rfl
  · simp only [ownIndices, List.mem_cons, List.not_mem_nil, or_false, not_or] at hown
    simp only [sysWrite, Floe.sysWritten, ixFpctl, ixFpflags, ixEbud, ixBmode, ixBguard, ixBsticky, ixSeedlo, ixSeedhi, ixSdstep, ixXpc,
      ixXcause, ixXmask, ixXaddr, ixXinfo, hown, or_self, if_false]
    split <;> rfl

/-- The writes that raise ILLEGAL_OPERAND, also where ACTIVE is empty (R42, R80). -/
def Ctx.BadWrite (c : Ctx) (ix : Nat) (v : Word) : Prop :=
  noAcc c ix = true ∨ handlerOnly ix = true ∧ c.f.handler = false ∨ ix = 0x021 ∧ v &&& 3 = 3

theorem badWrite_iff (c : Ctx) (ix : Nat) (v : Word) :
    c.BadWrite ix v ↔ (noAcc c ix || (handlerOnly ix && !c.handler) || (ix == ixBmode && v &&& 3 == 3)) = true := by
  simp [Ctx.BadWrite, Ctx.handler, ixBmode, or_assoc]

theorem sysWriteWord_bad {c : Ctx} {ix : Nat} {v : Word} (hbad : c.BadWrite ix v) : sysWriteWord c ix v = illegalOperand c :=
  if_pos ((badWrite_iff c ix v).mp hbad)

theorem sysWriteWord_good {c : Ctx} {ix : Nat} {v : Word} (hgood : ¬c.BadWrite ix v) :
    sysWriteWord c ix v = retire { c with f := if c.act = 0 then c.f else c.f.sysWritten ix v } := by
  rw [sysWriteWord, if_neg (mt (badWrite_iff c ix v).mpr hgood)]
  by_cases hact : c.act = 0
  · rw [if_pos hact, if_pos hact]
  · rw [if_neg hact, if_neg hact, sysWrite_eq]

/-- Settles O22: one write held back by a run governs from the next run on; a word's write is refused or leaves what its register
keeps. -/
theorem systemRegisterWrites : Obligations.SystemRegisterWrites := by
  unfold Obligations.SystemRegisterWrites
  refine ⟨?governs, ?writes⟩
  case governs =>
    intro f v after
    refine ⟨rfl, rfl, rfl, rfl, rfl, rfl, rfl, rfl, rfl, rfl, rfl, rfl, fun ix => ?_⟩
    obtain ⟨_, _, _, _, _, _, happly⟩ := applySys_differs { f with sysPend := [(ix, v)] }
    rw [show after ix = _ from happly]
    exact ⟨rfl, rfl, rfl, rfl, rfl⟩
  case writes =>
    intro h x a imm s w f r hissues c ix Writes
    have hwrites {i : Instr} {v : Word} (hexec : operandsOk s f i = true → exec i s = .next (sysWriteWord c ix v)) : Writes i v := by
      intro hok stored bad g
      rw [hexec hok]
      refine ⟨fun hbad => ?_, fun hgood => ?_⟩
      · rw [sysWriteWord_bad hbad]
        rfl
      · rw [sysWriteWord_good hgood]
        rfl
    exact ⟨hwrites fun hok => onWord_ok hissues hok h _, hwrites fun hok => onWord_ok hissues hok h _⟩

/-! ### SEED (R235) -/

theorem setWidth_low (z : Word) : (z &&& 0xFFFFFFFF).setWidth 32 = z.setWidth 32 := by
  rw [BitVec.setWidth_and]
  exact BitVec.and_allOnes

/-- The system registers that a run which has issued SEED alone leaves to the next (R31). -/
theorem applySys_seed {f : Floe} (hpend : f.sysPend = []) (x y : Word) :
    ({ f with sysPend := ((f.sysPend.put 0x030 (x &&& 0xFFFFFFFF)).put 0x031 (x >>> 32)).put 0x032 (y &&& 0xFFFFFFFF) } : Floe).applySys.sys =
      { f.sys with seedlo := x.setWidth 32, seedhi := (x >>> 32).setWidth 32, sdstep := y.setWidth 32 } := by
  rw [hpend, ← setWidth_low x, ← setWidth_low y]
  rfl

/-- Bits of a word, shifted down or taken out. -/
theorem setWidth_ushiftRight_eq_bitsAt (x : Word) (lo len : Nat) : (x >>> lo).setWidth len = Sys2Proof.bitsAt x lo len := by
  ext i hi
  simp [Sys2Proof.bitsAt]

/-- The fields of an F word (R95). -/
theorem encF_fields {op : BitVec 9} {h : Hdr} {mod : BitVec 8} {d a b c : BitVec 10} {word : Word}
    (hword : encF op h mod d a b c = some word) :
    (word >>> 61).setWidth 2 = 0#2 ∧ (word >>> 52).setWidth 9 = op ∧ (word >>> 40).setWidth 8 = mod := by
  obtain ⟨hform, hfields⟩ := FWord.pack_eq_iff.mp (Option.some.inj hword)
  simp only [setWidth_ushiftRight_eq_bitsAt]
  exact ⟨hform.symm, congrArg FWord.op hfields, congrArg FWord.mod hfields⟩

/-- Settles O23: SEED's three writes take place together, and its word has the fields of its row. -/
theorem seedWord : Obligations.SeedWord := by
  unfold Obligations.SeedWord
  intro h a b s w f r hissues hok c x y kept
  have hexec : exec (.seed h a b) s = .next (retire (c.once _)) := onRegs_ok hissues hok h _
  refine ⟨fun hact => ?_, fun hact => ⟨?_, fun hpend => ?_⟩, fun word hword => encF_fields hword⟩
  · rw [hexec, once_idle hact]
    rfl
  · rw [hexec, once_busy hact]
    rfl
  · exact applySys_seed hpend x y

end Sys2Proof.Machine
end

section
/-! REFUTATION of O40: CPYCAN may write the image of a saved pack in memory (spec 10, R225; 19, R366). -/

namespace Sys2Proof.Machine
open Sys2Proof

/-- A lane of ACTIVE issues the word that refutes O42. -/
theorem cancelWord_busy : activeOf cancelIssue dataFloeRuns dataRun ⟨true, false, 0⟩ ≠ 0 := by decide +kernel

/-- It leaves another value in memory than it has found. -/
theorem cancelWord_moves_memory {t : State} (hexec : exec cancelWord cancelState = .next t) : ¬SameMemory cancelState t := by
  rintro ⟨hmem, -, -⟩
  obtain ⟨hwrites, hbefore⟩ := cancelWord_writes
  rw [hexec] at hwrites
  have hafter : t.byte statusByte = 6 := eq_of_beq hwrites
  have hsame : t.byte statusByte = cancelState.byte statusByte := congrArg (Tbl.getD · statusByte memDefault) hmem
  rw [hafter, hbefore] at hsame
  exact absurd hsame (by decide)

/-- Refutes O40: CPYCAN of queue 0 ends the request of a saved pack that an earlier CPYCAN has marked, and writes STATE 6 to its STATUS,
which stands in memory (R366); the statement has memory stay as it was. -/
theorem not_latchWords : ¬ Obligations.LatchWords := by
  unfold Obligations.LatchWords
  intro h
  obtain ⟨hlegal, hqueue⟩ := cancelWord_legal
  obtain ⟨p, hpack⟩ : ∃ p, cancelState.packs.find? dataFloeRuns.pack = some p := ⟨_, rfl⟩
  obtain ⟨-, -, hcancel⟩ := h.2 ⟨true, false, 0⟩ 0 .core 0 0 0 0 cancelState cancelIssue dataFloeRuns dataRun p cancelState_issues
    cancelWord_busy hpack
  obtain ⟨t, hexec, ⟨-, hmemory⟩, -⟩ := hcancel (by omega) hlegal
  exact cancelWord_moves_memory hexec hmemory

end Sys2Proof.Machine
end

section
/-! PROOF of O24: FRSAVE and FRLOAD (spec 10, R231, R237; 15, R313; 08, R174). -/

namespace Sys2Proof.Machine
open Sys2Proof

/-! ### An access whose word notes something beside its floe's registers (R237, R239) -/

/-- What a word may note in its floe when it issues an access: what the device keeps beside a record. -/
def NotesKept (note : Floe → Floe) : Prop := ∀ f, ∃ kept, note f = { f with kept := kept }

/-- A word whose meaning, where its checks pass, is to note something and to issue a request. -/
theorem issuesAccessAs_of_passes {g : Agent} {note : Floe → Floe} {i : Instr} {h : Hdr} {rule : AccRule}
    {las : Ctx → List ((Nat × Word) × Nat)} {req : Ctx → List LaneCheck → Req} {ok : Ctx → Prop} {meaning : Ctx → State}
    (hnote : NotesKept note) (hexec : ∀ s, exec i s = onWord i h s meaning)
    (hmeaning : ∀ c p s' cks, ok c → Passes c rule (las c) p s' cks g →
      meaning c = retire (({ c with s := s', f := note c.f } : Ctx).issue (req c cks))) :
    IssuesAccessAs g note i h rule las req (fun _ _ => 0) ok := by
  intro s w f r p s' cks hissues hoperands c x again hok hpasses htodo
  have hlooks := hpasses.looksUp
  obtain ⟨kept, hkept⟩ := hnote f
  have hend : meaning c = _ := hmeaning c p s' cks hok hpasses
  rw [show note c.f = { f with kept := kept } from hkept, issue_eq _ htodo, retire_stick_zero, stick_stuck] at hend
  refine ⟨({ c with s := s', f := { f with kept := kept } } : Ctx).issued x, nextRun w r h.s, ?_, rfl, rfl, rfl, rfl, hlooks.sameMemory,
    hlooks.floes, hlooks.pend, rfl, rfl, rfl, rfl, rfl, rfl, rfl, rfl, rfl, rfl, rfl, rfl, rfl, rfl⟩
  rw [hexec, onWord_ok hissues hoperands]
  refine congrArg Host.Outcome.next (hend.trans ?_)
  dsimp only
  rw [stuck_replayed, hkept]
  rfl

/-! ### The checks of the two words (R237, R174) -/

/-- FRSAVE and FRLOAD before their access: handler mode, ACTIVE, and the alignment of the base. -/
def recordWord (a : SReg) (access : Ctx → State) (c : Ctx) : State :=
  if !c.handler then illegalOperand c
  else if c.act = 0 then retire c
  else if (c.sr .a a).toNat % 256 ≠ 0 then trapAt c 0x22 c.act (c.sr .a a) c.word
  else access c

theorem exec_recordWord {h : Hdr} {a : SReg} {i : Instr} (hi : i ∈ [Instr.frsave h a, .frload h a]) :
    ∃ access, ∀ s, exec i s = onWord i h s (recordWord a access) := by
  simp only [List.mem_cons, List.not_mem_nil, or_false] at hi
  rcases hi with rfl | rfl
  · exact ⟨_, fun _ => rfl⟩
  · exact ⟨_, fun _ => rfl⟩

section
variable {a : SReg} {access : Ctx → State} {c : Ctx}

theorem recordWord_outside (hmode : c.f.handler = false) : recordWord a access c = illegalOperand c :=
  if_pos (by rw [Ctx.handler, hmode]; rfl)

theorem recordWord_handling (hmode : c.f.handler = true) : recordWord a access c =
    if c.act = 0 then retire c
    else if (c.sr .a a).toNat % 256 ≠ 0 then trapAt c 0x22 c.act (c.sr .a a) c.word
    else access c :=
  if_neg (by rw [Ctx.handler, hmode]; decide)

theorem recordWord_idle (hmode : c.f.handler = true) (hidle : c.act = 0) : recordWord a access c = retire c :=
  (recordWord_handling hmode).trans (if_pos hidle)

theorem recordWord_misaligned (hmode : c.f.handler = true) (hbusy : c.act ≠ 0) (hbase : (c.sr .a a).toNat % 256 ≠ 0) :
    recordWord a access c = trapAt c 0x22 c.act (c.sr .a a) c.word :=
  (recordWord_handling hmode).trans ((if_neg hbusy).trans (if_pos hbase))

theorem recordWord_issues (hmode : c.f.handler = true) (hbusy : c.act ≠ 0) (hbase : (c.sr .a a).toNat % 256 = 0) :
    recordWord a access c = access c :=
  (recordWord_handling hmode).trans ((if_neg hbusy).trans (if_neg (not_not.mpr hbase)))

end

/-- R231: outside handler mode RFT is refused too. -/
theorem exec_rft_outside {s : State} {w : Issue} {f : Floe} {r : Run} {h : Hdr} (hissues : Issues s w f r) (hmode : f.handler = false)
    (hok : operandsOk s f (.rft h) = true) : exec (.rft h) s = .next (wordTraps s w f r (issueTrap w r 0x02)) :=
  (onWord_ok hissues hok h _).trans (congrArg _ (if_pos (by rw [Ctx.handler, ctxOf_f, hmode]; rfl)))

/-- Settles O24: outside handler mode the words are refused, with ACTIVE empty they pass, and past the alignment of their base they issue
the access to the record's parts. -/
theorem floeRecordWords : Obligations.FloeRecordWords := by
  unfold Obligations.FloeRecordWords
  refine ⟨?outside, ?busy, ?idle⟩
  case outside =>
    intro h a s w f r hissues hmode i hi hok
    rcases List.mem_cons.mp hi with rfl | hi
    · exact exec_rft_outside hissues hmode hok
    · obtain ⟨access, hexec⟩ := exec_recordWord hi
      rw [hexec, onWord_ok hissues hok, recordWord_outside hmode]
      rfl
  case busy =>
    intro h a ok lengths loads
    refine ⟨?save, ?load, ?misaligned⟩
    case save =>
      refine issuesAccessAs_of_passes (meaning := recordWord a _) (fun _ => ⟨_, rfl⟩) (fun _ => rfl)
        fun c p s' cks ⟨hmode, hbusy, hbase⟩ hpasses => ?_
      refine (recordWord_issues hmode hbusy hbase).trans ?_
      exact accessN_passes hpasses _
    case load =>
      refine issuesAccessAs_of_passes (meaning := recordWord a _) (fun f => ⟨f.kept, rfl⟩) (fun _ => rfl)
        fun c p s' cks ⟨hmode, hbusy, hbase⟩ hpasses => ?_
      refine (recordWord_issues hmode hbusy hbase).trans ?_
      exact accessN_passes hpasses _
    case misaligned =>
      intro s w f r hissues hmode hbusy base hbase i hi hok
      obtain ⟨access, hexec⟩ := exec_recordWord hi
      rw [hexec, onWord_ok hissues hok, recordWord_misaligned hmode hbusy hbase]
      rfl
  case idle =>
    intro h a s w f r hissues hmode hidle i hi hok
    obtain ⟨access, hexec⟩ := exec_recordWord hi
    rw [hexec, onWord_ok hissues hok, recordWord_idle hmode hidle]
    rfl

end Sys2Proof.Machine
end

section
/-! SUPPORT. The checks of a row instruction's ranges (spec 10, R227): what they find where none of them fails. -/

namespace Sys2Proof.Machine
open Sys2Proof

/-! ### Pages of one range -/

/-- What a fold has at the end of a list, where each step goes on from the list so far. -/
theorem foldl_of_concat {α β : Type} {f : β → α → β} {P : List α → β → Prop} {b : β} (hnil : P [] b)
    (hstep : ∀ l b e, P l b → P (l ++ [e]) (f b e)) (l : List α) : P l (l.foldl f b) := by
  induction l using List.reverseRecOn with
  | nil => exact hnil
  | append_singleton l e ih =>
    rw [List.foldl_concat]
    exact hstep l _ e ih

/-- Which pages are denied does not depend on what has been looked up. -/
theorem LooksUp.leafDenied_eq {s t : State} (h : LooksUp s t) (handler : Bool) (r : AccRule) (leaf : Word) (pa : Nat) :
    leafDenied t handler r leaf pa = leafDenied s handler r leaf pa := by
  obtain ⟨_, _, _, rfl⟩ := h
  rfl

/-- A check that finds no PROTECTION has met canonical addresses and allowed pages only (R174). -/
def Unprotected (s : State) (handler : Bool) (r : AccRule) (parts : List (Nat × Word × Nat)) (ck : LaneCheck) : Prop :=
  ck.prot = false → (∀ e ∈ parts, canonical e.2.1 = true) ∧ ∀ q ∈ ck.pieces, leafDenied s handler r q.leaf q.pa = false

theorem checkLane_unprotected (core : Nat) (ctx : BitVec 8) (root : Nat) (handler : Bool) (r : AccRule) (n : Nat) (s : State)
    (la : Nat × Word) (g : Agent) (ser : Bool) :
    Unprotected s handler r (pageParts (n / 65536 + 2) 0 la.2 n) (checkLane core ctx root handler r n s la g ser).2 := by
  unfold checkLane
  refine (foldl_of_concat (P := fun l (x : State × LaneCheck) => LooksUp s x.1 ∧ Unprotected s handler r l x.2) ⟨.refl s, ?_⟩ ?_ _).2
  · exact fun _ => ⟨fun _ he => absurd he List.not_mem_nil, fun _ hq => absurd hq List.not_mem_nil⟩
  · rintro l ⟨u, ck⟩ e ⟨hlooks, hparts⟩
    dsimp only at hlooks hparts ⊢
    split
    · exact ⟨hlooks, nofun⟩
    · rename_i hcanonical
      have hcanonical : canonical e.2.1 = true := by simpa using hcanonical
      have happend (h : ∀ x ∈ l, canonical x.2.1 = true) : ∀ x ∈ l ++ [e], canonical x.2.1 = true := by
        simpa [or_imp, forall_and, hcanonical] using h
      generalize hl : u.lookup g core ctx root e.2.1 _ = y
      have hlooked : LooksUp u y.1 := hl ▸ lookup_looksUp ..
      obtain ⟨v, res⟩ := y
      cases res with
      | miss level bad =>
        refine ⟨hlooks.trans hlooked, fun hprot => ?_⟩
        obtain ⟨hall, hpieces⟩ := hparts hprot
        exact ⟨happend hall, hpieces⟩
      | ok pa leaf exp =>
        refine ⟨hlooks.trans hlooked, fun hprot => ?_⟩
        obtain ⟨hbefore, hallowed⟩ := Bool.or_eq_false_iff.mp hprot
        obtain ⟨hall, hpieces⟩ := hparts hbefore
        rw [(hlooks.trans hlooked).leafDenied_eq] at hallowed
        refine ⟨happend hall, fun q hq => ?_⟩
        rcases List.mem_append.mp hq with hq | hq
        · exact hpieces q hq
        · rw [List.mem_singleton.mp hq]
          exact hallowed

/-! ### The ranges -/

/-- The parts of a range that lie in one page each. -/
def RowRange.parts (y : RowRange) : List (Nat × Word × Nat) := pageParts (y.rows * rowLen / 65536 + 2) 0 y.base (y.rows * rowLen)

/-- What a row instruction asks of the memory of a range. -/
def RowRange.rule (y : RowRange) : AccRule := ⟨y.dst, 1, none, false⟩

/-- The check of a range. -/
def Ctx.checkRange (c : Ctx) (p : Pack) (s : State) (y : RowRange) : State × LaneCheck :=
  checkLane c.core c.f.ctx (c.s.rootOf p) c.f.handler y.rule (y.rows * rowLen) s (64, y.base) .words true

/-- A range is looked up, and its check stands after those before it. -/
def Ctx.checkRow (c : Ctx) (p : Pack) (z : State × List LaneCheck) (y : RowRange) : State × List LaneCheck :=
  ((c.checkRange p z.1 y).1, z.2 ++ [(c.checkRange p z.1 y).2])

/-- The checks of the ranges in their order, with what their walks have cached. -/
def Ctx.checkRows (c : Ctx) (p : Pack) (rs : List RowRange) : State × List LaneCheck := rs.foldl (c.checkRow p) (c.s, [])

theorem checkRows_length (c : Ctx) (p : Pack) (rs : List RowRange) : (c.checkRows p rs).2.length = rs.length :=
  foldl_of_concat (P := fun l (x : State × List LaneCheck) => x.2.length = l.length) rfl
    (fun _ _ _ h => by simp [Ctx.checkRow, h]) rs

theorem checkRows_looksUp (c : Ctx) (p : Pack) (rs : List RowRange) : LooksUp c.s (c.checkRows p rs).1 :=
  LooksUp.foldl_fst (β := List LaneCheck) (fun _ _ => checkLane_looksUp ..) rs (c.s, [])

/-- The same with the range beside its check, as the model keeps them. -/
def Ctx.zipRow (c : Ctx) (p : Pack) (z : State × List (RowRange × LaneCheck)) (y : RowRange) : State × List (RowRange × LaneCheck) :=
  ((c.checkRange p z.1 y).1, z.2 ++ [(y, (c.checkRange p z.1 y).2)])

theorem checkRange_unprotected (c : Ctx) (p : Pack) {s : State} (hlooks : LooksUp c.s s) (y : RowRange) :
    Unprotected c.s c.f.handler y.rule y.parts (c.checkRange p s y).2 := by
  intro hprot
  obtain ⟨hcanonical, hpieces⟩ := checkLane_unprotected _ _ _ _ _ _ _ _ _ _ hprot
  refine ⟨hcanonical, fun q hq => ?_⟩
  rw [← hlooks.leafDenied_eq]
  exact hpieces q hq

theorem zipRows_spec (c : Ctx) (p : Pack) (rs : List RowRange) :
    let x := rs.foldl (c.zipRow p) (c.s, [])
    x.1 = (c.checkRows p rs).1 ∧ x.2.map (·.2) = (c.checkRows p rs).2 ∧
      ∀ e ∈ x.2, Unprotected c.s c.f.handler e.1.rule e.1.parts e.2 := by
  refine foldl_of_concat (P := fun l (x : State × List (RowRange × LaneCheck)) =>
    x.1 = (c.checkRows p l).1 ∧ x.2.map (·.2) = (c.checkRows p l).2 ∧ ∀ e ∈ x.2, Unprotected c.s c.f.handler e.1.rule e.1.parts e.2)
    ⟨rfl, rfl, fun _ he => absurd he List.not_mem_nil⟩ ?_ rs
  rintro l ⟨u, cks⟩ y ⟨hstate, hchecks, hall⟩
  dsimp only at hstate hchecks hall ⊢
  subst hstate
  have hnext : c.checkRows p (l ++ [y]) = c.checkRow p (c.checkRows p l) y := List.foldl_concat ..
  rw [hnext]
  refine ⟨rfl, by rw [Ctx.zipRow, List.map_append, hchecks]; rfl, fun e he => ?_⟩
  rcases List.mem_append.mp he with he | he
  · exact hall e he
  · rw [List.mem_singleton.mp he]
    exact checkRange_unprotected c p (checkRows_looksUp c p l) y

/-- A check of a range finds no fault: no PROTECTION, no page without a translation, and Serac pages only (R227, steps 4 to 6). -/
def RowsFine (k : LaneCheck) : Prop := k.prot = false ∧ k.miss = [] ∧ ∀ q ∈ k.pieces, pteSer q.leaf = true

/-- Where the checks of the ranges find no fault and no lane is denied, the operation goes on with its rows. -/
theorem onRows_fine {c : Ctx} {p : Pack} {rs : List RowRange} (hfree : c.r.denied &&& c.act = 0)
    (hfine : ∀ k ∈ (c.checkRows p rs).2, RowsFine k) (k : Ctx → List LaneCheck → List (List (Nat × Bool)) → State) :
    c.onRows p rs k = k { c with s := (c.checkRows p rs).1 } (c.checkRows p rs).2 ((c.checkRows p rs).2.map rowsOf) := by
  obtain ⟨hstate, hchecks, hall⟩ := zipRows_spec c p rs
  unfold Ctx.onRows
  dsimp only
  generalize hzip : rs.foldl _ _ = x
  rw [show rs.foldl (c.zipRow p) (c.s, []) = x from hzip] at hstate hchecks hall
  clear hzip
  obtain ⟨u, cks⟩ := x
  dsimp only at hstate hchecks hall ⊢
  subst hstate
  have hlooks := checkRows_looksUp c p rs
  have hrange : ∀ e ∈ cks, RowsFine e.2 := fun e he => hfine e.2 (hchecks ▸ List.mem_map_of_mem he)
  have hallowed : ∀ x ∈ cks.flatMap fun e => (e.1.parts.map fun q => (e, q)), canonical x.2.2.1 = true ∧
      ∀ q ∈ x.1.2.pieces, leafDenied (c.checkRows p rs).1 c.f.handler x.1.1.rule q.leaf q.pa = false ∧ pteSer q.leaf = true := by
    intro x hx
    obtain ⟨e, he, hx⟩ := List.mem_flatMap.mp hx
    obtain ⟨q, hq, rfl⟩ := List.mem_map.mp hx
    obtain ⟨hprot, -, hser⟩ := hrange e he
    obtain ⟨hcanonical, hpieces⟩ := hall e he hprot
    refine ⟨hcanonical q hq, fun y hy => ⟨?_, hser y hy⟩⟩
    rw [hlooks.leafDenied_eq]
    exact hpieces y hy
  have hmiss : (cks.all fun e => e.2.miss.isEmpty) = true :=
    List.all_eq_true.mpr fun e he => by simp [(hrange e he).2.1]
  rw [if_neg (not_not.mpr hfree)]
  split
  next x hfound =>
    have hdenied := List.find?_some hfound
    obtain ⟨hcanonical, hpieces⟩ := hallowed x (List.mem_of_find?_eq_some hfound)
    simp only [hcanonical, Bool.not_true, Bool.false_or] at hdenied
    split at hdenied
    next q hq => exact absurd (hdenied.symm.trans (hpieces q (List.mem_of_find?_eq_some hq)).1) (by decide)
    next => cases hdenied
  next x _ hfound =>
    have hplain := List.find?_some hfound
    obtain ⟨-, hpieces⟩ := hallowed x (List.mem_of_find?_eq_some hfound)
    split at hplain
    next q hq =>
      rw [(hpieces q (List.mem_of_find?_eq_some hq)).2] at hplain
      cases hplain
    next => cases hplain
  next =>
    rw [if_pos hmiss, ← hchecks, List.map_map]
    rfl

end Sys2Proof.Machine
end

section
/-! PROOF of O41: ROWSTAT and the row instructions (spec 10, R226 to R229). -/

namespace Sys2Proof.Machine
open Sys2Proof

/-! ### ROWSTAT (R229) -/

/-- The counter that ROWSTAT names. -/
def statIndex (v : Word) : Fin 4 := ⟨v.toNat % 4, Nat.mod_lt _ (by decide)⟩

theorem exec_rowstat {s : State} {w : Issue} {f : Floe} {r : Run} {h : Hdr} {d a : SReg} (hissues : Issues s w f r)
    (hok : operandsOk s f (.rowstat h d a) = true) (hbusy : activeOf w f r h ≠ 0) :
    let c := ctxOf s w f r h
    let v := c.sr .a a
    exec (.rowstat h d a) s = .next (
      if v &&& ~~~(0x103 : Word) ≠ 0 then illegalShape c
      else
        let g := (c.setS d f.rowstat[statIndex v]).f
        retire { c.setS d f.rowstat[statIndex v] with
          f := if v.getLsbD 8 then { g with rowstat := g.rowstat.set (statIndex v) 0 } else g }) := by
  intro c v
  refine (onWord_ok hissues hok h _).trans (congrArg Host.Outcome.next ?_)
  dsimp only
  rw [once_busy hbusy]
  rfl

theorem rowstat_reads {s : State} {w : Issue} {f : Floe} {r : Run} {h : Hdr} {d a : SReg} (hissues : Issues s w f r)
    (hok : operandsOk s f (.rowstat h d a) = true) (hbusy : activeOf w f r h ≠ 0)
    (hfields : (ctxOf s w f r h).sr .a a &&& ~~~(0x103 : Word) = 0) :
    let v := (ctxOf s w f r h).sr .a a
    ∃ x q, exec (.rowstat h d a) s = .next (wordDone s w { f with
        s := x, run := some q, rowstat := if v.getLsbD 8 then f.rowstat.set (statIndex v) 0 else f.rowstat }) ∧
      RunMoves w r q h.s ∧ UniformWritten f r x d f.rowstat[statIndex v] := by
  intro v
  obtain ⟨x, old, hset, hregs⟩ := setS_eq (ctxOf s w f r h) d f.rowstat[statIndex v]
  refine ⟨x, nextRun w { r with sOld := old } h.s, ?_, rfl, hregs⟩
  rw [exec_rowstat hissues hok hbusy, if_neg (not_not.mpr hfields), hset]
  refine congrArg Host.Outcome.next ?_
  dsimp only
  by_cases hclear : v.getLsbD 8 = true
  · rw [if_pos hclear, if_pos hclear]
    rfl
  · rw [if_neg hclear, if_neg hclear]
    rfl

/-! ### The control word (R226) -/

theorem bitsAt_high (x : Word) : bitsAt x.toNat 40 24 = x.toNat / 2 ^ 40 :=
  Nat.mod_eq_of_lt (Nat.div_lt_of_lt_mul x.isLt)

/-- A control word with no reserved bit set and a number of rows. -/
def ControlOk (ctl : Word) : Prop := ctl.toNat % 2 ^ 12 ≠ 0 ∧ ctl.toNat / 2 ^ 12 % 16 = 0 ∧ ctl.toNat / 2 ^ 40 = 0

theorem controlOk_iff (ctl : Word) :
    ControlOk ctl ↔ ¬(bitsAt ctl.toNat 40 24 ≠ 0 ∨ bitsAt ctl.toNat 12 4 ≠ 0 ∨ bitsAt ctl.toNat 0 12 = 0) := by
  rw [bitsAt_high, bitsAt_zero, show bitsAt ctl.toNat 12 4 = ctl.toNat / 2 ^ 12 % 16 from rfl, ControlOk]
  tauto

/-- The rows that a control word names. -/
def ctlRows (ctl : Word) : Nat := ctl.toNat % 2 ^ 12
/-- The object that a control word names. -/
def ctlObj (ctl : Word) : Nat := ctl.toNat / 2 ^ 16 % 2 ^ 24

/-! ### The checks of a row instruction in their order (R227) -/

/-- The destination and the sources of a row instruction. -/
def dstRange (op : RowOp) (d ctl : Word) : RowRange := ⟨d, if op = .rdx then 1 else ctlRows ctl, true⟩
def srcRanges (srcs : List Word) (ctl : Word) : List RowRange := srcs.map fun a => ⟨a, ctlRows ctl, false⟩

/-- The operation that a row instruction forks, from the checks and the rows of its ranges (R228). -/
def forkedRows (p : Pack) (op : RowOp) (pattern ctl : Word) (c : Ctx) (cks : List LaneCheck) (rows : List (List (Nat × Bool))) : Serac :=
  let at_ (i : Nat) : List Nat := (rows.getD i []).map (·.1)
  let tag (i : Nat) : List Bool := (rows.getD i []).map (·.2)
  { id := c.s.fresh, born := c.s.hub.firn.toNat, exp := minExp cks, floe := c.key, findex := c.f.findex, pack := p.id, ctx := c.f.ctx
    op := op, n := ctlRows ctl, pattern := pattern, dRows := at_ 0, aRows := at_ 1, bRows := at_ 2, eRows := at_ 3, dTagged := tag 0
    aTagged := tag 1, bar := ctlObj ctl, forked := false, todo := List.range (if op = .rdx then ctlRows ctl + 1 else ctlRows ctl)
    accum := [], accPoison := 0, paths := Vector.replicate 4 0, fork := ⟨c.key, c.f.seq, c.num, c.act⟩ }

/-- The word that forks it has issued. -/
def forkRows (p : Pack) (op : RowOp) (pattern ctl : Word) (c : Ctx) (cks : List LaneCheck) (rows : List (List (Nat × Bool))) : State :=
  retire { c with s := { c.s with seracs := c.s.seracs ++ [forkedRows p op pattern ctl c cks rows], fresh := c.s.fresh + 1 } }

section
variable {c : Ctx} {op : RowOp} {d pattern : Word} {srcs : List Word} {ctl : Word}

theorem rowWord_shape (hbad : ¬ControlOk ctl) : rowWord c op d pattern srcs ctl = trapAt c 0x03 c.act 0 c.word :=
  if_pos (not_not.mp (mt (controlOk_iff ctl).mpr hbad))

variable (hctl : ControlOk ctl) (hbusy : c.act ≠ 0)
include hctl hbusy

/-- Past its control word, a row instruction checks the alignment of its ranges. -/
theorem rowWord_misaligned {a : Word} {sub : Nat} (halign : serAlign op (dstRange op d ctl) (srcRanges srcs ctl) = some (a, sub)) :
    rowWord c op d pattern srcs ctl = trapAt c 0x23 c.act a (BitVec.ofNat 64 sub) := by
  rw [dstRange, srcRanges, ctlRows, ← bitsAt_zero] at halign
  rw [rowWord, if_neg ((controlOk_iff ctl).mp hctl), if_neg hbusy]
  dsimp only
  rw [halign]

variable (halign : serAlign op (dstRange op d ctl) (srcRanges srcs ctl) = none) {p : Pack} {b : BarObj}
  (hobj : GoodObj c p (BitVec.ofNat 64 (ctlObj ctl)) b)
include halign hobj

/-- Then the scope of its object, and then the pages of its ranges. -/
theorem rowWord_aligned : rowWord c op d pattern srcs ctl =
    if b.scope < 3 then trapAt c 0x32 c.act (BitVec.ofNat 64 (ctlObj ctl)) 7
    else c.onRows p (dstRange op d ctl :: srcRanges srcs ctl) (forkRows p op pattern ctl) := by
  unfold forkRows forkedRows
  rw [dstRange, srcRanges, ctlRows, ← bitsAt_zero] at halign ⊢
  rw [rowWord, if_neg ((controlOk_iff ctl).mp hctl), if_neg hbusy]
  dsimp only
  rw [halign]
  exact onObj_good hbusy hobj _

theorem rowWord_narrow (hscope : b.scope < 3) :
    rowWord c op d pattern srcs ctl = trapAt c 0x32 c.act (BitVec.ofNat 64 (ctlObj ctl)) 7 :=
  (rowWord_aligned hctl hbusy halign hobj).trans (if_pos hscope)

theorem rowWord_forks (hscope : ¬b.scope < 3) (hfree : c.r.denied &&& c.act = 0)
    (hfine : ∀ k ∈ (c.checkRows p (dstRange op d ctl :: srcRanges srcs ctl)).2, RowsFine k) :
    let x := c.checkRows p (dstRange op d ctl :: srcRanges srcs ctl)
    rowWord c op d pattern srcs ctl = forkRows p op pattern ctl { c with s := x.1 } x.2 (x.2.map rowsOf) :=
  (rowWord_aligned hctl hbusy halign hobj).trans ((if_neg hscope).trans (onRows_fine hfree hfine _))

end

/-- The rows of up to four ranges, one range after the other. -/
theorem getD_append_four {α : Type} {rows : List (List α)} (h : rows.length ≤ 4) :
    rows.getD 0 [] ++ rows.getD 1 [] ++ rows.getD 2 [] ++ rows.getD 3 [] = rows.flatten := by
  match rows, h with
  | [], _ => rfl
  | [a], _ => simp
  | [a, b], _ => simp
  | [a, b, c], _ => simp
  | [a, b, c, d], _ => simp

theorem forkedRows_rows (p : Pack) (op : RowOp) (pattern ctl : Word) (c : Ctx) {cks : List LaneCheck} (h : cks.length ≤ 4) :
    let y := forkedRows p op pattern ctl c cks (cks.map rowsOf)
    y.dRows ++ y.aRows ++ y.bRows ++ y.eRows = cks.flatMap fun k => (rowsOf k).map (·.1) := by
  have hrows := congrArg (List.map Prod.fst) (getD_append_four (rows := cks.map rowsOf) (by simpa using h))
  simp only [List.map_append, ← List.flatMap_def, List.map_flatMap] at hrows
  exact hrows

/-- Settles O41: ROWSTAT reads its counter, and a row instruction's checks come in R227's order, its operation with the rows that they
have found. -/
theorem rowWords : Obligations.RowWords := by
  unfold Obligations.RowWords
  refine ⟨?stat, ?rows⟩
  case stat =>
    intro h d a s w f r hissues hok hbusy v i
    refine ⟨fun hfields => ?_, fun hfields => rowstat_reads hissues hok hbusy hfields⟩
    rw [exec_rowstat hissues hok hbusy, if_pos hfields]
    rfl
  case rows =>
    intro h d a b e s w f r p x hissues hpack c ctl n bar D A B Forks
    have hforks {i : Instr} {op : RowOp} {srcs : List Word} {pattern : Word} (count : Fin 4) (hsrcs : srcs.length = count)
        (hexec : operandsOk s f i = true → exec i s = .next (rowWord c op D pattern srcs (c.sr .c e))) : Forks i op srcs pattern := by
      intro hok dst from_ chk
      rw [hexec hok]
      refine ⟨fun hbad => ?_, fun hbusy hn hmid hhigh => ⟨fun y k halign => ?_, fun halign hobj =>
        ⟨fun hscope => ?_, fun hscope hfree hfine => ?_⟩⟩⟩
      · rw [rowWord_shape fun ⟨hn, hmid, hhigh⟩ => hbad.elim hn (Or.rec (absurd hmid) (absurd hhigh))]
        rfl
      · rw [rowWord_misaligned ⟨hn, hmid, hhigh⟩ hbusy halign]
        rfl
      · rw [rowWord_narrow ⟨hn, hmid, hhigh⟩ hbusy halign hobj hscope]
        rfl
      · have hlength : (c.checkRows p (dst :: from_)).2.length ≤ 4 := by
          rw [checkRows_length, List.length_cons, List.length_map, hsrcs]
          exact count.isLt
        rw [rowWord_forks ⟨hn, hmid, hhigh⟩ hbusy halign hobj (not_lt.mpr hscope) hfree hfine]
        exact ⟨forkedRows p op pattern (c.sr .c e) { c with s := chk.1 } chk.2 (chk.2.map rowsOf), rfl, rfl, rfl, rfl, rfl, rfl, rfl, rfl,
          rfl, rfl, forkedRows_rows p op pattern _ _ hlength⟩
    exact ⟨hforks 1 rfl fun hok => onWord_ok hissues hok h _, hforks 0 rfl fun hok => onWord_ok hissues hok h _,
      hforks 2 rfl fun hok => onWord_ok hissues hok h _, hforks 2 rfl fun hok => onWord_ok hissues hok h _,
      hforks 2 rfl fun hok => onWord_ok hissues hok h _, hforks 1 rfl fun hok => onWord_ok hissues hok h _,
      hforks 3 rfl fun hok => onWord_ok hissues hok h _, hforks 1 rfl fun hok => onWord_ok hissues hok h _⟩

end Sys2Proof.Machine
end

section
/-! SUPPORT. What leaves memory, bound tags and poison marks as they are: nearly every operation of the model. -/
namespace Sys2Proof.Machine
open Sys2Proof

/-- The part of the state that `State.wf` speaks of. -/
def State.memory (s : State) : Tbl Byte × Tbl Word × Tbl Bool := (s.mem, s.tags, s.poison)

theorem memory_update (s : State)
    (floes packs cores dies hbms hub pend fences copies drains seracs writes outside early agenda upsets issue issuing
    fresh) :
    State.memory ⟨s.mem, s.tags, s.poison, floes, packs, cores, dies, hbms, hub, pend, fences, copies, drains, seracs,
      writes, outside, early, agenda, upsets, issue, issuing, fresh⟩ = s.memory :=
  rfl

theorem foldl_memory {α : Type} {f : State → α → State} (hf : ∀ s e, (f s e).memory = s.memory) (l : List α)
    (s : State) : (l.foldl f s).memory = s.memory :=
  List.foldlRecOn (motive := fun t => t.memory = s.memory) l f rfl fun t h e _ =>
    (hf t e).trans h

theorem foldl_fst_memory {α β : Type} {f : State × β → α → State × β} (hf : ∀ x e, (f x e).1.memory = x.1.memory)
    (l : List α) (x : State × β) : (l.foldl f x).1.memory = x.1.memory :=
  List.foldlRecOn (motive := fun y => y.1.memory = x.1.memory) l f rfl fun y h e _ =>
    (hf y e).trans h

theorem foldl_s_memory {α : Type} {f : Ctx → α → Ctx} (hf : ∀ c e, (f c e).s.memory = c.s.memory) (l : List α)
    (c : Ctx) : (l.foldl f c).s.memory = c.s.memory :=
  List.foldlRecOn (motive := fun t => t.s.memory = c.s.memory) l f rfl fun t h e _ =>
    (hf t e).trans h

theorem foldl_fst_s_memory {α β : Type} {f : Ctx × β → α → Ctx × β} (hf : ∀ x e, (f x e).1.s.memory = x.1.s.memory)
    (l : List α) (x : Ctx × β) : (l.foldl f x).1.s.memory = x.1.s.memory :=
  List.foldlRecOn (motive := fun y => y.1.s.memory = x.1.s.memory) l f rfl fun y h e _ =>
    (hf y e).trans h

theorem SameMemory.memory {s t : State} (h : SameMemory s t) : t.memory = s.memory := by
  obtain ⟨hm, ht, hp⟩ := h
  simp only [State.memory, hm, ht, hp]

/-! ### Parts of the state -/

theorem setCore_memory (s c x) : (State.setCore s c x).memory = s.memory := (setCore_sameMemory ..).memory

theorem setDie_memory (s d x) : (State.setDie s d x).memory = s.memory := (setDie_sameMemory ..).memory

theorem setStack_memory (s n x) : (State.setStack s n x).memory = s.memory := (setStack_sameMemory ..).memory

theorem setFloe_memory (s k f) : (State.setFloe s k f).memory = s.memory := (setFloe_sameMemory ..).memory

theorem setPack_memory (s k p) : (State.setPack s k p).memory = s.memory := (setPack_sameMemory ..).memory

theorem setHub_memory (s h) : (State.setHub s h).memory = s.memory := (setHub_sameMemory ..).memory

theorem modFloe_memory (s k f) : (State.modFloe s k f).memory = s.memory := by
  grind [State.modFloe, setFloe_memory]

theorem modPack_memory (s k f) : (State.modPack s k f).memory = s.memory := by
  grind [State.modPack, setPack_memory]

theorem bump_memory (s) : (State.bump s).memory = s.memory := by grind [State.bump, memory_update]

theorem setV_memory (c r m x) : (Ctx.setV c r m x).s.memory = c.s.memory := by
  grind [Ctx.setV]

theorem setS_memory (c r x) : (Ctx.setS c r x).s.memory = c.s.memory := by
  grind [Ctx.setS]

theorem setP_memory (c r m x) : (Ctx.setP c r m x).s.memory = c.s.memory := by
  grind [Ctx.setP]

theorem once_memory (c k) (hk : ∀ c, (k c).s.memory = c.s.memory) : (Ctx.once c k).s.memory = c.s.memory := by
  grind [Ctx.once]

theorem retire_memory (c) : (retire c).memory = c.s.memory := by grind [retire, memory_update]

theorem via_memory (c g) (hg : ∀ s, (g s).memory = s.memory) : (Ctx.via c g).s.memory = c.s.memory := by
  have h := hg { c.s with floes := c.s.floes.put c.key { c.f with run := some c.r } }
  simp only [Ctx.via]
  split <;> exact h

theorem runEnded_memory (c) : (Ctx.endRun c).s.memory = c.s.memory := by
  grind [Ctx.endRun]

theorem trapWord_memory (c cause mask addr info host) : (trapWord c cause mask addr info host).memory = c.s.memory := by
  grind [trapWord, memory_update]

theorem trapAt_memory (c cause mask addr info) : (trapAt c cause mask addr info).memory = c.s.memory := by
  grind [trapAt, trapWord_memory]

theorem trapIssue_memory (c cause) : (trapIssue c cause).memory = c.s.memory := by
  grind [trapIssue, trapAt_memory]

theorem illegalOperand_memory (c) : (illegalOperand c).memory = c.s.memory := by
  grind [illegalOperand, trapIssue_memory]

theorem illegalShape_memory (c) : (illegalShape c).memory = c.s.memory := by
  grind [illegalShape, trapIssue_memory]

theorem raise_memory (c t) : (Ctx.raise c t).s.memory = c.s.memory := by
  grind [Ctx.raise]

theorem lateSys_memory (s key seq since run g) : (State.lateSys s key seq since run g).memory = s.memory := by
  grind [State.lateSys, memory_update, modFloe_memory]

theorem interrupt_memory (s v) : (State.interrupt s v).memory = s.memory := (interrupt_sameMemory ..).memory

theorem reportHalt_memory (s key f cause hfault addr) : (reportHalt s key f cause hfault addr).memory = s.memory :=
  (reportHalt_sameMemory ..).memory

theorem takeTrap_memory (s key f t mask prio) : (takeTrap s key f t mask prio).memory = s.memory :=
  (takeTrap_sameMemory ..).memory

/-! ### Translations -/

theorem noteUnclaimed_memory (s a) : (State.noteUnclaimed s a).memory = s.memory := (noteUnclaimed_sameMemory ..).memory

theorem noteUncl_memory (s a) : (State.noteUncl s a).memory = s.memory := by
  cases a <;> grind [State.noteUncl, noteUnclaimed_memory]

theorem keepWalks_memory (s die ws) : (State.keepWalks s die ws).memory = s.memory := by
  grind [State.keepWalks, setDie_memory]

theorem walked_memory (s die va o) : (State.walked s die va o).1.memory = s.memory := by
  grind [State.walked, keepWalks_memory, noteUncl_memory]

theorem walkKeep_memory (s g core ctx root va fresh) :
    (State.walkKeep s g core ctx root va fresh).1.memory = s.memory := by
  grind [State.walkKeep, setCore_memory, walked_memory]

theorem lookup_memory (s g core ctx root va allow) : (State.lookup s g core ctx root va allow).1.memory = s.memory := by
  grind [State.lookup, walkKeep_memory]

theorem pageFault_memory (s ctx va info core slot w) :
    (State.pageFault s ctx va info core slot w).memory = s.memory := by
  grind [State.pageFault, bump_memory, setHub_memory]

theorem unwaitQueue_memory (s id core q) : (State.unwaitQueue s id core q).memory = s.memory := by
  grind [State.unwaitQueue, setHub_memory]

theorem unwait_memory (s floe seq m handler) : (State.unwait s floe seq m handler).memory = s.memory := by
  grind [State.unwait, setHub_memory]

/-! ### Caches -/

theorem unqueue_memory (s w) : (State.unqueue s w).memory = s.memory := (unqueue_sameMemory ..).memory

theorem dropL1_memory (s die line) : (State.dropL1 s die line).memory = s.memory := (dropL1_sameMemory ..).memory

theorem syncDir_memory (s line) : (State.syncDir s line).memory = s.memory := (syncDir_sameMemory ..).memory

theorem setL2_memory (s die line st) : (State.setL2 s die line st).memory = s.memory := (setL2_sameMemory ..).memory

theorem recall_memory (s line keep share) : (State.recall s line keep share).memory = s.memory :=
  (recall_sameMemory ..).memory

theorem dropL2_memory (s die line) : (State.dropL2 s die line).memory = s.memory := (dropL2_sameMemory ..).memory

theorem backInvalidate_memory (s as) : (State.backInvalidate s as).memory = s.memory :=
  (backInvalidate_sameMemory ..).memory

theorem recallAll_memory (s line) : (State.recallAll s line).memory = s.memory := by
  grind [State.recallAll, backInvalidate_memory, recall_memory]

theorem dirRoom_memory (s line) : (State.dirRoom s line).memory = s.memory := (dirRoom_sameMemory ..).memory

theorem setHalf_memory (s die a st) : (State.setHalf s die a st).memory = s.memory := (setHalf_sameMemory ..).memory

theorem cacheLoad_memory (s core a lv) : (State.cacheLoad s core a lv).memory = s.memory :=
  (cacheLoad_sameMemory ..).memory

/-! ### Registers, retiring, traps -/

theorem context_memory (s h c) (hc : context s h = .ok c) : c.s.memory = s.memory := by
  grind [context]

theorem setLanes_memory (c wide d m val bnd) : (Ctx.setLanes c wide d m val bnd).s.memory = c.s.memory := by
  grind [Ctx.setLanes, setV_memory]

/-! ### Flags and tiers -/

theorem stick_memory (c b) : (Ctx.stick c b).s.memory = c.s.memory := by
  grind [Ctx.stick]

theorem flag_memory (c x) : (Ctx.flag c x).s.memory = c.s.memory := by
  grind [Ctx.flag]

theorem tierTo_memory (c t) : (Ctx.tierTo c t).s.memory = c.s.memory := by
  grind [Ctx.tierTo]

theorem putOuts_memory (c d n m o) : (Ctx.putOuts c d n m o).s.memory = c.s.memory :=
    foldl_s_memory (fun _ _ => setV_memory ..) _ c

theorem finish_memory (c d n o) : (Ctx.finish c d n o).s.memory = c.s.memory := by
  simp only [Ctx.finish]
  split <;> split <;> grind [flag_memory, putOuts_memory, stick_memory]

theorem breachTrap_memory (c m b tier) : (breachTrap c m b tier).memory = c.s.memory := by
  grind [breachTrap, trapAt_memory]

theorem fpBack_memory (c d n o tier after) (h : ∀ c, (after c).s.memory = c.s.memory) :
    (fpBack c d n o tier after).memory = c.s.memory := by
  grind [fpBack, retire_memory, breachTrap_memory, finish_memory]

theorem resolveTier_memory (c ty t op md els) : (Ctx.resolveTier c ty t op md els).2.1.s.memory = c.s.memory := by
  cases t <;> grind [Ctx.resolveTier, tierTo_memory]

/-! ### Control transfer -/

theorem leave_memory (c m new) : (Ctx.leave c m new).s.memory = c.s.memory := by
  grind [Ctx.leave]

theorem transfer_memory (c prio take target link) (h : ∀ c, (link c).s.memory = c.s.memory) :
    (transfer c prio take target link).memory = c.s.memory := by
  grind [transfer, retire_memory, trapAt_memory, runEnded_memory, leave_memory]

/-! ### Checked accesses -/

theorem checkLane_memory (core ctx root handler r n s la g ser) :
    (checkLane core ctx root handler r n s la g ser).1.memory = s.memory := by
  refine foldl_fst_memory (fun x p => ?_) _ (s, _)
  grind [lookup_memory]

theorem checkLanes_memory (core ctx root handler r s las g) :
    (checkLanes core ctx root handler r s las g).1.memory = s.memory := by
  exact foldl_fst_memory (fun _ _ => by exact checkLane_memory ..) las (s, [])

theorem endEmpty_memory (c) : (Ctx.endEmpty c).s.memory = c.s.memory := by
  grind [Ctx.endEmpty, runEnded_memory]

theorem park_memory (c m write fetch misses) : (Ctx.park c m write fetch misses).s.memory = c.s.memory := by
  grind [Ctx.park, foldl_memory, endEmpty_memory, leave_memory, pageFault_memory]

theorem accessN_memory (c : Ctx) (r las k g) (hk : ∀ c cks, (k c cks).memory = c.s.memory) :
    (c.accessN r las k g).memory = c.s.memory := by
  grind [Ctx.accessN, checkLanes_memory, trapAt_memory, trapWord_memory, park_memory]

theorem access_memory (c : Ctx) (r n las k) (hk : ∀ c cks, (k c cks).memory = c.s.memory) :
    (c.access r n las k).memory = c.s.memory :=
  accessN_memory _ _ _ _ _ hk

theorem issue_memory (c q) : (Ctx.issue c q).s.memory = c.s.memory := by
  grind [Ctx.issue, memory_update]

/-! ### Stores at physical addresses -/

theorem strike_memory (s as) : (State.strike s as).memory = s.memory := (strike_sameMemory ..).memory

theorem wroteAt_memory (s core lv as) : (State.wroteAt s core lv as).memory = s.memory := (wroteAt_sameMemory ..).memory

theorem waitWrites_memory (s w as) : (State.waitWrites s w as).memory = s.memory := (waitWrites_sameMemory ..).memory

theorem cacheLoads_memory (s core lv as) : (State.cacheLoads s core lv as).memory = s.memory :=
  (cacheLoads_sameMemory ..).memory

theorem engAddr_memory (s core ctx root va write) : (State.engAddr s core ctx root va write).1.memory = s.memory := by
  grind [State.engAddr, lookup_memory]

/-! ### Barrier objects and journals -/

theorem eachFloe_memory (s pack f) : (State.eachFloe s pack f).memory = s.memory := by
  grind [State.eachFloe, memory_update]

theorem padPut_memory (s key p o bs) : (State.padPut s key p o bs).memory = s.memory := by
  grind [State.padPut, setCore_memory]

theorem markObj_memory (s key p o is) : (State.markObj s key p o is).memory = s.memory := by
  grind [State.markObj, setCore_memory]

theorem putObj_memory (s key p o old new) : (State.putObj s key p o old new).memory = s.memory :=
    by
  grind [State.putObj, eachFloe_memory, markObj_memory, padPut_memory]

theorem barEvent_memory (s key p o dArr dExp dBytes) :
    (State.barEvent s key p o dArr dExp dBytes).memory = s.memory := by
  grind [State.barEvent, putObj_memory]

theorem putRedirect_memory (s die id r) : (State.putRedirect s die id r).memory = s.memory := rfl

theorem padApply_memory (s key p a) : (State.padApply s key p a).memory = s.memory := by
  cases a <;> grind [State.padApply, barEvent_memory, padPut_memory]

theorem engWaits_memory (s a) : (State.engWaits s a).memory = s.memory := by
  cases a <;>
    grind [State.engWaits, noteUncl_memory, pageFault_memory, setDie_memory, waitWrites_memory]

theorem parkObj_memory (s key p o) : (State.parkObj s key p o).memory = s.memory := by
  grind [State.parkObj, putRedirect_memory]

theorem handshake_memory (s key p o) : (State.handshake s key p o).memory = s.memory := by
  grind [State.handshake, foldl_memory, padApply_memory, putRedirect_memory]

theorem afterStore_memory (s key p before handler offs) :
    (State.afterStore s key p before handler offs).memory = s.memory := by
  grind [State.afterStore, foldl_memory, handshake_memory, markObj_memory, parkObj_memory]

theorem onObj_memory (c : Ctx) (bar init k) (hk : ∀ p o b, (k p o b).memory = c.s.memory) :
    (c.onObj bar init k).memory = c.s.memory := by
  grind [Ctx.onObj, retire_memory, trapAt_memory]

/-! ### The Latch -/

theorem setQueue_memory (s core q rs) : (State.setQueue s core q rs).memory = s.memory := by
  grind [State.setQueue, setCore_memory]

theorem putReq_memory (s core q i r) : (State.putReq s core q i r).memory = s.memory := by
  grind [State.putReq, setQueue_memory]

theorem engRead_memory (s core ctx root va) : (State.engRead s core ctx root va).1.memory = s.memory := by
  grind [State.engRead, engAddr_memory, noteUnclaimed_memory]

theorem engPlace_memory (s core ctx root va) : (State.engPlace s core ctx root va).1.memory = s.memory := by
  grind [State.engPlace, engAddr_memory]

theorem reqRead_memory (s core root r va) : (State.reqRead s core root r va).1.memory = s.memory := by
  grind [State.reqRead, engRead_memory]

theorem reqTarget_memory (s core root r va) : (State.reqTarget s core root r va).1.memory = s.memory := by
  grind [State.reqTarget, engPlace_memory]

theorem imageByte_memory (s core r o) : (State.imageByte s core r o).1.memory = s.memory := by
  grind [State.imageByte, noteUncl_memory, noteUnclaimed_memory]

theorem engPad_memory (s core r o) : (State.engPad s core r o).1.memory = s.memory := by
  grind [State.engPad, imageByte_memory]

theorem reqByte_memory (s core root r i) : (State.reqByte s core root r i).1.memory = s.memory :=
    by
  simp only [State.reqByte]
  split
  · rfl
  · refine foldl_fst_memory (fun x u => ?_) _ (s, _)
    obtain ⟨s, _ | ⟨v, b⟩⟩ := x <;> grind [reqRead_memory]
  · grind [engPad_memory, reqRead_memory]

theorem reqPlace_memory (s core root r i v b) : (State.reqPlace s core root r i v b).1.memory = s.memory := by
  simp only [State.reqPlace]
  split
  · refine foldl_fst_memory (fun x u => ?_) _ (s, _)
    obtain ⟨s, _ | x⟩ := x <;> grind [reqTarget_memory]
  · grind [reqTarget_memory]

theorem takePiece_memory (core root r n i s a) : (State.takePiece core root r n i s a).1.memory = s.memory := by
  induction n generalizing i s a with
  | zero => rfl
  | succ n ih => grind [State.takePiece, reqByte_memory, reqPlace_memory]

theorem renewOne_memory (s core r x) : (State.renewOne s core r x).1.memory = s.memory := by
  grind [State.renewOne, setCore_memory, walked_memory]

/-! ### Uniform words -/

theorem uni_memory (c d x) : (Ctx.uni c d x).s.memory = c.s.memory := by
  grind [Ctx.uni, Ctx.once, setS_memory]

theorem uniOp_memory (c op m d a b e) : (uniOp c op m d a b e).s.memory = c.s.memory := by
  grind [uniOp, uni_memory]

theorem uniImm_memory (c d imm f) : (uniImm c d imm f).s.memory = c.s.memory := by
  grind [uniImm, uni_memory]

/-! ### Vector integer words -/

theorem vecOp_memory (c op m d n a b e) : (vecOp c op m d n a b e).s.memory = c.s.memory := by
  grind [vecOp, setLanes_memory, stick_memory]

theorem vecOp1_memory (c op m d a) : (vecOp1 c op m d a).s.memory = c.s.memory := by
  grind [vecOp1, vecOp_memory]

theorem vecOp2_memory (c op m d a b) : (vecOp2 c op m d a b).s.memory = c.s.memory := by
  grind [vecOp2, vecOp_memory]

theorem vecImm_memory (c d imm f) : (vecImm c d imm f).s.memory = c.s.memory := by
  grind [vecImm, setLanes_memory, stick_memory]

theorem vecConst_memory (c d imm) : (vecConst c d imm).s.memory = c.s.memory := by
  grind [vecConst, setLanes_memory]

/-! ### Floating-point words -/

theorem tieredWord_memory (c op m d a b e) : (tieredWord c op m d a b e).memory = c.s.memory := by
  simp only [tieredWord]
  rw [fpBack_memory]
  · exact resolveTier_memory ..
  · grind [stick_memory]

theorem plainWord_memory (c m d n a b f) : (plainWord c m d n a b f).memory = c.s.memory := by
  grind [plainWord, fpBack_memory]

/-! ### Conversions -/

theorem drew_memory (c sr) : (Ctx.drew c sr).s.memory = c.s.memory := by
  grind [Ctx.drew]

/-! ### Error bounds -/

theorem pendSys_memory (c ix x) : (Ctx.pendSys c ix x).s.memory = c.s.memory := by
  grind [Ctx.pendSys]

theorem setBnd_memory (c reg m b) : (Ctx.setBnd c reg m b).s.memory = c.s.memory := by
  grind [Ctx.setBnd, setV_memory]

theorem bndWord_memory (c w d b) : (bndWord c w d b).s.memory = c.s.memory := by
  grind [bndWord, setBnd_memory, stick_memory]

/-! ### Synchronisation -/

theorem putField_memory (s x) : (State.putField s x).memory = s.memory := by
  grind [State.putField, setHub_memory]

theorem sbarRelease_memory (s f b) : (State.sbarRelease s f b).memory = s.memory := by
  grind [State.sbarRelease, memory_update]

theorem sbarCheck_memory (s inst node lv place index) :
    (State.sbarCheck s inst node lv place index).memory = s.memory := by
  grind [State.sbarCheck, putField_memory, sbarRelease_memory]

theorem sbarArrive_memory (s key lv index) : (State.sbarArrive s key lv index).memory = s.memory := by
  grind [State.sbarArrive, putField_memory, sbarCheck_memory, setFloe_memory]

theorem joinWake_memory (s pack j) : (State.joinWake s pack j).memory = s.memory := by
  grind [State.joinWake, eachFloe_memory]

theorem joinFail_memory (s pack j except_) : (State.joinFail s pack j except_).memory = s.memory :=
  (joinFail_sameMemory ..).memory

theorem sign_memory (s pack j key n r g pc word t m) (h : State.sign s pack j key n r g pc word = (some t, m)) :
    t.memory = s.memory := by
  grind [State.sign, setPack_memory, modFloe_memory, joinWake_memory]

theorem arriveAt_made_memory (s key f bar n isDrop t) (h : State.arriveAt s key f bar n isDrop = .made t) :
    t.memory = s.memory := by
  grind [State.arriveAt, modFloe_memory, barEvent_memory]

theorem arriveAt_fail_memory (s key f bar n isDrop t cause addr info)
    (h : State.arriveAt s key f bar n isDrop = .fail t cause addr info) : t.memory = s.memory := by
  grind [State.arriveAt]

theorem syncEvent_made_memory (s key f x t) (h : State.syncEvent s key f x = .made t) : t.memory = s.memory := by
  unfold State.syncEvent at h
  grind [arriveAt_made_memory, sbarArrive_memory, modFloe_memory, sign_memory]

theorem syncEvent_fail_memory (s key f x t cause addr info) (h : State.syncEvent s key f x = .fail t cause addr info) :
    t.memory = s.memory := by
  grind [State.syncEvent, arriveAt_fail_memory, joinFail_memory]

theorem syncMoment_memory (s key x) : (State.syncMoment s key x).memory = s.memory := by
  grind [State.syncMoment, syncEvent_made_memory, syncEvent_fail_memory, modFloe_memory]

theorem sync_memory (c member op) : (Ctx.sync c member op).s.memory = c.s.memory := by
  simp only [Ctx.sync]
  split
  · rfl
  · split <;> split <;> grind [via_memory, syncMoment_memory]

/-! ### Memory words -/

theorem lost_memory (c b) : (Ctx.lost c b).s.memory = c.s.memory := by
  grind [Ctx.lost, stick_memory]

theorem onPad_memory (c : Ctx) (align n las k) (hk : ∀ p, (k p).memory = c.s.memory) :
    (c.onPad align n las k).memory = c.s.memory := by
  grind [Ctx.onPad, retire_memory, trapAt_memory]

theorem onPadAll_memory (c : Ctx) (align n las k) (hk : ∀ p, (k p).memory = c.s.memory) :
    (c.onPadAll align n las k).memory = c.s.memory := by
  grind [Ctx.onPadAll, retire_memory, trapAt_memory]

theorem padStore_memory (c p w) : (Ctx.padStore c p w).s.memory = c.s.memory := by
  grind [Ctx.padStore, afterStore_memory, setCore_memory, via_memory]

theorem atomWord_memory (c f m ty ret d) : (atomWord c f m ty ret d).memory = c.s.memory := by
  grind [atomWord, access_memory, issue_memory, retire_memory]

theorem atomsApply_memory (c p f ty d las) : (atomsApply c p f ty d las).1.s.memory = c.s.memory := by
  refine foldl_fst_s_memory (fun x e => ?_) las (c, [])
  grind [padStore_memory]

theorem atomsWord_memory (c f m ty ret d) : (atomsWord c f m ty ret d).memory = c.s.memory := by
  refine onPad_memory _ _ _ _ _ fun p => ?_
  grind [atomsApply_memory, retire_memory]

theorem cacheWord_memory (c a f) (hf : ∀ s n, (f s n).memory = s.memory) : (cacheWord c a f).memory = c.s.memory := by
  grind [cacheWord, Ctx.once, retire_memory]

/-! ### Tiles and accumulators -/

theorem onTile_memory (c : Ctx) (d k) (hk : ∀ p n w, (k p n w).memory = c.s.memory) :
    (c.onTile d k).memory = c.s.memory := by
  grind [Ctx.onTile, retire_memory, illegalShape_memory]

theorem ownAcc_memory (c : Ctx) (d k) (hk : ∀ n a, (k n a).memory = c.s.memory) :
    (c.ownAcc d k).memory = c.s.memory := by
  grind [Ctx.ownAcc, retire_memory, trapAt_memory]

/-! ### System registers -/

theorem swTrap_memory (c info) : (swTrap c info).memory = c.s.memory := by
  grind [swTrap, raise_memory, retire_memory, runEnded_memory]

theorem sysWrite_memory (c ix v) : (sysWrite c ix v).s.memory = c.s.memory := by
  simp only [sysWrite]
  split_ifs <;> simp only [pendSys_memory]

theorem sysWriteWord_memory (c ix v) : (sysWriteWord c ix v).memory = c.s.memory := by
  grind [sysWriteWord, illegalOperand_memory, retire_memory, sysWrite_memory]

theorem applyOwners_memory (s key f) : (State.applyOwners s key f).memory = s.memory := by
  grind [State.applyOwners, foldl_memory, setCore_memory]

/-! ### Launch and contexts -/

theorem machineFault_memory (s kind die detail) : (State.machineFault s kind die detail).memory = s.memory := by
  grind [State.machineFault, interrupt_memory, setHub_memory]

theorem queueError_memory (s q node code) : (State.queueError s q node code).memory = s.memory :=
    by
  grind [State.queueError, interrupt_memory, setHub_memory]

theorem wakeDie_memory (s die) : (State.wakeDie s die).memory = s.memory := by
  grind [State.wakeDie, memory_update, setHub_memory]

theorem trigger_memory (s v) : (State.trigger s v).memory = s.memory := by
  grind [State.trigger, interrupt_memory, noteUncl_memory, queueError_memory, setHub_memory]

theorem putInst_memory (s i) : (State.putInst s i).memory = s.memory := by
  grind [State.putInst, setHub_memory]

theorem endInst_memory (s i) : (State.endInst s i).memory = s.memory := by
  grind [State.endInst, interrupt_memory, setHub_memory]

theorem pinBanks_memory (s core) : (State.pinBanks s core).memory = s.memory := by
  grind [State.pinBanks, setCore_memory]

theorem dropPack_memory (s key) : (State.dropPack s key).memory = s.memory := by
  grind [State.dropPack, memory_update, pinBanks_memory, setCore_memory, setDie_memory]

theorem reapPack_memory (s key p) : (State.reapPack s key p).memory = s.memory := by
  grind [State.reapPack, dropPack_memory, putField_memory, putRedirect_memory]

theorem reap_memory (s) : (State.reap s).memory = s.memory := by
  grind [State.reap, foldl_memory, reapPack_memory]

theorem forgetFirst_memory (s ctx) : (State.forgetFirst s ctx).memory = s.memory := by
  grind [State.forgetFirst, memory_update]

theorem preemptCtx_memory (s ctx die) : (State.preemptCtx s ctx die).memory = s.memory := by
  grind [State.preemptCtx, memory_update]

/-! ### Placement and saved packs -/

theorem place_memory (s core f at_ stats arrivals restores kept slot banks bound start) :
    (State.place s core f at_ stats arrivals restores kept slot banks bound start).1.memory = s.memory := by
  grind [State.place, foldl_memory, bump_memory, pinBanks_memory, putField_memory, setCore_memory, setDie_memory,
    setFloe_memory, setPack_memory]

theorem seekVictim_memory (s die prio t) (h : State.seekVictim s die prio = .next t) : t.memory = s.memory := by
  grind [State.seekVictim, preemptCtx_memory]

theorem redirectRestoring_memory (s id) : (State.redirectRestoring s id).memory = s.memory := by
  grind [State.redirectRestoring, putRedirect_memory]

theorem endFloe_memory (s key) : (State.endFloe s key).memory = s.memory := by
  unfold State.endFloe
  split
  · rfl
  · dsimp only
    split
    · rfl
    · split
      · exact setPack_memory ..
      · rw [foldl_memory (fun s b => sbarCheck_memory ..), putField_memory, setPack_memory]
        rfl

/-! ### Run boundaries -/

theorem endRun_memory (s key f r) : (State.endRun s key f r).memory = s.memory := by
  grind [State.endRun, applyOwners_memory, modPack_memory, setCore_memory, setFloe_memory]

theorem syncStep_memory (s key x) : (State.syncStep s key x).memory = s.memory := by
  grind [State.syncStep, syncEvent_made_memory, syncEvent_fail_memory, modFloe_memory]

theorem syncAll_memory (s key) : (State.syncAll s key).memory = s.memory := by
  grind [State.syncAll, foldl_memory, modFloe_memory, syncStep_memory]

theorem stopFloe_memory (s key f t) : (State.stopFloe s key f t).memory = s.memory := by
  grind [State.stopFloe, reportHalt_memory, setFloe_memory]

theorem stops_memory (s key r) : (State.stops s key r).memory = s.memory := by
  grind [State.stops, reportHalt_memory, setFloe_memory, stopFloe_memory, takeTrap_memory]

theorem takeBoundary_memory (s key f t e) : (State.takeBoundary s key f t e).memory = s.memory :=
    by
  grind [State.takeBoundary, takeTrap_memory]

theorem quiet_memory (s key ended start) : (State.quiet s key ended start).memory = s.memory := by
  grind [State.quiet, endFloe_memory, setFloe_memory, takeBoundary_memory]

theorem runOver_memory (s key f r) : (State.runOver s key f r).memory = s.memory := by
  grind [State.runOver, endRun_memory, quiet_memory, reap_memory, stops_memory, syncAll_memory]

/-! ### Cross-lane words -/

theorem gather_memory (c w d a src) : (gather c w d a src).s.memory = c.s.memory := by
  grind [gather, setLanes_memory]

/-! ### Reset and boot -/

theorem resetRegs_memory (s) : (State.resetRegs s).memory = s.memory := by
  grind [State.resetRegs, memory_update]

theorem bootFail_memory (s err) : (State.bootFail s err).memory = s.memory := by
  grind [State.bootFail, setHub_memory]

/-! ### Outside requests -/

theorem podComplete_memory (s index) : (State.podComplete s index).memory = s.memory := by
  grind [State.podComplete, foldl_memory, putField_memory, sbarRelease_memory, setHub_memory]

theorem wakeFor_memory (s as) : (State.wakeFor s as).memory = s.memory := by
  grind [State.wakeFor, foldl_memory, wakeDie_memory]

/-! ### Time -/

theorem followAll_memory (s) : (State.followAll s).memory = s.memory := by
  grind [State.followAll, foldl_memory, bump_memory, setDie_memory]

theorem firnSkew_memory (s die) : (State.firnSkew s die).memory = s.memory := by
  grind [State.firnSkew, memory_update, machineFault_memory, setDie_memory, setHub_memory, wakeDie_memory]

theorem missedBeats_memory (s die) : (State.missedBeats s die).memory = s.memory := by
  grind [State.missedBeats, firnSkew_memory]

theorem deadline_memory (s floe w t) (h : State.deadline s floe w = .next t) : t.memory = s.memory := by
  grind [State.deadline, setFloe_memory]

/-! ### Stacks and upsets -/

theorem channelWidth_memory (s stack chan half) : (State.channelWidth s stack chan half).memory = s.memory := by
  grind [State.channelWidth, setStack_memory]

theorem setEye_memory (s stack pc lane height width) :
    (State.setEye s stack pc lane height width).memory = s.memory := by
  grind [State.setEye, interrupt_memory, setStack_memory]

theorem repairLane_memory (s stack chan lane) : (State.repairLane s stack chan lane).memory = s.memory := by
  grind [State.repairLane, bump_memory, channelWidth_memory, setEye_memory, setStack_memory]

theorem eyeact_memory (s stack v) : (State.eyeact s stack v).memory = s.memory := by
  grind [State.eyeact, bump_memory, channelWidth_memory, repairLane_memory]

theorem fence_memory (s stack pc) : (State.fence s stack pc).memory = s.memory := by
  grind [State.fence, machineFault_memory, setStack_memory]

theorem sramFault_memory (s die) : (State.sramFault s die).memory = s.memory := by
  grind [State.sramFault, bump_memory, machineFault_memory]

/-! ### Registers of the package -/

theorem writeFirn_memory (s o w) : (State.writeFirn s o w).memory = s.memory := by
  unfold State.writeFirn
  split <;> grind [foldl_memory, firnSkew_memory, setHub_memory]

theorem writeStack_memory (s n o w) : (State.writeStack s n o w).memory = s.memory := by
  unfold State.writeStack
  split <;> grind [eyeact_memory, setStack_memory]

/-! ### The host -/

theorem outsideRead_memory (s addr n) : (State.outsideRead s addr n).1.memory = s.memory := by
  grind [State.outsideRead, foldl_memory, cacheLoad_memory, wakeFor_memory]

/-! ### Matrix products -/

theorem signerDone_memory (s pack m res g) : (State.signerDone s pack m res g).memory = s.memory := by
  grind [State.signerDone, memory_update]

/-! ### Serac -/

theorem onRows_memory (c : Ctx) (p rs k) (hk : ∀ c cks rows, (k c cks rows).memory = c.s.memory) :
    (c.onRows p rs k).memory = c.s.memory := by
  unfold Ctx.onRows
  grind [foldl_memory, foldl_fst_memory, checkLane_memory, pageFault_memory, park_memory, retire_memory, trapAt_memory,
    trapWord_memory]

theorem rowWord_memory (c op d pattern srcs ctl) : (rowWord c op d pattern srcs ctl).memory = c.s.memory := by
  grind [rowWord, memory_update, onObj_memory, onRows_memory, retire_memory, trapAt_memory]

/-! ### Performing accesses -/

theorem noteEarly_memory (s a u) : (State.noteEarly s a u).memory = s.memory := by
  grind [State.noteEarly, memory_update]

theorem loseBound_memory (s a) : (State.loseBound s a).memory = s.memory := by
  grind [State.loseBound, lateSys_memory]

theorem commit_memory (s a) : (State.commit s a).memory = s.memory := by
  grind [State.commit, memory_update, setCore_memory, setFloe_memory]

theorem rollback_memory (s a t) : (State.rollback s a t).memory = s.memory := by
  grind [State.rollback, memory_update, setFloe_memory, unwait_memory]

theorem commits_memory (s b l) : (State.commits s b l).memory = s.memory := by
  induction l generalizing s b with
  | nil => rfl
  | cons n l ih => grind [State.commits, memory_update, commit_memory, rollback_memory]

theorem trimFences_memory (s) : (State.trimFences s).memory = s.memory := by
  grind [State.trimFences, memory_update]

theorem settleFloe_memory (s floe seq) : (State.settleFloe s floe seq).memory = s.memory := by
  grind [State.settleFloe, commits_memory, trimFences_memory]

/-! ### Poison -/

theorem replaced_memory (c act i) : (Ctx.replaced c act i).memory = c.s.memory := by
  grind [Ctx.replaced, modFloe_memory, setCore_memory]

/-! ### Issue -/

theorem fetch_memory (s key f r) : (State.fetch s key f r).1.memory = s.memory := by
  grind [State.fetch, lookup_memory, noteUnclaimed_memory]

theorem residue_memory (s key pc m i) : (State.residue s key pc m i).memory = s.memory := by
  unfold State.residue
  extract_lets fresh here s' named
  have hs : s'.memory = s.memory := by grind [memory_update, sramFault_memory]
  clear_value s'
  rw [← hs]
  split
  · grind [modFloe_memory]
  · extract_lets t
    have ht : t.memory = s'.memory := modFloe_memory ..
    split <;> grind [modFloe_memory, setDie_memory]

/-! ### Schedules -/

theorem wdReport_memory (s key kind f) : (State.wdReport s key kind f).memory = s.memory := by
  grind [State.wdReport, interrupt_memory, setDie_memory, setFloe_memory]

theorem gateCores_memory (s die) : (State.gateCores s die).memory = s.memory := by
  grind [State.gateCores, memory_update, setDie_memory]

theorem cleanDie_memory (s die) : (State.cleanDie s die).memory = s.memory := by
  grind [State.cleanDie, foldl_memory, dropL2_memory]

/-! ### Paired words -/

theorem putSlot_memory (c r) : (Ctx.putSlot c r).s.memory = c.s.memory := by
  grind [Ctx.putSlot, finish_memory, setLanes_memory, setP_memory, setS_memory, stick_memory]

theorem slotTier_memory (c r) : (Ctx.slotTier c r).s.memory = c.s.memory := by
  grind [Ctx.slotTier, tierTo_memory]

theorem pairWord_memory (c x y) : (pairWord c x y).memory = c.s.memory := by
  grind [pairWord, breachTrap_memory, putSlot_memory, retire_memory, slotTier_memory]

end Sys2Proof.Machine
end

section
/-! SUPPORT. Words and events that write no memory. -/
namespace Sys2Proof.Machine
open Sys2Proof

/-- `State.wf`, of the memory alone. -/
def Canonical (m : Tbl Byte × Tbl Word × Tbl Bool) : Prop :=
  Memory.wf m.1 = true ∧ m.2.1.canonical 0 = true ∧ m.2.2.canonical false = true

theorem canonical_memory {s : State} : Canonical s.memory ↔ s.wf = true := (wf_iff s).symm

/-- What an operation leaves, if it leaves a state, has canonical memory. -/
def CanonicalOut (o : Out) : Prop := ∀ t, o = .next t → Canonical t.memory

theorem CanonicalOut.fault (e : Fault) : CanonicalOut (.fault e) := fun _ h => by cases h

theorem CanonicalOut.next {s : State} (h : Canonical s.memory) : CanonicalOut (.next s) :=
  fun _ e => by cases e; exact h

theorem CanonicalOut.refused (r : Refusal) : CanonicalOut (.refused r) := fun _ h => by cases h

/-- Whatever an operation makes of a state with canonical memory has canonical memory. -/
def Keeps (e : State → Out) : Prop := ∀ s, Canonical s.memory → CanonicalOut (e s)

theorem Keeps.of_memory {e : State → Out} (h : ∀ s t, e s = .next t → t.memory = s.memory) : Keeps e :=
  fun s hs t he => (h s t he).symm ▸ hs

theorem onWord_keeps {i : Instr} {h : Hdr} {k : Ctx → State} (hk : ∀ c, (k c).memory = c.s.memory) :
    Keeps fun s => onWord i h s k :=
  .of_memory fun s t he => by grind [onWord, context_memory, illegalOperand_memory]

theorem onRegs_keeps {i : Instr} {h : Hdr} {k : Ctx → Ctx} (hk : ∀ c, (k c).s.memory = c.s.memory) :
    Keeps fun s => onRegs i h s k :=
  onWord_keeps fun c => (retire_memory (k c)).trans (hk c)

/-! ### Control transfer -/

theorem exit_keeps (h) : Keeps (execExit h) :=
  onWord_keeps fun c => by grind [leave_memory, retire_memory, runEnded_memory]

theorem reconv_keeps (h) : Keeps (execReconv h) :=
  onWord_keeps fun c => by grind [leave_memory, retire_memory, runEnded_memory, Ctx.once]

theorem yield_keeps (h) : Keeps (execYield h) :=
  onRegs_keeps fun c => by grind [runEnded_memory, Ctx.once]

/-! ### Barrier objects and journals -/

theorem barinit_keeps (h scope d sa off) : Keeps (execBarinit h scope d sa off) :=
  onWord_keeps fun c => by grind [handshake_memory, markObj_memory, onObj_memory, padPut_memory, retire_memory,
    trapAt_memory, via_memory]

theorem barexp_keeps (h d sa off) : Keeps (execBarexp h d sa off) :=
  onWord_keeps fun c => by grind [barEvent_memory, onObj_memory, retire_memory, via_memory]

theorem barwait_keeps (h d sa off) : Keeps (execBarwait h d sa off) :=
  onWord_keeps fun c => by grind [leave_memory, onObj_memory, retire_memory, runEnded_memory]

theorem bartest_keeps (h d sa off) : Keeps (execBartest h d sa off) :=
  onWord_keeps fun c => by grind [onObj_memory, retire_memory, setS_memory]

/-! ### The Latch -/

theorem cpykick_keeps (h queue scope d sa off) : Keeps (execCpykick h queue scope d sa off) :=
  onWord_keeps fun c => by grind [illegalShape_memory, retire_memory, setCore_memory, trapAt_memory]

theorem cpystat_keeps (h d a) : Keeps (execCpystat h d a) :=
  onWord_keeps fun c => by grind [illegalShape_memory, retire_memory, setS_memory, Ctx.once]

theorem walkAheadRenewal_keeps (core queue) : Keeps (execWalkAheadRenewal core queue) :=
  .of_memory fun s t h => by grind [execWalkAheadRenewal, putReq_memory, renewOne_memory, foldl_fst_memory]

theorem pageWalk_keeps (core queue va) : Keeps (execPageWalk core queue va) :=
  .of_memory fun s t h => by grind [execPageWalk, walkKeep_memory]

/-! ### Vector integer words -/

theorem vbfi_keeps (h m d a b e) : Keeps (execVbfi h m d a b e) :=
  onRegs_keeps fun c => by grind [setLanes_memory, stick_memory]

/-! ### Floating-point words -/

theorem fcmp_keeps (h ty full k p a b) : Keeps (execFcmp h ty full k p a b) :=
  onRegs_keeps fun c => by grind [flag_memory, setP_memory, stick_memory]

theorem fclass_keeps (h ty full d a) : Keeps (execFclass h ty full d a) :=
  onRegs_keeps fun c => by grind [setLanes_memory, stick_memory]

/-! ### Conversions -/

theorem cvt_keeps (h m dst src d a) : Keeps (execCvt h m dst src d a) :=
  onWord_keeps fun c => by grind [drew_memory, fpBack_memory]

theorem cvtpk_keeps (h m dst src d a) : Keeps (execCvtpk h m dst src d a) :=
  onWord_keeps fun c => by grind [drew_memory, fpBack_memory]

theorem mxq_keeps (h sr sat full q pack fmt d a b) : Keeps (execMxq h sr sat full q pack fmt d a b) :=
  onWord_keeps fun c => by grind [drew_memory, fpBack_memory]

theorem mxdq_keeps (h full q pack fmt d a b) : Keeps (execMxdq h full q pack fmt d a b) :=
  onWord_keeps fun c => by grind [fpBack_memory]

/-! ### Synchronisation -/

theorem bararr_keeps (h d sa off) : Keeps (execBararr h d sa off) :=
  onWord_keeps fun c => by grind [onObj_memory, retire_memory, sync_memory]

theorem bardrop_keeps (h d sa off) : Keeps (execBardrop h d sa off) :=
  onWord_keeps fun c => by grind [onObj_memory, retire_memory, sync_memory]

theorem sbar_keeps (h level b a) : Keeps (execSbar h level b a) :=
  onWord_keeps fun c => by grind [retire_memory, sync_memory, trapAt_memory]

theorem jdecl_keeps (h d a) : Keeps (execJdecl h d a) :=
  onWord_keeps fun c => by grind [retire_memory, setPack_memory, trapAt_memory]

theorem jsign_keeps (h d a) : Keeps (execJsign h d a) :=
  onWord_keeps fun c => by grind [retire_memory, sync_memory]

theorem jwait_keeps (h d) : Keeps (execJwait h d) :=
  onWord_keeps fun c => by grind [leave_memory, retire_memory, runEnded_memory]

/-! ### Memory words -/

theorem ld_keeps (h m sz d) : Keeps (execLd h m sz d) :=
  onWord_keeps fun c => by grind [access_memory, issue_memory, retire_memory]

theorem st_keeps (h m sz d) : Keeps (execSt h m sz d) :=
  onWord_keeps fun c => by grind [access_memory, issue_memory, lost_memory, retire_memory]

theorem ldu_keeps (h m sz d) : Keeps (execLdu h m sz d) :=
  onWord_keeps fun c => by grind [access_memory, issue_memory, retire_memory]

theorem stu_keeps (h m sz d) : Keeps (execStu h m sz d) :=
  onWord_keeps fun c => by grind [access_memory, issue_memory, retire_memory]

theorem lds_keeps (h m sz d) : Keeps (execLds h m sz d) :=
  onWord_keeps fun c => by grind [onPad_memory, retire_memory]

theorem sts_keeps (h m sz d) : Keeps (execSts h m sz d) :=
  onWord_keeps fun c => by grind [onPad_memory, padStore_memory, retire_memory]

theorem pref_keeps (h m) : Keeps (execPref h m) :=
  onWord_keeps fun c => by grind [cacheLoad_memory, checkLanes_memory, retire_memory, foldl_memory]

theorem ldsp_keeps (h m sz d) : Keeps (execLdsp h m sz d) :=
  onWord_keeps fun c => by grind [access_memory, illegalOperand_memory, onObj_memory, onPad_memory, retire_memory,
    memory_update]

theorem ldv_keeps (h m d) : Keeps (execLdv h m d) :=
  onWord_keeps fun c => by grind [access_memory, issue_memory, retire_memory]

theorem stv_keeps (h m d) : Keeps (execStv h m d) :=
  onWord_keeps fun c => by grind [access_memory, issue_memory, lost_memory, retire_memory]

theorem recon_keeps (h m op d) : Keeps (execRecon h m op d) :=
  onWord_keeps fun c => by grind [access_memory, issue_memory, retire_memory]

theorem cacheDrop_keeps (h a) : Keeps (execCacheDrop h a) :=
  onWord_keeps fun c => by grind [cacheWord_memory, setCore_memory, setDie_memory]

theorem cacheClean_keeps (h a) : Keeps (execCacheClean h a) :=
  onWord_keeps fun c => by grind [cacheWord_memory, setL2_memory]

theorem cacheInval_keeps (h a) : Keeps (execCacheInval h a) :=
  onWord_keeps fun c => by grind [cacheWord_memory, dropL1_memory, dropL2_memory]

/-! ### Tiles and accumulators -/

theorem tcfg_keeps (h d a) : Keeps (execTcfg h d a) :=
  onWord_keeps fun c => by grind [illegalShape_memory, retire_memory, setCore_memory, setPack_memory, Ctx.once]

theorem tzero_keeps (h d) : Keeps (execTzero h d) :=
  onWord_keeps fun c => by grind [onTile_memory, retire_memory, setCore_memory, Ctx.once]

theorem tld_keeps (h m d) : Keeps (execTld h m d) :=
  onWord_keeps fun c => by grind [access_memory, illegalShape_memory, issue_memory, onPadAll_memory, onTile_memory,
    retire_memory, setCore_memory]

theorem tst_keeps (h m d) : Keeps (execTst h m d) :=
  onWord_keeps fun c => by grind [access_memory, illegalShape_memory, issue_memory, onPadAll_memory, onTile_memory,
    padStore_memory, retire_memory]

theorem accz_keeps (h d) : Keeps (execAccz h d) :=
  onWord_keeps fun c => by grind [ownAcc_memory, retire_memory, setCore_memory]

theorem accmov_keeps (h d a b) : Keeps (execAccmov h d a b) :=
  onWord_keeps fun c => by grind [illegalShape_memory, ownAcc_memory, retire_memory, setV_memory]

theorem accbnd_keeps (h d a) : Keeps (execAccbnd h d a) :=
  onWord_keeps fun c => by grind [ownAcc_memory, retire_memory, setV_memory]

theorem accspill_keeps (h a b) : Keeps (execAccspill h a b) :=
  onWord_keeps fun c => by grind [access_memory, issue_memory, retire_memory]

theorem accfill_keeps (h mcode ncode d a) : Keeps (execAccfill h mcode ncode d a) :=
  onWord_keeps fun c => by grind [access_memory, issue_memory, retire_memory]

theorem accld_keeps (h m d) : Keeps (execAccld h m d) :=
  onWord_keeps fun c => by grind [access_memory, illegalShape_memory, issue_memory, onPadAll_memory, ownAcc_memory,
    retire_memory, setCore_memory]

theorem accst_keeps (h m d) : Keeps (execAccst h m d) :=
  onWord_keeps fun c => by grind [access_memory, illegalShape_memory, issue_memory, onPadAll_memory, ownAcc_memory,
    padStore_memory, retire_memory]

theorem accstAdd_keeps (h m d) : Keeps (execAccstAdd h m d) :=
  onWord_keeps fun c => by grind [access_memory, illegalShape_memory, onObj_memory, onPadAll_memory, ownAcc_memory,
    padStore_memory, retire_memory, memory_update]

theorem keycut_keeps (h d sa off) : Keeps (execKeycut h d sa off) :=
  onWord_keeps fun c => by grind [bump_memory, retire_memory, setHub_memory, setS_memory, trapAt_memory]

theorem tldk_keeps (h m d) : Keeps (execTldk h m d) :=
  onWord_keeps fun c => by grind [accessN_memory, illegalShape_memory, issue_memory, onTile_memory, retire_memory,
    setCore_memory, trapAt_memory]

theorem keydrop_keeps (h a) : Keeps (execKeydrop h a) :=
  onRegs_keeps fun c => by grind [setHub_memory, Ctx.once]

/-! ### System registers -/

theorem mfsr_keeps (h d x) : Keeps (execMfsr h d x) :=
  onWord_keeps fun c => by grind [illegalOperand_memory, retire_memory, setS_memory, Ctx.once]

theorem lwait_keeps (h a) : Keeps (execLwait h a) :=
  onWord_keeps fun c => by grind [leave_memory, retire_memory, runEnded_memory]

theorem frsave_keeps (h a) : Keeps (execFrsave h a) :=
  onWord_keeps fun c => by grind [accessN_memory, illegalOperand_memory, issue_memory, retire_memory, trapAt_memory]

theorem frload_keeps (h a) : Keeps (execFrload h a) :=
  onWord_keeps fun c => by grind [accessN_memory, illegalOperand_memory, issue_memory, retire_memory, trapAt_memory]

theorem rft_keeps (h) : Keeps (execRft h) :=
  onWord_keeps fun c => by grind [illegalOperand_memory, reportHalt_memory, retire_memory, runEnded_memory,
    unwait_memory]

/-! ### Launch and contexts -/

theorem trigger_keeps (value) : Keeps (execTrigger value) :=
  .of_memory fun s t h => by grind [execTrigger, trigger_memory]

theorem nodeRelease_keeps (inst node) : Keeps (execNodeRelease inst node) :=
  .of_memory fun s t h => by grind [execNodeRelease, bump_memory, endInst_memory, putInst_memory, queueError_memory,
    setHub_memory]

theorem nodeComplete_keeps (inst node) : Keeps (execNodeComplete inst node) :=
  .of_memory fun s t h => by grind [execNodeComplete, endInst_memory, forgetFirst_memory, putInst_memory, reap_memory,
    setHub_memory]

theorem ctxctlPreempt_keeps (ctx) : Keeps (execCtxctlPreempt ctx) :=
  .of_memory fun s t h => by grind [execCtxctlPreempt, preemptCtx_memory]

theorem contextEndRelease_keeps (ctx) : Keeps (execContextEndRelease ctx) :=
  .of_memory fun s t h => by grind [execContextEndRelease, dropPack_memory, forgetFirst_memory, setHub_memory,
    memory_update, foldl_memory]

/-! ### Placement and saved packs -/

theorem packPlacement_keeps (die) : Keeps (execPackPlacement die) :=
  .of_memory fun s t h => by grind [execPackPlacement, place_memory, putField_memory, reap_memory, seekVictim_memory]

/-! ### Run boundaries -/

theorem runBoundary_keeps (floe) : Keeps (execRunBoundary floe) :=
  .of_memory fun s t h => by grind [execRunBoundary, quiet_memory, reap_memory, runOver_memory, syncAll_memory]

theorem preempt_keeps (floe) : Keeps (execPreempt floe) :=
  .of_memory fun s t h => by grind [execPreempt, takeTrap_memory]

/-! ### Cross-lane words -/

theorem vred_keeps (h ty op q d a) : Keeps (execVred h ty op q d a) :=
  onWord_keeps fun c => by grind [fpBack_memory]

theorem vscan_keeps (h ty op q d a) : Keeps (execVscan h ty op q d a) :=
  onWord_keeps fun c => by grind [fpBack_memory]

/-! ### Time -/

theorem firnSkew_keeps (die) : Keeps (execFirnSkew die) :=
  .of_memory fun s t h => by grind [execFirnSkew, firnSkew_memory]

theorem firnSyncBeat_keeps (die drift) : Keeps (execFirnSyncBeat die drift) :=
  .of_memory fun s t h => by grind [execFirnSyncBeat, firnSkew_memory, setDie_memory, setHub_memory]

theorem podFirnSample_keeps (time trip) : Keeps (execPodFirnSample time trip) :=
  .of_memory fun s t h => by grind [execPodFirnSample, followAll_memory, machineFault_memory, setHub_memory]

theorem sleepDeadline_keeps (floe) : Keeps (execSleepDeadline floe) :=
  .of_memory fun s t h => by grind [execSleepDeadline, setFloe_memory]

theorem lwaitDeadline_keeps (floe) : Keeps (execLwaitDeadline floe) :=
  .of_memory fun s t h => by grind [execLwaitDeadline, deadline_memory]

theorem l1LeaseExpiry_keeps (core line) : Keeps (execL1LeaseExpiry core line) :=
  .of_memory fun s t h => by grind [execL1LeaseExpiry, setCore_memory, setDie_memory]

theorem leaseHorizonReached_keeps (die line) : Keeps (execLeaseHorizonReached die line) :=
  .of_memory fun s t h => by grind [execLeaseHorizonReached, setDie_memory]

theorem directoryRecall_keeps (line) : Keeps (execDirectoryRecall line) :=
  .of_memory fun s t h => by grind [execDirectoryRecall, recallAll_memory]

theorem translationLeaseExpiry_keeps (core ctx page) : Keeps (execTranslationLeaseExpiry core ctx page) :=
  .of_memory fun s t h => by grind [execTranslationLeaseExpiry, setCore_memory]

/-! ### Stacks and upsets -/

theorem channelWidthChange_keeps (stack chan half thermal) : Keeps (execChannelWidthChange stack chan half thermal) :=
  .of_memory fun s t h => by grind [execChannelWidthChange, channelWidth_memory, machineFault_memory]

theorem eyeMarginLow_keeps (stack lane eye) : Keeps (execEyeMarginLow stack lane eye) :=
  .of_memory fun s t h => by grind [execEyeMarginLow, setEye_memory]

theorem eyeactRepair_keeps (stack chan lane) : Keeps (execEyeactRepair stack chan lane) :=
  .of_memory fun s t h => by grind [execEyeactRepair, repairLane_memory]

theorem eyeactHalfWidth_keeps (stack chan) : Keeps (execEyeactHalfWidth stack chan) :=
  .of_memory fun s t h => by grind [execEyeactHalfWidth, channelWidth_memory]

theorem eyeactFullWidth_keeps (stack chan able) : Keeps (execEyeactFullWidth stack chan able) :=
  .of_memory fun s t h => by grind [execEyeactFullWidth, channelWidth_memory]

theorem hingeLinkFail_keeps (die) : Keeps (execHingeLinkFail die) :=
  .of_memory fun s t h => by grind [execHingeLinkFail, machineFault_memory, setDie_memory, setHub_memory]

theorem bootFull_keeps : Keeps (execBootFull) :=
  .of_memory fun s t h => by grind [execBootFull, setDie_memory, setHub_memory, foldl_memory]

/-! ### The host -/

theorem hostCxlMemRead_keeps (addr size) : Keeps (execHostCxlMemRead addr size) :=
  .of_memory fun s t h => by grind [execHostCxlMemRead, dirRoom_memory, outsideRead_memory, setHub_memory,
    syncDir_memory, foldl_memory]

theorem hostSnoop_keeps (half invalidate) : Keeps (execHostSnoop half invalidate) :=
  .of_memory fun s t h => by grind [execHostSnoop, setHalf_memory, foldl_memory]

theorem podBarrierCompletion_keeps (index gen) : Keeps (execPodBarrierCompletion index gen) :=
  .of_memory fun s t h => by grind [execPodBarrierCompletion, podComplete_memory, setHub_memory]

theorem cxlPortTraining_keeps (port up) : Keeps (execCxlPortTraining port up) :=
  .of_memory fun s t h => by grind [execCxlPortTraining, setHub_memory]

/-! ### Matrix products -/

theorem via_const_memory (c t) (ht : t.memory = c.s.memory) : (Ctx.via c fun _ => t).s.memory = c.s.memory := by
  simp only [Ctx.via]
  split <;> exact ht

theorem mma_keeps (h tier q d a b j) : Keeps (execMma h tier q d a b j) := by
  refine onWord_keeps fun c => ?_
  split
  · exact retire_memory c
  · dsimp only
    split
    · exact illegalOperand_memory c
    · split
      · exact illegalShape_memory c
      · refine ownAcc_memory _ _ _ fun _ _ => ?_
        split
        next hs =>
          have ht := sign_memory _ _ _ _ _ _ _ _ _ _ _ hs
          rw [retire_memory, via_const_memory _ _ ht]
        next => rw [trapAt_memory, via_memory _ _ fun s => joinFail_memory ..]

theorem mmaFire_keeps (pack join) : Keeps (execMmaFire pack join) :=
  .of_memory fun s t h => by grind [execMmaFire, setPack_memory]

theorem mmaComplete_keeps (pack join) : Keeps (execMmaComplete pack join) := by
  refine .of_memory fun s t h => ?_
  simp only [execMmaComplete] at h
  split at h
  · cases h
  · split at h
    · cases h
    · split at h
      · cases h
      · split at h <;> cases h
        · rw [foldl_memory fun _ _ => signerDone_memory .., setPack_memory]
        · rw [joinWake_memory, foldl_memory fun _ _ => signerDone_memory .., setPack_memory,
            setCore_memory]

/-! ### Serac -/

theorem rowstat_keeps (h d a) : Keeps (execRowstat h d a) :=
  onWord_keeps fun c => by grind [illegalShape_memory, retire_memory, setS_memory, Ctx.once]

theorem seracFork_keeps (op) : Keeps (execSeracFork op) :=
  .of_memory fun s t h => by grind [execSeracFork, backInvalidate_memory, dropL1_memory, recall_memory, setHub_memory,
    setL2_memory, unqueue_memory, waitWrites_memory, memory_update, foldl_memory]

/-! ### Issue -/

theorem issueClock_keeps (core part) : Keeps (execIssueClock core part) :=
  .of_memory fun s t h => by grind [execIssueClock, setCore_memory, memory_update]

/-! ### Schedules -/

theorem sliceExpiry_keeps (die ctx) : Keeps (execSliceExpiry die ctx) :=
  .of_memory fun s t h => by grind [execSliceExpiry, preemptCtx_memory, reap_memory, setDie_memory]

theorem watchdogIssueReport_keeps (floe) : Keeps (execWatchdogIssueReport floe) :=
  .of_memory fun s t h => by grind [execWatchdogIssueReport, wdReport_memory]

theorem watchdogStallReport_keeps (floe) : Keeps (execWatchdogStallReport floe) :=
  .of_memory fun s t h => by grind [execWatchdogStallReport, wdReport_memory]

theorem carveOutInterval_keeps (core) : Keeps (execCarveOutInterval core) :=
  .of_memory fun s t h => by grind [execCarveOutInterval, setCore_memory]

theorem bankGate_keeps (core bank) : Keeps (execBankGate core bank) :=
  .of_memory fun s t h => by grind [execBankGate, setCore_memory]

theorem bankReady_keeps (core bank) : Keeps (execBankReady core bank) :=
  .of_memory fun s t h => by grind [execBankReady, setCore_memory]

theorem powerStateEntry_keeps (die) : Keeps (execPowerStateEntry die) :=
  .of_memory fun s t h => by grind [execPowerStateEntry, cleanDie_memory, gateCores_memory, setDie_memory, foldl_memory]

theorem dieWake_keeps (die) : Keeps (execDieWake die) :=
  .of_memory fun s t h => by grind [execDieWake, wakeDie_memory]

theorem boostInterval_keeps (die claims) : Keeps (execBoostInterval die claims) :=
  .of_memory fun s t h => by grind [execBoostInterval, setDie_memory]

theorem permitRefill_keeps (die) : Keeps (execPermitRefill die) :=
  .of_memory fun s t h => by grind [execPermitRefill, setDie_memory]

end Sys2Proof.Machine
end

section
/-! SUPPORT. Operations that write memory, bound tags or poison marks, keep them in canonical form. -/
namespace Sys2Proof.Machine
open Sys2Proof

theorem foldl_canonical {α : Type} {f : State → α → State} (hf : ∀ s e, Canonical s.memory → Canonical (f s e).memory)
    (l : List α) (s : State) (h : Canonical s.memory) : Canonical (l.foldl f s).memory :=
  List.foldlRecOn (motive := fun s : State => Canonical s.memory) l f h fun s h e _ => hf s e h

theorem foldl_fst_canonical {α β : Type} {f : State × β → α → State × β}
    (hf : ∀ x e, Canonical x.1.memory → Canonical (f x e).1.memory) (l : List α) (x : State × β) (h : Canonical
    x.1.memory) :
    Canonical (l.foldl f x).1.memory :=
  List.foldlRecOn (motive := fun x => Canonical x.1.memory) l f h fun x h e _ => hf x e h

theorem bind_canonical {α : Type} {x : Except Stall α} {f : α → Except Stall State} {t : State} (h : x.bind f = .ok t)
    (hf : ∀ u, x = .ok u → f u = .ok t → Canonical t.memory) : Canonical t.memory := by
  cases x with
  | error e => cases h
  | ok u => exact hf u rfl h

theorem foldlM_canonical {α : Type} {f : State → α → Except Stall State}
    (hf : ∀ s e t, f s e = .ok t → Canonical s.memory → Canonical t.memory) (l : List α) (s t : State) (h : l.foldlM f
    s = .ok t) (hs : Canonical s.memory) :
    Canonical t.memory := by
  induction l generalizing s with
  | nil => cases h; exact hs
  | cons e l ih => exact bind_canonical h fun u hu ht => ih u ht (hf s e u hu hs)

theorem orWaits_canonical {s : State} {r : Except Stall State} {k : State → State} (hs : Canonical s.memory)
    (hr : ∀ t, r = .ok t → Canonical t.memory) (hk : ∀ t, Canonical t.memory → Canonical (k t).memory) :
    Canonical (s.orWaits r k).memory := by
  cases r with
  | ok t => exact hk t (hr t rfl)
  | error e => exact (engWaits_memory s e).symm ▸ hs

/-! ### Parts of the state -/

theorem setBytes_canonical (s a x2) (h : Canonical (s : State).memory) : Canonical (State.setBytes s a x2).memory :=
  canonical_memory.2 (setBytes_wf _ _ (canonical_memory.1 h))

theorem setTag_canonical (s a t) (h : Canonical (s : State).memory) : Canonical (State.setTag s a t).memory :=
  canonical_memory.2 (setTag_wf _ _ (canonical_memory.1 h))

/-! ### Versioned memory -/

theorem putMLine_canonical (s a new) (h : Canonical (s : State).memory) : Canonical (State.putMLine s a new).memory :=
  canonical_memory.2 (putMLine_wf _ _ (canonical_memory.1 h))

theorem mstore_canonical (s a xs) (h : Canonical (s : State).memory) : Canonical (State.mstore s a xs).memory :=
  canonical_memory.2 (mstore_wf _ _ (canonical_memory.1 h))

/-! ### Stores at physical addresses -/

theorem setPoison_canonical (s ln p) (h : Canonical (s : State).memory) : Canonical (State.setPoison s ln p).memory :=
  canonical_memory.2 (setPoison_wf _ _ (canonical_memory.1 h))

theorem physStore_canonical (s core writer lv tagged w prior) (h : Canonical (s : State).memory) :
    Canonical (State.physStore s core writer lv tagged w prior).memory :=
  canonical_memory.2 (physStore_wf _ _ _ _ _ _ (canonical_memory.1 h))

/-! ### Barrier objects and journals -/

theorem imageStore_canonical (s r off pa leaf bs t) (h : State.imageStore s r off pa leaf bs = .ok t)
    (hs : Canonical (s : State).memory) : Canonical t.memory := by
  grind [State.imageStore, physStore_canonical, unqueue_memory]

theorem imageApply_canonical (s r ev t) (h : State.imageApply s r ev = .ok t) (hs : Canonical (s : State).memory) :
    Canonical t.memory := by
  cases ev <;> exact bind_canonical h fun _ _ hu => imageStore_canonical _ _ _ _ _ _ _ hu hs

theorem aim_canonical (s id ev t) (h : State.aim s id ev = .ok t) (hs : Canonical (s : State).memory) :
    Canonical t.memory := by
  grind [State.aim, imageApply_canonical, padApply_memory, putRedirect_memory]

/-! ### The Latch -/

theorem writeStatus_canonical (s r state t) (h : State.writeStatus s r state = .ok t)
    (hs : Canonical (s : State).memory) : Canonical t.memory := by
  grind [State.writeStatus, aim_canonical]

theorem subtract_canonical (s r n t) (h : State.subtract s r n = .ok t) (hs : Canonical (s : State).memory) :
    Canonical t.memory := by
  grind [State.subtract, aim_canonical]

theorem endReq_canonical (s r state t) (h : State.endReq s r state = .ok t) (hs : Canonical (s : State).memory) :
    Canonical t.memory :=
  bind_canonical h fun _ hu ht =>
    subtract_canonical _ _ _ _ ht (writeStatus_canonical _ _ _ _ hu hs)

theorem settle_canonical (s core q) (h : Canonical (s : State).memory) : Canonical (State.settle s core q).memory := by
  refine foldl_canonical (fun s r0 hs => ?_) _ s h
  dsimp only
  split
  · exact orWaits_canonical hs (fun t ht => endReq_canonical _ _ _ _ ht hs)
      fun t ht => by grind [setQueue_memory, unwaitQueue_memory]
  · have told (n) (t) (ht : s.writeStatus r0 n = .ok t) := writeStatus_canonical _ _ _ _ ht hs
    split
    · exact orWaits_canonical hs (told 3) fun t ht => (putReq_memory ..).symm ▸ ht
    · split
      · exact orWaits_canonical hs (told 2) fun t ht => (putReq_memory ..).symm ▸ ht
      · exact hs

theorem settleAll_canonical (s core) (h : Canonical (s : State).memory) :
    Canonical (State.settleAll s core).memory := by
  grind [State.settleAll, foldl_canonical, settle_canonical]

theorem via_canonical (c g)
    (hg : Canonical (g { (c : Ctx).s with floes := c.s.floes.put c.key { c.f with run := some c.r } }).memory) :
    Canonical (Ctx.via c g).s.memory := by
  simp only [Ctx.via]
  split <;> exact hg

theorem cpycan_keeps (h a) : Keeps (execCpycan h a) := fun s hs => by
  unfold execCpycan onWord
  split
  · exact .fault _
  next c hc =>
    have hs : Canonical c.s.memory := (context_memory _ _ _ hc).symm ▸ hs
    split
    · refine .next ?_
      dsimp only
      split
      · exact (illegalShape_memory c).symm ▸ hs
      · split
        · exact (retire_memory c).symm ▸ hs
        · split
          · exact (retire_memory c).symm ▸ hs
          · rw [retire_memory]
            refine via_canonical _ _ (foldl_canonical (fun s q hs => ?_) _ _ hs)
            exact settle_canonical _ _ _ ((setQueue_memory ..).symm ▸ hs)
    · exact .next ((illegalOperand_memory c).symm ▸ hs)

theorem cpykickQueueEvent_keeps (core queue) : Keeps (execCpykickQueueEvent core queue) :=
    fun s hs => by
  simp only [execCpykickQueueEvent]
  split
  · exact .fault _
  · split
    · exact .fault _
    · split
      · exact .fault _
      · split
        · exact .fault _
        · refine .next (orWaits_canonical hs (fun t ht => ?_) fun t ht => ?_)
          · exact foldlM_canonical (fun s r t h hs => writeStatus_canonical _ _ _ _ h hs) _ s t ht hs
          · rw [modFloe_memory, setCore_memory]
            exact ht

theorem latchRequestStart_keeps (core queue) : Keeps (execLatchRequestStart core queue) :=
    fun s hs => by
  simp only [execLatchRequestStart]
  split
  · exact .fault _
  · split
    · exact .next (settle_canonical _ _ _ ((putReq_memory ..).symm ▸ hs))
    · exact .next (orWaits_canonical hs (fun t ht => writeStatus_canonical _ _ _ _ ht hs)
        fun t ht => (putReq_memory ..).symm ▸ ht)

theorem latchPieceIssue_keeps (core) : Keeps (execLatchPieceIssue core) :=
  fun s hs t h => by grind [execLatchPieceIssue, Keeps, CanonicalOut, bump_memory, pageFault_memory, putReq_memory,
    setCore_memory, settleAll_canonical, settle_canonical, takePiece_memory]

theorem landPiece_canonical (s core q r f) (h : Canonical (s : State).memory) :
    Canonical (State.landPiece s core q r f).memory := by
  grind [State.landPiece, physStore_canonical, setCore_memory]

theorem latchLand_keeps (core piece) : Keeps (latchLand core piece) := fun s hs => by
  unfold latchLand
  split
  · exact .fault _
  next q i r f _ =>
    extract_lets pas w stalled landed lost r' last t jp told
    have ht : Canonical t.memory := (putReq_memory ..).symm ▸
      landPiece_canonical _ _ _ _ _ ((unqueue_memory ..).symm ▸ hs)
    split
    · exact .fault _
    · split
      · exact .next ((waitWrites_memory ..).symm ▸ hs)
      · refine .next (orWaits_canonical hs (fun u hu => ?_) fun u hu => ?_)
        · have hjp (v) (hv : jp v = .ok u) (h : Canonical v.memory) : Canonical u.memory :=
            subtract_canonical _ _ _ _ hv h
          simp only [told] at hu
          split at hu
          · exact bind_canonical hu fun v hv hu => hjp v hu (writeStatus_canonical _ _ _ _ hv ht)
          · exact hjp t hu ht
        · grind [setQueue_memory, putReq_memory, settle_canonical]

theorem latchPieceLand_keeps (core piece) : Keeps (execLatchPieceLand core piece) :=
  fun s hs t h => by grind [execLatchPieceLand, Keeps, CanonicalOut, latchLand_keeps]

/-! ### Launch and contexts -/

theorem cancelCtx_canonical (s ctx) (h : Canonical (s : State).memory) : Canonical (State.cancelCtx s ctx).memory := by
  grind [State.cancelCtx, foldl_canonical, setCore_memory, settleAll_canonical]

theorem endCtx_canonical (s ctx) (h : Canonical (s : State).memory) : Canonical (State.endCtx s ctx).memory := by
  grind [State.endCtx, cancelCtx_canonical, memory_update, setHub_memory]

theorem ctxctlEnd_keeps (ctx) : Keeps (execCtxctlEnd ctx) :=
  fun s hs t h => by grind [execCtxctlEnd, Keeps, CanonicalOut, endCtx_canonical]

theorem ctxctl_canonical (s v) (h : Canonical (s : State).memory) : Canonical (State.ctxctl s v).memory := by
  grind [State.ctxctl, endCtx_canonical, preemptCtx_memory]

/-! ### Placement and saved packs -/

theorem recStop_canonical (s id core ctx write e) (h : Canonical (s : State).memory) :
    Canonical (State.recStop s id core ctx write e).memory := by
  grind [State.recStop, endCtx_canonical, machineFault_memory, noteUncl_memory, pageFault_memory]

theorem recWrite_canonical (s core at_ bs) (h : Canonical (s : State).memory) :
    Canonical (State.recWrite s core at_ bs).memory := by
  grind [State.recWrite, physStore_canonical]

theorem redirectSaved_canonical (s id ctx key record t) (h : State.redirectSaved s id ctx key record = .ok t)
    (hs : Canonical (s : State).memory) : Canonical t.memory := by
  unfold State.redirectSaved at h
  extract_lets core at h
  split at h
  extract_lets _ at h
  refine bind_canonical h fun u hu ht => ?_
  cases ht
  rw [putRedirect_memory]
  exact foldlM_canonical (fun _ _ _ h hs => imageApply_canonical _ _ _ _ h hs) _ _ _ hu hs

theorem packSaveComplete_keeps (pack) : Keeps (execPackSaveComplete pack) := fun s hs => by
  unfold execPackSaveComplete
  split
  · exact .fault _
  · split
    · exact .fault _
    · extract_lets core record
      split
      · exact .fault _
      · split
        · exact .next (recStop_canonical _ _ _ _ _ _ hs)
        · extract_lets lines at_ accs _ t0 t1 t2 t3 t4
          have h0 : Canonical t0.memory :=
            recWrite_canonical _ _ _ _ ((unqueue_memory ..).symm ▸ hs)
          have h2 : Canonical t2.memory :=
            recWrite_canonical _ _ _ _ (recWrite_canonical _ _ _ _ h0)
          have h4 : Canonical t4.memory := (setCore_memory ..).symm ▸
            foldl_canonical (fun _ _ h => recWrite_canonical _ _ _ _ h) _ _ h2
          clear_value t4
          split
          · exact .fault _
          · split
            · exact .next ((waitWrites_memory ..).symm ▸ hs)
            · split
              · exact .next ((setDie_memory ..).symm ▸ hs)
              · refine .next (orWaits_canonical hs (fun u hu => ?_) fun u hu => ?_)
                · split at hu
                  · exact redirectSaved_canonical _ _ _ _ _ _ hu h4
                  · cases hu
                    exact h4
                · rw [dropPack_memory, putField_memory]
                  exact hu

theorem packRestorePlacement_keeps (die) : Keeps (execPackRestorePlacement die) := fun s hs => by
  unfold execPackRestorePlacement
  extract_lets s0
  have h0 : Canonical s0.memory := (reap_memory s).symm ▸ hs
  split
  · exact .fault _
  · split
    · exact .fault _
    · split
      · exact .fault _
      · extract_lets d id record core0
        split
        · exact .fault _
        · split
          · exact .next (recStop_canonical _ _ _ _ _ _ h0)
          · extract_lets
            split
            · exact .fault _
            · split
              · exact fun t ht => (seekVictim_memory _ _ _ _ ht).symm ▸ h0
              · split
                next s1 key hs1 =>
                  have h1 : Canonical s1.memory := by
                    rwa [← congrArg (·.1.memory) hs1, place_memory, putField_memory]
                  refine .next ((redirectRestoring_memory ..).symm ▸ ?_)
                  grind [modPack_memory, eachFloe_memory]

/-! ### Engines -/

theorem copyLand_keeps (copy ok) : Keeps (copyLand copy ok) := fun s hs => by
  unfold copyLand
  split
  · exact .fault _
  · split
    · exact .fault _
    · extract_lets may
      split
      · exact .fault _
      · extract_lets rest bs offs stalled land t left all s'
        have hland (u : State) : (land u).memory = u.memory := by
          grind [noteUnclaimed_memory, cacheLoads_memory, setCore_memory]
        have hleft : Canonical ({ t with copies := left } : State).memory := (hland s).symm ▸ hs
        split
        · exact .fault _
        · clear_value land t
          split
          · exact .next (orWaits_canonical hs (fun u hu => aim_canonical _ _ _ _ hu hleft)
              fun u hu => (bump_memory u).symm ▸ hu)
          · refine .next ?_
            rw [bump_memory, hland]
            exact hs

theorem ldspCopyLand_keeps (copy) : Keeps (execLdspCopyLand copy) :=
  fun s hs t h => by grind [execLdspCopyLand, Keeps, CanonicalOut, copyLand_keeps]

theorem drainApply_keeps (drain) : Keeps (drainApply drain) := fun s hs => by
  unfold drainApply
  split
  · exact .fault _
  next x _ =>
    extract_lets n pas w core img t left
    have ht : Canonical t.memory := by
      refine physStore_canonical _ _ _ _ _ _ _ ?_
      rwa [unqueue_memory]
    clear_value t
    split
    · exact .fault _
    · split
      · exact .next ((waitWrites_memory ..).symm ▸ hs)
      · exact .next (orWaits_canonical hs (fun u hu => aim_canonical _ _ _ _ hu ht) fun u hu => hu)

theorem accstAddApply_keeps (drain) : Keeps (execAccstAddApply drain) :=
  fun s hs t h => by grind [execAccstAddApply, Keeps, CanonicalOut, drainApply_keeps]

/-! ### The fault queue -/

theorem faultQueueEntryWrite_keeps : Keeps (execFaultQueueEntryWrite) :=
  fun s hs t h => by grind [execFaultQueueEntryWrite, Keeps, CanonicalOut, interrupt_memory, physStore_canonical,
    setHub_memory, unqueue_memory, waitWrites_memory]

theorem answerQueue_canonical (s core q id deny) (h : Canonical (s : State).memory) :
    Canonical (State.answerQueue s core q id deny).memory := by
  grind [State.answerQueue, setCore_memory, settle_canonical]

theorem answerWaiter_canonical (s deny r w) (h : Canonical (s : State).memory) :
    Canonical (State.answerWaiter s deny r w).memory := by
  cases w <;> simp only [State.answerWaiter] <;>
    grind [unwait_memory, setFloe_memory, answerQueue_canonical, endCtx_canonical, machineFault_memory]

theorem fqresp_canonical (s id deny) (h : Canonical (s : State).memory) :
    Canonical (State.fqresp s id deny).memory := by
  grind [State.fqresp, answerWaiter_canonical, foldl_canonical, setHub_memory]

theorem fqrespRetry_keeps (id) : Keeps (execFqrespRetry id) :=
  fun s hs t h => by grind [execFqrespRetry, Keeps, CanonicalOut, fqresp_canonical]

theorem fqrespDeny_keeps (id) : Keeps (execFqrespDeny id) :=
  fun s hs t h => by grind [execFqrespDeny, Keeps, CanonicalOut, fqresp_canonical]

/-! ### Reset and boot -/

/-- A table filled entry by entry is canonical. -/
theorem foldl_set_canonical {α β : Type} [DecidableEq β] (d : β) (k : α → Nat) (v : α → β) (l : List α) (t : Tbl β)
    (h : t.canonical d = true) : Tbl.canonical d (l.foldl (fun t e => Tbl.set d t (k e) (v e)) t) = true := by
  induction l generalizing t with
  | nil => exact h
  | cons e l ih => exact ih _ (Tbl.canonical_set _ _ h)

theorem remap_canonical (s old) (h : Canonical (s : State).memory) : Canonical (State.remap s old).memory := by
  simp only [State.remap]
  split
  · exact h
  · exact ⟨foldl_set_canonical _ _ _ _ _ rfl, foldl_set_canonical _ _ _ _ _ rfl,
      foldl_set_canonical _ _ _ _ _ rfl⟩

/-! ### Stacks and upsets -/

theorem moduleReset_canonical (s) (h : Canonical (s : State).memory) : Canonical (State.moduleReset s).memory := by
  grind [State.moduleReset, remap_canonical, resetRegs_memory]

/-! ### Reset and boot -/

theorem bootStart_canonical (s v trained imageOk) (h : Canonical (s : State).memory) :
    Canonical (State.bootStart s v trained imageOk).memory := by
  grind [State.bootStart, moduleReset_canonical, setHub_memory]

theorem bootRead_canonical (s v trained imageOk) (h : Canonical (s : State).memory) :
    Canonical (State.bootRead s v trained imageOk).memory := by
  grind [State.bootRead, bootFail_memory, bump_memory, foldl_canonical, memory_update, remap_canonical, setDie_memory,
    setHub_memory, setStack_memory]

theorem bringUp_canonical (s) (h : Canonical (s : State).memory) : Canonical (State.bringUp s).memory := by
  grind [State.bringUp, bootRead_canonical, setHub_memory]

/-! ### Outside requests -/

theorem outsideStore_canonical (s writer addr data) (h : Canonical (s : State).memory) :
    Canonical (State.outsideStore s writer addr data).memory := by
  grind [State.outsideStore, physStore_canonical]

theorem outsideAtomic_canonical (s writer addr f ty dnan x y) (h : Canonical (s : State).memory) :
    Canonical (State.outsideAtomic s writer addr f ty dnan x y).memory := by
  grind [State.outsideAtomic, outsideStore_canonical]

theorem podUpdate_canonical (s index) (h : Canonical (s : State).memory) :
    Canonical (State.podUpdate s index).memory := by
  grind [State.podUpdate, physStore_canonical, podComplete_memory, setHub_memory]

theorem outsideAct_canonical (s a) (h : Canonical (s : State).memory) : Canonical (State.outsideAct s a).memory := by
  cases a <;> grind [State.outsideAct, outsideStore_canonical, outsideAtomic_canonical, podUpdate_canonical]

theorem outsideServe_canonical (s x) (h : Canonical (s : State).memory) :
    Canonical (State.outsideServe s x).memory := by
  grind [State.outsideServe, memory_update, outsideAct_canonical, unqueue_memory, waitWrites_memory]

theorem outsideTry_canonical (s x) (h : Canonical (s : State).memory) : Canonical (State.outsideTry s x).memory := by
  grind [State.outsideTry, outsideServe_canonical]

theorem outsideAll_canonical (s) (h : Canonical (s : State).memory) : Canonical (State.outsideAll s).memory := by
  grind [State.outsideAll, foldl_canonical, outsideTry_canonical]

theorem outsideArrive_canonical (s act) (h : Canonical (s : State).memory) :
    Canonical (State.outsideArrive s act).memory := by
  grind [State.outsideArrive, bump_memory, memory_update, outsideTry_canonical, wakeFor_memory]

/-! ### Time -/

theorem tick_canonical (s) (h : Canonical (s : State).memory) : Canonical (State.tick s).memory :=
    by
  grind [State.tick, bringUp_canonical, foldl_canonical, followAll_memory, memory_update, missedBeats_memory,
    outsideAll_canonical, setHub_memory]

/-! ### Stacks and upsets -/

theorem upset_canonical (s u) (h : Canonical (s : State).memory) : Canonical (State.upset s u).memory := by
  cases u <;> grind [State.upset, setDie_memory, setCore_memory, sramFault_memory, dropL1_memory, dropL2_memory,
    machineFault_memory, setPoison_canonical, setHub_memory, setStack_memory, fence_memory]

theorem takeUpsets_canonical (s) (h : Canonical (s : State).memory) : Canonical (State.takeUpsets s).memory := by
  grind [State.takeUpsets, foldl_canonical, memory_update, upset_canonical]

theorem moduleReset_keeps : Keeps (execModuleReset) :=
  fun s hs t h => by grind [execModuleReset, Keeps, CanonicalOut, moduleReset_canonical]

theorem bootctlWrite_keeps (value trained imageOk) : Keeps (execBootctlWrite value trained imageOk) :=
  fun s hs t h => by grind [execBootctlWrite, Keeps, CanonicalOut, bootStart_canonical]

/-! ### Registers of the package -/

theorem bootAny_canonical (s v) (h : Canonical (s : State).memory) : Canonical (State.bootAny s v).memory := by
  grind [State.bootAny, bootStart_canonical, bump_memory]

theorem writeFront_canonical (s o w) (h : Canonical (s : State).memory) :
    Canonical (State.writeFront s o w).memory := by
  simp only [State.writeFront]
  split
  · exact (setHub_memory ..).symm ▸ h
  · split <;> grind [setHub_memory, trigger_memory, ctxctl_canonical, bootAny_canonical]

theorem writeFault_canonical (s o w) (h : Canonical (s : State).memory) :
    Canonical (State.writeFault s o w).memory := by
  simp only [State.writeFault]
  split
  case h_4 => split <;> grind [fqresp_canonical]
  all_goals grind [setHub_memory]

theorem writeReg_canonical (s o v m) (h : Canonical (s : State).memory) :
    Canonical (State.writeReg s o v m).memory := by
  grind [State.writeReg, remap_canonical, setDie_memory, setHub_memory, writeFault_canonical, writeFirn_memory,
    writeFront_canonical, writeStack_memory]

theorem regWrite_canonical (s o n v) (h : Canonical (s : State).memory) :
    Canonical (State.regWrite s o n v).memory := by
  grind [State.regWrite, setHub_memory, writeReg_canonical]

theorem mmioStore_canonical (s pa bs) (h : Canonical (s : State).memory) :
    Canonical (State.mmioStore s pa bs).memory := by
  simp only [State.mmioStore]
  split
  · exact regWrite_canonical _ _ _ _ h
  · exact h

theorem mmioRegisterWrite_keeps (offset size value) : Keeps (execMmioRegisterWrite offset size value) :=
  fun s hs t h => by grind [execMmioRegisterWrite, Keeps, CanonicalOut, regWrite_canonical]

theorem mpolicyWrite_keeps (value) : Keeps (execMpolicyWrite value) :=
  fun s hs t h => by grind [execMpolicyWrite, Keeps, CanonicalOut, regWrite_canonical]

theorem hbmmapWrite_keeps (value) : Keeps (execHbmmapWrite value) :=
  fun s hs t h => by grind [execHbmmapWrite, Keeps, CanonicalOut, regWrite_canonical]

theorem cxlwinWrite_keeps (window value) : Keeps (execCxlwinWrite window value) :=
  fun s hs t h => by grind [execCxlwinWrite, Keeps, CanonicalOut, regWrite_canonical]

/-! ### The host -/

theorem hostCxlMemWrite_keeps (addr data) : Keeps (execHostCxlMemWrite addr data) :=
  fun s hs t h => by grind [execHostCxlMemWrite, Keeps, CanonicalOut, outsideArrive_canonical]

theorem poolBackInvalidate_keeps (write) : Keeps (execPoolBackInvalidate write) :=
  fun s hs t h => by grind [execPoolBackInvalidate, Keeps, CanonicalOut, outsideArrive_canonical, recall_memory]

theorem peerAccess_keeps (peer addr op) : Keeps (execPeerAccess peer addr op) := fun s hs => by
  unfold execPeerAccess
  extract_lets ours
  split <;> split
  · exact .fault _
  · split
    · exact .fault _
    · exact .next ((outsideRead_memory ..).symm ▸ hs)
  · exact .fault _
  · exact .next (outsideArrive_canonical _ _ hs)
  · exact .fault _
  · exact .next (outsideArrive_canonical _ _ hs)

theorem podBarrierArrival_keeps (index) : Keeps (execPodBarrierArrival index) :=
  fun s hs t h => by grind [execPodBarrierArrival, Keeps, CanonicalOut, outsideArrive_canonical, setHub_memory]

/-! ### Serac -/

theorem writeRow_canonical (s x i bs bad) (h : Canonical (s : State).memory) :
    Canonical (State.writeRow s x i bs bad).memory := by
  grind [State.writeRow, backInvalidate_memory, foldl_canonical, setBytes_canonical, setPoison_canonical,
    setTag_canonical, strike_memory]

theorem seracJoin_keeps (op) : Keeps (execSeracJoin op) := fun s hs => by
  unfold execSeracJoin
  split
  · exact .fault _
  · split
    · exact .fault _
    · extract_lets left
      refine .next (orWaits_canonical hs (fun t ht => aim_canonical _ _ _ _ ht hs) fun t ht => ?_)
      grind [eachFloe_memory]

/-! ### Performing accesses -/

theorem atomicLane_canonical (s a f ty dnan x) (h : Canonical (s : State).memory) :
    Canonical (State.atomicLane s a f ty dnan x).1.memory := by
  grind [State.atomicLane, loseBound_memory, noteUnclaimed_memory, physStore_canonical]

theorem storeCells_canonical (s core u) (h : Canonical (s : State).memory) :
    Canonical (State.storeCells s core u).memory := by
  grind [State.storeCells, foldl_canonical, mstore_canonical]

theorem reconLanes_canonical (s core op dnan ls) (h : Canonical (s : State).memory) :
    Canonical (State.reconLanes s core op dnan ls).1.memory := by
  cases ls with
  | nil => exact h
  | cons l ls => exact putMLine_canonical _ _ _ h

theorem perform_canonical (s a u) (h : Canonical (s : State).memory) : Canonical (State.perform s a u).1.memory := by
  cases u with
  | load xs => exact foldl_canonical (fun s x hs => by rwa [cacheLoads_memory, noteUnclaimed_memory]) _ _ h
  | store ys =>
    cases ys with
    | nil => exact h
    | cons y ys =>
      simp only [State.perform]
      split
      · exact foldl_canonical (fun s z hs => by grind [mmioStore_canonical]) _ _ h
      · split
        · exact (wroteAt_memory ..).symm ▸ storeCells_canonical _ _ _ h
        · exact physStore_canonical _ _ _ _ _ _ _ h
  | atomic f ty dnan ls =>
    refine foldl_fst_canonical (fun x l hx => ?_) _ (s, _) h
    grind [atomicLane_canonical]
  | ldv l => grind [State.perform]
  | stv ls => cases ls <;> grind [State.perform, mstore_canonical, wroteAt_memory]
  | recon op dnan ls => cases ls <;> grind [State.perform, reconLanes_canonical, wroteAt_memory]

theorem performAll_canonical (s a us) (h : Canonical (s : State).memory) :
    Canonical (State.performAll s a us).1.memory := by
  induction us generalizing s a with
  | nil => exact h
  | cons u us ih =>
    refine ih _ _ ?_
    exact perform_canonical _ _ _ ((noteEarly_memory ..).symm ▸ h)

theorem performUnit_canonical (s a i u) (h : Canonical (s : State).memory) :
    Canonical (State.performUnit s a i u).memory := by
  unfold State.performUnit
  extract_lets put ahead rest
  have hput (s a) (h : Canonical (s : State).memory) : Canonical (put s a).memory :=
    (settleFloe_memory ..).symm ▸ h
  split
  · exact hput _ _ (foldl_canonical (fun s e hs => (noteUnclaimed_memory ..).symm ▸ hs) _ _ h)
  · split
    · rw [settleFloe_memory, rollback_memory]
      exact h
    · exact hput _ _ (performAll_canonical _ _ _ h)

theorem serveUnit_canonical (s a unit u) (h : Canonical (s : State).memory) :
    Canonical (State.serveUnit s a unit u).memory := by
  grind [State.serveUnit, waitWrites_memory, performUnit_canonical, unqueue_memory]

theorem unitEvent_keeps (ret acc unit) : Keeps (unitEvent ret acc unit) := fun s hs => by
  unfold unitEvent
  split
  · exact .fault _
  · split
    · exact .fault _
    · dsimp only
      split
      · exact .fault _
      · refine .next (serveUnit_canonical _ _ _ _ ?_)
        split
        · exact takeUpsets_canonical _ hs
        · exact hs

theorem loadResponse_keeps (acc unit) : Keeps (execLoadResponse acc unit) :=
  fun s hs t h => by grind [execLoadResponse, Keeps, CanonicalOut, unitEvent_keeps]

theorem storePerformed_keeps (acc unit) : Keeps (execStorePerformed acc unit) :=
  fun s hs t h => by grind [execStorePerformed, Keeps, CanonicalOut, unitEvent_keeps]

/-! ### Serac row steps -/

theorem serveAcc_canonical (s bank a) (h : Canonical (s : State).memory) :
    Canonical (State.serveAcc s bank a).memory := by
  refine foldl_canonical (fun s i hs => ?_) _ s h
  grind [serveUnit_canonical, takeUpsets_canonical]

theorem letEvent_canonical (s e) (he : Keeps e) (h : Canonical (s : State).memory) :
    Canonical (State.let_ s e).memory := by
  simp only [State.let_]
  split
  next ht => exact he s h _ ht
  all_goals exact h

theorem bankOthers_keeps (s bank e) (he : e ∈ State.bankOthers s bank) : Keeps e.2 := by
  simp only [State.bankOthers, List.mem_append, List.mem_flatMap, List.mem_map] at he
  rcases he with ((⟨_, _, _, _, _, _, _, _, rfl⟩ | ⟨_, _, _, _, rfl⟩) | ⟨_, _, rfl⟩) | ⟨_, _, rfl⟩
  · exact latchLand_keeps _ _
  · exact copyLand_keeps _ _
  · exact drainApply_keeps _
  · exact fun s hs => .next (outsideServe_canonical _ _ hs)

theorem serveBank_canonical (s bank since) (h : Canonical (s : State).memory) :
    Canonical (State.serveBank s bank since).memory := by
  unfold State.serveBank
  extract_lets s1
  have h1 : Canonical s1.memory :=
    foldl_canonical (fun s e hs => by grind [serveAcc_canonical]) _ _ h
  refine List.foldlRecOn (motive := fun s : State => Canonical s.memory) _ _ h1 fun s hs e he => ?_
  split
  · exact letEvent_canonical _ _ (bankOthers_keeps _ _ _ he) hs
  · exact hs

theorem seracRowStep_keeps (op) : Keeps (execSeracRowStep op) :=
  fun s hs t h => by grind [execSeracRowStep, Keeps, CanonicalOut, bump_memory, memory_update, serveBank_canonical,
    writeRow_canonical]

end Sys2Proof.Machine
end

section
/-! PROOF of O48: every step keeps memory, bound tags and poison marks canonical (spec 11, R239; 02, R54; 18, R354). -/
namespace Sys2Proof.Machine
open Sys2Proof

theorem periodicRetrain_keeps (stack) : Keeps (execPeriodicRetrain stack) :=
  .of_memory fun s t h => by grind [execPeriodicRetrain]

theorem eyeactRetrain_keeps (stack chan) : Keeps (execEyeactRetrain stack chan) :=
  .of_memory fun s t h => by grind [execEyeactRetrain]

theorem hbmRefresh_keeps (stack bank) : Keeps (execHbmRefresh stack bank) :=
  .of_memory fun s t h => by grind [execHbmRefresh]

theorem exec_keeps (i : Instr) : Keeps (exec i) := by
  cases i with
  | bra | brc | brx | ret => exact onWord_keeps fun c => transfer_memory _ _ _ _ _ fun _ => rfl
  | call => exact onWord_keeps fun c => transfer_memory _ _ _ _ _ fun _ => setLanes_memory ..
  | nop => exact onRegs_keeps fun c => rfl
  | prio | fence | halt => exact onRegs_keeps fun c => once_memory _ _ fun _ => rfl
  | sleep => exact onRegs_keeps fun c => by split <;> rfl
  | sadd | ssub | smul | smulh | smad | sand | sor | sxor | snot | sshl | sshr | ssar | smin | smax
  | smov | sclz | spopc | sbfe => exact onRegs_keeps fun c => uniOp_memory ..
  | ssel | smovi | smovih | pget | ppopc | pfirst => exact onRegs_keeps fun c => uni_memory ..
  | saddi | sandi | sori | sxori | sshli | sshri | ssari | smuli =>
    exact onRegs_keeps fun c => uniImm_memory ..
  | scmp | scmpi | vcmp | bchk | vvote | pand | por | pxor | pandn | pnot | pmov | pset =>
    exact onRegs_keeps fun c => setP_memory ..
  | vadd | vsub | vmul | vmulh | vmin | vmax | vand | vor | vxor | vshl | vshr | vsar | vbfe =>
    exact onRegs_keeps fun c => vecOp2_memory ..
  | vmad => exact onRegs_keeps fun c => vecOp_memory ..
  | vabs | vneg | vnot | vclz | vpopc => exact onRegs_keeps fun c => vecOp1_memory ..
  | vsel | vmov | mxscale | bget | bmaxr | vlane => exact onRegs_keeps fun c => setLanes_memory ..
  | vmovi | fmovi => exact onRegs_keeps fun c => vecConst_memory ..
  | vaddi | vandi | vori | vshli | vshri => exact onRegs_keeps fun c => vecImm_memory ..
  | fadd | fsub | fmul | ffma => exact onWord_keeps fun c => tieredWord_memory ..
  | fmin | fmax | fabs | fneg | fdiv | fsqrt | frcp | frsq | fexp2 | flog2 | fldexp | frnd =>
    exact onWord_keeps fun c => plainWord_memory ..
  | bset | bclr | bunb => exact onRegs_keeps fun c => bndWord_memory ..
  | bud | budi => exact onRegs_keeps fun c => once_memory _ _ fun _ => pendSys_memory ..
  | atomAdd | atomSub | atomMin | atomMax | atomAnd | atomOr | atomXor | atomXchg | atomCas =>
    exact onWord_keeps fun c => atomWord_memory ..
  | atomsAdd | atomsSub | atomsMin | atomsMax | atomsAnd | atomsOr | atomsXor | atomsXchg
  | atomsCas => exact onWord_keeps fun c => atomsWord_memory ..
  | keyq | firnrd | vrfl | vrln => exact onRegs_keeps fun c => once_memory _ _ fun _ => setS_memory ..
  | seed =>
    exact onRegs_keeps fun c => once_memory _ _ fun _ => (pendSys_memory ..).trans (pendSys_memory ..)
  | trap | bkpt => exact onWord_keeps fun c => swTrap_memory ..
  | mtsr | mtsri => exact onWord_keeps fun c => sysWriteWord_memory ..
  | vwln => exact onRegs_keeps fun c => once_memory _ _ fun _ => setLanes_memory ..
  | vbcst | vshfl | vrot => exact onRegs_keeps fun c => gather_memory ..
  | rowcpy | rowfil | rowand | rowor | rowxor | rownot | rowmaj | rowrdx =>
    exact onWord_keeps fun c => rowWord_memory ..
  | saddSlot | ssubSlot | sandSlot | sorSlot | sxorSlot | smovSlot | sshlSlot | sshrSlot | pandSlot
  | porSlot | pmovSlot | vaddSlot | vsubSlot | vmulSlot | vandSlot | vorSlot | vxorSlot | vminSlot
  | vmaxSlot | vmovSlot | vshlSlot | vshrSlot | faddSlot | fsubSlot | fmulSlot | fminSlot
  | fmaxSlot => exact onWord_keeps fun c => pairWord_memory ..
  | exit => exact exit_keeps _
  | reconv => exact reconv_keeps _
  | yield => exact yield_keeps _
  | vbfi => exact vbfi_keeps _ _ _ _ _ _
  | fcmp => exact fcmp_keeps _ _ _ _ _ _ _
  | fclass => exact fclass_keeps _ _ _ _ _
  | cvt => exact cvt_keeps _ _ _ _ _ _
  | cvtpk => exact cvtpk_keeps _ _ _ _ _ _
  | mxq => exact mxq_keeps _ _ _ _ _ _ _ _ _ _
  | mxdq => exact mxdq_keeps _ _ _ _ _ _ _ _
  | vred => exact vred_keeps _ _ _ _ _ _
  | vscan => exact vscan_keeps _ _ _ _ _ _
  | ld => exact ld_keeps _ _ _ _
  | st => exact st_keeps _ _ _ _
  | ldu => exact ldu_keeps _ _ _ _
  | stu => exact stu_keeps _ _ _ _
  | lds => exact lds_keeps _ _ _ _
  | sts => exact sts_keeps _ _ _ _
  | pref => exact pref_keeps _ _
  | ldsp => exact ldsp_keeps _ _ _ _
  | ldv => exact ldv_keeps _ _ _
  | stv => exact stv_keeps _ _ _
  | recon => exact recon_keeps _ _ _ _
  | cacheDrop => exact cacheDrop_keeps _ _
  | cacheClean => exact cacheClean_keeps _ _
  | cacheInval => exact cacheInval_keeps _ _
  | barinit => exact barinit_keeps _ _ _ _ _
  | bararr => exact bararr_keeps _ _ _ _
  | barexp => exact barexp_keeps _ _ _ _
  | barwait => exact barwait_keeps _ _ _ _
  | bartest => exact bartest_keeps _ _ _ _
  | bardrop => exact bardrop_keeps _ _ _ _
  | sbar => exact sbar_keeps _ _ _ _
  | jdecl => exact jdecl_keeps _ _ _
  | jsign => exact jsign_keeps _ _ _
  | jwait => exact jwait_keeps _ _
  | tcfg => exact tcfg_keeps _ _ _
  | tzero => exact tzero_keeps _ _
  | tld => exact tld_keeps _ _ _
  | tst => exact tst_keeps _ _ _
  | mma => exact mma_keeps _ _ _ _ _ _ _
  | accz => exact accz_keeps _ _
  | accmov => exact accmov_keeps _ _ _ _
  | accbnd => exact accbnd_keeps _ _ _
  | accspill => exact accspill_keeps _ _ _
  | accfill => exact accfill_keeps _ _ _ _ _
  | accld => exact accld_keeps _ _ _
  | accst => exact accst_keeps _ _ _
  | accstAdd => exact accstAdd_keeps _ _ _
  | keycut => exact keycut_keeps _ _ _ _
  | tldk => exact tldk_keeps _ _ _
  | keydrop => exact keydrop_keeps _ _
  | cpykick => exact cpykick_keeps _ _ _ _ _ _
  | cpystat => exact cpystat_keeps _ _ _
  | cpycan => exact cpycan_keeps _ _
  | rowstat => exact rowstat_keeps _ _ _
  | rft => exact rft_keeps _
  | mfsr => exact mfsr_keeps _ _ _
  | lwait => exact lwait_keeps _ _
  | frsave => exact frsave_keeps _ _
  | frload => exact frload_keeps _ _
  | issueClock => exact issueClock_keeps _ _
  | runBoundary => exact runBoundary_keeps _
  | loadResponse => exact loadResponse_keeps _ _
  | mmaFire => exact mmaFire_keeps _ _
  | mmaComplete => exact mmaComplete_keeps _ _
  | sleepDeadline => exact sleepDeadline_keeps _
  | lwaitDeadline => exact lwaitDeadline_keeps _
  | firnSyncBeat => exact firnSyncBeat_keeps _ _
  | firnSkew => exact firnSkew_keeps _
  | podFirnSample => exact podFirnSample_keeps _ _
  | l1LeaseExpiry => exact l1LeaseExpiry_keeps _ _
  | leaseHorizonReached => exact leaseHorizonReached_keeps _ _
  | directoryRecall => exact directoryRecall_keeps _
  | pageWalk => exact pageWalk_keeps _ _ _
  | translationLeaseExpiry => exact translationLeaseExpiry_keeps _ _ _
  | walkAheadRenewal => exact walkAheadRenewal_keeps _ _
  | faultQueueEntryWrite => exact faultQueueEntryWrite_keeps
  | fqrespRetry => exact fqrespRetry_keeps _
  | fqrespDeny => exact fqrespDeny_keeps _
  | cpykickQueueEvent => exact cpykickQueueEvent_keeps _ _
  | latchRequestStart => exact latchRequestStart_keeps _ _
  | latchPieceIssue => exact latchPieceIssue_keeps _
  | latchPieceLand => exact latchPieceLand_keeps _ _
  | ldspCopyLand => exact ldspCopyLand_keeps _
  | accstAddApply => exact accstAddApply_keeps _
  | seracFork => exact seracFork_keeps _
  | seracRowStep => exact seracRowStep_keeps _
  | seracJoin => exact seracJoin_keeps _
  | packSaveComplete => exact packSaveComplete_keeps _
  | packPlacement => exact packPlacement_keeps _
  | packRestorePlacement => exact packRestorePlacement_keeps _
  | preempt => exact preempt_keeps _
  | sliceExpiry => exact sliceExpiry_keeps _ _
  | nodeRelease => exact nodeRelease_keeps _ _
  | nodeComplete => exact nodeComplete_keeps _ _
  | watchdogIssueReport => exact watchdogIssueReport_keeps _
  | watchdogStallReport => exact watchdogStallReport_keeps _
  | carveOutInterval => exact carveOutInterval_keeps _
  | bankGate => exact bankGate_keeps _ _
  | bankReady => exact bankReady_keeps _ _
  | powerStateEntry => exact powerStateEntry_keeps _
  | dieWake => exact dieWake_keeps _
  | boostInterval => exact boostInterval_keeps _ _
  | permitRefill => exact permitRefill_keeps _
  | moduleReset => exact moduleReset_keeps
  | bootctlWrite => exact bootctlWrite_keeps _ _ _
  | bootFull => exact bootFull_keeps
  | eyeMarginLow => exact eyeMarginLow_keeps _ _ _
  | periodicRetrain => exact periodicRetrain_keeps _
  | channelWidthChange => exact channelWidthChange_keeps _ _ _ _
  | hingeLinkFail => exact hingeLinkFail_keeps _
  | hostCxlMemWrite => exact hostCxlMemWrite_keeps _ _
  | hostCxlMemRead => exact hostCxlMemRead_keeps _ _
  | hostSnoop => exact hostSnoop_keeps _ _
  | poolBackInvalidate => exact poolBackInvalidate_keeps _
  | peerAccess => exact peerAccess_keeps _ _ _
  | podBarrierArrival => exact podBarrierArrival_keeps _
  | podBarrierCompletion => exact podBarrierCompletion_keeps _ _
  | trigger => exact trigger_keeps _
  | ctxctlPreempt => exact ctxctlPreempt_keeps _
  | ctxctlEnd => exact ctxctlEnd_keeps _
  | contextEndRelease => exact contextEndRelease_keeps _
  | eyeactRetrain => exact eyeactRetrain_keeps _ _
  | eyeactRepair => exact eyeactRepair_keeps _ _ _
  | eyeactHalfWidth => exact eyeactHalfWidth_keeps _ _
  | eyeactFullWidth => exact eyeactFullWidth_keeps _ _ _
  | mpolicyWrite => exact mpolicyWrite_keeps _
  | cxlwinWrite => exact cxlwinWrite_keeps _ _
  | hbmmapWrite => exact hbmmapWrite_keeps _
  | mmioRegisterWrite => exact mmioRegisterWrite_keeps _ _ _
  | storePerformed => exact storePerformed_keeps _ _
  | cxlPortTraining => exact cxlPortTraining_keeps _ _
  | hbmRefresh stack bank => exact hbmRefresh_keeps stack bank

theorem accessEvents_keeps (s) : ∀ e ∈ State.accessEvents s, Keeps e := by
  simp only [State.accessEvents, List.forall_mem_flatMap, List.forall_mem_map]
  intro _ _ _ _
  split
  · exact loadResponse_keeps _ _
  · exact storePerformed_keeps _ _

theorem engineEvents_keeps (s) : ∀ e ∈ State.engineEvents s, Keeps e := by
  simp only [State.engineEvents, List.forall_mem_append, List.forall_mem_flatMap,
    List.forall_mem_map, List.forall_mem_cons, List.not_mem_nil, false_implies, implies_true, and_true]
  refine ⟨⟨⟨fun c _ => ⟨⟨fun _ _ => cpykickQueueEvent_keeps _ _, fun _ _ => ⟨⟨⟨fun _ _ _ _ => latchPieceLand_keeps _ _,
    latchRequestStart_keeps _ _⟩, fun _ _ => pageWalk_keeps _ _ _⟩, walkAheadRenewal_keeps _ _⟩⟩, ?_⟩,
    fun _ _ => ldspCopyLand_keeps _⟩, fun _ _ => accstAddApply_keeps _⟩,
    fun _ _ => ⟨seracFork_keeps _, seracRowStep_keeps _, seracJoin_keeps _⟩⟩
  split
  · simp
  · simp [latchPieceIssue_keeps]

theorem floeEvents_keeps (s) : ∀ e ∈ State.floeEvents s, Keeps e := by
  simp only [State.floeEvents, List.forall_mem_append, List.forall_mem_flatMap,
    List.forall_mem_cons, List.not_mem_nil, false_implies, implies_true, and_true]
  exact ⟨fun _ _ => ⟨runBoundary_keeps _, preempt_keeps _, sleepDeadline_keeps _, lwaitDeadline_keeps _,
    watchdogIssueReport_keeps _, watchdogStallReport_keeps _⟩, fun _ _ => ⟨fun _ _ => ⟨mmaFire_keeps _ _, mmaComplete_keeps _ _⟩,
    packSaveComplete_keeps _⟩⟩

theorem frontEvents_keeps (s) : ∀ e ∈ State.frontEvents s, Keeps e := by
  simp only [State.frontEvents, List.forall_mem_append, List.forall_mem_flatMap,
    List.forall_mem_map, List.forall_mem_cons, List.not_mem_nil, false_implies, implies_true, and_true]
  refine ⟨⟨⟨⟨⟨faultQueueEntryWrite_keeps, fun _ _ => podBarrierArrival_keeps _⟩, fun _ _ => contextEndRelease_keeps _⟩,
    fun _ _ => nodeComplete_keeps _ _⟩, fun _ _ _ _ => nodeRelease_keeps _ _⟩, fun d _ => ⟨?_, fun _ _ => sliceExpiry_keeps _ _⟩⟩
  split
  · simp
  · simp [packPlacement_keeps, packRestorePlacement_keeps]

theorem timeEvents_keeps (s) : ∀ e ∈ State.timeEvents s, Keeps e := by
  simp only [State.timeEvents, List.forall_mem_append, List.forall_mem_flatMap,
    List.forall_mem_map, List.forall_mem_cons, List.not_mem_nil, false_implies, implies_true, and_true]
  refine ⟨⟨⟨fun _ _ => ⟨⟨firnSyncBeat_keeps _ _, ?_, permitRefill_keeps _⟩,
      fun _ _ => ⟨fun _ _ => l1LeaseExpiry_keeps _ _, leaseHorizonReached_keeps _ _⟩⟩,
    fun _ _ => ⟨⟨fun _ _ => l1LeaseExpiry_keeps _ _,
        ⟨fun _ _ => translationLeaseExpiry_keeps _ _ _, fun _ _ => translationLeaseExpiry_keeps _ _ _⟩⟩,
      fun _ _ => ⟨bankReady_keeps _ _, bankGate_keeps _ _⟩⟩⟩, ?_⟩, fun _ _ => carveOutInterval_keeps _⟩
  · split
    · exact dieWake_keeps _
    · exact powerStateEntry_keeps _
  · split
    · simp [bootFull_keeps]
    · simp

theorem clockEvents_keeps (s) : ∀ e ∈ State.clockEvents s, Keeps e := by
  simp only [State.clockEvents, List.forall_mem_map]
  exact fun _ _ => issueClock_keeps _ _

theorem ownEvents_keeps (s) : ∀ e ∈ State.ownEvents s, Keeps e := by
  simp only [State.ownEvents, List.forall_mem_append]
  exact ⟨⟨⟨⟨⟨accessEvents_keeps s, engineEvents_keeps s⟩, floeEvents_keeps s⟩, frontEvents_keeps s⟩,
    timeEvents_keeps s⟩, clockEvents_keeps s⟩

theorem firstEvent_canonical (s t l) (hl : ∀ e ∈ l, Keeps e) (hs : Canonical (s : State).memory)
    (h : firstEvent s l = some t) : Canonical t.memory := by
  induction l with
  | nil => cases h
  | cons e l ih =>
    rw [List.forall_mem_cons] at hl
    obtain ⟨he, hl⟩ := hl
    simp only [firstEvent] at h
    split at h
    next s' hs' =>
      split at h
      · exact ih hl h
      · cases h
        exact he s hs _ hs'
    all_goals exact ih hl h

/-- The clause of `State.ticks`, with `State.tick` kept shut: its unfolding does not end in time. -/
theorem ticks_succ (s : State) (n) : State.ticks s (n + 1) = State.ticks s.tick n := by
  delta State.ticks State.ticks._f
  generalize State.tick = f
  rfl

theorem ticks_canonical (s : State) (n : Nat) (h : Canonical s.memory) : Canonical (s.ticks n).memory := by
  induction n generalizing s with
  | zero => exact h
  | succ n ih =>
    rw [ticks_succ]
    exact ih s.tick (tick_canonical s h)

/-- The state that the first half of an issue leaves. -/
def Issued.state : Issued → State
  | .done s => s
  | .word _ s => s

theorem begin_memory (s x) : (State.begin s x).state.memory = s.memory := by
  simp only [State.begin]
  split
  · rfl
  next c hc =>
    rw [← context_memory _ _ _ hc]
    split
    · split
      · exact (residue_memory ..).trans (context_memory _ _ _ hc).symm
      · exact trapIssue_memory ..
    · exact trapWord_memory ..
    · exact trapWord_memory ..
    · exact trapWord_memory ..
    · exact (retire_memory _).trans (park_memory ..)

theorem issueNext_memory (s key) : (State.issueNext s key).state.memory = s.memory := by
  grind [State.issueNext, Issued.state, fetch_memory, begin_memory, memory_update]

theorem afterWord_canonical (s i t) (hs : Canonical (s : State).memory) (ht : Canonical (t : State).memory) :
    Canonical (State.afterWord s i t).memory := by
  simp only [State.afterWord]
  split
  · exact ht
  next c hc => grind [context_memory _ _ _ hc, trapWord_memory, replaced_memory]

theorem issueStep_keeps (key) : Keeps fun s => issueStep s key := fun s hs => by
  have hn := issueNext_memory s key
  simp only [issueStep]
  split
  next s' hi =>
    rw [hi] at hn
    exact .next (hn.symm ▸ hs)
  next i s' hi =>
    rw [hi] at hn
    have hs' : Canonical s'.memory := hn.symm ▸ hs
    split
    next t ht =>
      have hc := exec_keeps i s' hs' t ht
      refine .next ?_
      simp only [State.issued]
      split
      · exact hs
      · exact afterWord_canonical _ _ _ hs' hc
    · exact .fault _
    · exact .refused _

theorem step_keeps : Keeps step := fun s hs => by
  simp only [step]
  split
  · exact issueStep_keeps _ _ hs
  · split
    · exact exec_keeps _ _ (ticks_canonical _ _ hs)
    · refine .next ?_
      cases h : firstEvent s s.ownEvents with
      | some t => exact firstEvent_canonical _ _ _ (ownEvents_keeps s) hs h
      | none => rw [Option.getD_none]; exact tick_canonical s hs

/-- Settles O48. A word or an event writes memory, bound tags and poison marks through `Tbl.set` alone, which keeps a table
canonical, and nearly all leave them as they are: each is of `Keeps`, by its own lemma, and so is what happens between words. -/
theorem stepKeepsWf : Obligations.StepKeepsWf := by
  unfold Obligations.StepKeepsWf
  intro s t hs ht
  exact canonical_memory.1 (step_keeps s (canonical_memory.2 hs) t ht)

end Sys2Proof.Machine
end

section
/-! PROOF about O58: a write of pool memory that the Moraine registers claim (spec 12, R272, R274; 20, R375). -/
namespace Sys2Proof.Machine
open Sys2Proof

/-- The package at reset, but its first CXL window is on the first GiB of pool memory, and Moraine is in service with its one
data frame there and its record area at address 0. -/
def moraineOnPool : State :=
  State.reset.setHub { State.reset.hub with
    men := true, mdata := 0x40000000, mrec := 0, nframes := 1,
    cxlwin := State.reset.hub.cxlwin.set 0 0x8000400000000000 }

/-- The byte at address 0 in the state that an operation leaves. -/
def firstByte : Out → Option Byte
  | .next t => some (t.byte 0)
  | .fault _ | .refused _ => none

/-- A write of the first byte of pool memory is a store to versioned memory there, and its home writes the line's record. -/
theorem firstByte_poolBackInvalidate :
    firstByte (exec (.poolBackInvalidate ⟨0x8000000000, 0, [5]⟩) moraineOnPool) = some 1 := by
  decide +kernel

theorem firstByte_moraineOnPool : moraineOnPool.byte 0 = 0 := rfl

theorem byte_eq_of_unmoved {s t : State} (h : Unmoved s t) (a : Nat) : t.byte a = s.byte a := by
  obtain ⟨_, _, _, hmem, _⟩ := h
  simp only [State.byte, hmem]

/-- Refutes O58: its clause on POOL_BACK_INVALIDATE speaks of every state, without the hypothesis of the other writes that no
byte lies in Moraine's ranges. In a state whose registers put the data range on pool memory, as `Hub.regionOk` lets no register
write do, the write that comes with it changes the line's record, at none of the addresses written. -/
theorem not_hostEvents : ¬ Obligations.HostEvents := by
  unfold Obligations.HostEvents
  rintro ⟨_, _, _, hpool, _⟩
  obtain ⟨u, _, hu, _, hwrite⟩ :=
    hpool moraineOnPool 0x8000000000 0 [5] (by decide) (by decide +kernel) (by decide)
  obtain ⟨t, ht, hfree, hheld⟩ := hwrite (by decide)
  have hone : t.byte 0 = 1 := by
    have hrun := firstByte_poolBackInvalidate
    rw [ht] at hrun
    exact Option.some.inj hrun
  have hzero : t.byte 0 = moraineOnPool.byte 0 := by
    rcases Classical.em _ with h | h
    · obtain ⟨⟨_, _, hbytes, _⟩, _⟩ := hfree h
      exact hbytes 0 (by decide +kernel)
    · exact (byte_eq_of_unmoved (hheld h).1 0).trans (byte_eq_of_unmoved hu 0)
  rw [hone, firstByte_moraineOnPool] at hzero
  exact absurd hzero (by decide)

end Sys2Proof.Machine
end

section
/-! PROOF about O60: a table of pending accesses that lists one number twice (spec 11, R239, R304). -/
namespace Sys2Proof.Machine
open Sys2Proof

/-- A store of lane 63 to one byte. -/
def byteStore (pa : Nat) : Work := .store [⟨⟨63, 0, BitVec.ofNat 64 pa, pa, 1, false, .near⟩, [], [(pa, 1, 0)]⟩]

/-- A plain store of floe 0, numbered 9, with two units to come, which traps no more. -/
def twoUnitStore : Acc where
  floe := 0
  seq := 0
  pack := ⟨0, 0, 0⟩
  number := 9
  run := 0
  lanes := allLanes
  order := .rlx
  scope := .die
  reads := false
  writes := true
  mmio := false
  sticky := false
  todo := [byteStore 0x400000, byteStore 0x400100]
  got := []
  wrote := []
  poison := []
  dest := .none
  pc := 0
  word := 0
  born := 0
  exp := 0
  snap := none

/-- An access of floe 1 that is performed and completes when its turn comes, with the store's number. -/
def misfiled : Acc :=
  { twoUnitStore with floe := 1, todo := [], snap := some (Floe.placed (descOf []) 0 0 0 0 0 0) }

/-- A state whose table of pending accesses lists key 10 twice: `misfiled` hides an access of the store's own floe. -/
def hiddenAccess : State :=
  { State.reset with pend := [(9, twoUnitStore), (10, misfiled), (10, { twoUnitStore with number := 10 })] }

/-- Whether the state that an operation leaves has an access pending at a key. -/
def pendsAt (n : Nat) : Out → Option Bool
  | .next t => some (t.pend.find? n).isSome
  | .fault _ | .refused _ => none

/-- Settling the store's floe visits key 10, finds `misfiled` there, and completes it: the access numbered 9 goes. -/
theorem pendsAt_storePerformed_hiddenAccess : pendsAt 9 (exec (.storePerformed 9 0) hiddenAccess) = some false := by
  decide +kernel

theorem snap_hiddenAccess :
    ∀ e ∈ hiddenAccess.pend, e.2.floe = twoUnitStore.floe → e.2.seq = twoUnitStore.seq → e.2.snap = none := by
  decide +kernel

/-- Refutes O60: its clause on plain stores speaks of every table of pending accesses, and keeps an access that has another unit to
come where no access of its floe may trap. In a table that lists a key twice, which `Tbl.put` never makes of a sorted one, the
first entry at the key of an access of the floe may belong to another floe and bear the store's number: as it completes, the
store goes. -/
theorem not_accessEvents : ¬ Obligations.AccessEvents := by
  unfold Obligations.AccessEvents
  rintro ⟨_, _, _, _, hstore, _⟩
  obtain ⟨_, hwrites⟩ := hstore hiddenAccess 9 twoUnitStore 0 _ (by decide +kernel) rfl rfl (by decide) rfl rfl
    (by decide +kernel) (by decide +kernel) (by decide +kernel) (by decide +kernel)
  obtain ⟨t, ht, _, _, hleft⟩ := hwrites (by decide +kernel)
  obtain ⟨b, hb, _⟩ := hleft (by decide) snap_hiddenAccess
  have hgone := pendsAt_storePerformed_hiddenAccess
  rw [ht] at hgone
  simp [pendsAt, hb] at hgone

end Sys2Proof.Machine
end
